-- ==== Sys2Proof/Word.lean ====
section
/-! DEFINITION. The words of the machine: bytes, lane words, lane registers, masks and the plainest arithmetic on them. -/

namespace Sys2Proof

abbrev Byte := BitVec 8
abbrev W16 := BitVec 16
abbrev W32 := BitVec 32
abbrev W64 := BitVec 64

/-- A pool register: one 32-bit value for each of the 32 lanes (R18, R46). -/
abbrev Lanes := Vector W32 32

/-- One bit per lane: an active mask or a predicate (R41, R95). -/
abbrev LaneMask := W32

/-- A pool register built lane by lane. -/
def Lanes.mk (f : Fin 32 → W32) : Lanes := Vector.ofFn f

/-- The register that holds one value in every lane. -/
def Lanes.splat (v : W32) : Lanes := Lanes.mk fun _ => v

/-- A mask built lane by lane: bit `l` is `f l`. -/
def LaneMask.mk (f : Fin 32 → Bool) : LaneMask :=
  (List.finRange 32).foldr (fun l m => if f l then m ||| (1#32 <<< l.val) else m) 0#32

/-- Lane `l` of a mask. -/
def LaneMask.has (m : LaneMask) (l : Fin 32) : Bool := m.getLsbD l.val

/-- The lanes of a mask in ascending order (R9). -/
def LaneMask.lanes (m : LaneMask) : List (Fin 32) := (List.finRange 32).filter fun l => m.has l

/-- The lanes of `m` take `new`, the others keep `old` (R140). -/
def Lanes.merge (m : LaneMask) (new old : Lanes) : Lanes :=
  Lanes.mk fun l => if m.has l then new[l] else old[l]

theorem Lanes.mk_get (f : Fin 32 → W32) (l : Fin 32) : (Lanes.mk f)[l] = f l := by
  simp [Lanes.mk]

@[simp] theorem Lanes.splat_get (v : W32) (l : Fin 32) : (Lanes.splat v)[l] = v :=
  Lanes.mk_get _ l

theorem Lanes.merge_get (m : LaneMask) (n o : Lanes) (l : Fin 32) :
    (Lanes.merge m n o)[l] = if m.has l then n[l] else o[l] := Lanes.mk_get _ l

end Sys2Proof
end

