-- ==== Sys2Proof/Machine/Flags.lean ====
section
/-! DEFINITION. Float formats, the one rounding of R59 with its flags, float arithmetic and comparison (R56 to R63, R149 to R152). -/

namespace Sys2Proof.Machine

/-- The flag word `FFLAGS` [4:0]: NV, DZ, OF, UF, NX (R62). -/
abbrev Flags := BitVec 5

def flagNV : Flags := 16#5
def flagDZ : Flags := 8#5
def flagOF : Flags := 4#5
def flagUF : Flags := 2#5
def flagNX : Flags := 1#5

/-- Exponent and mantissa widths of the float type codes 0 to 4 (R56). -/
def expBits (t : Nat) : Nat := match t with | 0 => 8 | 1 => 5 | 2 => 8 | 3 => 4 | _ => 5
def manBits (t : Nat) : Nat := match t with | 0 => 23 | 1 => 10 | 2 => 7 | 3 => 3 | _ => 2
def fltWidth (t : Nat) : Nat := 1 + expBits t + manBits t
def bias (t : Nat) : Nat := 2 ^ (expBits t - 1) - 1
/-- The exponent of the lowest bit of a subnormal. -/
def minExp (t : Nat) : Int := 1 - (bias t : Int) - (manBits t : Int)
/-- The encoding of the largest finite magnitude; only 0x7F is no number in e4m3 (R56). -/
def maxFin (t : Nat) : Nat := if t == 3 then 0x7E else (2 ^ expBits t - 1) * 2 ^ manBits t - 1
def signBit (t : Nat) (neg : Bool) : Nat := if neg then 2 ^ (expBits t + manBits t) else 0
/-- The canonical NaN (R56). -/
def canonNaN (t : Nat) : Nat :=
  if t == 3 then 0x7F else (2 ^ expBits t - 1) * 2 ^ manBits t + 2 ^ (manBits t - 1)
/-- ±∞; e4m3 has none, and the canonical NaN stands in its place (R59). -/
def infBits (t : Nat) (neg : Bool) : Nat :=
  if t == 3 then 0x7F else signBit t neg + (2 ^ expBits t - 1) * 2 ^ manBits t
def maxBits (t : Nat) (neg : Bool) : Nat := signBit t neg + maxFin t

/-- A float value: `fin neg m e` is (−1)^neg × m × 2^e, zeros signed. -/
inductive FVal where
  | nan
  | inf (neg : Bool)
  | fin (neg : Bool) (m : Nat) (e : Int)
deriving DecidableEq, Repr

/-- The value of an encoding (R56). -/
def fval (t bits : Nat) : FVal :=
  let mb := manBits t
  let neg := bits / 2 ^ (expBits t + mb) % 2 == 1
  let ex := bits / 2 ^ mb % 2 ^ expBits t
  let m := bits % 2 ^ mb
  if t == 3 then
    if ex == 15 && m == 7 then .nan
    else if ex == 0 then .fin neg m (minExp t) else .fin neg (2 ^ mb + m) (minExp t + ex - 1)
  else if ex == 2 ^ expBits t - 1 then (if m == 0 then .inf neg else .nan)
  else if ex == 0 then .fin neg m (minExp t) else .fin neg (2 ^ mb + m) (minExp t + ex - 1)

def FVal.isNaN : FVal → Bool | .nan => true | _ => false
def FVal.neg : FVal → FVal | .nan => .nan | .inf n => .inf !n | .fin n m e => .fin (!n) m e
def FVal.isNeg : FVal → Bool | .nan => false | .inf n => n | .fin n _ _ => n
def FVal.isZero : FVal → Bool | .fin _ m _ => m == 0 | _ => false

/-- `m × 2^e` cut at `2^q`: the integer part, and whether anything was cut and how it compares with half (0 exact, 1 below, 2 half, 3 above). `more` says that the value exceeds `m × 2^e` by less than one unit of `2^e`. -/
def cutAt (m : Nat) (e q : Int) (more : Bool) : Nat × Nat :=
  if q ≤ e then (m * 2 ^ (e - q).toNat, if more then 1 else 0)
  else
    let s := (q - e).toNat
    let r := m % 2 ^ s
    let h := 2 ^ (s - 1)
    (m / 2 ^ s,
      if r == 0 && !more then 0 else if r < h then 1 else if r == h && !more then 2 else 3)

/-- Whether a cut magnitude rounds up: modes 0 RNE, 1 RTZ, 2 RUP, 3 RDN (R59). -/
def roundsUp (rm : Nat) (neg : Bool) (m rest : Nat) : Bool :=
  match rm with
  | 0 => rest == 3 || (rest == 2 && m % 2 == 1)
  | 1 => false
  | 2 => !neg && rest != 0
  | _ => neg && rest != 0

def roundCut (rm : Nat) (neg : Bool) (c : Nat × Nat) : Nat := c.1 + if roundsUp rm neg c.1 c.2 then 1 else 0

/-- The result of an overflow (R59). -/
def overflowBits (t rm : Nat) (sat neg : Bool) : Nat :=
  if sat then maxBits t neg
  else match rm with
    | 0 => infBits t neg
    | 1 => maxBits t neg
    | 2 => if neg then maxBits t true else infBits t false
    | _ => if neg then infBits t true else maxBits t false

/-- The one rounding of R59 of the magnitude `m × 2^e` (`more`: and a little beyond), tininess detected after rounding. -/
def roundTo (t rm : Nat) (sat neg : Bool) (m : Nat) (e : Int) (more : Bool) : Nat × Flags :=
  if m == 0 && !more then (signBit t neg, 0)
  else
    let mb := manBits t
    let q0 := e + Nat.log2 m - mb
    let q := max (minExp t) q0
    let c := cutAt m e q more
    let r := roundCut rm neg c
    let code := (q - minExp t).toNat * 2 ^ mb + r
    if maxFin t < code then (overflowBits t rm sat neg, flagOF ||| flagNX)
    else
      let tiny := q0 < minExp t &&
        !(q0 + 1 == minExp t && roundCut rm neg (cutAt m e q0 more) == 2 ^ (mb + 1))
      (signBit t neg + code, if c.2 == 0 then 0 else if tiny then flagUF ||| flagNX else flagNX)

/-- Rounding a signed exact value `m × 2^e`; an exact zero has the sign `zneg`. -/
def roundInt (t rm : Nat) (sat : Bool) (m : Int) (e : Int) (zneg : Bool) : Nat × Flags :=
  if m == 0 then (signBit t zneg, 0) else roundTo t rm sat (m < 0) m.natAbs e false

def signedM (neg : Bool) (m : Nat) : Int := if neg then -(m : Int) else m

/-- The exact sum of two finite values, as `m × 2^e`. -/
def exactAdd (n1 : Bool) (m1 : Nat) (e1 : Int) (n2 : Bool) (m2 : Nat) (e2 : Int) : Int × Int :=
  let e := min e1 e2
  (signedM n1 (m1 * 2 ^ (e1 - e).toNat) + signedM n2 (m2 * 2 ^ (e2 - e).toNat), e)

/-- The sign of an exact zero sum: the common sign of the operands, else +0, or −0 under RDN (R59, IEEE 754). -/
def zeroSign (rm : Nat) (n1 n2 : Bool) : Bool := if n1 == n2 then n1 else rm == 3

def invalid (t : Nat) : Nat × Flags := (canonNaN t, flagNV)

/-- a + b rounded once (R149). -/
def fAddV (t rm : Nat) (sat : Bool) (a b : FVal) : Nat × Flags :=
  match a, b with
  | .nan, _ => (canonNaN t, 0)
  | _, .nan => (canonNaN t, 0)
  | .inf n1, .inf n2 => if n1 == n2 then (infBits t n1, 0) else invalid t
  | .inf n, .fin .. => (infBits t n, 0)
  | .fin .., .inf n => (infBits t n, 0)
  | .fin n1 m1 e1, .fin n2 m2 e2 =>
    let s := exactAdd n1 m1 e1 n2 m2 e2
    let z := if m1 == 0 && m2 == 0 then zeroSign rm n1 n2 else rm == 3
    roundInt t rm sat s.1 s.2 z

def fAdd (t rm : Nat) (sat : Bool) (a b : Nat) : Nat × Flags := fAddV t rm sat (fval t a) (fval t b)
def fSub (t rm : Nat) (sat : Bool) (a b : Nat) : Nat × Flags := fAddV t rm sat (fval t a) (fval t b).neg

/-- a × b rounded once (R149). -/
def fMul (t rm : Nat) (sat : Bool) (a b : Nat) : Nat × Flags :=
  match fval t a, fval t b with
  | .nan, _ => (canonNaN t, 0)
  | _, .nan => (canonNaN t, 0)
  | .inf n1, .inf n2 => (infBits t (n1 != n2), 0)
  | .inf n1, .fin n2 m _ => if m == 0 then invalid t else (infBits t (n1 != n2), 0)
  | .fin n1 m _, .inf n2 => if m == 0 then invalid t else (infBits t (n1 != n2), 0)
  | .fin n1 m1 e1, .fin n2 m2 e2 => roundTo t rm sat (n1 != n2) (m1 * m2) (e1 + e2) false

/-- a × b + c with one rounding; NV for 0 × ∞ even when c is NaN (R149). -/
def fFma (t rm : Nat) (sat : Bool) (a b c : Nat) : Nat × Flags :=
  let cv := fval t c
  match fval t a, fval t b with
  | .nan, _ => (canonNaN t, 0)
  | _, .nan => (canonNaN t, 0)
  | .inf n1, .inf n2 => fAddV t rm sat (.inf (n1 != n2)) cv
  | .inf n1, .fin n2 m _ => if m == 0 then invalid t else fAddV t rm sat (.inf (n1 != n2)) cv
  | .fin n1 m _, .inf n2 => if m == 0 then invalid t else fAddV t rm sat (.inf (n1 != n2)) cv
  | .fin n1 m1 e1, .fin n2 m2 e2 => fAddV t rm sat (.fin (n1 != n2) (m1 * m2) (e1 + e2)) cv

/-- The order of two non-NaN values: −1, 0 or 1; −0 equals +0. -/
def fOrder (a b : FVal) : Int :=
  match a, b with
  | .inf n1, .inf n2 => if n1 == n2 then 0 else if n1 then -1 else 1
  | .inf n, _ => if n then -1 else 1
  | _, .inf n => if n then 1 else -1
  | .fin n1 m1 e1, .fin n2 m2 e2 => (exactAdd n1 m1 e1 (!n2) m2 e2).1.sign
  | _, _ => 0

/-- `FMIN` and `FMAX` (R61). -/
def fMinMax (t : Nat) (isMax : Bool) (a b : Nat) : Nat :=
  let va := fval t a; let vb := fval t b
  if va.isNaN && vb.isNaN then canonNaN t
  else if va.isNaN then b
  else if vb.isNaN then a
  else
    let o := fOrder va vb
    let aLess := o < 0 || (o == 0 && va.isNeg && !vb.isNeg)
    if aLess != isMax then a else b

/-- The lane condition codes 0 to 5 of R93 on an order. -/
def condHolds (cc : Nat) (o : Int) : Bool :=
  match cc with
  | 0 => o == 0 | 1 => o != 0 | 2 => o < 0 | 3 => o ≤ 0 | 4 => 0 < o | _ => 0 ≤ o

/-- `FCMP` codes 0 to 13 (R93, R60). -/
def fCmp (t cc : Nat) (a b : Nat) : Bool :=
  let va := fval t a; let vb := fval t b
  let uno := va.isNaN || vb.isNaN
  if cc == 6 then !uno
  else if cc == 7 then uno
  else if cc < 6 then !uno && condHolds cc (fOrder va vb)
  else uno || condHolds (cc - 8) (fOrder va vb)

/-- The class mask of `FCLASS` (R151). -/
def fClass (t : Nat) (a : Nat) : Nat :=
  match fval t a with
  | .nan => if a / 2 ^ (manBits t - 1) % 2 == 1 then 2 ^ 9 else 2 ^ 8
  | .inf n => if n then 1 else 2 ^ 7
  | .fin n m _ =>
    if m == 0 then (if n then 2 ^ 3 else 2 ^ 4)
    else if m < 2 ^ manBits t then (if n then 2 ^ 2 else 2 ^ 5)
    else (if n then 2 ^ 1 else 2 ^ 6)

/-- The integer that a finite value rounds to, and whether it differs (R70, R152). -/
def fToInt (rm : Nat) (neg : Bool) (m : Nat) (e : Int) : Int × Bool :=
  let c := cutAt m e 0 false
  (signedM neg (roundCut rm neg c), c.2 != 0)

/-- `FRND` (R152). -/
def fRnd (t rm : Nat) (a : Nat) : Nat × Flags :=
  match fval t a with
  | .nan => (canonNaN t, 0)
  | .inf _ => (a, 0)
  | .fin n m e =>
    if 0 ≤ e || m == 0 then (a, 0)
    else
      let r := fToInt rm n m e
      ((roundTo t 0 false n r.1.natAbs 0 false).1, if r.2 then flagNX else 0)

end Sys2Proof.Machine
end

