-- ==== Sys2Proof/Machine/Convert.lean ====
section
/-! DEFINITION. Packed elements, integer element arithmetic, conversions, block floating point and the matrix sum (R58, R64 to R70, R73, R96, R143 to R148). -/

namespace Sys2Proof.Machine

/-- The element width of a type code 0 to 10 (R56, R58). -/
def elemWidth (t : Nat) : Nat :=
  if t == 0 || t == 7 || t == 10 then 32 else if t == 1 || t == 2 || t == 6 || t == 9 then 16 else 8

/-- Types 5 to 7 are signed, 8 to 10 unsigned (R58). -/
def signedTy (t : Nat) : Bool := t == 5 || t == 6 || t == 7

/-- Element `e` of width `w` of a lane value (R58). -/
def elem (w : Nat) (v : W32) (e : Nat) : Nat := v.toNat / 2 ^ (w * e) % 2 ^ w

/-- A lane value built element by element, with the flags of all of them (R58, R63). -/
def packElems (w : Nat) (f : Nat → Nat × Flags) : W32 × Flags :=
  (List.range (32 / w)).foldl (fun acc e =>
    let r := f e
    (acc.1 ||| BitVec.ofNat 32 (r.1 % 2 ^ w * 2 ^ (w * e)), acc.2 ||| r.2)) (0#32, 0)

def packPlain (w : Nat) (f : Nat → Nat) : W32 := (packElems w fun e => (f e, 0)).1

/-- sext(x, n) (R95). -/
def sextN (n x : Nat) : Int := if x / 2 ^ (n - 1) % 2 == 1 then (x % 2 ^ n : Nat) - (2 ^ n : Int) else (x % 2 ^ n : Nat)

/-- wrap(v, n) (R95). -/
def wrapN (n : Nat) (v : Int) : Nat := (v % (2 ^ n : Int)).toNat

/-- The integer value of an element, as its type says. -/
def intVal (t x : Nat) : Int := if signedTy t then sextN (elemWidth t) x else (x : Int)

def intMin (t : Nat) : Int := if signedTy t then -(2 ^ (elemWidth t - 1) : Int) else 0
def intMax (t : Nat) : Int := if signedTy t then 2 ^ (elemWidth t - 1) - 1 else 2 ^ elemWidth t - 1
def clampTy (t : Nat) (v : Int) : Int := max (intMin t) (min (intMax t) v)

/-- An exact element result wrapped or clamped (R96, R143). -/
def fitTy (t : Nat) (sat : Bool) (v : Int) : Nat := wrapN (elemWidth t) (if sat then clampTy t v else v)

/-- The operation of R143 on elements. -/
def intOp2 (t : Nat) (sat : Bool) (f : Int → Int → Int) (a b : W32) : W32 :=
  let w := elemWidth t
  packPlain w fun e => fitTy t sat (f (intVal t (elem w a e)) (intVal t (elem w b e)))

def intOp3 (t : Nat) (sat : Bool) (f : Int → Int → Int → Int) (a b c : W32) : W32 :=
  let w := elemWidth t
  packPlain w fun e => fitTy t sat (f (intVal t (elem w a e)) (intVal t (elem w b e)) (intVal t (elem w c e)))

def intOp1 (t : Nat) (sat : Bool) (f : Int → Int) (a : W32) : W32 :=
  let w := elemWidth t
  packPlain w fun e => fitTy t sat (f (intVal t (elem w a e)))

/-- The shifts of R146 on elements. -/
def shlW (t : Nat) (a b : W32) : W32 :=
  let w := elemWidth t
  packPlain w fun e => let c := elem w b e; if c < w then elem w a e * 2 ^ c else 0
def shrW (t : Nat) (a b : W32) : W32 :=
  let w := elemWidth t
  packPlain w fun e => let c := elem w b e; if c < w then elem w a e / 2 ^ c else 0
def sraW (t : Nat) (a b : W32) : W32 :=
  let w := elemWidth t
  packPlain w fun e =>
    let c := elem w b e
    if c < w then wrapN w (sextN w (elem w a e) / 2 ^ c)
    else if elem w a e / 2 ^ (w - 1) % 2 == 1 then 2 ^ w - 1 else 0

/-- The counts and reversal of R147. -/
def popcN (w x : Nat) : Nat := ((List.range w).filter fun i => x / 2 ^ i % 2 == 1).length
def clzN (w x : Nat) : Nat := if x == 0 then w else w - 1 - Nat.log2 x
def brevN (w x : Nat) : Nat := (List.range w).foldl (fun r i => 2 * r + x / 2 ^ i % 2) 0

/-- `BFE` (R148). -/
def bfeW (signed : Bool) (a : W32) (ov nv : W32) : W32 :=
  let o := ov.toNat % 256; let n := nv.toNat % 256
  if n == 0 || 32 ≤ o then 0#32
  else
    let len := min (o + n) 32 - o
    let f := a.toNat / 2 ^ o % 2 ^ len
    BitVec.ofNat 32 (if signed then wrapN 32 (sextN len f) else f)

/-- `BFI` (R148). -/
def bfiW (a b ov nv : W32) : W32 :=
  let o := ov.toNat % 256; let n := nv.toNat % 256
  if n == 0 || 32 ≤ o then a
  else
    let len := min (o + n) 32 - o
    let m := (2 ^ len - 1) * 2 ^ o
    (a &&& ~~~ BitVec.ofNat 32 m) ||| BitVec.ofNat 32 (b.toNat % 2 ^ len * 2 ^ o)

/-! Conversions (R68 to R70). -/

def isFltTy (t : Nat) : Bool := t ≤ 4

def cvtFF (dt rm : Nat) (sat : Bool) (st x : Nat) : Nat × Flags :=
  match fval st x with
  | .nan => (canonNaN dt, 0)
  | .inf n =>
    if dt == st then (x, 0)
    else if dt == 3 then (if sat then maxBits 3 n else 0x7F, flagOF)
    else if dt == 4 && sat then (maxBits 4 n, flagOF)
    else (infBits dt n, 0)
  | .fin n m e => if dt == st then (x, 0) else roundTo dt rm sat n m e false

def cvtFI (dt rm : Nat) (st x : Nat) : Nat × Flags :=
  match fval st x with
  | .nan => (0, flagNV)
  | .inf n => (wrapN (elemWidth dt) (if n then intMin dt else intMax dt), flagOF)
  | .fin n m e =>
    let r := fToInt rm n m e
    if r.1 < intMin dt || intMax dt < r.1 then (wrapN (elemWidth dt) (clampTy dt r.1), flagOF)
    else (wrapN (elemWidth dt) r.1, if r.2 then flagNX else 0)

def cvtIF (dt rm : Nat) (sat : Bool) (st x : Nat) : Nat × Flags := roundInt dt rm sat (intVal st x) 0 false

def cvtII (dt : Nat) (sat : Bool) (st x : Nat) : Nat :=
  let v := intVal st x
  wrapN (elemWidth dt) (if sat && elemWidth dt ≤ elemWidth st then clampTy dt v else v)

/-- One element from type `st` to type `dt` (R68). -/
def cvtElem (dt rm : Nat) (sat : Bool) (st x : Nat) : Nat × Flags :=
  if isFltTy dt then (if isFltTy st then cvtFF dt rm sat st x else cvtIF dt rm sat st x)
  else if isFltTy st then cvtFI dt rm st x else (cvtII dt sat st x, 0)

/-- The width of any type code 0 to 10. -/
def tyBits (t : Nat) : Nat := if isFltTy t then fltWidth t else elemWidth t

/-- A result that fills the lane: sign-extended for a signed destination, else zero-extended (R154). -/
def placeTy (dt x : Nat) : W32 :=
  BitVec.ofNat 32 (if signedTy dt then wrapN 32 (sextN (elemWidth dt) x) else x % 2 ^ tyBits dt)

/-! Block floating point (R64 to R67). -/

def bfpMin (w : Nat) : Int := -(2 ^ (w - 1) : Int)
def bfpMax (w : Nat) : Int := 2 ^ (w - 1) - 1

/-- round(x / 2^(E − 127 − (w − 1))) and whether it differs from the quotient (R66). -/
def bfpQuot (w rm ex : Nat) (n : Bool) (m : Nat) (e : Int) : Int × Bool := fToInt rm n m (e - ((ex : Int) - 127 - (w - 1)))

def bfpFits (w rm ex : Nat) : FVal → Bool
  | .fin n m e => let q := (bfpQuot w rm ex n m e).1; bfpMin w ≤ q && q ≤ bfpMax w
  | _ => true

/-- The block exponent of `BFPQ` (R66). -/
def bfpExp (w rm : Nat) (xs : List FVal) : Nat :=
  if xs.any FVal.isNaN then 255
  else if xs.any (fun x => match x with | .fin _ m _ => m != 0 | _ => false) then
    ((List.range 255).find? fun ex => xs.all (bfpFits w rm ex)).getD 254
  else if xs.any (fun x => match x with | .inf _ => true | _ => false) then 254 else 0

/-- A mantissa of `BFPQ` and its flags, under the block exponent `ex` (R66). -/
def bfpMant (w rm ex : Nat) (x : FVal) : Int × Flags :=
  if ex == 255 then (0, 0)
  else match x with
    | .nan => (0, 0)
    | .inf n => (if n then bfpMin w else bfpMax w, flagOF)
    | .fin n m e =>
      let q := bfpQuot w rm ex n m e
      let nx : Flags := if q.2 then flagNX else 0
      let uf : Flags := if m != 0 && q.1 == 0 then flagUF else 0
      if q.1 < bfpMin w || bfpMax w < q.1 then (if n then bfpMin w else bfpMax w, flagOF ||| nx ||| uf)
      else (q.1, nx ||| uf)

/-- The value of one `BFPD` element (R67). -/
def bfpDeq (dt rm : Nat) (sat : Bool) (w ex : Nat) (m : Int) : Nat × Flags :=
  if ex == 255 then (canonNaN dt, 0) else roundInt dt rm sat m ((ex : Int) - 127 - (w - 1)) false

/-- Mantissa `i` of block `b` of a mantissa plane held as a number: bit n = (32b + i) × w + k (R65). -/
def bfpAt (w : Nat) (plane : Nat) (b i : Nat) : Int := sextN w (plane / 2 ^ ((32 * b + i) * w) % 2 ^ w)

/-! The matrix sum (R73). -/

structure KBlock where
  ea : Nat         -- block exponent of the activation row
  ew : Nat         -- block exponent of the weight column
  p  : Int         -- exact integer dot product
deriving DecidableEq, Repr

def KBlock.scale (wa ww : Nat) (k : KBlock) : Int :=
  ((k.ea : Int) - 127 - (wa - 1)) + ((k.ew : Int) - 127 - (ww - 1))

def dotInt : List Int → List Int → Int
  | a :: as, b :: bs => a * b + dotInt as bs
  | _, _ => 0

/-- One pass of `MMA` on the f32 accumulator of one lane and column (R73), with the flags of R74. -/
def mmaPass (wa ww : Nat) (acc : Nat) (ks : List KBlock) : Nat × Flags :=
  if ks.any fun k => k.ea == 255 || k.ew == 255 then (canonNaN 0, 0)
  else
    let live := ks.filter fun k => k.p != 0
    match live with
    | [] => (acc, 0)
    | k0 :: r =>
      let top := r.foldl (fun s k => max s (k.scale wa ww)) (k0.scale wa ww)
      let q (k : KBlock) : Int :=
        let sh := k.scale wa ww - top + 27
        if 0 ≤ sh then k.p * 2 ^ sh.toNat else k.p / 2 ^ (-sh).toNat
      let v := live.foldl (fun s k => s + q k) 0
      if v == 0 then (acc, 0)
      else match fval 0 acc with
        | .nan => (canonNaN 0, 0)
        | .inf _ => (acc, 0)
        | .fin n m e =>
          let s := exactAdd n m e (v < 0) v.natAbs (top - 27)
          roundInt 0 0 false s.1 s.2 false

end Sys2Proof.Machine
end

