-- ==== Sys2Proof/Syntax.lean ====
section
/-! DEFINITION. The syntax: one constructor of `Instr` for each row of spec/opcode_table.json (61 scalar instructions, 108 lane instructions, 175 events). -/

namespace Sys2Proof

/-- A scalar register number `s0`-`s63` (R77). -/
abbrev SReg := BitVec 6

/-- The scalar condition codes of R80. -/
inductive SCond where
  | eq | ne | lt | ge | ltu | geu
deriving DecidableEq, Repr

/-- The scalar memory sizes of R81, in code order 0 to 6. -/
inductive SSize where
  | n8 | i8 | n16 | i16 | n32 | i32 | b64
deriving DecidableEq, Repr

/-- The eight atomic operations of R78 and R92, in code order. -/
inductive AmoOp where
  | add | min | max | and | or | xor | swap | cas
deriving DecidableEq, Repr

/-- The order codes of R85. -/
inductive MemOrder where
  | rlx | acq | rel | acqrel | sc
deriving DecidableEq, Repr

/-- The scope codes of R85. -/
inductive Scope where
  | core | die | pkg | tenant | sys
deriving DecidableEq, Repr

/-- A guard field GA or GB of R84: negate bit and predicate index. -/
structure Guard where
  neg : Bool
  idx : BitVec 4
deriving DecidableEq, Repr

/-- The fields of a lane instruction other than operands and MOD (R84). -/
structure LaneHdr where
  ga  : Guard
  gb  : Guard
  gc  : Bool
  rh  : BitVec 2
  yld : Bool
  spc : BitVec 3
  fe  : BitVec 5
deriving DecidableEq, Repr

/-- An operand specifier, decoded (R86). -/
inductive Opnd where
  | v (n : BitVec 8)    -- `v0`-`v255`
  | a (n : BitVec 8)    -- `a0`-`a255`
  | x (n : BitVec 3)    -- `x0`-`x7`
  | sp (n : BitVec 4)   -- special lane register of index 8 + n, n 0-15 (R35)
  | p (n : BitVec 4)    -- `p0`-`p15`
  | k (n : BitVec 4)    -- `k0`-`k15`
  | none                -- specifier 0x3FF
deriving DecidableEq, Repr

/-- A lane instruction of the register form: header, five operand slots, MOD (R84). -/
structure LaneReg where
  hdr : LaneHdr
  d   : Opnd
  a   : Opnd
  b   : Opnd
  c   : Opnd
  e   : Opnd
  mod : BitVec 14
deriving DecidableEq, Repr

/-- A lane instruction of the immediate form (R89). -/
structure LaneImm where
  hdr : LaneHdr
  d   : Opnd
  a   : Opnd
  b   : Opnd
  imm : W32
deriving DecidableEq, Repr

/-- `LBR`, which reinterprets bits [63:24] as TARGET and JOIN (R181). -/
structure LaneBr where
  hdr    : LaneHdr
  target : BitVec 20
  join   : BitVec 20
deriving DecidableEq, Repr

/-- A stream of a warp: the scalar stream or one of its two lane PC slots (R36, R41). -/
inductive Stream where
  | scalar | slotA | slotB
deriving DecidableEq, Repr

/-- The shared queues of R248. -/
inductive QId where
  | coreOut (core : Nat)
  | sliceIn (slice : Nat)
  | sliceMiss (slice : Nat)
  | msc (edge : Nat)
  | hbm (chan : Nat)
  | egress (port : Nat)
  | ingress (port : Nat)
  | hostReq
  | ctxStore (die : Nat)
deriving DecidableEq, Repr

/-- The owner classes of R248. -/
inductive OwnerClass where
  | warp | eviction | ingress | host | firmware
deriving DecidableEq, Repr

/-- Who writes a management register: the physical function, a virtual function or a firmware core (R11). -/
inductive Mgr where
  | pf
  | vf (n : Nat)
  | fw
deriving DecidableEq, Repr

/-- A fabric packet: the header fields of R338 and its data flits (R337). -/
structure Packet where
  dst   : BitVec 20
  src   : BitVec 20
  hop   : BitVec 3
  op    : BitVec 5
  tag   : BitVec 12
  gen   : BitVec 4
  vf    : BitVec 6
  scope : BitVec 3
  order : BitVec 3
  rsv   : BitVec 2
  osa   : BitVec 50
  osb   : BitVec 128
  flits : List (BitVec 256)
deriving DecidableEq, Repr

/-- One end of a stream: home device, stream index, which end (R383). -/
structure EndKey where
  home   : Nat
  stream : Nat
  cons   : Bool
deriving DecidableEq, Repr

/-- The page sizes of R185. -/
inductive PageSize where
  | k64 | m2 | g1
deriving DecidableEq, Repr

/-- Where the lines of a page are homed (R194). -/
inductive HomeAt where
  | own
  | host
  | remote (dev : Nat)
deriving DecidableEq, Repr

/-- A page entry as firmware writes it: the combined result of both stages (R330, R332). -/
structure PageEntry where
  fn       : Nat
  space    : Nat
  va       : Nat        -- virtual address of the page's first byte
  size     : PageSize
  pa       : Nat        -- physical address of the page's first byte
  home     : HomeAt
  read     : Bool
  write    : Bool
  cinnabar : Bool
deriving DecidableEq, Repr

/-- The kinds of spare of R28. -/
inductive SpareKind where
  | core | l2way | edramRow | hbmRow | lane | poolRow | tlb | hostPort
deriving DecidableEq, Repr

/-- Where a soft error strikes (R203). -/
inductive UpsetSite where
  | memory (pa : Nat)
  | l1 (core word : Nat)
  | register (warp entry : Nat)
  | scratchpad (wg off : Nat)
  | weightStore (off : Nat)
  | context (die off : Nat)        -- a byte of the die's stream context store
deriving DecidableEq, Repr

/-- What management traffic or the fabric manager's window loads (R334, R415, R29). -/
inductive FmWrite where
  | route (dev : Nat) (entry : W64)
  | tenmap (dev : Nat) (entry : W32)
  | devId (id : Nat)
deriving DecidableEq, Repr

/-- A virtual address of one of a function's address spaces (R333). -/
structure SpaceAddr where
  space : Nat
  va    : Nat
deriving DecidableEq, Repr

/-- A queue record as a function gives it to OPENQ (R297). -/
structure QueueRec where
  ring   : Nat
  comp   : Nat
  logn   : Nat
  die    : Nat
  prio   : Nat
  flags  : Nat
  proc   : Nat
  weight : Nat
  pad    : List Byte      -- bytes 23 to 63
deriving DecidableEq, Repr

/-- A firmware image (R408): its header, and what the boot ROM finds out about the rest. -/
structure Image where
  header : List Byte       -- 256 bytes
  body   : List Byte       -- the SHAKE256 digest of the body, 64 bytes
  signed : Bool            -- the signature verifies under the fused public key
  fits   : Bool            -- header and body fit the bank
deriving DecidableEq, Repr

/-- What self-test finds failing (R405): a part of a kind that has spares, another one by a number of the model (log 26), or every image. -/
inductive FailPart where
  | part (kind : SpareKind) (n : Nat)
  | other (n : Nat)
  | image
deriving DecidableEq, Repr

/-- The instructions and events of the opcode table, in its order. -/
inductive Instr where
  /-- `SADD` (R116). -/
  | sadd (d a b : SReg)
  /-- `SSUB` (R116). -/
  | ssub (d a b : SReg)
  /-- `SMUL` (R116). -/
  | smul (d a b : SReg)
  /-- `SMULH` (R116). -/
  | smulh (d a b : SReg)
  /-- `SDIV` (R117). -/
  | sdiv (d a b : SReg)
  /-- `SREM` (R117). -/
  | srem (d a b : SReg)
  /-- `SAND` (R116). -/
  | sand (d a b : SReg)
  /-- `SOR` (R116). -/
  | sor (d a b : SReg)
  /-- `SXOR` (R116). -/
  | sxor (d a b : SReg)
  /-- `SSHL` (R116). -/
  | sshl (d a b : SReg)
  /-- `SSHR` (R116). -/
  | sshr (d a b : SReg)
  /-- `SSRA` (R116). -/
  | ssra (d a b : SReg)
  /-- `SMIN` (R116). -/
  | smin (d a b : SReg)
  /-- `SMAX` (R116). -/
  | smax (d a b : SReg)
  /-- `SMULH_U` (R116). -/
  | smulhU (d a b : SReg)
  /-- `SDIV_U` (R117). -/
  | sdivU (d a b : SReg)
  /-- `SREM_U` (R117). -/
  | sremU (d a b : SReg)
  /-- `SMIN_U` (R116). -/
  | sminU (d a b : SReg)
  /-- `SMAX_U` (R116). -/
  | smaxU (d a b : SReg)
  /-- `SCMP` (R116). -/
  | scmp (cc : SCond) (d a b : SReg)
  /-- `SADDI` (R116). -/
  | saddi (d a : SReg) (imm : BitVec 14)
  /-- `SMULI` (R116). -/
  | smuli (d a : SReg) (imm : BitVec 14)
  /-- `SANDI` (R116). -/
  | sandi (d a : SReg) (imm : BitVec 14)
  /-- `SORI` (R116). -/
  | sori (d a : SReg) (imm : BitVec 14)
  /-- `SXORI` (R116). -/
  | sxori (d a : SReg) (imm : BitVec 14)
  /-- `SSHLI` (R118). -/
  | sshli (d a : SReg) (n : BitVec 6)
  /-- `SSHRI` (R118). -/
  | sshri (d a : SReg) (n : BitVec 6)
  /-- `SSRAI` (R118). -/
  | ssrai (d a : SReg) (n : BitVec 6)
  /-- `SMINI` (R116). -/
  | smini (d a : SReg) (imm : BitVec 14)
  /-- `SMAXI` (R116). -/
  | smaxi (d a : SReg) (imm : BitVec 14)
  /-- `SCMPI` (R116). -/
  | scmpi (cc : SCond) (d a : SReg) (imm : BitVec 11)
  /-- `SLUI` (R118). -/
  | slui (d : SReg) (imm : BitVec 20)
  /-- `SLD` (R119). -/
  | sld (sz : SSize) (d a : SReg) (off : BitVec 11)
  /-- `SLD_PAD` (R119). -/
  | sldPad (sz : SSize) (d a : SReg) (off : BitVec 11)
  /-- `SST` (R119). -/
  | sst (sz : SSize) (d a : SReg) (off : BitVec 11)
  /-- `SST_PAD` (R119). -/
  | sstPad (sz : SSize) (d a : SReg) (off : BitVec 11)
  /-- `SAMO` (R120). -/
  | samo (op : AmoOp) (wide : Bool) (ord : MemOrder) (sys : Bool) (d a b : SReg)
  /-- `SBR` (R121). -/
  | sbr (cc : SCond) (a b : SReg) (off : BitVec 11)
  /-- `SJ` (R121). -/
  | sj (off : BitVec 26)
  /-- `SJAL` (R121). -/
  | sjal (d : SReg) (off : BitVec 20)
  /-- `SJR` (R121). -/
  | sjr (d a : SReg) (imm : BitVec 14)
  /-- `LOOP` (R122). -/
  | loop (a : SReg) (c64 : Bool) (off : BitVec 16)
  /-- `LGO` (R126). -/
  | lgo (a : SReg) (pc : BitVec 20)
  /-- `LARG` (R127). -/
  | larg (k : BitVec 2) (a : SReg)
  /-- `LWAIT` (R40). -/
  | lwait
  /-- `SPOP` (R39). -/
  | spop (d : SReg)
  /-- `SBAR` (R52). -/
  | sbar (b : BitVec 4)
  /-- `SBAR_C` (R129). -/
  | sbarC
  /-- `SLAUNCH` (R130). -/
  | slaunch (d a : SReg)
  /-- `STRIG` (R53). -/
  | strig
  /-- `SNOP` (R134). -/
  | snop
  /-- `SCSRR` (R132). -/
  | scsrr (csr : BitVec 12) (d : SReg)
  /-- `SCSRW` (R132). -/
  | scsrw (csr : BitVec 12) (a : SReg)
  /-- `STRAP` (R133). -/
  | strap (code : BitVec 12)
  /-- `SERET` (R325). -/
  | seret
  /-- `SYIELD` (R134). -/
  | syield
  /-- `SSLEEP` (R134). -/
  | ssleep (a : SReg)
  /-- `SHALT` (R134). -/
  | shalt
  /-- `SPERF` (R135). -/
  | sperf (sel : BitVec 12) (d : SReg)
  /-- `STIME` (R136). -/
  | stime (d : SReg)
  /-- `LBRK` (R124). -/
  | lbrk
  /-- `LNOP` (R180). -/
  | lnop (l : LaneReg)
  /-- `LBR` (R41). -/
  | lbr (l : LaneBr)
  /-- `LJOIN` (R182). -/
  | ljoin (l : LaneReg)
  /-- `LSTOP` (R44). -/
  | lstop (l : LaneReg)
  /-- `IADD` (R143). -/
  | iadd (l : LaneReg)
  /-- `IADD_IMM` (R143). -/
  | iaddImm (l : LaneImm)
  /-- `ISUB` (R143). -/
  | isub (l : LaneReg)
  /-- `IMUL` (R143). -/
  | imul (l : LaneReg)
  /-- `IMUL_IMM` (R143). -/
  | imulImm (l : LaneImm)
  /-- `IMULH` (R143). -/
  | imulh (l : LaneReg)
  /-- `IMAD` (R143). -/
  | imad (l : LaneReg)
  /-- `IMIN` (R143). -/
  | imin (l : LaneReg)
  /-- `IMIN_IMM` (R143). -/
  | iminImm (l : LaneImm)
  /-- `IMAX` (R143). -/
  | imax (l : LaneReg)
  /-- `IMAX_IMM` (R143). -/
  | imaxImm (l : LaneImm)
  /-- `IABS` (R143). -/
  | iabs (l : LaneReg)
  /-- `ICMP` (R144). -/
  | icmp (l : LaneReg)
  /-- `AND` (R145). -/
  | land (l : LaneReg)
  /-- `AND_IMM` (R145). -/
  | landImm (l : LaneImm)
  /-- `OR` (R145). -/
  | lor (l : LaneReg)
  /-- `OR_IMM` (R145). -/
  | lorImm (l : LaneImm)
  /-- `XOR` (R145). -/
  | lxor (l : LaneReg)
  /-- `XOR_IMM` (R145). -/
  | lxorImm (l : LaneImm)
  /-- `SHL` (R146). -/
  | lshl (l : LaneReg)
  /-- `SHL_IMM` (R146). -/
  | lshlImm (l : LaneImm)
  /-- `SHR` (R146). -/
  | lshr (l : LaneReg)
  /-- `SHR_IMM` (R146). -/
  | lshrImm (l : LaneImm)
  /-- `SRA` (R146). -/
  | lsra (l : LaneReg)
  /-- `SRA_IMM` (R146). -/
  | lsraImm (l : LaneImm)
  /-- `POPC` (R147). -/
  | popc (l : LaneReg)
  /-- `CLZ` (R147). -/
  | clz (l : LaneReg)
  /-- `BREV` (R147). -/
  | brev (l : LaneReg)
  /-- `BFE` (R148). -/
  | bfe (l : LaneReg)
  /-- `BFI` (R148). -/
  | bfi (l : LaneReg)
  /-- `FADD` (R149). -/
  | fadd (l : LaneReg)
  /-- `FADD_IMM` (R149). -/
  | faddImm (l : LaneImm)
  /-- `FSUB` (R149). -/
  | fsub (l : LaneReg)
  /-- `FMUL` (R149). -/
  | fmul (l : LaneReg)
  /-- `FMUL_IMM` (R149). -/
  | fmulImm (l : LaneImm)
  /-- `FFMA` (R149). -/
  | ffma (l : LaneReg)
  /-- `FMIN` (R150). -/
  | fmin (l : LaneReg)
  /-- `FMIN_IMM` (R150). -/
  | fminImm (l : LaneImm)
  /-- `FMAX` (R150). -/
  | fmax (l : LaneReg)
  /-- `FMAX_IMM` (R150). -/
  | fmaxImm (l : LaneImm)
  /-- `FCMP` (R150). -/
  | fcmp (l : LaneReg)
  /-- `FCLASS` (R151). -/
  | fclass (l : LaneReg)
  /-- `FRND` (R152). -/
  | frnd (l : LaneReg)
  /-- `RCP` (R153). -/
  | rcp (l : LaneReg)
  /-- `RSQ` (R153). -/
  | rsq (l : LaneReg)
  /-- `SQRT` (R153). -/
  | sqrt (l : LaneReg)
  /-- `EXP2` (R153). -/
  | exp2 (l : LaneReg)
  /-- `LOG2` (R153). -/
  | log2 (l : LaneReg)
  /-- `SIN` (R153). -/
  | sin (l : LaneReg)
  /-- `COS` (R153). -/
  | cos (l : LaneReg)
  /-- `TANH` (R153). -/
  | tanh (l : LaneReg)
  /-- `CVT` (R155). -/
  | cvt (l : LaneReg)
  /-- `PACK` (R156). -/
  | pack (l : LaneReg)
  /-- `UNPACK` (R157). -/
  | unpack (l : LaneReg)
  /-- `BFPQ` (R158). -/
  | bfpq (l : LaneReg)
  /-- `BFPD` (R159). -/
  | bfpd (l : LaneReg)
  /-- `MOV` (R160). -/
  | mov (l : LaneReg)
  /-- `MOVI` (R161). -/
  | movi (l : LaneImm)
  /-- `SEL` (R162). -/
  | sel (l : LaneReg)
  /-- `PLOP` (R163). -/
  | plop (l : LaneReg)
  /-- `SETVB` (R164). -/
  | setvb (l : LaneReg)
  /-- `SPRD` (R165). -/
  | sprd (l : LaneReg)
  /-- `SHFL` (R170). -/
  | shfl (l : LaneReg)
  /-- `VOTE` (R171). -/
  | vote (l : LaneReg)
  /-- `RED` (R172). -/
  | red (l : LaneReg)
  /-- `SCAN` (R174). -/
  | scan (l : LaneReg)
  /-- `COMPRESS` (R175). -/
  | compress (l : LaneReg)
  /-- `EXPAND` (R175). -/
  | expand (l : LaneReg)
  /-- `FUSEDEF` (R177). -/
  | fusedef (l : LaneReg)
  /-- `FUSE` (R179). -/
  | fuse (l : LaneReg)
  /-- `LD` (R207). -/
  | ld (l : LaneReg)
  /-- `ST` (R208). -/
  | st (l : LaneReg)
  /-- `LDA` (R209). -/
  | lda (l : LaneReg)
  /-- `WAITK` (R210). -/
  | waitk (l : LaneImm)
  /-- `LDMC` (R211). -/
  | ldmc (l : LaneReg)
  /-- `PREF` (R213). -/
  | pref (l : LaneReg)
  /-- `CREAD` (R215). -/
  | cread (l : LaneReg)
  /-- `CSTORE` (R216). -/
  | cstore (l : LaneReg)
  /-- `ATOM` (R218). -/
  | atom (op : AmoOp) (l : LaneReg)
  /-- `FENCE` (R220). -/
  | fence (l : LaneReg)
  /-- `QFENCE` (R221). -/
  | qfence (l : LaneImm)
  /-- `WLOAD` (R271). -/
  | wload (l : LaneReg)
  /-- `MMA` (R273). -/
  | mma (l : LaneReg)
  /-- `AZERO` (R277). -/
  | azero (l : LaneReg)
  /-- `AREAD` (R276). -/
  | aread (l : LaneReg)
  /-- `AWRITE` (R277). -/
  | awrite (l : LaneReg)
  /-- `CPY` (R282). -/
  | cpy (l : LaneReg)
  /-- `CPYM` (R289). -/
  | cpym (l : LaneReg)
  /-- `RCF` (R281). -/
  | rcf (l : LaneReg)
  /-- `RINIT` (R291). -/
  | rinit (l : LaneReg)
  /-- `RWAIT_FREE` (R292). -/
  | rwaitFree (l : LaneReg)
  /-- `RWAIT_FILLED` (R293). -/
  | rwaitFilled (l : LaneReg)
  /-- `RREL` (R293). -/
  | rrel (l : LaneReg)
  /-- `BPOST` (R361). -/
  | bpost (l : LaneReg)
  /-- `BSEND` (R363). -/
  | bsend (l : LaneReg)
  /-- `AMSEND` (R364). -/
  | amsend (l : LaneReg)
  /-- `STOPEN` (R367). -/
  | stopen (l : LaneReg)
  /-- `STSEND` (R368). -/
  | stsend (l : LaneReg)
  /-- `STRECV` (R369). -/
  | strecv (l : LaneReg)
  /-- `STXFER` (R370). -/
  | stxfer (l : LaneReg)
  /-- `STADOPT` (R371). -/
  | stadopt (l : LaneReg)
  /-- `STBIND` (R372). -/
  | stbind (l : LaneReg)
  /-- `STCLOSE` (R373). -/
  | stclose (l : LaneReg)
  /-- `STQUERY` (R374). -/
  | stquery (l : LaneReg)
  /-- `FABRIC_OP_COMPLETE` (R358). -/
  | fabricOpComplete (w : Nat)
  /-- `LANE_BLOCK_START` (R38). -/
  | laneBlockStart (w : Nat)
  /-- `LGO_UNSTALL` (R37). -/
  | lgoUnstall (w : Nat)
  /-- `LANE_RESULT_WRITE` (R141). -/
  | laneResultWrite (w n : Nat)
  /-- `SCALAR_RESULT_FILL` (R114). -/
  | scalarResultFill (w : Nat) (d : SReg)
  /-- `SPOP_DONE` (R39). -/
  | spopDone (w : Nat)
  /-- `LWAIT_DONE` (R40). -/
  | lwaitDone (w : Nat)
  /-- `WAITK_DONE` (R210). -/
  | waitkDone (w : Nat) (st : Stream)
  /-- `SETVB_DONE` (R47). -/
  | setvbDone (w : Nat) (st : Stream)
  /-- `FENCE_DONE` (R220). -/
  | fenceDone (w : Nat) (st : Stream)
  /-- `QFENCE_DONE` (R221). -/
  | qfenceDone (w : Nat) (st : Stream)
  /-- `RWAIT_FREE_DONE` (R292). -/
  | rwaitFreeDone (w : Nat) (st : Stream)
  /-- `RWAIT_FILLED_DONE` (R293). -/
  | rwaitFilledDone (w : Nat) (st : Stream)
  /-- `SLEEP_EXPIRY` (R134). -/
  | sleepExpiry (w : Nat)
  /-- `STARVATION_PRECEDENCE` (R54). -/
  | starvationPrecedence (w : Nat)
  /-- `WORKGROUP_RETIRE` (R34). -/
  | workgroupRetire (g : Nat)
  /-- `DISPATCH_WORKGROUP` (R311). -/
  | dispatchWorkgroup (core idx : Nat)
  /-- `DEFERRED_TRAP` (R319). -/
  | deferredTrap (w : Nat)
  /-- `SKID_STOP` (R322). -/
  | skidStop (w : Nat)
  /-- `FIRMWARE_END_WORKGROUP` (R323). -/
  | firmwareEndWorkgroup (g : Nat)
  /-- `PARK_THRESHOLD_HOLD` (R327). -/
  | parkThresholdHold (core fn : Nat)
  /-- `CONTEXT_SWITCH_OUT` (R329). -/
  | contextSwitchOut (g : Nat)
  /-- `CONTEXT_SWITCH_IN` (R328). -/
  | contextSwitchIn (g core : Nat)
  /-- `WALK_COMPLETE` (R331). -/
  | walkComplete (die fn va : Nat)
  /-- `PAGE_MAPPED` (R332). -/
  | pageMapped (p : PageEntry)
  /-- `PAGE_MAP_REFUSED` (R332). -/
  | pageMapRefused (fn va : Nat)
  /-- `TLB_INVALIDATION` (R333). -/
  | tlbInvalidation (fn : Nat) (va : SpaceAddr)
  /-- `INVALIDATION_COMPLETE` (R333). -/
  | invalidationComplete (fn : Nat) (va : SpaceAddr)
  /-- `SHARED_QUEUE_ARRIVAL` (R246). -/
  | sharedQueueArrival (r : Nat)
  /-- `QUEUE_DEPARTURE` (R246). -/
  | queueDeparture (r : Nat)
  /-- `RESIDENCY_EXPIRED` (R246). -/
  | residencyExpired (r : Nat)
  /-- `BOUNCE_NOTICE` (R251). -/
  | bounceNotice (r : Nat)
  /-- `CONGESTION_CLEARED` (R250). -/
  | congestionCleared (q : QId)
  /-- `BACKOFF_EXPIRY` (R250). -/
  | backoffExpiry (r : Nat)
  /-- `RESERVATION_GRANTED` (R257). -/
  | reservationGranted (q : QId) (cls : OwnerClass)
  /-- `GRANT_LAPSE` (R257). -/
  | grantLapse (q : QId) (cls : OwnerClass)
  /-- `BUDGET_REFILL` (R398). -/
  | budgetRefill (vf : Nat)
  /-- `REPLAY_REISSUE` (R255). -/
  | replayReissue (r : Nat)
  /-- `REQUEST_REPLY` (R251). -/
  | requestReply (r : Nat)
  /-- `RELEASE_PART` (R230). -/
  | releasePart (w : Nat)
  /-- `HOME_ACCESS` (R226). -/
  | homeAccess (r : Nat)
  /-- `HOME_PROBE` (R243). -/
  | homeProbe (r core : Nat)
  /-- `HBM_REFRESH_DUE` (R199). -/
  | hbmRefreshDue (ch bank : Nat)
  /-- `POSTPONED_REFRESH` (R199). -/
  | postponedRefresh (ch bank : Nat)
  /-- `ROW_THRESHOLD_REACHED` (R201). -/
  | rowThresholdReached (vf ch bank row : Nat)
  /-- `ROW_COUNT_CLEAR` (R201). -/
  | rowCountClear (edge : Nat)
  /-- `WEIGHT_REFRESH_WINDOW` (R197). -/
  | weightRefreshWindow (die : Nat)
  /-- `WLOAD_START` (R272). -/
  | wloadStart (core n : Nat)
  /-- `WLOAD_DONE` (R272). -/
  | wloadDone (core n : Nat)
  /-- `MMA_START` (R273). -/
  | mmaStart (core n : Nat)
  /-- `MMA_DONE` (R273). -/
  | mmaDone (core n : Nat)
  /-- `ACCUM_MOVE_DONE` (R275). -/
  | accumMoveDone (core n : Nat)
  /-- `COPY_START` (R284). -/
  | copyStart (core g : Nat)
  /-- `COPY_BYTES_PERFORMED` (R233). -/
  | copyBytesPerformed (core g : Nat)
  /-- `COPY_DONE` (R284). -/
  | copyDone (core g : Nat)
  /-- `QDOOR_WRITE` (R298). -/
  | qdoorWrite (by_ : Mgr) (q : Nat) (tail : W32)
  /-- `QSTAT_RESET` (R298). -/
  | qstatReset (by_ : Mgr) (q : Nat)
  /-- `BATCH_COMMIT` (R302). -/
  | batchCommit (q : Nat)
  /-- `PACKET_START` (R305). -/
  | packetStart (q : Nat)
  /-- `LAUNCH_BUNDLE` (R304). -/
  | launchBundle (q : Nat)
  /-- `TIMED_LAUNCH` (R314). -/
  | timedLaunch (q : Nat)
  /-- `TIMED_LAUNCH_ELIGIBLE` (R314). -/
  | timedLaunchEligible (q : Nat)
  /-- `COPY_PACKET` (R317). -/
  | copyPacket (q : Nat)
  /-- `WS_WRITE_PACKET` (R317). -/
  | wsWritePacket (q : Nat)
  /-- `BARRIER_AND_SIGNAL` (R317). -/
  | barrierAndSignal (q : Nat)
  /-- `BARRIER_SIGNAL_WAKE` (R317). -/
  | barrierSignalWake (q : Nat)
  /-- `INTERRUPT_PACKET` (R317). -/
  | interruptPacket (q : Nat)
  /-- `REGISTER_HANDLER_TABLE` (R387). -/
  | registerHandlerTable (q : Nat)
  /-- `PLACEMENT` (R308). -/
  | placement (die core : Nat)
  /-- `SLICE_ADVANCE` (R308). -/
  | sliceAdvance (die : Nat)
  /-- `STARVE_PROMOTION` (R308). -/
  | starvePromotion (q : Nat)
  /-- `COMPLETION_INTERRUPT_COUNT` (R318). -/
  | completionInterruptCount (fn : Nat)
  /-- `COMPLETION_INTERRUPT_TIMEOUT` (R318). -/
  | completionInterruptTimeout (fn : Nat)
  /-- `PTPSET_WRITE` (R315). -/
  | ptpsetWrite (by_ : Mgr) (v : W64)
  /-- `PTPADJ_WRITE` (R315). -/
  | ptpadjWrite (by_ : Mgr) (v : W64)
  /-- `PTPRATE_WRITE` (R315). -/
  | ptprateWrite (by_ : Mgr) (v : W64)
  /-- `PTPHOLD_WRITE` (R315). -/
  | ptpholdWrite (by_ : Mgr) (v : W64)
  /-- `PTP_HOLDOVER_EXPIRY` (R315). -/
  | ptpHoldoverExpiry
  /-- `FABRIC_FORWARD` (R334). -/
  | fabricForward (port : Nat) (p : Packet)
  /-- `FM_MANAGEMENT` (R334). -/
  | fmManagement (f : FmWrite)
  /-- `FABRIC_RD` (R339). -/
  | fabricRd (port : Nat) (p : Packet)
  /-- `FABRIC_WR` (R344). -/
  | fabricWr (port : Nat) (p : Packet)
  /-- `FABRIC_ATOM_GROUP` (R341). -/
  | fabricAtomGroup (port : Nat) (p : Packet)
  /-- `FABRIC_CST_GROUP` (R341). -/
  | fabricCstGroup (port : Nat) (p : Packet)
  /-- `FABRIC_BDATA` (R349). -/
  | fabricBdata (port : Nat) (p : Packet)
  /-- `FABRIC_BREQ` (R352). -/
  | fabricBreq (port : Nat) (p : Packet)
  /-- `FABRIC_AMSG` (R354). -/
  | fabricAmsg (port : Nat) (p : Packet)
  /-- `FABRIC_RDR` (R339). -/
  | fabricRdr (port : Nat) (p : Packet)
  /-- `FABRIC_WACK` (R339). -/
  | fabricWack (port : Nat) (p : Packet)
  /-- `FABRIC_ATOMR` (R339). -/
  | fabricAtomr (port : Nat) (p : Packet)
  /-- `FABRIC_CSTR` (R339). -/
  | fabricCstr (port : Nat) (p : Packet)
  /-- `FABRIC_AMACK` (R354). -/
  | fabricAmack (port : Nat) (p : Packet)
  /-- `FABRIC_BOUNCE` (R339). -/
  | fabricBounce (port : Nat) (p : Packet)
  /-- `FABRIC_GRANT` (R350). -/
  | fabricGrant (port : Nat) (p : Packet)
  /-- `FABRIC_RETURN` (R352). -/
  | fabricReturn (port : Nat) (p : Packet)
  /-- `FABRIC_BSTAT` (R349). -/
  | fabricBstat (port : Nat) (p : Packet)
  /-- `FABRIC_CONG` (R347). -/
  | fabricCong (port : Nat) (p : Packet)
  /-- `GROUP_TIMEOUT` (R341). -/
  | groupTimeout (src tag gen : Nat)
  /-- `RESEND_TIMER` (R344). -/
  | resendTimer (r : Nat)
  /-- `REPLY_CACHE_EXPIRY` (R344). -/
  | replyCacheExpiry (src tag gen : Nat)
  /-- `REQUEST_UNANSWERED` (R345). -/
  | requestUnanswered (r : Nat)
  /-- `DEST_UNREACHABLE` (R345). -/
  | destUnreachable (dev : Nat)
  /-- `CONGESTION_WITHDRAW` (R347). -/
  | congestionWithdraw (port dev : Nat)
  /-- `TOKEN_EXPIRY` (R351). -/
  | tokenExpiry (src msg off : Nat)
  /-- `PRIO_AGING` (R350). -/
  | prioAging (src msg : Nat)
  /-- `AM_HANDLER_START` (R366). -/
  | amHandlerStart (fn core : Nat)
  /-- `STREAM_HANDLER_START` (R387). -/
  | streamHandlerStart (k : EndKey) (core : Nat)
  /-- `SITEM` (R382). -/
  | sitem (port : Nat) (p : Packet)
  /-- `SMOVE_MOVE` (R391). -/
  | smoveMove (port : Nat) (p : Packet)
  /-- `SMOVE_CTX` (R393). -/
  | smoveCtx (port : Nat) (p : Packet)
  /-- `SMOVE_ADOPT` (R391). -/
  | smoveAdopt (port : Nat) (p : Packet)
  /-- `SMOVE_PLACE` (R391). -/
  | smovePlace (port : Nat) (p : Packet)
  /-- `SMOVE_ITEMS` (R393). -/
  | smoveItems (port : Nat) (p : Packet)
  /-- `SACK` (R393). -/
  | sack (port : Nat) (p : Packet)
  /-- `SMACK` (R393). -/
  | smack (port : Nat) (p : Packet)
  /-- `SCRED` (R381). -/
  | scred (port : Nat) (p : Packet)
  /-- `SLOC` (R392). -/
  | sloc (port : Nat) (p : Packet)
  /-- `SORPH` (R394). -/
  | sorph (port : Nat) (p : Packet)
  /-- `CONTEXT_IDLE_TIMEOUT` (R386). -/
  | contextIdleTimeout (k : EndKey)
  /-- `CONTEXT_EVICTION_DONE` (R389). -/
  | contextEvictionDone (k : EndKey)
  /-- `CONTEXT_RELOAD_DONE` (R389). -/
  | contextReloadDone (k : EndKey)
  /-- `HOST_SNOOP` (R396). -/
  | hostSnoop (line : Nat) (inval : Bool)
  /-- `HOST_MEM_WRITE` (R396). -/
  | hostMemWrite (fn pa : Nat) (bytes : List Byte)
  /-- `HOST_MEM_READ` (R395). -/
  | hostMemRead (fn pa n : Nat)
  /-- `FUNCTION_RESET` (R402). -/
  | functionReset (vf : Nat)
  /-- `FUNCTION_RESET_COMPLETE` (R402). -/
  | functionResetComplete (vf : Nat)
  /-- `SCRUB_LINE` (R403). -/
  | scrubLine (line : Nat)
  /-- `DEVICE_RESET` (R405). -/
  | deviceReset
  /-- `SELF_TEST_STAGE_DONE` (R405). -/
  | selfTestStageDone (pass : Bool) (part : FailPart × Nat)
  /-- `COOLANT_FAULT` (R27). -/
  | coolantFault
  /-- `OPENQ` (R297). -/
  | openq (by_ : Mgr) (rec_ : QueueRec)
  /-- `CLOSEQ` (R407). -/
  | closeq (by_ : Mgr) (q : Nat)
  /-- `FAULTLOG` (R407). -/
  | faultlog (by_ : Mgr)
  /-- `ATTEST` (R410). -/
  | attest (by_ : Mgr) (nonce : BitVec 256)
  /-- `POSTREPORT` (R407). -/
  | postreport (by_ : Mgr) (page : Nat)
  /-- `RETEST` (R406). -/
  | retest (by_ : Mgr) (pass : Bool)
  /-- `SUBSTITUTE` (R411). -/
  | substitute (by_ : Mgr) (kind : SpareKind) (part : Nat)
  /-- `RETIRE` (R407). -/
  | retire (by_ : Mgr)
  /-- `FWUPDATE` (R408). -/
  | fwupdate (by_ : Mgr) (img : Image)
  /-- `FRAMEINFO` (R404). -/
  | frameinfo (by_ : Mgr) (frame : Nat)
  /-- `ASSIGN` (R397). -/
  | assign (by_ : Mgr) (frame owner : Nat)
  /-- `SPARE_TRIGGER` (R411). -/
  | spareTrigger (kind : SpareKind) (part : Nat)
  /-- `SPARE_SUBSTITUTION` (R411). -/
  | spareSubstitution (kind : SpareKind) (part phys : Nat)
  /-- `HOST_PORT_FAILOVER` (R411). -/
  | hostPortFailover
  /-- `XUNLOCK_WRITE` (R11). -/
  | xunlockWrite (by_ : Mgr) (v : W32)
  /-- `RESID_B_WRITE` (R247). -/
  | residBWrite (by_ : Mgr) (v : W32)
  /-- `RESID_X_WRITE` (R247). -/
  | residXWrite (by_ : Mgr) (v : W32)
  /-- `REPLAYQ_B_WRITE` (R252). -/
  | replayqBWrite (by_ : Mgr) (v : W32)
  /-- `REPLAYQ_X_WRITE` (R252). -/
  | replayqXWrite (by_ : Mgr) (v : W32)
  /-- `ROWGUARD_B_WRITE` (R202). -/
  | rowguardBWrite (by_ : Mgr) (v : W32)
  /-- `ROWGUARD_X_WRITE` (R202). -/
  | rowguardXWrite (by_ : Mgr) (v : W32)
  /-- `BULK_B_WRITE` (R353). -/
  | bulkBWrite (by_ : Mgr) (v : W32)
  /-- `BULK_X_WRITE` (R353). -/
  | bulkXWrite (by_ : Mgr) (v : W32)
  /-- `CTXSTORE_B_WRITE` (R390). -/
  | ctxstoreBWrite (by_ : Mgr) (v : W32)
  /-- `CTXSTORE_X_WRITE` (R390). -/
  | ctxstoreXWrite (by_ : Mgr) (v : W32)
  /-- `POWER_B_WRITE` (R413). -/
  | powerBWrite (by_ : Mgr) (v : W32)
  /-- `POWER_X_WRITE` (R413). -/
  | powerXWrite (by_ : Mgr) (v : W32)
  /-- `VFBUD_B_WRITE` (R399). -/
  | vfbudBWrite (by_ : Mgr) (vf : Nat) (v : W32)
  /-- `VFBUD_X_WRITE` (R399). -/
  | vfbudXWrite (by_ : Mgr) (vf : Nat) (v : W32)
  /-- `VFSCOPE_B_WRITE` (R400). -/
  | vfscopeBWrite (by_ : Mgr) (vf : Nat) (v : W32)
  /-- `VFSCOPE_X_WRITE` (R400). -/
  | vfscopeXWrite (by_ : Mgr) (vf : Nat) (v : W32)
  /-- `ICOAL_B_WRITE` (R318). -/
  | icoalBWrite (by_ : Mgr) (fn : Nat) (v : W32)
  /-- `ICOAL_X_WRITE` (R318). -/
  | icoalXWrite (by_ : Mgr) (fn : Nat) (v : W32)
  /-- `ARBGUARD_B_WRITE` (R310). -/
  | arbguardBWrite (by_ : Mgr) (fn : Nat) (v : W32)
  /-- `ARBGUARD_X_WRITE` (R310). -/
  | arbguardXWrite (by_ : Mgr) (fn : Nat) (v : W32)
  /-- `PARK_B_WRITE` (R327). -/
  | parkBWrite (by_ : Mgr) (fn : Nat) (v : W32)
  /-- `PARK_X_WRITE` (R327). -/
  | parkXWrite (by_ : Mgr) (fn : Nat) (v : W32)
  /-- `STIDLE_B_WRITE` (R390). -/
  | stidleBWrite (by_ : Mgr) (fn : Nat) (v : W32)
  /-- `STIDLE_X_WRITE` (R390). -/
  | stidleXWrite (by_ : Mgr) (fn : Nat) (v : W32)
  /-- `REGISTER_WRITE` (R414). -/
  | registerWrite (by_ : Mgr) (off width : Nat) (v : W64)
  /-- `PTM_REQUEST` (R315). -/
  | ptmRequest
  /-- `SOFT_ERROR` (R203). -/
  | softError (site : UpsetSite) (correctable : Bool)
  /-- `LINK_TRAINING_COMPLETE` (R411). -/
  | linkTrainingComplete (port lane : Nat)
  /-- `DESTINATION_CONGESTED` (R347). -/
  | destinationCongested (port dev : Nat)
  /-- `FROZEN_RECORD_RELEASE` (R391). -/
  | frozenRecordRelease (k : EndKey)
deriving DecidableEq, Repr

end Sys2Proof
end

