-- ==== Sys2Proof/WellFormed.lean ====
section
/-! DEFINITION. Well-formedness: every encoding rule of R77 to R93 and of the descriptions that a decoded instruction can still break (check 1 of R94). -/

namespace Sys2Proof

/-! Operand classes (R86, R138). -/

def Opnd.isNone : Opnd → Bool | .none => true | _ => false
def Opnd.isV : Opnd → Bool | .v _ => true | .a _ => true | _ => false
def Opnd.isVec : Opnd → Bool | .v _ => true | _ => false
def Opnd.isAcc : Opnd → Bool | .a _ => true | _ => false
def Opnd.isX : Opnd → Bool | .x _ => true | _ => false
def Opnd.isU : Opnd → Bool | .x _ => true | .sp _ => true | _ => false
def Opnd.isVU (o : Opnd) : Bool := o.isV || o.isU
def Opnd.isP : Opnd → Bool | .p _ => true | _ => false
def Opnd.isK : Opnd → Bool | .k _ => true | _ => false
def Opnd.isVP (o : Opnd) : Bool := o.isV || o.isP
/-- `v`n with n even: a register pair (R88). -/
def Opnd.isPair : Opnd → Bool | .v n => n.toNat % 2 == 0 | _ => false
/-- `v`n with n a multiple of 4: a register quad (R88). -/
def Opnd.isQuad : Opnd → Bool | .v n => n.toNat % 4 == 0 | _ => false
/-- A handle operand: an even `x` pair or a V quad (R356). -/
def Opnd.isH : Opnd → Bool | .x n => n.toNat % 2 == 0 | .v n => n.toNat % 4 == 0 | _ => false
def Opnd.orNone (f : Opnd → Bool) (o : Opnd) : Bool := o.isNone || f o

/-- Guard 0b00000 with GC = 0. -/
def LaneHdr.noGuard (h : LaneHdr) : Bool :=
  !h.ga.neg && h.ga.idx == 0#4 && !h.gb.neg && h.gb.idx == 0#4 && !h.gc

/-- An FE bit may be 1 only for a slot that names a vector register or an accumulator (R87). -/
def LaneReg.feOk (l : LaneReg) : Bool :=
  let f := l.hdr.fe
  (!f.getLsbD 4 || l.d.isV) && (!f.getLsbD 3 || l.a.isV) && (!f.getLsbD 2 || l.b.isV) &&
  (!f.getLsbD 1 || l.c.isV) && (!f.getLsbD 0 || l.e.isV)

/-- The operand classes of the five slots, with R87. -/
def LaneReg.shape (l : LaneReg) (d a b c e : Opnd → Bool) : Bool :=
  d l.d && a l.a && b l.b && c l.c && e l.e && l.feOk

/-- Groups 0x0 to 0x7 and 0xA hold RH zero (R85). -/
def LaneReg.shapeN (l : LaneReg) (d a b c e : Opnd → Bool) : Bool :=
  l.hdr.rh == 0#2 && l.shape d a b c e

/-- Bits [hi:lo] of a MOD as a number. -/
def modBits (m : BitVec 14) (hi lo : Nat) : Nat := m.toNat / 2 ^ lo % 2 ^ (hi + 1 - lo)

/-! The general MOD of R90. -/

def LaneReg.ty (l : LaneReg) : Nat := modBits l.mod 13 10
def LaneReg.rm (l : LaneReg) : Nat := modBits l.mod 9 8
def LaneReg.sat (l : LaneReg) : Bool := modBits l.mod 7 7 == 1
def LaneReg.low (l : LaneReg) : Nat := modBits l.mod 6 0
/-- The source type field of the conversions (R154). -/
def LaneReg.st (l : LaneReg) : Nat := modBits l.mod 6 3
/-- The W / EI field of the conversions (R154). -/
def LaneReg.wei (l : LaneReg) : Nat := modBits l.mod 2 0

/-! The memory MOD of R91. -/

def LaneReg.size (l : LaneReg) : Nat := modBits l.mod 13 11
def LaneReg.space (l : LaneReg) : Nat := modBits l.mod 10 9
def LaneReg.scope (l : LaneReg) : Nat := modBits l.mod 8 6
def LaneReg.order (l : LaneReg) : Nat := modBits l.mod 5 3
def LaneReg.amode (l : LaneReg) : Nat := modBits l.mod 2 0

def intTy (t : Nat) : Bool := 5 ≤ t && t ≤ 10
def floatTy (t : Nat) : Bool := t ≤ 2
/-- The element width of a type code 0 to 10 (R56, R58). -/
def tyWidth (t : Nat) : Nat :=
  if t == 0 || t == 7 || t == 10 then 32 else if t == 1 || t == 2 || t == 6 || t == 9 then 16 else 8

/-- Integer operations of R143: type 5 to 10, RM zero, low bits zero. -/
def LaneReg.intOk (l : LaneReg) (satOk : Bool) : Bool :=
  intTy l.ty && l.rm == 0 && (satOk || !l.sat) && l.low == 0

/-- Float operations of R149 to R153. -/
def LaneReg.floatOk (l : LaneReg) (rmOk satOk : Bool) : Bool :=
  floatTy l.ty && (rmOk || l.rm == 0) && (satOk || !l.sat) && l.low == 0

/-- Immediate forms of groups 0x1 to 0x3 (R89): D is V, A is V or U, B is unused. -/
def LaneImm.ok (l : LaneImm) (d a b : Opnd → Bool) : Bool :=
  let f := l.hdr.fe
  d l.d && a l.a && b l.b && !f.getLsbD 1 && !f.getLsbD 0 &&
  (!f.getLsbD 4 || l.d.isV) && (!f.getLsbD 3 || l.a.isV) && (!f.getLsbD 2 || l.b.isV)

def LaneImm.arith (l : LaneImm) : Bool :=
  l.hdr.rh == 0#2 && l.ok Opnd.isV Opnd.isVU Opnd.isNone

/-- Register, pair or quad as SIZE says (R88, R204). -/
def Opnd.grp (size : Nat) (o : Opnd) : Bool :=
  if size == 5 then o.isPair else if size == 6 then o.isQuad else o.isV

/-- The memory MOD's own limits and the SCOPE and RH rules of R204. -/
def LaneReg.memOk (l : LaneReg) (orders : List Nat) (anyScope : Bool) : Bool :=
  l.size ≤ 6 && l.scope ≤ 4 && l.amode ≤ 5 && orders.contains l.order &&
  (anyScope || l.order != 0 || l.scope == 0) && (l.hdr.rh == 0#2 || l.space == 0)

/-- The address slots of a memory form: A is `x`, B is V, a pair under AMODE 5 (R91, R107). -/
def LaneReg.addrOk (l : LaneReg) : Bool :=
  l.a.isX && (if l.amode == 5 then l.b.isPair else l.b.isV)

/-- Group 0xA forms hold RH, FE and, but for `AREAD`, MOD [9:7] zero (R270). -/
def LaneReg.mtxOk (l : LaneReg) (d a b c : Opnd → Bool) : Bool :=
  l.hdr.fe == 0#5 && l.shapeN d a b c Opnd.isNone

/-- The index of an accumulator or vector operand. -/
def Opnd.idx : Opnd → Nat
  | .v n => n.toNat | .a n => n.toNat | .x n => n.toNat | .sp n => n.toNat | .p n => n.toNat | .k n => n.toNat | .none => 0

/-- The register count n = 16(c + 1) of R270. -/
def LaneReg.accCount (l : LaneReg) : Nat := 16 * (modBits l.mod 6 3 + 1)

/-- The accumulators named from `o` upward do not pass `a255` (R270). -/
def accRange (o : Opnd) (n : Nat) : Bool := o.isAcc && o.idx + n ≤ 256

/-- DT or ST of `AREAD` and `AWRITE`: 11 needs c odd and a width code 0 to 6, the others hold zero there (R270). -/
def LaneReg.accTy (l : LaneReg) : Bool :=
  (floatTy l.ty && l.wei == 0) || (l.ty == 11 && modBits l.mod 3 3 == 1 && l.wei ≤ 6)

/-- Group 0xC: no guard, E unused, SCOPE a code 0 to 4, unused MOD bits zero (R355, R357). -/
def LaneReg.fabOk (l : LaneReg) (d a b c : Opnd → Bool) (mask : Nat) : Bool :=
  l.hdr.noGuard && l.shape d a b c Opnd.isNone && l.mod.toNat &&& (16383 - mask) == 0 && modBits l.mod 8 6 ≤ 4

/-- MOD [13:10] TYPE, [9:8] RM, [6:4] RED, [3] T of a copy (R282). -/
def copyModOk (m : BitVec 14) : Bool :=
  let ty := modBits m 13 10; let red := modBits m 6 4
  (floatTy ty || intTy ty) && modBits m 7 7 == 0 && red ≤ 5 && modBits m 2 0 == 0 &&
  (modBits m 9 8 == 0 || (red == 1 && floatTy ty))

/-- The CSR numbers assigned by R83 and by the owning chapters. -/
def csrAssigned (n : Nat) : Bool :=
  n ≤ 6 || (0x10 ≤ n && n ≤ 0x1B) || (0x20 ≤ n && n ≤ 0x23) || (0x30 ≤ n && n ≤ 0x34) ||
  n == 0x40 || n == 0x41 || n == 0x50 || n == 0x60 || (0x70 ≤ n && n ≤ 0x73) || n == 0x200

open Opnd in
/-- Check 1 of R94 on a decoded instruction. Events carry no encoding. -/
def Instr.wf : Instr → Bool
  | .loop _ _ off => off != 0#16
  | .lgo r _ => r.toNat ≤ 60
  | .scsrr n _ => csrAssigned n.toNat
  | .scsrw n _ => csrAssigned n.toNat
  | .sst sz _ _ _ => sz != .i8 && sz != .i16 && sz != .i32
  | .sstPad sz _ _ _ => sz != .i8 && sz != .i16 && sz != .i32
  | .sperf which _ => which.toNat ≤ 8
  | .lnop l => l.shapeN isNone isNone isNone isNone isNone && l.mod == 0#14
  | .lbr l => l.hdr.rh == 0#2 && l.hdr.fe == 0#5
  | .ljoin l => l.shapeN isNone isNone isNone isNone isNone && l.mod == 0#14
  | .lstop l => l.hdr.noGuard && l.shapeN isNone isNone isNone isNone isNone && l.mod == 0#14
  | .iadd l => l.shapeN isV isVU isVU isNone isNone && l.intOk true
  | .iaddImm l => l.arith
  | .isub l => l.shapeN isV isVU isVU isNone isNone && l.intOk true
  | .imul l => l.shapeN isV isVU isVU isNone isNone && l.intOk true
  | .imulImm l => l.arith
  | .imulh l => l.shapeN isV isVU isVU isNone isNone && l.intOk false
  | .imad l => l.shapeN isV isVU isVU isVU isNone && l.intOk true
  | .imin l => l.shapeN isV isVU isVU isNone isNone && l.intOk false
  | .iminImm l => l.arith
  | .imax l => l.shapeN isV isVU isVU isNone isNone && l.intOk false
  | .imaxImm l => l.arith
  | .iabs l => l.shapeN isV isVU isNone isNone isNone && l.intOk true && l.ty ≤ 7
  | .icmp l => l.shapeN isVP isVU isVU isNone isNone && intTy l.ty && l.rm == 0 && !l.sat && l.low ≤ 5 &&
      (!l.d.isP || l.ty == 7 || l.ty == 10)
  | .land l => l.shapeN isV isVU isVU isNone isNone && l.mod == 0#14
  | .landImm l => l.arith
  | .lor l => l.shapeN isV isVU isVU isNone isNone && l.mod == 0#14
  | .lorImm l => l.arith
  | .lxor l => l.shapeN isV isVU isVU isNone isNone && l.mod == 0#14
  | .lxorImm l => l.arith
  | .lshl l => l.shapeN isV isVU isVU isNone isNone && l.intOk false
  | .lshlImm l => l.arith
  | .lshr l => l.shapeN isV isVU isVU isNone isNone && l.intOk false
  | .lshrImm l => l.arith
  | .lsra l => l.shapeN isV isVU isVU isNone isNone && l.intOk false
  | .lsraImm l => l.arith
  | .popc l => l.shapeN isV isVU isNone isNone isNone && l.intOk false
  | .clz l => l.shapeN isV isVU isNone isNone isNone && l.intOk false
  | .brev l => l.shapeN isV isVU isNone isNone isNone && l.intOk false
  | .bfe l => l.shapeN isV isVU isVU isVU isNone && l.intOk false && (l.ty == 7 || l.ty == 10)
  | .bfi l => l.shapeN isV isVU isVU isVU isVU && l.mod == 0#14
  | .fadd l => l.shapeN isV isVU isVU isNone isNone && l.floatOk true true
  | .faddImm l => l.arith
  | .fsub l => l.shapeN isV isVU isVU isNone isNone && l.floatOk true true
  | .fmul l => l.shapeN isV isVU isVU isNone isNone && l.floatOk true true
  | .fmulImm l => l.arith
  | .ffma l => l.shapeN isV isVU isVU isVU isNone && l.floatOk true true
  | .fmin l => l.shapeN isV isVU isVU isNone isNone && l.floatOk false false
  | .fminImm l => l.arith
  | .fmax l => l.shapeN isV isVU isVU isNone isNone && l.floatOk false false
  | .fmaxImm l => l.arith
  | .fcmp l => l.shapeN isVP isVU isVU isNone isNone && floatTy l.ty && l.rm == 0 && !l.sat && l.low ≤ 13 &&
      (!l.d.isP || l.ty == 0)
  | .fclass l => l.shapeN isV isVU isNone isNone isNone && l.floatOk false false
  | .frnd l => l.shapeN isV isVU isNone isNone isNone && l.floatOk true false
  | .rcp l => l.shapeN isV isVU isNone isNone isNone && l.floatOk false false
  | .rsq l => l.shapeN isV isVU isNone isNone isNone && l.floatOk false false
  | .sqrt l => l.shapeN isV isVU isNone isNone isNone && l.floatOk true false
  | .exp2 l => l.shapeN isV isVU isNone isNone isNone && l.floatOk false false
  | .log2 l => l.shapeN isV isVU isNone isNone isNone && l.floatOk false false
  | .sin l => l.shapeN isV isVU isNone isNone isNone && l.floatOk false false
  | .cos l => l.shapeN isV isVU isNone isNone isNone && l.floatOk false false
  | .tanh l => l.shapeN isV isVU isNone isNone isNone && l.floatOk false false
  | .cvt l => l.shapeN isV isVU isNone isNone isNone && l.ty ≤ 10 && l.st ≤ 10 && l.wei == 0
  | .pack l => l.ty ≤ 10 && tyWidth l.ty ≤ 16 && l.st ≤ 10 && l.wei == 0 &&
      (if tyWidth l.ty == 16 then l.shapeN isV isVU isVU isNone isNone else l.shapeN isV isVU isVU isVU isVU)
  | .unpack l => l.shapeN isV isVU isNone isNone isNone && l.ty ≤ 10 && l.st ≤ 10 && tyWidth l.st ≤ 16 &&
      l.wei < 32 / tyWidth l.st
  | .bfpq l => l.shapeN isV isVU isNone isNone isNone && l.ty == 11 && l.wei ≤ 6 && !l.sat && floatTy l.st
  | .bfpd l => l.shapeN isV isVU isNone isNone isNone && floatTy l.ty && l.st == 11 && l.wei ≤ 6
  | .mov l => l.mod == 0#14 && (l.shapeN isV isVU isNone isNone isNone || l.shapeN isV isP isNone isNone isNone ||
      l.shapeN isV isK isNone isNone isNone || l.shapeN isP isVU isNone isNone isNone ||
      l.shapeN isP isP isNone isNone isNone || l.shapeN isK isVU isNone isNone isNone ||
      l.shapeN isK isK isNone isNone isNone)
  | .movi l => l.hdr.rh == 0#2 && l.ok (fun o => o.isV || o.isP || o.isK) isNone isNone
  | .sel l => l.shapeN isV isVU isVU isP isNone && l.mod == 0#14
  | .plop l => l.shapeN isP isP isP isNone isNone && modBits l.mod 13 4 == 0
  | .setvb l => l.shapeN isNone isX isNone isNone isNone && l.mod == 0#14
  | .sprd l => l.shapeN isV isNone isNone isNone isNone && modBits l.mod 13 7 == 0 && l.low ≤ 7
  | .shfl l => l.shapeN isV isV isVU isNone isNone && modBits l.mod 13 5 == 0 &&
      1 ≤ modBits l.mod 4 2 && modBits l.mod 4 2 ≤ 5
  | .vote l => l.mod.toNat &&& 0x3FBC == 0 &&
      (if modBits l.mod 6 6 == 1 then l.shapeN isNone (fun o => o.isVU || o.isP) isNone isNone isNone
       else l.shapeN isVP (fun o => o.isVU || o.isP) isNone isNone isNone &&
         (!l.d.isP || modBits l.mod 1 0 != 2))
  | .red l => (l.ty == 0 || l.ty == 7 || l.ty == 10) && modBits l.mod 5 3 == 0 && modBits l.mod 2 0 ≤ 5 &&
      (modBits l.mod 2 0 < 3 || l.ty != 0) && (l.rm == 0 || (l.ty == 0 && modBits l.mod 2 0 == 0)) &&
      (!l.sat || (l.ty != 0 && modBits l.mod 2 0 == 0)) &&
      (if modBits l.mod 6 6 == 1 then l.shapeN isNone isVU isNone isNone isNone
       else l.shapeN isV isVU isNone isNone isNone)
  | .scan l => (l.ty == 0 || l.ty == 7 || l.ty == 10) && modBits l.mod 6 4 == 0 && modBits l.mod 2 0 ≤ 5 &&
      (modBits l.mod 2 0 < 3 || l.ty != 0) && (l.rm == 0 || (l.ty == 0 && modBits l.mod 2 0 == 0)) &&
      (!l.sat || (l.ty != 0 && modBits l.mod 2 0 == 0)) && l.shapeN isV isVU isNone isNone isNone
  | .compress l => l.shapeN isV isVU (orNone isV) isNone isNone && modBits l.mod 13 1 == 0
  | .expand l => l.shapeN isV isVU (orNone isV) isNone isNone && modBits l.mod 13 1 == 0
  | .fusedef l => l.hdr.noGuard && l.shapeN isNone isNone isNone isNone isNone && modBits l.mod 13 10 == 0
  | .fuse l => l.shapeN isV (orNone isVU) (orNone isVU) (orNone isVU) (orNone isVU) && modBits l.mod 13 6 == 0
  | .ld l => l.shape (grp l.size) isX isV isNone isNone && l.addrOk && l.memOk [0, 1, 4] false
  | .st l => l.shape isNone isX isV (grp l.size) isNone && l.addrOk && l.memOk [0, 2, 4] false
  | .lda l => l.shape (grp l.size) isX isV isK isNone && l.addrOk && l.memOk [0, 1] false
  | .waitk l => l.hdr.noGuard && l.hdr.fe == 0#5 && l.ok isNone isK isNone && l.imm.toNat < 65536
  | .ldmc l => l.shape (grp l.size) isX isV (orNone isK) isU && l.addrOk && l.memOk [0] false && l.space == 0
  | .pref l => l.shape isNone isX isV isNone isNone && l.addrOk && l.memOk [0] false && l.size == 4 && l.space == 0
  | .cread l => l.shape isPair isX isNone (orNone isK) isNone && l.memOk [0, 1] false && l.size == 5 &&
      l.space == 0 && l.amode == 0
  | .cstore l => l.shape isP isX isV isQuad isV && l.memOk [0, 2, 3, 4] true && l.size == 6 && l.space == 0 &&
      l.amode ≤ 3
  | .atom op l => l.shape (orNone (if l.size == 5 then isPair else isV)) isX isV
        (if l.size == 5 then isPair else isVU)
        (if op == .cas then (if l.size == 5 then isPair else isVU) else isNone) &&
      l.addrOk && l.memOk [0, 1, 2, 3, 4] true && l.size ≤ 5
  | .fence l => l.hdr.noGuard && l.hdr.fe == 0#5 && l.shape isNone isNone isNone isNone isNone &&
      l.memOk [1, 2, 3, 4] true && l.size == 0 && l.space == 0 && l.amode == 0
  | .qfence l => l.hdr.noGuard && l.hdr.fe == 0#5 && l.ok isNone isNone isNone && l.imm.toNat < 16 && l.imm != 0#32
  | .wload l => l.hdr.noGuard && l.mtxOk isNone isX isNone isNone && l.ty == 11 && modBits l.mod 9 5 == 0 && l.wei ≤ 6
  | .mma l => l.mtxOk isAcc isV isX isX && l.ty == 11 && modBits l.mod 9 6 == 0 && l.wei ≤ 6 &&
      accRange l.d (64 * (modBits l.mod 5 4 + 1))
  | .azero l => l.mtxOk isAcc isNone isNone isNone && l.ty == 0 && modBits l.mod 9 7 == 0 && l.wei == 0 &&
      accRange l.d l.accCount
  | .aread l => l.mtxOk isVec isAcc isNone isNone && l.accTy && (!l.sat || l.ty != 11) && accRange l.a l.accCount
  | .awrite l => l.mtxOk isAcc isVec isNone isNone && l.accTy && modBits l.mod 9 7 == 0 && accRange l.d l.accCount
  | .cpy l => l.hdr.noGuard && l.hdr.fe == 0#5 && l.shape isNone isX isX isX (orNone isX) && copyModOk l.mod
  | .cpym l => l.hdr.noGuard && l.hdr.fe == 0#5 && l.shape isNone isX isX isX isX && copyModOk l.mod &&
      modBits l.mod 6 4 == 0
  | .rcf l => l.hdr.noGuard && l.shape isNone isNone isNone isNone isNone && l.mod == 0#14
  | .rinit l => l.hdr.noGuard && l.hdr.fe == 0#5 && l.shapeN isNone isX isX isX isNone &&
      modBits l.mod 13 7 == 0 && modBits l.mod 6 4 ≤ 2
  | .rwaitFree l => l.hdr.noGuard && l.hdr.fe == 0#5 && l.shapeN (orNone isV) isX isX isNone isNone && l.mod == 0#14
  | .rwaitFilled l => l.hdr.noGuard && l.hdr.fe == 0#5 && l.shapeN (orNone isV) isX isNone isNone isNone && l.mod == 0#14
  | .rrel l => l.hdr.noGuard && l.hdr.fe == 0#5 && l.shapeN isNone isX isVU isNone isNone && l.mod == 0#14
  | .bpost l => l.fabOk (orNone isV) isX isX isX 0x400
  | .bsend l => l.fabOk (orNone isV) isX isX isX 0x31C0
  | .amsend l => l.fabOk (orNone isV) isX isX isX 0x1C0
  | .stopen l => l.fabOk isQuad isNone isQuad isNone 0
  | .stsend l => l.fabOk (orNone isV) isH isX isX 0x9E0
  | .strecv l => l.fabOk isPair isH isX (orNone isX) 0x9E0
  | .stxfer l => l.fabOk (orNone isV) isH isH isNone 0x1C0
  | .stadopt l => l.fabOk isQuad isH isNone isNone 0x9C0
  | .stbind l => l.fabOk (orNone isV) isH isX isX 0
  | .stclose l => l.fabOk (orNone isV) isH isNone isNone 0
  | .stquery l => l.fabOk isPair isH isNone isNone 0x3F && modBits l.mod 5 0 ≤ 2
  | .sadd .. | .ssub .. | .smul .. | .smulh .. | .sdiv .. | .srem .. | .sand .. | .sor .. | .sxor ..
  | .sshl .. | .sshr .. | .ssra .. | .smin .. | .smax .. | .smulhU .. | .sdivU .. | .sremU .. | .sminU ..
  | .smaxU .. | .scmp .. | .saddi .. | .smuli .. | .sandi .. | .sori .. | .sxori .. | .sshli .. | .sshri ..
  | .ssrai .. | .smini .. | .smaxi .. | .scmpi .. | .slui .. | .sld .. | .sldPad .. | .samo .. | .sbr ..
  | .sj .. | .sjal .. | .sjr .. | .larg .. | .lwait | .spop .. | .sbar .. | .sbarC | .slaunch .. | .strig
  | .snop | .strap .. | .seret | .syield | .ssleep .. | .shalt | .stime .. | .lbrk | .fabricOpComplete ..
  | .laneBlockStart .. | .lgoUnstall .. | .laneResultWrite .. | .scalarResultFill .. | .spopDone ..
  | .lwaitDone .. | .waitkDone .. | .setvbDone .. | .fenceDone .. | .qfenceDone .. | .rwaitFreeDone ..
  | .rwaitFilledDone .. | .sleepExpiry .. | .starvationPrecedence .. | .workgroupRetire ..
  | .dispatchWorkgroup .. | .deferredTrap .. | .skidStop .. | .firmwareEndWorkgroup ..
  | .parkThresholdHold .. | .contextSwitchOut .. | .contextSwitchIn .. | .walkComplete .. | .pageMapped ..
  | .pageMapRefused .. | .tlbInvalidation .. | .invalidationComplete .. | .sharedQueueArrival ..
  | .queueDeparture .. | .residencyExpired .. | .bounceNotice .. | .congestionCleared .. | .backoffExpiry ..
  | .reservationGranted .. | .grantLapse .. | .budgetRefill .. | .replayReissue .. | .requestReply ..
  | .releasePart .. | .homeAccess .. | .homeProbe .. | .hbmRefreshDue .. | .postponedRefresh ..
  | .rowThresholdReached .. | .rowCountClear .. | .weightRefreshWindow .. | .wloadStart .. | .wloadDone ..
  | .mmaStart .. | .mmaDone .. | .accumMoveDone .. | .copyStart .. | .copyBytesPerformed .. | .copyDone ..
  | .qdoorWrite .. | .qstatReset .. | .batchCommit .. | .packetStart .. | .launchBundle .. | .timedLaunch ..
  | .timedLaunchEligible .. | .copyPacket .. | .wsWritePacket .. | .barrierAndSignal ..
  | .barrierSignalWake .. | .interruptPacket .. | .registerHandlerTable .. | .placement .. | .sliceAdvance ..
  | .starvePromotion .. | .completionInterruptCount .. | .completionInterruptTimeout .. | .ptpsetWrite ..
  | .ptpadjWrite .. | .ptprateWrite .. | .ptpholdWrite .. | .ptpHoldoverExpiry | .fabricForward ..
  | .fmManagement .. | .fabricRd .. | .fabricWr .. | .fabricAtomGroup .. | .fabricCstGroup ..
  | .fabricBdata .. | .fabricBreq .. | .fabricAmsg .. | .fabricRdr .. | .fabricWack .. | .fabricAtomr ..
  | .fabricCstr .. | .fabricAmack .. | .fabricBounce .. | .fabricGrant .. | .fabricReturn ..
  | .fabricBstat .. | .fabricCong .. | .groupTimeout .. | .resendTimer .. | .replyCacheExpiry ..
  | .requestUnanswered .. | .destUnreachable .. | .congestionWithdraw .. | .tokenExpiry .. | .prioAging ..
  | .amHandlerStart .. | .streamHandlerStart .. | .sitem .. | .smoveMove .. | .smoveCtx .. | .smoveAdopt ..
  | .smovePlace .. | .smoveItems .. | .sack .. | .smack .. | .scred .. | .sloc .. | .sorph ..
  | .contextIdleTimeout .. | .contextEvictionDone .. | .contextReloadDone .. | .hostSnoop ..
  | .hostMemWrite .. | .hostMemRead .. | .functionReset .. | .functionResetComplete .. | .scrubLine ..
  | .deviceReset | .selfTestStageDone .. | .coolantFault | .openq .. | .closeq .. | .faultlog .. | .attest ..
  | .postreport .. | .retest .. | .substitute .. | .retire .. | .fwupdate .. | .frameinfo .. | .assign ..
  | .spareTrigger .. | .spareSubstitution .. | .hostPortFailover | .xunlockWrite .. | .residBWrite ..
  | .residXWrite .. | .replayqBWrite .. | .replayqXWrite .. | .rowguardBWrite .. | .rowguardXWrite ..
  | .bulkBWrite .. | .bulkXWrite .. | .ctxstoreBWrite .. | .ctxstoreXWrite .. | .powerBWrite ..
  | .powerXWrite .. | .vfbudBWrite .. | .vfbudXWrite .. | .vfscopeBWrite .. | .vfscopeXWrite ..
  | .icoalBWrite .. | .icoalXWrite .. | .arbguardBWrite .. | .arbguardXWrite .. | .parkBWrite ..
  | .parkXWrite .. | .stidleBWrite .. | .stidleXWrite .. | .registerWrite .. | .ptmRequest | .softError ..
  | .linkTrainingComplete .. | .destinationCongested .. | .frozenRecordRelease .. => true

end Sys2Proof
end

