-- ==== Sys2Proof/Decode.lean ====
section
/-! DEFINITION. Decoding, total on any word, and after it the encoder, both from the tables of R77 to R92. A scalar word is 32 bits, a lane instruction 96; both stand little-endian in memory (R75). -/

namespace Sys2Proof

/-- `len` bits of the number `w` from bit `lo` upward. -/
def fld (w lo len : Nat) : BitVec len := BitVec.ofNat len (w / 2 ^ lo)

def flag (w lo : Nat) : Bool := w / 2 ^ lo % 2 == 1

/-- R80. -/
def SCond.ofCode : Nat → Option SCond
  | 0 => some .eq | 1 => some .ne | 2 => some .lt | 3 => some .ge | 4 => some .ltu | 5 => some .geu
  | _ => none

def SCond.code : SCond → Nat
  | .eq => 0 | .ne => 1 | .lt => 2 | .ge => 3 | .ltu => 4 | .geu => 5

/-- R81. -/
def SSize.ofCode : Nat → Option SSize
  | 0 => some .n8 | 1 => some .i8 | 2 => some .n16 | 3 => some .i16 | 4 => some .n32 | 5 => some .i32 | 6 => some .b64
  | _ => none

def SSize.code : SSize → Nat
  | .n8 => 0 | .i8 => 1 | .n16 => 2 | .i16 => 3 | .n32 => 4 | .i32 => 5 | .b64 => 6

/-- R78 and R92. -/
def AmoOp.ofCode : Nat → Option AmoOp
  | 0 => some .add | 1 => some .min | 2 => some .max | 3 => some .and | 4 => some .or | 5 => some .xor
  | 6 => some .swap | 7 => some .cas
  | _ => none

def AmoOp.code : AmoOp → Nat
  | .add => 0 | .min => 1 | .max => 2 | .and => 3 | .or => 4 | .xor => 5 | .swap => 6 | .cas => 7

/-- R85. -/
def MemOrder.ofCode : Nat → Option MemOrder
  | 0 => some .rlx | 1 => some .acq | 2 => some .rel | 3 => some .acqrel | 4 => some .sc
  | _ => none

def MemOrder.code : MemOrder → Nat
  | .rlx => 0 | .acq => 1 | .rel => 2 | .acqrel => 3 | .sc => 4

/-- R85. -/
def Scope.ofCode : Nat → Option Scope
  | 0 => some .core | 1 => some .die | 2 => some .pkg | 3 => some .tenant | 4 => some .sys
  | _ => none

def Scope.code : Scope → Nat
  | .core => 0 | .die => 1 | .pkg => 2 | .tenant => 3 | .sys => 4

/-! Scalar words (R77 to R82). -/

/-- MAJ 0x01, by FN (R79). -/
def decodeInt (fn : Nat) (d a b : SReg) : Option Instr :=
  match fn with
  | 0x00 => some (.sadd d a b) | 0x01 => some (.ssub d a b) | 0x02 => some (.smul d a b)
  | 0x03 => some (.smulh d a b) | 0x04 => some (.sdiv d a b) | 0x05 => some (.srem d a b)
  | 0x06 => some (.sand d a b) | 0x07 => some (.sor d a b) | 0x08 => some (.sxor d a b)
  | 0x09 => some (.sshl d a b) | 0x0A => some (.sshr d a b) | 0x0B => some (.ssra d a b)
  | 0x0C => some (.smin d a b) | 0x0D => some (.smax d a b)
  | 0x13 => some (.smulhU d a b) | 0x14 => some (.sdivU d a b) | 0x15 => some (.sremU d a b)
  | 0x1C => some (.sminU d a b) | 0x1D => some (.smaxU d a b)
  | n => if n / 8 == 4 then (SCond.ofCode (n % 8)).map fun cc => .scmp cc d a b else none

/-- MAJ 0x3F, by FN (R82). -/
def decodeSys (fn w : Nat) : Option Instr :=
  let num := fld w 14 12; let r := fld w 8 6
  match fn with
  | 0x00 => some .snop | 0x01 => some (.scsrr num r) | 0x02 => some (.scsrw num r) | 0x03 => some (.strap num)
  | 0x04 => some .seret | 0x05 => some .syield | 0x06 => some (.ssleep r) | 0x07 => some .shalt
  | 0x08 => some (.sperf num r) | 0x09 => some (.stime r) | 0x0A => some .lbrk
  | _ => none

/-- The fields of a scalar word by its major opcode (R78), unused fields not yet looked at. -/
def rawScalar (w : Nat) : Option Instr :=
  let d := fld w 20 6; let a := fld w 14 6; let b := fld w 8 6; let fn := w % 256
  let i14 := fld w 0 14; let n6 := fld w 0 6; let o11 := fld w 0 11; let i20 := fld w 0 20
  match w / 2 ^ 26 with
  | 0x01 => decodeInt fn d a b
  | 0x02 => some (.saddi d a i14) | 0x03 => some (.smuli d a i14) | 0x04 => some (.sandi d a i14)
  | 0x05 => some (.sori d a i14) | 0x06 => some (.sxori d a i14)
  | 0x07 => some (.sshli d a n6) | 0x08 => some (.sshri d a n6) | 0x09 => some (.ssrai d a n6)
  | 0x0A => some (.smini d a i14) | 0x0B => some (.smaxi d a i14)
  | 0x0C => (SCond.ofCode (w / 2 ^ 11 % 8)).map fun cc => .scmpi cc d a o11
  | 0x0D => some (.slui d i20)
  | 0x10 => (SSize.ofCode (w / 2 ^ 11 % 8)).map fun sz => .sld sz d a o11
  | 0x11 => (SSize.ofCode (w / 2 ^ 11 % 8)).map fun sz => .sldPad sz d a o11
  | 0x12 => (SSize.ofCode (w / 2 ^ 11 % 8)).map fun sz => .sst sz d a o11
  | 0x13 => (SSize.ofCode (w / 2 ^ 11 % 8)).map fun sz => .sstPad sz d a o11
  | 0x14 => do
    let op ← AmoOp.ofCode (w / 2 ^ 5 % 8)
    let ord ← MemOrder.ofCode (w / 2 % 8)
    return .samo op (flag w 4) ord (flag w 0) d a b
  | 0x18 => (SCond.ofCode (w / 2 ^ 23 % 8)).map fun cc => .sbr cc (fld w 17 6) (fld w 11 6) o11
  | 0x19 => some (.sj (fld w 0 26)) | 0x1A => some (.sjal d i20) | 0x1B => some (.sjr d a i14)
  | 0x1C => some (.loop d (flag w 16) (fld w 0 16))
  | 0x20 => some (.lgo d i20)
  | 0x21 => match fn with
    | 0x00 => some (.larg (fld w 20 2) a) | 0x01 => some .lwait | 0x02 => some (.spop d) | _ => none
  | 0x22 => match fn with
    | 0x00 => some (.sbar (fld w 20 4)) | 0x01 => some .sbarC | 0x02 => some (.slaunch d a) | 0x03 => some .strig
    | _ => none
  | 0x3F => decodeSys fn w
  | _ => none

/-- Format SR (R77). -/
def encSR (maj : Nat) (d a b : SReg) (fn : Nat) : Nat :=
  maj * 2 ^ 26 + d.toNat * 2 ^ 20 + a.toNat * 2 ^ 14 + b.toNat * 2 ^ 8 + fn
/-- Format SI (R77). -/
def encSI (maj : Nat) (d a : SReg) (imm : Nat) : Nat := maj * 2 ^ 26 + d.toNat * 2 ^ 20 + a.toNat * 2 ^ 14 + imm
/-- Format SX (R77). -/
def encSX (num : BitVec 12) (r : SReg) (fn : Nat) : Nat := 0x3F * 2 ^ 26 + num.toNat * 2 ^ 14 + r.toNat * 2 ^ 8 + fn
/-- imm14 with a code in [13:11] and an 11-bit field below (R78). -/
def imm311 (code : Nat) (o : BitVec 11) : Nat := code * 2 ^ 11 + o.toNat

/-- The word of a scalar instruction; `none` for lane instructions and events. -/
def encodeScalar : Instr → Option Nat
  | .sadd d a b => some (encSR 1 d a b 0x00) | .ssub d a b => some (encSR 1 d a b 0x01)
  | .smul d a b => some (encSR 1 d a b 0x02) | .smulh d a b => some (encSR 1 d a b 0x03)
  | .sdiv d a b => some (encSR 1 d a b 0x04) | .srem d a b => some (encSR 1 d a b 0x05)
  | .sand d a b => some (encSR 1 d a b 0x06) | .sor d a b => some (encSR 1 d a b 0x07)
  | .sxor d a b => some (encSR 1 d a b 0x08) | .sshl d a b => some (encSR 1 d a b 0x09)
  | .sshr d a b => some (encSR 1 d a b 0x0A) | .ssra d a b => some (encSR 1 d a b 0x0B)
  | .smin d a b => some (encSR 1 d a b 0x0C) | .smax d a b => some (encSR 1 d a b 0x0D)
  | .smulhU d a b => some (encSR 1 d a b 0x13) | .sdivU d a b => some (encSR 1 d a b 0x14)
  | .sremU d a b => some (encSR 1 d a b 0x15) | .sminU d a b => some (encSR 1 d a b 0x1C)
  | .smaxU d a b => some (encSR 1 d a b 0x1D) | .scmp cc d a b => some (encSR 1 d a b (0x20 + cc.code))
  | .saddi d a i => some (encSI 2 d a i.toNat) | .smuli d a i => some (encSI 3 d a i.toNat)
  | .sandi d a i => some (encSI 4 d a i.toNat) | .sori d a i => some (encSI 5 d a i.toNat)
  | .sxori d a i => some (encSI 6 d a i.toNat) | .sshli d a n => some (encSI 7 d a n.toNat)
  | .sshri d a n => some (encSI 8 d a n.toNat) | .ssrai d a n => some (encSI 9 d a n.toNat)
  | .smini d a i => some (encSI 10 d a i.toNat) | .smaxi d a i => some (encSI 11 d a i.toNat)
  | .scmpi cc d a o => some (encSI 12 d a (imm311 cc.code o)) | .slui d i => some (0x0D * 2 ^ 26 + d.toNat * 2 ^ 20 + i.toNat)
  | .sld sz d a o => some (encSI 0x10 d a (imm311 sz.code o)) | .sldPad sz d a o => some (encSI 0x11 d a (imm311 sz.code o))
  | .sst sz d a o => some (encSI 0x12 d a (imm311 sz.code o)) | .sstPad sz d a o => some (encSI 0x13 d a (imm311 sz.code o))
  | .samo op wide ord sys d a b =>
    some (encSR 0x14 d a b (op.code * 2 ^ 5 + wide.toNat * 2 ^ 4 + ord.code * 2 + sys.toNat))
  | .sbr cc a b o =>
    some (0x18 * 2 ^ 26 + cc.code * 2 ^ 23 + a.toNat * 2 ^ 17 + b.toNat * 2 ^ 11 + o.toNat)
  | .sj o => some (0x19 * 2 ^ 26 + o.toNat) | .sjal d o => some (0x1A * 2 ^ 26 + d.toNat * 2 ^ 20 + o.toNat)
  | .sjr d a i => some (encSI 0x1B d a i.toNat)
  | .loop r c64 o => some (0x1C * 2 ^ 26 + r.toNat * 2 ^ 20 + c64.toNat * 2 ^ 16 + o.toNat)
  | .lgo r n => some (0x20 * 2 ^ 26 + r.toNat * 2 ^ 20 + n.toNat)
  | .larg n r => some (0x21 * 2 ^ 26 + n.toNat * 2 ^ 20 + r.toNat * 2 ^ 14) | .lwait => some (0x21 * 2 ^ 26 + 1)
  | .spop d => some (0x21 * 2 ^ 26 + d.toNat * 2 ^ 20 + 2) | .sbar n => some (0x22 * 2 ^ 26 + n.toNat * 2 ^ 20)
  | .sbarC => some (0x22 * 2 ^ 26 + 1) | .slaunch d r => some (encSR 0x22 d r 0 2) | .strig => some (0x22 * 2 ^ 26 + 3)
  | .snop => some (encSX 0 0 0) | .scsrr n r => some (encSX n r 1) | .scsrw n r => some (encSX n r 2)
  | .strap n => some (encSX n 0 3) | .seret => some (encSX 0 0 4) | .syield => some (encSX 0 0 5)
  | .ssleep r => some (encSX 0 r 6) | .shalt => some (encSX 0 0 7) | .sperf n r => some (encSX n r 8)
  | .stime r => some (encSX 0 r 9) | .lbrk => some (encSX 0 0 0x0A)
  | .lnop .. | .lbr .. | .ljoin .. | .lstop .. | .iadd .. | .iaddImm .. | .isub .. | .imul .. | .imulImm ..
  | .imulh .. | .imad .. | .imin .. | .iminImm .. | .imax .. | .imaxImm .. | .iabs .. | .icmp .. | .land ..
  | .landImm .. | .lor .. | .lorImm .. | .lxor .. | .lxorImm .. | .lshl .. | .lshlImm .. | .lshr ..
  | .lshrImm .. | .lsra .. | .lsraImm .. | .popc .. | .clz .. | .brev .. | .bfe .. | .bfi .. | .fadd ..
  | .faddImm .. | .fsub .. | .fmul .. | .fmulImm .. | .ffma .. | .fmin .. | .fminImm .. | .fmax ..
  | .fmaxImm .. | .fcmp .. | .fclass .. | .frnd .. | .rcp .. | .rsq .. | .sqrt .. | .exp2 .. | .log2 ..
  | .sin .. | .cos .. | .tanh .. | .cvt .. | .pack .. | .unpack .. | .bfpq .. | .bfpd .. | .mov .. | .movi ..
  | .sel .. | .plop .. | .setvb .. | .sprd .. | .shfl .. | .vote .. | .red .. | .scan .. | .compress ..
  | .expand .. | .fusedef .. | .fuse .. | .ld .. | .st .. | .lda .. | .waitk .. | .ldmc .. | .pref ..
  | .cread .. | .cstore .. | .atom .. | .fence .. | .qfence .. | .wload .. | .mma .. | .azero .. | .aread ..
  | .awrite .. | .cpy .. | .cpym .. | .rcf .. | .rinit .. | .rwaitFree .. | .rwaitFilled .. | .rrel ..
  | .bpost .. | .bsend .. | .amsend .. | .stopen .. | .stsend .. | .strecv .. | .stxfer .. | .stadopt ..
  | .stbind .. | .stclose .. | .stquery .. | .fabricOpComplete .. | .laneBlockStart .. | .lgoUnstall ..
  | .laneResultWrite .. | .scalarResultFill .. | .spopDone .. | .lwaitDone .. | .waitkDone .. | .setvbDone ..
  | .fenceDone .. | .qfenceDone .. | .rwaitFreeDone .. | .rwaitFilledDone .. | .sleepExpiry ..
  | .starvationPrecedence .. | .workgroupRetire .. | .dispatchWorkgroup .. | .deferredTrap .. | .skidStop ..
  | .firmwareEndWorkgroup .. | .parkThresholdHold .. | .contextSwitchOut .. | .contextSwitchIn ..
  | .walkComplete .. | .pageMapped .. | .pageMapRefused .. | .tlbInvalidation .. | .invalidationComplete ..
  | .sharedQueueArrival .. | .queueDeparture .. | .residencyExpired .. | .bounceNotice ..
  | .congestionCleared .. | .backoffExpiry .. | .reservationGranted .. | .grantLapse .. | .budgetRefill ..
  | .replayReissue .. | .requestReply .. | .releasePart .. | .homeAccess .. | .homeProbe ..
  | .hbmRefreshDue .. | .postponedRefresh .. | .rowThresholdReached .. | .rowCountClear ..
  | .weightRefreshWindow .. | .wloadStart .. | .wloadDone .. | .mmaStart .. | .mmaDone .. | .accumMoveDone ..
  | .copyStart .. | .copyBytesPerformed .. | .copyDone .. | .qdoorWrite .. | .qstatReset .. | .batchCommit ..
  | .packetStart .. | .launchBundle .. | .timedLaunch .. | .timedLaunchEligible .. | .copyPacket ..
  | .wsWritePacket .. | .barrierAndSignal .. | .barrierSignalWake .. | .interruptPacket ..
  | .registerHandlerTable .. | .placement .. | .sliceAdvance .. | .starvePromotion ..
  | .completionInterruptCount .. | .completionInterruptTimeout .. | .ptpsetWrite .. | .ptpadjWrite ..
  | .ptprateWrite .. | .ptpholdWrite .. | .ptpHoldoverExpiry | .fabricForward .. | .fmManagement ..
  | .fabricRd .. | .fabricWr .. | .fabricAtomGroup .. | .fabricCstGroup .. | .fabricBdata .. | .fabricBreq ..
  | .fabricAmsg .. | .fabricRdr .. | .fabricWack .. | .fabricAtomr .. | .fabricCstr .. | .fabricAmack ..
  | .fabricBounce .. | .fabricGrant .. | .fabricReturn .. | .fabricBstat .. | .fabricCong ..
  | .groupTimeout .. | .resendTimer .. | .replyCacheExpiry .. | .requestUnanswered .. | .destUnreachable ..
  | .congestionWithdraw .. | .tokenExpiry .. | .prioAging .. | .amHandlerStart .. | .streamHandlerStart ..
  | .sitem .. | .smoveMove .. | .smoveCtx .. | .smoveAdopt .. | .smovePlace .. | .smoveItems .. | .sack ..
  | .smack .. | .scred .. | .sloc .. | .sorph .. | .contextIdleTimeout .. | .contextEvictionDone ..
  | .contextReloadDone .. | .hostSnoop .. | .hostMemWrite .. | .hostMemRead .. | .functionReset ..
  | .functionResetComplete .. | .scrubLine .. | .deviceReset | .selfTestStageDone .. | .coolantFault
  | .openq .. | .closeq .. | .faultlog .. | .attest .. | .postreport .. | .retest .. | .substitute ..
  | .retire .. | .fwupdate .. | .frameinfo .. | .assign .. | .spareTrigger .. | .spareSubstitution ..
  | .hostPortFailover | .xunlockWrite .. | .residBWrite .. | .residXWrite .. | .replayqBWrite ..
  | .replayqXWrite .. | .rowguardBWrite .. | .rowguardXWrite .. | .bulkBWrite .. | .bulkXWrite ..
  | .ctxstoreBWrite .. | .ctxstoreXWrite .. | .powerBWrite .. | .powerXWrite .. | .vfbudBWrite ..
  | .vfbudXWrite .. | .vfscopeBWrite .. | .vfscopeXWrite .. | .icoalBWrite .. | .icoalXWrite ..
  | .arbguardBWrite .. | .arbguardXWrite .. | .parkBWrite .. | .parkXWrite .. | .stidleBWrite ..
  | .stidleXWrite .. | .registerWrite .. | .ptmRequest | .softError .. | .linkTrainingComplete ..
  | .destinationCongested .. | .frozenRecordRelease .. => none

/-- The instruction of a 32-bit scalar word. A field the format does not use holds zero (R77): the word must be the one the encoder gives, and the instruction well-formed. -/
def decodeScalar (w : Nat) : Option Instr :=
  match rawScalar w with
  | some i => if i.wf && encodeScalar i == some w then some i else none
  | none => none

/-! Lane instructions (R84 to R92). -/

/-- An operand specifier (R86); class 10 above 23 and class 11 from 32 to 254 name nothing. -/
def Opnd.ofSpec (w : Nat) : Option Opnd :=
  let n := w % 256
  match w / 256 % 4 with
  | 0 => some (.v (BitVec.ofNat 8 n))
  | 1 => some (.a (BitVec.ofNat 8 n))
  | 2 => if n < 8 then some (.x (BitVec.ofNat 3 n)) else if n < 24 then some (.sp (BitVec.ofNat 4 (n - 8))) else Option.none
  | _ => if n < 16 then some (.p (BitVec.ofNat 4 n)) else if n < 32 then some (.k (BitVec.ofNat 4 (n - 16)))
         else if n == 255 then some .none else Option.none

def Opnd.spec : Opnd → Nat
  | .v n => n.toNat | .a n => 256 + n.toNat | .x n => 512 + n.toNat | .sp n => 520 + n.toNat
  | .p n => 768 + n.toNat | .k n => 784 + n.toNat | .none => 1023

def guardAt (w lo : Nat) : Guard := ⟨flag w (lo + 4), fld w lo 4⟩
def Guard.bits (g : Guard) : Nat := g.neg.toNat * 16 + g.idx.toNat

/-- Bits [85:64] of a lane instruction (R84). -/
def hdrAt (w : Nat) : LaneHdr :=
  ⟨guardAt w 81, guardAt w 76, flag w 75, fld w 73 2, flag w 72, fld w 69 3, fld w 64 5⟩

def LaneHdr.bits (h : LaneHdr) : Nat :=
  h.ga.bits * 2 ^ 81 + h.gb.bits * 2 ^ 76 + h.gc.toNat * 2 ^ 75 + h.rh.toNat * 2 ^ 73 + h.yld.toNat * 2 ^ 72 +
  h.spc.toNat * 2 ^ 69 + h.fe.toNat * 2 ^ 64

/-- The register form of a lane instruction (R84). -/
def laneReg (w : Nat) : Option LaneReg := do
  let d ← Opnd.ofSpec (w / 2 ^ 54)
  let a ← Opnd.ofSpec (w / 2 ^ 44)
  let b ← Opnd.ofSpec (w / 2 ^ 34)
  let c ← Opnd.ofSpec (w / 2 ^ 24)
  let e ← Opnd.ofSpec (w / 2 ^ 14)
  return ⟨hdrAt w, d, a, b, c, e, fld w 0 14⟩

def LaneReg.bits (l : LaneReg) : Nat :=
  l.hdr.bits + l.d.spec * 2 ^ 54 + l.a.spec * 2 ^ 44 + l.b.spec * 2 ^ 34 + l.c.spec * 2 ^ 24 + l.e.spec * 2 ^ 14 + l.mod.toNat

/-- The immediate form (R89): bits [33:32] are zero. -/
def laneImm (w : Nat) : Option LaneImm := do
  let d ← Opnd.ofSpec (w / 2 ^ 54)
  let a ← Opnd.ofSpec (w / 2 ^ 44)
  let b ← Opnd.ofSpec (w / 2 ^ 34)
  if w / 2 ^ 32 % 4 != 0 then none
  return ⟨hdrAt w, d, a, b, fld w 0 32⟩

def LaneImm.bits (l : LaneImm) : Nat :=
  l.hdr.bits + l.d.spec * 2 ^ 54 + l.a.spec * 2 ^ 44 + l.b.spec * 2 ^ 34 + l.imm.toNat

/-- `LBR` (R181): E is 0x3FF and MOD zero. -/
def laneBr (w : Nat) : Option LaneBr :=
  if w % 2 ^ 24 == 1023 * 2 ^ 14 then some ⟨hdrAt w, fld w 44 20, fld w 24 20⟩ else none

def LaneBr.bits (l : LaneBr) : Nat := l.hdr.bits + l.target.toNat * 2 ^ 44 + l.join.toNat * 2 ^ 24 + 1023 * 2 ^ 14

/-- Group 0x0 of the lane opcode map (R92). -/
def decodeGroup0 (op w : Nat) : Option Instr :=
  match op with
  | 0x00 => (laneReg w).map .lnop
  | 0x02 => (laneReg w).map .ljoin
  | 0x03 => (laneReg w).map .lstop
  | 0x01 => (laneBr w).map .lbr
  | _ => none

/-- Group 0x1 of the lane opcode map (R92). -/
def decodeGroup1 (op w : Nat) : Option Instr :=
  match op with
  | 0x00 => (laneReg w).map .iadd
  | 0x01 => (laneReg w).map .isub
  | 0x02 => (laneReg w).map .imul
  | 0x03 => (laneReg w).map .imulh
  | 0x04 => (laneReg w).map .imad
  | 0x05 => (laneReg w).map .imin
  | 0x06 => (laneReg w).map .imax
  | 0x07 => (laneReg w).map .iabs
  | 0x08 => (laneReg w).map .icmp
  | 0x20 => (laneImm w).map .iaddImm
  | 0x22 => (laneImm w).map .imulImm
  | 0x25 => (laneImm w).map .iminImm
  | 0x26 => (laneImm w).map .imaxImm
  | _ => none

/-- Group 0x2 of the lane opcode map (R92). -/
def decodeGroup2 (op w : Nat) : Option Instr :=
  match op with
  | 0x00 => (laneReg w).map .land
  | 0x01 => (laneReg w).map .lor
  | 0x02 => (laneReg w).map .lxor
  | 0x03 => (laneReg w).map .lshl
  | 0x04 => (laneReg w).map .lshr
  | 0x05 => (laneReg w).map .lsra
  | 0x06 => (laneReg w).map .popc
  | 0x07 => (laneReg w).map .clz
  | 0x08 => (laneReg w).map .brev
  | 0x09 => (laneReg w).map .bfe
  | 0x0A => (laneReg w).map .bfi
  | 0x20 => (laneImm w).map .landImm
  | 0x21 => (laneImm w).map .lorImm
  | 0x22 => (laneImm w).map .lxorImm
  | 0x23 => (laneImm w).map .lshlImm
  | 0x24 => (laneImm w).map .lshrImm
  | 0x25 => (laneImm w).map .lsraImm
  | _ => none

/-- Group 0x3 of the lane opcode map (R92). -/
def decodeGroup3 (op w : Nat) : Option Instr :=
  match op with
  | 0x00 => (laneReg w).map .fadd
  | 0x01 => (laneReg w).map .fsub
  | 0x02 => (laneReg w).map .fmul
  | 0x03 => (laneReg w).map .ffma
  | 0x04 => (laneReg w).map .fmin
  | 0x05 => (laneReg w).map .fmax
  | 0x06 => (laneReg w).map .fcmp
  | 0x07 => (laneReg w).map .fclass
  | 0x08 => (laneReg w).map .frnd
  | 0x20 => (laneImm w).map .faddImm
  | 0x22 => (laneImm w).map .fmulImm
  | 0x24 => (laneImm w).map .fminImm
  | 0x25 => (laneImm w).map .fmaxImm
  | _ => none

/-- Group 0x4 of the lane opcode map (R92). -/
def decodeGroup4 (op w : Nat) : Option Instr :=
  match op with
  | 0x00 => (laneReg w).map .rcp
  | 0x01 => (laneReg w).map .rsq
  | 0x02 => (laneReg w).map .sqrt
  | 0x03 => (laneReg w).map .exp2
  | 0x04 => (laneReg w).map .log2
  | 0x05 => (laneReg w).map .sin
  | 0x06 => (laneReg w).map .cos
  | 0x07 => (laneReg w).map .tanh
  | 0x10 => (laneReg w).map .cvt
  | 0x11 => (laneReg w).map .pack
  | 0x12 => (laneReg w).map .unpack
  | 0x13 => (laneReg w).map .bfpq
  | 0x14 => (laneReg w).map .bfpd
  | _ => none

/-- Group 0x5 of the lane opcode map (R92). -/
def decodeGroup5 (op w : Nat) : Option Instr :=
  match op with
  | 0x00 => (laneReg w).map .mov
  | 0x01 => (laneImm w).map .movi
  | 0x02 => (laneReg w).map .sel
  | 0x03 => (laneReg w).map .plop
  | 0x04 => (laneReg w).map .setvb
  | 0x05 => (laneReg w).map .sprd
  | _ => none

/-- Group 0x6 of the lane opcode map (R92). -/
def decodeGroup6 (op w : Nat) : Option Instr :=
  match op with
  | 0x00 => (laneReg w).map .shfl
  | 0x01 => (laneReg w).map .vote
  | 0x02 => (laneReg w).map .red
  | 0x03 => (laneReg w).map .scan
  | 0x04 => (laneReg w).map .compress
  | 0x05 => (laneReg w).map .expand
  | _ => none

/-- Group 0x7 of the lane opcode map (R92). -/
def decodeGroup7 (op w : Nat) : Option Instr :=
  match op with
  | 0x00 => (laneReg w).map .fusedef
  | 0x01 => (laneReg w).map .fuse
  | _ => none

/-- Group 0x8 of the lane opcode map (R92). -/
def decodeGroup8 (op w : Nat) : Option Instr :=
  match op with
  | 0x00 => (laneReg w).map .ld
  | 0x01 => (laneReg w).map .st
  | 0x02 => (laneReg w).map .lda
  | 0x03 => (laneImm w).map .waitk
  | 0x04 => (laneReg w).map .ldmc
  | 0x05 => (laneReg w).map .pref
  | 0x06 => (laneReg w).map .cread
  | 0x07 => (laneReg w).map .cstore
  | _ => none

/-- Group 0x9 of the lane opcode map (R92). -/
def decodeGroup9 (op w : Nat) : Option Instr :=
  match op with
  | 0x10 => (laneReg w).map .fence
  | 0x11 => (laneImm w).map .qfence
  | 0x00 => (laneReg w).map (.atom .add)
  | 0x01 => (laneReg w).map (.atom .min)
  | 0x02 => (laneReg w).map (.atom .max)
  | 0x03 => (laneReg w).map (.atom .and)
  | 0x04 => (laneReg w).map (.atom .or)
  | 0x05 => (laneReg w).map (.atom .xor)
  | 0x06 => (laneReg w).map (.atom .swap)
  | 0x07 => (laneReg w).map (.atom .cas)
  | _ => none

/-- Group 0xA of the lane opcode map (R92). -/
def decodeGroupA (op w : Nat) : Option Instr :=
  match op with
  | 0x00 => (laneReg w).map .wload
  | 0x01 => (laneReg w).map .mma
  | 0x02 => (laneReg w).map .azero
  | 0x03 => (laneReg w).map .aread
  | 0x04 => (laneReg w).map .awrite
  | _ => none

/-- Group 0xB of the lane opcode map (R92). -/
def decodeGroupB (op w : Nat) : Option Instr :=
  match op with
  | 0x00 => (laneReg w).map .cpy
  | 0x01 => (laneReg w).map .cpym
  | 0x02 => (laneReg w).map .rcf
  | 0x03 => (laneReg w).map .rinit
  | 0x04 => (laneReg w).map .rwaitFilled
  | 0x05 => (laneReg w).map .rwaitFree
  | 0x06 => (laneReg w).map .rrel
  | _ => none

/-- Group 0xC of the lane opcode map (R92). -/
def decodeGroupC (op w : Nat) : Option Instr :=
  match op with
  | 0x00 => (laneReg w).map .bpost
  | 0x01 => (laneReg w).map .bsend
  | 0x02 => (laneReg w).map .amsend
  | 0x08 => (laneReg w).map .stopen
  | 0x09 => (laneReg w).map .stsend
  | 0x0A => (laneReg w).map .strecv
  | 0x0B => (laneReg w).map .stxfer
  | 0x0C => (laneReg w).map .stadopt
  | 0x0D => (laneReg w).map .stbind
  | 0x0E => (laneReg w).map .stclose
  | 0x0F => (laneReg w).map .stquery
  | _ => none

/-- A 96-bit lane instruction by group and operation, its own encoding rules not yet looked at (R92). -/
def rawLane (w : Nat) : Option Instr :=
  let op := w / 2 ^ 86 % 64
  match w / 2 ^ 92 with
  | 0x0 => decodeGroup0 op w
  | 0x1 => decodeGroup1 op w
  | 0x2 => decodeGroup2 op w
  | 0x3 => decodeGroup3 op w
  | 0x4 => decodeGroup4 op w
  | 0x5 => decodeGroup5 op w
  | 0x6 => decodeGroup6 op w
  | 0x7 => decodeGroup7 op w
  | 0x8 => decodeGroup8 op w
  | 0x9 => decodeGroup9 op w
  | 0xA => decodeGroupA op w
  | 0xB => decodeGroupB op w
  | 0xC => decodeGroupC op w
  | _ => none

/-- The 96 bits of a lane instruction; `none` for scalar instructions and events. -/
def encodeLane : Instr → Option Nat
  | .lnop l => some (0x000 * 2 ^ 86 + l.bits)
  | .ljoin l => some (0x002 * 2 ^ 86 + l.bits)
  | .lstop l => some (0x003 * 2 ^ 86 + l.bits)
  | .iadd l => some (0x040 * 2 ^ 86 + l.bits)
  | .isub l => some (0x041 * 2 ^ 86 + l.bits)
  | .imul l => some (0x042 * 2 ^ 86 + l.bits)
  | .imulh l => some (0x043 * 2 ^ 86 + l.bits)
  | .imad l => some (0x044 * 2 ^ 86 + l.bits)
  | .imin l => some (0x045 * 2 ^ 86 + l.bits)
  | .imax l => some (0x046 * 2 ^ 86 + l.bits)
  | .iabs l => some (0x047 * 2 ^ 86 + l.bits)
  | .icmp l => some (0x048 * 2 ^ 86 + l.bits)
  | .iaddImm l => some (0x060 * 2 ^ 86 + l.bits)
  | .imulImm l => some (0x062 * 2 ^ 86 + l.bits)
  | .iminImm l => some (0x065 * 2 ^ 86 + l.bits)
  | .imaxImm l => some (0x066 * 2 ^ 86 + l.bits)
  | .land l => some (0x080 * 2 ^ 86 + l.bits)
  | .lor l => some (0x081 * 2 ^ 86 + l.bits)
  | .lxor l => some (0x082 * 2 ^ 86 + l.bits)
  | .lshl l => some (0x083 * 2 ^ 86 + l.bits)
  | .lshr l => some (0x084 * 2 ^ 86 + l.bits)
  | .lsra l => some (0x085 * 2 ^ 86 + l.bits)
  | .popc l => some (0x086 * 2 ^ 86 + l.bits)
  | .clz l => some (0x087 * 2 ^ 86 + l.bits)
  | .brev l => some (0x088 * 2 ^ 86 + l.bits)
  | .bfe l => some (0x089 * 2 ^ 86 + l.bits)
  | .bfi l => some (0x08A * 2 ^ 86 + l.bits)
  | .landImm l => some (0x0A0 * 2 ^ 86 + l.bits)
  | .lorImm l => some (0x0A1 * 2 ^ 86 + l.bits)
  | .lxorImm l => some (0x0A2 * 2 ^ 86 + l.bits)
  | .lshlImm l => some (0x0A3 * 2 ^ 86 + l.bits)
  | .lshrImm l => some (0x0A4 * 2 ^ 86 + l.bits)
  | .lsraImm l => some (0x0A5 * 2 ^ 86 + l.bits)
  | .fadd l => some (0x0C0 * 2 ^ 86 + l.bits)
  | .fsub l => some (0x0C1 * 2 ^ 86 + l.bits)
  | .fmul l => some (0x0C2 * 2 ^ 86 + l.bits)
  | .ffma l => some (0x0C3 * 2 ^ 86 + l.bits)
  | .fmin l => some (0x0C4 * 2 ^ 86 + l.bits)
  | .fmax l => some (0x0C5 * 2 ^ 86 + l.bits)
  | .fcmp l => some (0x0C6 * 2 ^ 86 + l.bits)
  | .fclass l => some (0x0C7 * 2 ^ 86 + l.bits)
  | .frnd l => some (0x0C8 * 2 ^ 86 + l.bits)
  | .faddImm l => some (0x0E0 * 2 ^ 86 + l.bits)
  | .fmulImm l => some (0x0E2 * 2 ^ 86 + l.bits)
  | .fminImm l => some (0x0E4 * 2 ^ 86 + l.bits)
  | .fmaxImm l => some (0x0E5 * 2 ^ 86 + l.bits)
  | .rcp l => some (0x100 * 2 ^ 86 + l.bits)
  | .rsq l => some (0x101 * 2 ^ 86 + l.bits)
  | .sqrt l => some (0x102 * 2 ^ 86 + l.bits)
  | .exp2 l => some (0x103 * 2 ^ 86 + l.bits)
  | .log2 l => some (0x104 * 2 ^ 86 + l.bits)
  | .sin l => some (0x105 * 2 ^ 86 + l.bits)
  | .cos l => some (0x106 * 2 ^ 86 + l.bits)
  | .tanh l => some (0x107 * 2 ^ 86 + l.bits)
  | .cvt l => some (0x110 * 2 ^ 86 + l.bits)
  | .pack l => some (0x111 * 2 ^ 86 + l.bits)
  | .unpack l => some (0x112 * 2 ^ 86 + l.bits)
  | .bfpq l => some (0x113 * 2 ^ 86 + l.bits)
  | .bfpd l => some (0x114 * 2 ^ 86 + l.bits)
  | .mov l => some (0x140 * 2 ^ 86 + l.bits)
  | .movi l => some (0x141 * 2 ^ 86 + l.bits)
  | .sel l => some (0x142 * 2 ^ 86 + l.bits)
  | .plop l => some (0x143 * 2 ^ 86 + l.bits)
  | .setvb l => some (0x144 * 2 ^ 86 + l.bits)
  | .sprd l => some (0x145 * 2 ^ 86 + l.bits)
  | .shfl l => some (0x180 * 2 ^ 86 + l.bits)
  | .vote l => some (0x181 * 2 ^ 86 + l.bits)
  | .red l => some (0x182 * 2 ^ 86 + l.bits)
  | .scan l => some (0x183 * 2 ^ 86 + l.bits)
  | .compress l => some (0x184 * 2 ^ 86 + l.bits)
  | .expand l => some (0x185 * 2 ^ 86 + l.bits)
  | .fusedef l => some (0x1C0 * 2 ^ 86 + l.bits)
  | .fuse l => some (0x1C1 * 2 ^ 86 + l.bits)
  | .ld l => some (0x200 * 2 ^ 86 + l.bits)
  | .st l => some (0x201 * 2 ^ 86 + l.bits)
  | .lda l => some (0x202 * 2 ^ 86 + l.bits)
  | .waitk l => some (0x203 * 2 ^ 86 + l.bits)
  | .ldmc l => some (0x204 * 2 ^ 86 + l.bits)
  | .pref l => some (0x205 * 2 ^ 86 + l.bits)
  | .cread l => some (0x206 * 2 ^ 86 + l.bits)
  | .cstore l => some (0x207 * 2 ^ 86 + l.bits)
  | .fence l => some (0x250 * 2 ^ 86 + l.bits)
  | .qfence l => some (0x251 * 2 ^ 86 + l.bits)
  | .wload l => some (0x280 * 2 ^ 86 + l.bits)
  | .mma l => some (0x281 * 2 ^ 86 + l.bits)
  | .azero l => some (0x282 * 2 ^ 86 + l.bits)
  | .aread l => some (0x283 * 2 ^ 86 + l.bits)
  | .awrite l => some (0x284 * 2 ^ 86 + l.bits)
  | .cpy l => some (0x2C0 * 2 ^ 86 + l.bits)
  | .cpym l => some (0x2C1 * 2 ^ 86 + l.bits)
  | .rcf l => some (0x2C2 * 2 ^ 86 + l.bits)
  | .rinit l => some (0x2C3 * 2 ^ 86 + l.bits)
  | .rwaitFilled l => some (0x2C4 * 2 ^ 86 + l.bits)
  | .rwaitFree l => some (0x2C5 * 2 ^ 86 + l.bits)
  | .rrel l => some (0x2C6 * 2 ^ 86 + l.bits)
  | .bpost l => some (0x300 * 2 ^ 86 + l.bits)
  | .bsend l => some (0x301 * 2 ^ 86 + l.bits)
  | .amsend l => some (0x302 * 2 ^ 86 + l.bits)
  | .stopen l => some (0x308 * 2 ^ 86 + l.bits)
  | .stsend l => some (0x309 * 2 ^ 86 + l.bits)
  | .strecv l => some (0x30A * 2 ^ 86 + l.bits)
  | .stxfer l => some (0x30B * 2 ^ 86 + l.bits)
  | .stadopt l => some (0x30C * 2 ^ 86 + l.bits)
  | .stbind l => some (0x30D * 2 ^ 86 + l.bits)
  | .stclose l => some (0x30E * 2 ^ 86 + l.bits)
  | .stquery l => some (0x30F * 2 ^ 86 + l.bits)
  | .lbr l => some (0x001 * 2 ^ 86 + l.bits)
  | .atom op l => some ((0x240 + op.code) * 2 ^ 86 + l.bits)
  | .sadd .. | .ssub .. | .smul .. | .smulh .. | .sdiv .. | .srem .. | .sand .. | .sor .. | .sxor ..
  | .sshl .. | .sshr .. | .ssra .. | .smin .. | .smax .. | .smulhU .. | .sdivU .. | .sremU .. | .sminU ..
  | .smaxU .. | .scmp .. | .saddi .. | .smuli .. | .sandi .. | .sori .. | .sxori .. | .sshli .. | .sshri ..
  | .ssrai .. | .smini .. | .smaxi .. | .scmpi .. | .slui .. | .sld .. | .sldPad .. | .sst .. | .sstPad ..
  | .samo .. | .sbr .. | .sj .. | .sjal .. | .sjr .. | .loop .. | .lgo .. | .larg .. | .lwait | .spop ..
  | .sbar .. | .sbarC | .slaunch .. | .strig | .snop | .scsrr .. | .scsrw .. | .strap .. | .seret | .syield
  | .ssleep .. | .shalt | .sperf .. | .stime .. | .lbrk | .fabricOpComplete .. | .laneBlockStart ..
  | .lgoUnstall .. | .laneResultWrite .. | .scalarResultFill .. | .spopDone .. | .lwaitDone ..
  | .waitkDone .. | .setvbDone .. | .fenceDone .. | .qfenceDone .. | .rwaitFreeDone .. | .rwaitFilledDone ..
  | .sleepExpiry .. | .starvationPrecedence .. | .workgroupRetire .. | .dispatchWorkgroup ..
  | .deferredTrap .. | .skidStop .. | .firmwareEndWorkgroup .. | .parkThresholdHold .. | .contextSwitchOut ..
  | .contextSwitchIn .. | .walkComplete .. | .pageMapped .. | .pageMapRefused .. | .tlbInvalidation ..
  | .invalidationComplete .. | .sharedQueueArrival .. | .queueDeparture .. | .residencyExpired ..
  | .bounceNotice .. | .congestionCleared .. | .backoffExpiry .. | .reservationGranted .. | .grantLapse ..
  | .budgetRefill .. | .replayReissue .. | .requestReply .. | .releasePart .. | .homeAccess ..
  | .homeProbe .. | .hbmRefreshDue .. | .postponedRefresh .. | .rowThresholdReached .. | .rowCountClear ..
  | .weightRefreshWindow .. | .wloadStart .. | .wloadDone .. | .mmaStart .. | .mmaDone .. | .accumMoveDone ..
  | .copyStart .. | .copyBytesPerformed .. | .copyDone .. | .qdoorWrite .. | .qstatReset .. | .batchCommit ..
  | .packetStart .. | .launchBundle .. | .timedLaunch .. | .timedLaunchEligible .. | .copyPacket ..
  | .wsWritePacket .. | .barrierAndSignal .. | .barrierSignalWake .. | .interruptPacket ..
  | .registerHandlerTable .. | .placement .. | .sliceAdvance .. | .starvePromotion ..
  | .completionInterruptCount .. | .completionInterruptTimeout .. | .ptpsetWrite .. | .ptpadjWrite ..
  | .ptprateWrite .. | .ptpholdWrite .. | .ptpHoldoverExpiry | .fabricForward .. | .fmManagement ..
  | .fabricRd .. | .fabricWr .. | .fabricAtomGroup .. | .fabricCstGroup .. | .fabricBdata .. | .fabricBreq ..
  | .fabricAmsg .. | .fabricRdr .. | .fabricWack .. | .fabricAtomr .. | .fabricCstr .. | .fabricAmack ..
  | .fabricBounce .. | .fabricGrant .. | .fabricReturn .. | .fabricBstat .. | .fabricCong ..
  | .groupTimeout .. | .resendTimer .. | .replyCacheExpiry .. | .requestUnanswered .. | .destUnreachable ..
  | .congestionWithdraw .. | .tokenExpiry .. | .prioAging .. | .amHandlerStart .. | .streamHandlerStart ..
  | .sitem .. | .smoveMove .. | .smoveCtx .. | .smoveAdopt .. | .smovePlace .. | .smoveItems .. | .sack ..
  | .smack .. | .scred .. | .sloc .. | .sorph .. | .contextIdleTimeout .. | .contextEvictionDone ..
  | .contextReloadDone .. | .hostSnoop .. | .hostMemWrite .. | .hostMemRead .. | .functionReset ..
  | .functionResetComplete .. | .scrubLine .. | .deviceReset | .selfTestStageDone .. | .coolantFault
  | .openq .. | .closeq .. | .faultlog .. | .attest .. | .postreport .. | .retest .. | .substitute ..
  | .retire .. | .fwupdate .. | .frameinfo .. | .assign .. | .spareTrigger .. | .spareSubstitution ..
  | .hostPortFailover | .xunlockWrite .. | .residBWrite .. | .residXWrite .. | .replayqBWrite ..
  | .replayqXWrite .. | .rowguardBWrite .. | .rowguardXWrite .. | .bulkBWrite .. | .bulkXWrite ..
  | .ctxstoreBWrite .. | .ctxstoreXWrite .. | .powerBWrite .. | .powerXWrite .. | .vfbudBWrite ..
  | .vfbudXWrite .. | .vfscopeBWrite .. | .vfscopeXWrite .. | .icoalBWrite .. | .icoalXWrite ..
  | .arbguardBWrite .. | .arbguardXWrite .. | .parkBWrite .. | .parkXWrite .. | .stidleBWrite ..
  | .stidleXWrite .. | .registerWrite .. | .ptmRequest | .softError .. | .linkTrainingComplete ..
  | .destinationCongested .. | .frozenRecordRelease .. => none

/-- The instruction of a 96-bit lane value, where every encoding rule of R84 to R93 holds. -/
def decodeLane (w : Nat) : Option Instr :=
  match rawLane w with
  | some i => if i.wf then some i else none
  | none => none

/-- The bits of an instruction's words, and how many they are. -/
def encode (i : Instr) : Option (Nat × Nat) :=
  match encodeScalar i with
  | some w => some (32, w)
  | none => (encodeLane i).map fun w => (96, w)

/-- `n` bytes, least significant first (R5). -/
def leBytes : Nat → Nat → List Byte
  | 0, _ => []
  | n + 1, w => BitVec.ofNat 8 w :: leBytes n (w / 256)

/-- The number of a little-endian byte list (R5). -/
def leNat : List Byte → Nat
  | [] => 0
  | b :: bs => b.toNat + 256 * leNat bs

/-- A scalar word as it stands in memory (R75). -/
def decodeScalarBytes (bs : List Byte) : Option Instr := decodeScalar (leNat bs)

/-- A lane instruction as it stands in memory (R75). -/
def decodeLaneBytes (bs : List Byte) : Option Instr := decodeLane (leNat bs)

/-- The instruction the decoder reads from an instruction whose bits are `w`: up to 32 bits are a scalar word, more a lane instruction. -/
def decodeTableWord (nbits w : Nat) : Option Instr :=
  if nbits ≤ 32 then decodeScalarBytes (leBytes 4 w) else decodeLaneBytes (leBytes 12 w)

end Sys2Proof
end

