-- ==== Sys2Proof/Config.lean ====
section
/-! DEFINITION. What the specification leaves to an implementation, and the free values: constants with no body, so that a statement holds whatever they are. -/

namespace Sys2Proof

/-- The free values (log 6): the n-th value the specification leaves open in a run. -/
opaque Config.freeBits : Nat → W64

/-- A free 256-bit draw of the device's random source (R383, log 14). -/
opaque Config.freeKey : Nat → BitVec 256

/-- The HBM4E channel, bank and row of a physical address; the specification gives no mapping (log 13). -/
opaque Config.hbmChannel : Nat → Nat
opaque Config.hbmBank : Nat → Nat
opaque Config.hbmRow : Nat → Nat
/-- Banks of a channel (log 13). -/
opaque Config.hbmBanks : Nat

/-- The set of the L1 that a line uses; the specification gives no index function (log 12). -/
opaque Config.l1Set : Nat → Nat
/-- The set of its L2 slice that a line uses, likewise (log 12). -/
opaque Config.l2Set : Nat → Nat
/-- The set of its memory-side cache that a line uses, likewise (log 12). -/
opaque Config.mscSet : Nat → Nat
/-- The set of the L2 TLB that a page uses, likewise (log 12). -/
opaque Config.tlbSet : Nat → Nat

/-- The device's identity: the public half of its key, Hokuern's certificate for it, and the signature that the private half makes of a digest (R409, R410, log 15). -/
opaque Config.identityKey : List Byte
opaque Config.certificate : List Byte
opaque Config.sign : List Byte → List Byte

/-- What the memory of another device holds at an address when firmware or a fetch reads it, by cycle (log 86). -/
opaque Config.remoteByte : Nat → Nat → BitVec 8

/-! Sizes of the specification. -/

/-- Microseconds in core cycles (R5): 1 µs = 1,400 cyc. -/
def Config.usec (n : Nat) : Nat := 1400 * n
/-- Milliseconds in core cycles. -/
def Config.msec (n : Nat) : Nat := 1400000 * n

end Sys2Proof
end

