-- ==== Sys2Proof/Machine/Table.lean ====
section
/-! DEFINITION. Sparse tables and memories: lists of keys and values in rising key order. -/

namespace Sys2Proof.Machine

/-- A table from numbers to values, keys rising. -/
abbrev Tbl (α : Type) := List (Nat × α)

/-- The value at a key. -/
def Tbl.find {α : Type} : Tbl α → Nat → Option α
  | [], _ => none
  | (j, u) :: r, k => if k = j then some u else Tbl.find r k

/-- The table with `v` at `k`. -/
def Tbl.put {α : Type} : Tbl α → Nat → α → Tbl α
  | [], k, v => [(k, v)]
  | (j, u) :: r, k, v =>
    if k = j then (k, v) :: r else if k < j then (k, v) :: (j, u) :: r else (j, u) :: Tbl.put r k v

/-- The table without `k`. -/
def Tbl.del {α : Type} : Tbl α → Nat → Tbl α
  | [], _ => []
  | (j, u) :: r, k => if k = j then Tbl.del r k else (j, u) :: Tbl.del r k

/-- The value at a key, or `d`. -/
def Tbl.getD {α : Type} (m : Tbl α) (k : Nat) (d : α) : α := (Tbl.find m k).getD d

/-- The values in key order. -/
def Tbl.values {α : Type} (m : Tbl α) : List α := List.map (fun x : Nat × α => x.2) m

/-- Every value changed by `f`. -/
def Tbl.mapVal {α : Type} (f : Nat → α → α) (m : Tbl α) : Tbl α :=
  List.map (fun x : Nat × α => (x.1, f x.1 x.2)) m

/-- The value at `k` changed by `f`, where there is one. -/
def Tbl.adjust {α : Type} (m : Tbl α) (k : Nat) (f : α → α) : Tbl α :=
  match Tbl.find m k with
  | some v => Tbl.put m k (f v)
  | none => m

/-- Keys strictly rising. -/
def Tbl.sorted {α : Type} : Tbl α → Bool
  | [] => true
  | [_] => true
  | a :: b :: r => decide (a.1 < b.1) && Tbl.sorted (b :: r)

/-- A memory: address and byte pairs; an unlisted address reads as 0 (log 4). -/
abbrev Memory := List Host.Cell

/-- What an unlisted address reads as (log 4). -/
def Memory.blank : Byte := 0#8

/-- The canonical form: addresses strictly rising, no listed byte equal to what an unlisted one reads as. -/
def Memory.wf (m : Memory) : Bool := Tbl.sorted m && List.all m fun c => c.2 != Memory.blank

/-- One byte. -/
def Memory.read (m : Memory) (a : Nat) : Byte := (Tbl.find m a).getD Memory.blank

/-- One byte written, the form kept. -/
def Memory.write (m : Memory) (a : Nat) (b : Byte) : Memory :=
  if b = Memory.blank then Tbl.del m a else Tbl.put m a b

/-- `n` bytes from `a` upward as a little-endian number (R5). -/
def Memory.readN (m : Memory) (a : Nat) : Nat → Nat
  | 0 => 0
  | n + 1 => (Memory.read m a).toNat + 256 * Memory.readN m (a + 1) n

/-- The low `n` bytes of a number written from `a` upward (R5). -/
def Memory.writeN (m : Memory) (a : Nat) : Nat → Nat → Memory
  | 0, _ => m
  | n + 1, v => Memory.writeN (Memory.write m a (BitVec.ofNat 8 v)) (a + 1) n (v / 256)

/-- A list of bytes from `a` upward. -/
def Memory.readL (m : Memory) (a : Nat) : Nat → List Byte
  | 0 => []
  | n + 1 => Memory.read m a :: Memory.readL m (a + 1) n

def Memory.writeL (m : Memory) (a : Nat) : List Byte → Memory
  | [] => m
  | b :: bs => Memory.writeL (Memory.write m a b) (a + 1) bs

/-- The bytes of a window cleared. -/
def Memory.clear (m : Memory) (lo n : Nat) : Memory := List.filter (fun c : Host.Cell => c.1 < lo || lo + n ≤ c.1) m

end Sys2Proof.Machine
end

