-- ==== Sys2Proof/Machine/State.lean ====
section
/-! DEFINITION. The state of one HK-V8: everything the specification gives the machine, as plain data, and the state right after reset. Names follow the specification; rules are cited per structure. -/

namespace Sys2Proof.Machine

/-- The machine stops. The one fault is no behaviour of the device: no warp stands at the issuing position, so there is no instruction to give a meaning to (log 1). Raised by every warp instruction; safe. -/
inductive Fault where
  | noIssuer
deriving DecidableEq, Repr

/-- No meaning. `notModelled` is raised by an arm of `exec` not written yet, by name; safe. -/
inductive Refusal where
  | notModelled (mnemonic : String)
deriving DecidableEq, Repr

/-! ## Warps -/

/-- An entry of the loop stack (R122). -/
structure LoopEnt where
  start  : W64
  endPc  : W64
  count  : W64
deriving DecidableEq, Repr

/-- What the scalar stream does once the join of `LWAIT` holds (R40, R52, R53, R130, R134). -/
inductive Join where
  | lwait
  | sbar (b : Nat)      -- workgroup barrier 0-15; 16 is the cohort barrier
  | strig
  | shalt
  | slaunch (d a : SReg)
deriving DecidableEq, Repr

/-- What holds the scalar stream (R37, R39, R40, R47, R52, R130, R245). -/
inductive SWait where
  | none
  | lgo (pc : BitVec 20) (x : Vector W64 8)
  | join (k : Join)
  | release (req : Nat) (k : Join)
  | barrier (b gen : Nat)
  | spop (d : SReg)
  | setvb (n : Nat)
  | held (req : Nat)
deriving DecidableEq, Repr

/-- The scalar stream (R36, R49, R114, R122). -/
structure Scalar where
  s     : Vector W64 64
  empty : BitVec 64              -- bit n set: s n is empty
  fill  : List (SReg × W64)      -- results in flight
  pc    : W64
  loops : List LoopEnt           -- innermost first
  lsel  : BitVec 2
  wait  : SWait
deriving DecidableEq, Repr

/-- The lane registers of a warp (R46 to R51, R203). An entry the pool does not list holds 0 in every lane. -/
structure Regs where
  pool   : Tbl Lanes
  empty  : BitVec 512
  poison : BitVec 512
  p      : Vector LaneMask 16
  k      : Vector W16 16
  arrs   : List Nat        -- counters that an arrival has raised in this cycle, one entry each (R160)
  nreg   : Nat
  vb     : Nat
deriving DecidableEq, Repr

/-- An entry of the lane-block queue (R37); `after` is the request number at its `LGO` (R40). -/
structure Block where
  pc    : BitVec 20
  x     : Vector W64 8
  after : Nat
deriving DecidableEq, Repr

inductive SlotState where
  | idle | running | parked
deriving DecidableEq, Repr

/-- What holds a lane slot (R47, R210, R216, R220, R221, R245, R281, R292, R293). -/
inductive LWait where
  | none
  | waitk (k n : Nat)
  | setvb (n : Nat)
  | fence (req : Nat)
  | qfence (mask : Nat) (upTo : Nat)
  | rwaitFree (h slot round t : Nat) (d : Option Nat)
  | rwaitFilled (h slot round : Nat) (d : Option Nat)
  | held (req : Nat)
deriving DecidableEq, Repr

/-- A lane PC slot (R41, R85). -/
structure Slot where
  st    : SlotState
  pc    : BitVec 20
  mask  : LaneMask
  join  : BitVec 24
  wait  : LWait
  until_ : Nat          -- issue spacing: nothing issues before this cycle (R85)
  act   : LaneMask      -- lanes active at the issue of the instruction it waits for (R320)
deriving DecidableEq, Repr

/-- An entry of the divergence stack (R43). -/
structure DivEnt where
  rcv  : Bool
  join : BitVec 24
  pc   : BitVec 24
  mask : LaneMask
deriving DecidableEq, Repr

/-- A `FUSE` that has not completed (R179): its output and temporaries in each lane after each operation still to be performed, and the index of the next one. -/
structure FuseRun where
  next  : Nat
  steps : List (List (List W32))
deriving DecidableEq, Repr

/-- What a lane instruction still has to write: the results in flight of R141, R168, R207, R209, R218. `need` counts what is outstanding; at 0 the result can be written. -/
structure Result where
  id     : Nat
  slot   : Stream
  lanes  : LaneMask                    -- lanes written
  regs   : List (Nat × Lanes)          -- pool entries and their new values in those lanes
  preds  : List (Nat × LaneMask)
  ctrs   : List (Nat × W16)            -- arrival counters written
  flags  : Flags
  push   : Option W64                  -- pushed onto the return queue (R39)
  need   : Nat
  fills  : Bool                        -- the registers were marked empty at issue (R49)
  kctr   : Option Nat                  -- arrival counter that rises for each register filled (R51)
  mem    : Bool                        -- of a memory instruction (R40)
  keep   : Bool                        -- a deferred cause: the registers keep their old contents
  fuse   : Option FuseRun              -- a `FUSE` under way (R179, R294)
deriving DecidableEq, Repr

/-- A deferred cause not yet taken (R319). -/
structure Deferred where
  code : Nat
  pc   : W64
  inst : W32
deriving DecidableEq, Repr

/-- The trap CSRs (R320, R322). -/
structure TrapRegs where
  cause : W64
  pc    : W64
  inst  : W64
  vec   : W64
  deleg : W64
  lpca  : W64
  lpcb  : W64
  skids : Nat
  skidl : Nat
deriving DecidableEq, Repr

/-- How a warp stands toward a halt of its workgroup (R321 to R325). -/
inductive HaltState where
  | run
  | skid (since stop : Nat)     -- halted at cycle `since`, inside its skid window; it stops by itself at cycle `stop`, a free member of R322's set
  | stopped
deriving DecidableEq, Repr

/-- What the scalar stream of a warp in handler mode has set aside (R324). Its lane slots, lane-block queue and return queue stay where they are, and no instruction the handler may use touches them. -/
structure SetAside where
  loops  : List LoopEnt
  wait   : SWait
  pc     : W64
deriving DecidableEq, Repr

/-- An operation of a warp's fabric queue (R358): the instruction, the slot and mask it issued from, the values of its operands at issue, and how far it has come. -/
structure FabOp where
  id     : Nat
  op     : Nat          -- operation code of group 0xC
  mod    : BitVec 14
  slot   : Stream
  mask   : LaneMask
  rh     : Nat
  dregs  : List Nat     -- pool entries of D, and of B for `STOPEN`
  a      : BitVec 128
  b      : BitVec 128
  c      : BitVec 128
  hasC   : Bool
  pc     : BitVec 20
  inst   : W32
  fence  : Nat          -- the request of its release or acquire part, 0 none
  phase  : Nat          -- 0 not begun, 1 reading or writing for the warp, 2 what it read is at hand, 3 waiting for another device, 4 its outcome is known, 5 waiting for room where it sends to
  wait   : List Nat     -- requests under way for it
  got    : List (Nat × Nat)   -- what was read: byte offset and value
  status : Nat
  word   : Nat          -- second result word, length or sequence number
  key    : Option EndKey      -- the end an `STADOPT` adopts, or an `STXFER` has frozen
  unknown : Bool        -- a write of its own has no known outcome (R345)
deriving DecidableEq, Repr

/-- An open message of the warp (R348, R363). -/
structure OpenMsg where
  id     : Nat
  msgid  : Nat
  dev    : Nat
  slot   : Nat
  prio   : Nat
  len    : Nat
  src    : Nat               -- source address
  tokens : List (Nat × Nat)  -- granted, not yet read: offset and bytes
  rh     : Nat
  stream : Stream
  dregs  : List Nat
  mask   : LaneMask
  pc     : BitVec 20
  inst   : W32
  wait   : List Nat          -- reads under way for the first token
  got    : List (Nat × Nat)
  run    : Nat               -- offset of the bytes being read
  paused : Bool              -- its workgroup is switched out (R352)
deriving DecidableEq, Repr

/-- The other warp CSRs (R135, R200, R245, R266, R287, R294, R312, R401). -/
structure WarpCsrs where
  latcnt    : W64
  bouncecnt : W64
  copystat  : BitVec 2
  pix       : W64
  scopedn   : Bool
  raceaddr  : W64
  racepeer  : W64
  gridarg   : W64
  perf      : Vector W64 9
deriving DecidableEq, Repr

/-- A warp. -/
structure Warp where
  sc      : Scalar
  rg      : Regs
  larg    : Vector W64 4
  x       : Vector W64 8
  blocks  : List Block
  running : Bool               -- a lane block runs
  after   : Nat                -- request number at the running block's `LGO`
  joined  : Nat                -- request number at the scalar stream's last join (R40)
  slotA   : Slot
  slotB   : Slot
  turnB   : Bool               -- R45: slot B issues next where both can
  launch  : LaneMask           -- launch mask (R31)
  dstack  : List DivEnt        -- top first
  dsbase  : W64
  rq      : List W64           -- oldest first
  flight  : List Result
  fflags  : Flags
  trap    : TrapRegs
  halt    : HaltState
  handler : Option SetAside
  deferred : List Deferred
  csr     : WarpCsrs
  sleep   : Nat                -- cycle until which `SSLEEP` holds the warp
  yielded : Bool
  elig    : Option Nat         -- cycle since which the warp has been eligible (R54)
  urgent  : Bool               -- it takes precedence at the next selection (R54)
  parked  : Bool               -- R326, as of the last cycle
  exited  : Bool
  halted  : Bool               -- `SHALT` has completed
  triggered : Bool
  fabq    : List FabOp
  msgs    : List OpenMsg
  rings   : Tbl (Nat × Nat)    -- by ring offset: slot last claimed by `RWAIT.free`, bytes of copies accepted for it (R292)
  pooladdr : Nat                   -- first pool register of the warp in its core (R311)
  wslot   : Nat                    -- warp slot of the core
deriving DecidableEq, Repr

/-! ## Workgroups and cores -/

/-- A barrier (R52). -/
structure Barrier where
  arrived : List Nat     -- warp keys that have arrived in this generation
  gen     : Nat
deriving DecidableEq, Repr

/-- How a workgroup stands: its bind record is written, its warps run, it is switched out, halted for firmware, or ended. -/
inductive WgStatus where
  | placed | resident | out | halted | ended
deriving DecidableEq, Repr

/-- What a handler's workgroup runs for (R366, R387). -/
inductive HandlerFor where
  | none
  | message
  | item (k : EndKey) (seq : Nat) (kind : Nat)
deriving DecidableEq, Repr

/-- A word of an L1 (R187, R242). -/
structure L1Word where
  owner : Option Nat       -- workgroup that owns the word dirty
  mask  : BitVec 4         -- owned bytes
  value : W32
  epoch : Nat              -- frame epoch of the translation (R403)
  open_ : List Nat         -- workgroups for which the filled word is open
  poison : Bool            -- the word carries poison (R203)
deriving DecidableEq, Repr

/-- A line of an L1 (R190): its retention class (0 default, 1 streaming, 2 sticky) and when it was last used. -/
structure L1Line where
  cls  : Nat
  used : Nat
deriving DecidableEq, Repr

/-- A TLB entry: a copy of the page entry and when it was last used (R330). -/
structure TlbEnt where
  page : PageEntry
  used : Nat
deriving DecidableEq, Repr

/-- A bind record of the slot table (R311, R387). A standing one turns stale where its entry changes while its handler runs: it is removed when that handler retires. -/
inductive Bind where
  | workgroup (wg : Nat) (wslots : W32) (poolb nregs scrb len : Nat)
  | standing (fn hidx : Nat) (busy : Option Nat) (stale : Bool) (wslot poolb nregs scrb len : Nat)
deriving DecidableEq, Repr

/-- A weight bank (R267). -/
structure Bank where
  claim : Option Nat       -- the claiming workgroup
  tile  : List Byte        -- empty: no tile
  width : Nat
  poison : Bool            -- the tile holds a poisoned word (R203)
deriving DecidableEq, Repr

inductive MatKind where
  | wload | mma | azero | aread | awrite
deriving DecidableEq, Repr

/-- An operation of the matrix queue (R271 to R277, R289). -/
structure MatOp where
  id    : Nat
  kind  : MatKind
  warp  : Nat
  slot  : Stream
  mask  : LaneMask
  bank  : Nat
  width : Nat              -- w_w of `WLOAD`, w_a of `MMA`
  addr  : Nat              -- source of `WLOAD`
  pad   : Bool
  rows  : List (Nat × Nat) -- lane and row offset of `MMA`
  accs  : List Nat         -- pool entries of the accumulators that `MMA`, `AZERO` or `AWRITE` writes
  res   : Nat              -- result in flight of a move; of a started `WLOAD`, the cycle its refresh wait ends (R197)
  started : Bool
  done  : Nat              -- rows whose accumulation has landed, or bytes in the bank (R294)
  pc    : BitVec 20
  inst  : W32
deriving DecidableEq, Repr

/-- A shape record as read (R280). -/
structure Shape where
  zeros   : Bool
  sparse  : Bool
  wdie    : Nat
  space   : Nat
  rank    : Nat
  esize   : Nat
  strides : List Int       -- dimensions 1 to 4
  meta_   : Nat            -- STRIDE4 read as the metadata base
  dims    : List Nat       -- dimensions 0 to 4
  base    : Nat
deriving DecidableEq, Repr

/-- A copy (R282 to R289), of a warp or of a packet. -/
structure Copy where
  id     : Nat
  warp   : Option Nat      -- producer warp; none for a packet's copy
  queue  : Nat             -- queue and ring index of a packet's copy
  pkt    : Nat
  fn     : Nat
  space  : Nat             -- address space (process)
  src    : Shape
  dst    : Shape
  sdisp  : Int
  ddisp  : Int
  ty     : Nat
  rm     : Nat
  red    : Nat
  transp : Bool
  rh     : Nat
  ring   : Option (Nat × Nat)  -- ring offset and slot
  follow : Option MatOp        -- the follow-on `MMA` of a `CPYM`
  pc     : BitVec 20
  inst   : W32
  started : Bool
  stopped : Bool               -- stopped by a fault (R288)
  cause  : Nat                 -- that fault's code
  done   : Nat                 -- elements performed
  phase  : Nat                 -- of the elements under way: 0 none, 1 being read, 2 being written
  wait   : List Nat            -- requests under way for them
  got    : List (Nat × Nat)    -- what was read of them: byte offset and value
  flags  : Flags
deriving DecidableEq, Repr

/-- A workgroup (R31, R104, R304, R311, R312). -/
structure Wg where
  fn       : Nat
  proc     : Nat
  die      : Nat
  core     : Nat           -- logical core index
  bundle   : Nat
  grid     : Nat           -- `%grid`
  wg       : Nat           -- `%wg`
  nwg      : Nat
  cohort   : Option Nat
  wgc      : Nat
  warps    : Nat           -- W
  nreg     : Nat
  lanes    : Nat           -- L
  padSize  : Nat
  padBase  : Nat           -- in bytes of the core's scratchpad
  pad      : Memory
  padPoison : List Nat     -- poisoned 8-byte words of the scratchpad (R203)
  producer : Option Nat
  sbase    : W64
  slen     : Nat
  lbase    : W64
  llen     : Nat
  age      : Nat           -- placement order (R313)
  order    : Nat           -- order in which the workgroup was started, kept through switches (R328)
  status   : WgStatus
  bars     : Tbl Barrier   -- 0-15
  chains   : Tbl Nat       -- chain map: lane PC of the `FUSEDEF` (R176)
  epoch    : Nat           -- release epoch (R242)
  banks    : List (Nat × Bank)     -- saved weight banks of a switched-out workgroup (R267, R329)
  matq     : List MatOp            -- its saved matrix operations
  copies   : List Copy             -- its saved copies
  claims   : List Nat      -- weight banks claimed (R267)
  handler  : HandlerFor
  cscope   : Nat           -- completion scope of the retirement release
  priv     : Nat           -- its private area (R304)
  leave    : Nat           -- firmware switches it out: 0 no, 1 as parked, 2 at once eligible again (R327, R308)
  ctx      : Option EndKey -- the end whose context SPACE 3 names (R385)
  failed   : Bool          -- ended by an unhandled trap (R53)
  trapper  : Option Nat    -- while halted: the warp whose trap is handled (R321 to R325)
deriving DecidableEq, Repr

/-- A core (R18, R19, R187, R224, R251, R281, R311, R330). -/
structure Core where
  row    : Nat
  col    : Nat
  l1     : Tbl L1Word      -- by word of the physical address
  lines  : Tbl L1Line
  wbuf   : List Nat        -- write-backs of evictions not yet performed (R262)
  tlb    : List TlbEnt
  records : List (Nat × Nat × Nat × Shape × Nat)  -- record cache: function, space, address, record, last use (R281)
  binds  : List Bind
  banks  : Vector Bank 2
  matq   : List MatOp      -- in queue order
  copies : List Copy       -- in acceptance order; each workgroup's are its lane (R264)
  parkSince : Tbl Nat      -- per function: since when its parked warps stand at the threshold (R327)
  replay : Option (Nat × Nat)   -- CAP and GUAR still in force here after a change of REPLAYQ; none: the device's (R252)
  laneAt : Nat             -- the copy lane served last (R264)
deriving DecidableEq, Repr

/-! ## The memory system -/

/-- The place of a line (R195): its stack or the host's memory, its L2 slice, a memory-side cache, or a victim buffer on its way out of one of these (R248). -/
inductive Place where
  | hbm | l2 | msc | victim
deriving DecidableEq, Repr

/-- The home's state of a line (R193 to R195, R214, R224, R403). -/
structure HomeLine where
  version : Nat
  epoch   : Nat
  owners  : List (Nat × Nat × Nat)   -- word of the line, owning workgroup, core
  sharers : List Nat                 -- cores
  place   : Place
  cls     : Nat
  dirty   : Bool
  used    : Nat
  mcast   : List (Nat × Nat × List Nat)  -- multicasts in flight: request, time, target cores (R212)
deriving DecidableEq, Repr

/-- A frame of 64 KiB (R397, R402, R404). -/
structure Frame where
  owner : Nat
  epoch : Nat
  scrub : Bool
  rises : Nat
deriving DecidableEq, Repr

/-- A walk of a die's walk queue (R331, R332). -/
structure Walk where
  fn    : Nat
  space : Nat
  va    : Nat              -- page base, 64 KiB units of address
  asked : Bool             -- reported to firmware: no valid entry found
  pref  : Bool             -- only `PREF` lanes wait
deriving DecidableEq, Repr

/-- The wake condition of a bounced request (R250). -/
inductive Wake where
  | ready
  | walk
  | mapped
  | cleared (q : Nat) (backoff : Nat)   -- congestion cleared by queue, or the backoff timer
  | uncongested (dev : Nat)
  | time (t : Nat)
  | budget
  | grant (q : Nat)
deriving DecidableEq, Repr

/-- The stages of a request (R225, R250, R343). -/
inductive Stage where
  | issued                               -- in its warp's memory queue
  | transit (q : Nat)                    -- on its way to queue `q`
  | queued (q : Nat) (resv : Bool)
  | bounced (reason : Nat) (wake : Wake) -- its bounce notice is under way
  | replay (reason : Nat) (wake : Wake)
  | sent                                 -- over the fabric
  | granted                              -- a store whose registration the home has recorded; its line waits for room in the L1 (R262)
  | performed                            -- its reply or acknowledgement is under way
deriving DecidableEq, Repr

inductive ReqKind where
  | load | store | atom | cread | cstore | pref | wback | fence | packet | record | reduce | victim
deriving DecidableEq, Repr

/-- One access of a request (R206): `lane` 32 is the scalar stream. -/
structure Access where
  lane : Nat
  va   : Nat
  pa   : Nat               -- with the home in the upper bits
  size : Nat               -- bytes
  data : Nat
  cmp  : Nat               -- comparand; for the write-back of an eviction, the owning workgroup
  bmask : Nat              -- bytes written, of `size`
deriving DecidableEq, Repr

/-- A request (R224 to R230, R251 to R256). -/
structure Req where
  id     : Nat
  iid    : Nat             -- its instruction: the requests of one instruction share it
  kind   : ReqKind
  cls    : OwnerClass
  warp   : Nat
  core   : Nat             -- core key 60·die + index
  fn     : Nat
  space  : Nat
  lspace : Nat             -- SPACE code: 0 global, 3 the stream context
  stream : Stream
  mask   : LaneMask        -- lanes of the instruction
  accs   : List Access
  xl     : Bool            -- translated: `pa` of its accesses holds
  op     : Option AmoOp
  ext    : Nat             -- SIZE code: how a loaded value is extended
  rh     : Nat
  scope  : Nat
  ord    : Nat             -- ORDER code (R85)
  pkts   : List Packet     -- the packet of a `packet` request
  rel    : Nat             -- release part: 0 none, 1 to do, 2 writing back, 3 ended
  acq    : Bool            -- an acquire part is still to end
  home   : Bool            -- a store written at the home, a load that reads there
  direct : Bool            -- an access of a copy, which passes the L1 by (R189, R284)
  parent : Nat             -- the release a write-back belongs to, the copy a line access belongs to, 0 none
  after  : Nat             -- requests below this number precede it across the join (R40)
  result : Nat             -- the result it feeds, 0 none
  sd     : Option SReg     -- a scalar destination (R119, R120)
  targets : List Nat       -- cores of a multicast
  want   : List Nat        -- versions of a `CSTORE`; RED, TYPE and RM of a reduction; ring and slot of an `RREL`
  epoch  : Nat             -- frame epoch of the translation (R403)
  cinnabar : Bool
  probes : Option (List Nat)   -- sharer cores still to answer a probe (R243)
  clear  : Bool            -- its Cinnabar checks have passed
  pc     : W64
  inst   : W32
  stage  : Stage
  dev    : Option Nat      -- remote home
  resv   : Bool            -- carries a reservation
  bounces : Nat
  entered : Nat            -- cycle of entry into its queue
  bound  : Nat             -- residency bound in force at entry
  reply  : List (Nat × Nat)  -- lane and value bound
  snap   : List Byte       -- the line as the home returned it, for the fill
  snapBad : List Nat       -- poisoned 8-byte words of it (R203)
  nofill : List (Nat × Nat)   -- cores and words that the late reply does not fill any more
  relEpoch : Nat           -- release epoch of the workgroup when the value was bound (R242)
  gang   : Bool            -- its instruction touches a Cinnabar page: all its accesses take effect together (R245)
  looked : Bool            -- its lookup in the L1 has been counted (R135)
  ok     : Bool            -- `CSTORE` outcome
  fault  : Nat             -- deferred cause found, 0 none
  source : Nat             -- replay buffer of a request that is no warp's (R416)
deriving DecidableEq, Repr

/-- A shared queue (R246 to R258). -/
structure Shq where
  ord     : List Nat             -- requests in ordinary entries
  resv    : List (Nat × Nat)     -- owner class code and request in the reserved entry
  mask    : List (Nat × Nat)     -- class code and waiting source
  ptr     : Tbl Nat              -- per class: the source last granted
  grants  : List (Nat × Nat × Nat)   -- class, source, cycle at which the grant lapses
  bounced : List (Nat × Nat)     -- sources bounced for reason 0x3, and when
  cleared : List Nat             -- sources to which "congestion cleared" is under way
deriving DecidableEq, Repr

/-- Refresh state of an HBM4E channel (R199, R201). -/
structure Chan where
  count   : Nat
  owing   : Tbl Nat          -- per bank: postponed refreshes owed
  busy    : Tbl Nat          -- per bank: busy until
  acts    : List (Nat × Nat × Nat × Nat)   -- function, bank, row, activations
  gated   : List (Nat × Nat × Nat × Nat)   -- throttled function, bank, row, next permitted activation
  due     : Tbl Nat          -- per bank: the 3.9 µs interval whose refresh has fallen due
  cleared : Nat              -- the 32 ms period whose counts these are
  lastUse : Tbl Nat          -- per bank: the cycle of its last access (R411)
deriving DecidableEq, Repr

/-- A die (R20, R196, R330, R331, R385). -/
structure Die where
  tlb     : List TlbEnt
  walks   : List Walk
  weights : Memory
  wpoison : List Nat       -- poisoned 8-byte words of the weight store (R203)
  ways    : Option Nat       -- ways still carved out as before a change of CTXSTORE (R390); none: those of CTXSTORE
  slice   : Nat              -- current slice-table entry
  sliceAt : Nat              -- cycle at which it began
deriving DecidableEq, Repr

/-! ## Functions, settings, queues -/

/-- A pair of `_B` and `_X` views: the preset code in force (0xF custom) and the parameters (R10). -/
structure Setting where
  code : Nat
  hi   : Nat
  lo   : Nat
deriving DecidableEq, Repr

/-- `XUNLOCK` (R11). -/
structure Unlock where
  group : Nat
  xrej  : Bool
  xdone : Bool
  opened : Bool
deriving DecidableEq, Repr

/-- A fault record or another record of a fault log (R323, R388, R411). -/
structure LogRec where
  kind  : Nat                -- 0 trap, 1 end, 2 spare, 3 packet
  code  : Nat
  pc    : W64
  inst  : W32
  info  : W32
  core  : Nat
  who   : Nat                -- workgroup, or handle bits [63:0], or part
deriving DecidableEq, Repr

/-- An entry of a handler table (R365). -/
structure HandlerEnt where
  empty  : Bool
  sbase  : W64
  lbase  : W64
  slen   : Nat
  llen   : Nat
  entry  : Nat
  scratch : Nat
  prod   : Nat
  nreg   : Nat
  lanes  : Nat
  warps  : Nat
  priv   : Nat
  cscope : Nat
deriving DecidableEq, Repr

/-- A posted buffer (R348, R361). -/
structure Posted where
  space : Nat
  addr  : Nat
  len   : Nat
  sync  : Nat
deriving DecidableEq, Repr

/-- An accepted active message (R354). -/
structure AmMsg where
  src  : Nat
  hidx : Nat
  scope : Nat
  bytes : List Byte
deriving DecidableEq, Repr

/-- An interrupt raised (R303, R318, R201, R411). -/
structure Irq where
  fn     : Nat
  kind   : Nat               -- 0 completion, 1 error, 2 management, 3 row disturbance
  cookie : W64
  held   : Nat               -- records released
deriving DecidableEq, Repr

/-- A function: the physical function 0, virtual functions 1-32; number 33 holds the firmware cores' `XUNLOCK` (R11, R310, R318, R327, R390, R398, R399, R402, R407). -/
structure Fn where
  unlock  : Unlock
  icoal   : Setting
  arb     : Setting
  park    : Setting
  stidle  : Setting
  vfbud   : Setting
  vfscope : Setting
  bucket  : Nat              -- bytes in the budget bucket
  filledAt : Nat
  held    : List Nat         -- cycles at which held completion records were written
  log     : List LogRec
  table_  : Option (List HandlerEnt)
  tproc   : Nat              -- the process whose queue registered the table
  slots   : Tbl Posted
  ams     : List AmMsg
  resetStep : Nat            -- 0, or the step of a function reset in progress
  request : List Byte        -- mailbox request
  response : List Byte       -- mailbox response
  doorbell : W32
deriving DecidableEq, Repr

/-- A packet as firmware holds it: its 64 bytes and what was read with it (R302). -/
structure QPacket where
  index  : Nat
  seq    : Nat               -- order of validation on the device (R305)
  bytes  : Nat               -- the 512 bits
  cscope : Nat
  bundle : Option Nat        -- bundle record read, as a bundle number
  shapes : Option (Shape × Shape)
  table_ : Option (List HandlerEnt)
  past   : Bool
  started : Bool
  fired  : Bool              -- a copy packet's copy has been given to the die copy path
  late   : Bool
  unsync : Bool
  dep    : Bool              -- its start acquires (R305)
  ready  : Nat               -- cycle since which it is eligible, 0 not yet
  timed  : Nat               -- 0 not reached, 1 waiting for T or for its wait word, 2 eligible (R314, R317)
  ending : Option Bool       -- its work is done, with an error or not, and its completion record waits for COMP's page (R316, R332)
deriving DecidableEq, Repr

/-- A queue (R296 to R303). -/
structure Queue where
  fn     : Nat
  ring   : Nat
  comp   : Nat
  logn   : Nat
  die    : Nat
  prio   : Nat
  devsub : Bool
  proc   : Nat
  state  : Nat               -- 0 closed, 1 open, 2 error
  ecode  : Nat
  eidx   : Nat
  head   : Nat               -- free-running, 32 bits
  tail   : Nat
  packets : List QPacket     -- validated and not yet completed, oldest first
  starved : Bool
  refused : List Nat         -- pages that firmware could not map for the batch under validation (R302)
deriving DecidableEq, Repr

/-- A member grid of a bundle (R304). -/
structure Grid where
  nwg    : Nat
  coh    : Nat
  garg   : W64
  entry  : Nat
  scratch : Nat
  prod   : Nat
  nreg   : Nat
  lanes  : Nat
  warps  : Nat
  placed : Nat               -- workgroups placed
  low    : Nat               -- workgroups or cohorts, counted from 0, of which all below this one are placed (R33)
  ahead  : List Nat          -- those above it that are placed, ascending
  retired : Nat
  fired  : Bool
  trigs  : Nat               -- warps that have executed `STRIG` or exited
  done   : Bool
deriving DecidableEq, Repr

/-- A bundle (R304, R306). -/
structure Bundle where
  queue  : Nat
  index  : Nat               -- its packet
  fn     : Nat
  proc   : Nat
  die    : Nat
  coplace : Bool
  sbase  : W64
  lbase  : W64
  slen   : Nat
  llen   : Nat
  priv   : Nat
  grids  : List Grid
  locks  : List (Nat × Nat × Nat)   -- die, offset, length
  started : Bool
  done   : Bool
  err    : Bool
  next   : List (Nat × Nat)         -- workgroups whose bind record was refused, to be placed again: grid, workgroup
  pick   : Nat                      -- the model's own: a free value, which says what R33's order places next
deriving DecidableEq, Repr

/-! ## The fabric and the streams -/

/-- A tag in use toward a destination (R343). -/
structure TagRec where
  dev   : Nat
  tag   : Nat
  gen   : Nat
  req   : Nat
  sentAt : Nat
  sends : Nat
  pkts  : List Packet
deriving DecidableEq, Repr

/-- A generation a freed tag last carried, and when it was freed (R343). -/
structure FreedTag where
  dev : Nat
  tag : Nat
  gen : Nat
  at_ : Nat
deriving DecidableEq, Repr

/-- An entry of the reply cache (R344). -/
structure CacheEnt where
  src   : Nat
  tag   : Nat
  gen   : Nat
  reply : List Packet
  until_ : Nat
deriving DecidableEq, Repr

/-- A group being gathered (R341). -/
structure Group where
  src   : Nat
  tag   : Nat                -- tag of member 0
  gen   : Nat
  pkts  : List Packet
  since : Nat
deriving DecidableEq, Repr

/-- A packet of another device that stands in an egress port on its way (R336, R347). -/
structure Transit where
  id    : Nat
  port  : Nat
  pkt   : Packet
  since : Nat
  told  : Bool               -- its source has been sent CONG
deriving DecidableEq, Repr

/-- A congestion flag of an egress port (R347). -/
structure Cong where
  port  : Nat
  dev   : Nat
  since : Nat
  last  : Nat                -- last cycle at which its cause was seen
deriving DecidableEq, Repr

/-- A token of a received message (R350, R351). -/
structure Token where
  off  : Nat
  len  : Nat
  at_  : Nat
  got  : Nat                 -- bytes of it that have arrived
deriving DecidableEq, Repr

/-- The receiver's states of a message (R349); the ended ones free the record. -/
inductive MsgState where
  | waitbuf | active | paused
deriving DecidableEq, Repr

/-- A receiver's message record (R349 to R352). -/
structure RecvMsg where
  src   : Nat
  msgid : Nat
  fn    : Nat
  slot  : Nat
  prio  : Nat
  eff   : Nat                -- effective PRIO
  len   : Nat
  state : MsgState
  got   : List (Nat × Nat)   -- byte ranges received: offset, bytes
  tokens : List Token
  fails : Nat                -- expiries in a row with no byte
  since : Nat                -- cycle since which it holds no token
  birth : Nat
  pre   : Nat                -- leading bytes that its first packet announces as prefix (log 38)
deriving DecidableEq, Repr

/-- A piece of an item that has arrived alone (R393). -/
structure ItemPart where
  home   : Nat
  stream : Nat
  gen    : Nat
  seq    : Nat
  kind   : Nat
  scope  : Nat
  frag   : Nat
  len    : Nat
  bytes  : List Byte
deriving DecidableEq, Repr

/-- An item (R380). -/
structure Item where
  seq   : Nat
  kind  : Nat
  scope : Nat
  bytes : List Byte
  carried : Option EndKey    -- the end a handle item carries
deriving DecidableEq, Repr

/-- The states of a context (R386). -/
inductive CtxState where
  | active | idle | evicting | evicted | reloading
deriving DecidableEq, Repr

/-- A binding of a consumer end (R372, R386). -/
structure Binding where
  hidx  : Nat
  kib   : Nat
  fn    : Nat
  ctx   : Memory
  bad   : List Nat           -- poisoned 8-byte words of the context (R203)
  gran  : List (Nat × Nat)   -- granules of the store it occupies: first one and number of each run (R385)
  st    : CtxState
  since : Nat                -- cycle of the last handler retirement or bind, or of the state's start
  prev  : Nat                -- CSCOPE of the previous handler of the end, 0 where none has run (R372)
deriving DecidableEq, Repr

/-- An end record at its holder (R379 to R394). -/
structure EndRec where
  key    : EndKey
  gen    : Nat
  chk    : W64
  fn     : Nat
  die    : Nat
  next   : Nat               -- next sequence number to append or to deliver
  credits : Nat
  items  : List Item         -- held, in sequence order
  bind   : Option Binding
  running : Option Nat       -- workgroup of the running handler
  faulted : Bool
  frozen : Bool
  pending : Bool             -- a transfer waits for the running handler
  closed : Bool              -- the other end is closed
  orphan : Bool              -- the other end is lost
  peer   : Nat               -- device that holds the other end; 0xF_FFFF: send to the home
  frozenAt : Nat
  base   : Nat               -- of a producer, the consumer GEN its items carry; of a consumer, the least it accepts (R393)
deriving DecidableEq, Repr

/-- The state of an end at its home (R379). -/
inductive EndState where
  | resident (dev : Nat)
  | transit
  | closed
  | orphaned
deriving DecidableEq, Repr

/-- What a MOVE carried, kept at the home; and what has reached an adopter so far (R391). -/
structure Moved where
  next   : Nat
  credits : Nat
  kib    : Nat               -- 0: not bound
  hidx   : Nat
  faulted : Bool
  ctx    : Memory
  bad    : List Nat          -- poisoned 8-byte words of it (R203)
  chunks : List Nat          -- 256-byte pieces of the context that have arrived
  items  : List Item
  gen    : Nat
  chk    : Option W64
  peer   : Nat
  placed : Bool              -- the MOVE or PLACE itself has arrived
  fn     : Nat               -- the adopter's function and die
  die    : Nat
  cscope : Nat               -- CSCOPE of the end's last handler
  base   : Nat               -- what the adopter's record takes as `base`
  told   : Bool              -- an SLOC has named the other end's location already
  lost   : Option (Option Nat)   -- the other end is lost: the last SEQ appended, where known (R394)
deriving DecidableEq, Repr

/-- One end at the home. -/
structure HomeEnd where
  st    : EndState
  gen   : Nat
  moved : Option Moved
  steps : List (Nat × Nat)   -- move steps handled: GEN, PHASE (R393)
deriving DecidableEq, Repr

/-- A stream at its home (R379, R373). -/
structure StreamHome where
  live : Bool
  prod : HomeEnd
  cons : HomeEnd
  next : Nat                 -- generation the next use starts at
  base : Nat                 -- generation of the present use at its `STOPEN`
deriving DecidableEq, Repr

/-! ## The device -/

/-- Boot, care and identity (R27 to R29, R405 to R411). -/
structure Boot where
  stage   : Nat              -- self-test stages passed; 6 when all have
  repeat_ : Bool             -- the stage is being repeated with a spare in place (R405)
  running : Bool             -- self-test runs
  safe    : Bool
  retired : Bool
  banks   : List (Option Image)
  active  : Nat
  booted  : Option Nat       -- the bank that booted
  fuse    : Nat
  steps   : Nat              -- times that the counter has advanced (R408)
  report  : List (Nat × FailPart)          -- stages failed, with the failing part
  spares  : List (SpareKind × Nat × Nat)   -- in service: kind, logical part, physical part
  pending : List (SpareKind × Nat)         -- parts that wait for their quiescent point
  due     : List Nat         -- TLB arrays of them whose next invalidation has come (R411)
  errors  : Tbl Nat          -- corrected errors per structure
  strikes : List (SpareKind × Nat × Nat)   -- corrected errors of the last 24 h: kind, part, cycle (R411)
  hostPort : Nat             -- 0 active on `E0`, 1 on `E1`
  lanes   : List (Nat × Nat) -- fabric lanes being retrained: port, lane
deriving DecidableEq, Repr

/-- Device time (R315). -/
structure Ptp where
  now   : Nat                -- ns
  frac  : Nat                -- fraction of a ns not yet counted, in units of 1 / (1.4 · 10^12) ns
  owed  : Nat                -- slew to absorb, in the units of `frac`
  rate  : Int                -- parts per 10^12
  hold  : Nat                -- ms
  sync  : Bool
  ever  : Bool
  last  : Nat                -- cycle of the last discipline
deriving DecidableEq, Repr

/-- The state of the fabric side of the device (R334 to R354). -/
structure Fabric where
  route  : Tbl W64
  tenmap : Tbl W32
  wrr    : Tbl Nat           -- packets sent per destination: the position of the weighted round-robin
  tags   : List TagRec
  freed  : List FreedTag
  cache  : List CacheEnt
  groups : List Group
  cong   : List Cong
  msgs   : List RecvMsg
  out    : List (Nat × Packet)   -- packets sent: port, packet
  transit : List Transit
  bad    : W32
  late   : W32
  dead   : List Nat          -- destinations declared unreachable
  nextMsg : Nat
  parts  : List ItemPart
deriving DecidableEq, Repr

/-- What a step may be told to do next (log 1): an event of the opcode table, or the issue of one instruction of a stream. -/
inductive Move where
  | event (i : Instr)
  | issue (warp : Nat) (st : Stream)
deriving DecidableEq, Repr

/-- The machine. -/
structure State where
  -- the model's own fields (logs 1, 6, 19)
  agenda : List (Nat × Move)         -- cycles to wait, and what happens then
  cur    : Option (Nat × Stream)     -- the issuing position
  used   : List (Nat × Bool)         -- warps that have issued in this cycle: scalar (false) or lane (true) (R313)
  reissued : List (Nat × Nat)        -- replay stores, by owner class and source, that have reissued an entry in this cycle (R255)
  free   : Nat                       -- free values used so far
  nextId : Nat                       -- next request, result or engine operation
  nextWg : Nat
  -- the cores
  warps  : Tbl Warp                  -- key 16·workgroup + warp
  wgs    : Tbl Wg
  cores  : Tbl Core                  -- key 60·die + logical core
  dies   : Tbl Die
  cohorts : Tbl Barrier              -- cohort barriers, key 65536·bundle grid + cohort
  -- the memory system
  cyc    : Nat                       -- core cycle counter
  mem    : Memory                    -- by physical address with home
  lines  : Tbl HomeLine              -- by line
  poison : List Nat                  -- poisoned 8-byte words
  frames : Tbl Frame
  pages  : List PageEntry            -- page entries in force (R332)
  inval  : List PageEntry            -- invalidations not yet complete
  reqs   : Tbl Req
  queues : Tbl Shq                   -- shared queues by `QId.code`
  chans  : Tbl Chan
  -- settings and functions
  resid  : Setting
  replayq : Setting
  rowguard : Setting
  bulk   : Setting
  ctxstore : Setting
  power  : Setting
  fns    : Tbl Fn
  slices : Vector W32 64
  -- the command front end
  cmdq   : Tbl Queue
  bundles : Tbl Bundle
  weights : Tbl Nat                  -- process weights, key 65536·function + process
  deficit : Tbl Nat
  irqs   : List Irq
  ptp    : Ptp
  -- the fabric, the streams, the host
  devid  : BitVec 20
  fab    : Fabric
  kstream : BitVec 256
  streams : Tbl StreamHome           -- by stream index
  ends   : List EndRec
  moves  : List (EndKey × Moved)     -- end moves in progress at this device's side
  hostLines : Tbl Bool               -- host memory lines held under CXL.cache: true exclusive or modified, false shared (R396)
  boot   : Boot
deriving DecidableEq, Repr

/-! ## Reset (R405 and the Reset columns; log 5) -/

def Setting.ofPreset (code hi lo : Nat) : Setting := ⟨code, hi, lo⟩

def Unlock.reset : Unlock := ⟨0, false, false, false⟩

/-- A function right after reset (R318, R310, R327, R390, R399, R11). -/
def Fn.reset : Fn where
  unlock := Unlock.reset
  icoal := ⟨2, 20, 32⟩
  arb := ⟨2, 0, 10⟩
  park := ⟨0, 0, 0⟩
  stidle := ⟨2, 0, 400⟩
  vfbud := ⟨1, 0, 0⟩
  vfscope := ⟨2, 0, 1⟩
  bucket := 0
  filledAt := 0
  held := []
  log := []
  table_ := none
  tproc := 0
  slots := []
  ams := []
  resetStep := 0
  request := []
  response := []
  doorbell := 0

def Bank.none : Bank := ⟨Option.none, [], 0, false⟩

/-- A core right after reset: logical core `c` on tile `c` (log 5). -/
def Core.reset (c : Nat) : Core where
  row := c / 8 % 8
  col := c % 8
  l1 := []
  lines := []
  wbuf := []
  tlb := []
  records := []
  binds := []
  banks := #v[Bank.none, Bank.none]
  matq := []
  copies := []
  parkSince := []
  replay := none
  laneAt := 0

def Die.reset : Die := ⟨[], [], [], [], none, 0, 0⟩

def Boot.reset : Boot where
  stage := 0
  repeat_ := false
  running := false
  safe := false
  retired := false
  banks := [none, none]
  active := 0
  booted := none
  fuse := 0
  steps := 0
  report := []
  spares := []
  pending := []
  due := []
  errors := []
  strikes := []
  hostPort := 0
  lanes := []

def Fabric.reset : Fabric := ⟨[], [], [], [], [], [], [], [], [], [], [], 0, 0, [], 0, []⟩

/-- The slice table: entry 0 is the physical function for 1,000 µs, the others idle with length 0 (R309). -/
def slicesReset : Vector W32 64 := Vector.ofFn fun k => if k.val = 0 then 1000#32 else 0x00FF0000#32

/-- The machine right after reset. Tables list nothing: a core, die or function that no entry lists stands at its own reset value. -/
def State.reset : State where
  agenda := []
  cur := none
  used := []
  reissued := []
  free := 0
  nextId := 1
  nextWg := 0
  warps := []
  wgs := []
  cores := []
  dies := []
  cohorts := []
  cyc := 0
  mem := []
  lines := []
  poison := []
  frames := []
  pages := []
  inval := []
  reqs := []
  queues := []
  chans := []
  resid := ⟨2, 0, 512⟩
  replayq := ⟨2, 64, 4⟩
  rowguard := ⟨2, 20, 2048⟩
  bulk := ⟨2, 32, 16⟩
  ctxstore := ⟨0, 0, 0⟩
  power := ⟨1, 0, 240⟩
  fns := []
  slices := slicesReset
  cmdq := []
  bundles := []
  weights := []
  deficit := []
  irqs := []
  ptp := ⟨0, 0, 0, 0, 2000, false, false, 0⟩
  devid := 0xFFFFF
  fab := Fabric.reset
  kstream := Config.freeKey 0
  streams := []
  ends := []
  moves := []
  hostLines := []
  boot := Boot.reset

end Sys2Proof.Machine
end

