-- ==== Sys2Proof/Machine/Ops.lean ====
section
/-! DEFINITION. The named operations over the state: tables, registers, address spaces as the fetch sees them, taking a trap (R319 to R324) and returning from one (R325). -/

namespace Sys2Proof.Machine

/-! ## Tables: an object that no entry lists stands at its reset value. -/

def warpKey (g i : Nat) : Nat := 16 * g + i
def coreKey (die lcore : Nat) : Nat := 60 * die + lcore

def State.core (s : State) (k : Nat) : Core := Tbl.getD s.cores k (Core.reset (k % 60))
def State.die (s : State) (d : Nat) : Die := Tbl.getD s.dies d Die.reset
def State.fn (s : State) (f : Nat) : Fn := Tbl.getD s.fns f Fn.reset
/-- A line never written: version 0, the frame epoch 0, in HBM (R195, R214). -/
def HomeLine.blank : HomeLine := ⟨0, 0, [], [], .hbm, 0, false, 0, []⟩
def State.line (s : State) (l : Nat) : HomeLine := Tbl.getD s.lines l HomeLine.blank
/-- A frame belongs to the physical function until it is assigned (log 5). -/
def Frame.blank : Frame := ⟨0, 0, false, 0⟩
def State.frame (s : State) (f : Nat) : Frame := Tbl.getD s.frames f Frame.blank
def Shq.blank : Shq := ⟨[], [], [], [], [], [], []⟩
def State.queue (s : State) (q : Nat) : Shq := Tbl.getD s.queues q Shq.blank
def Chan.blank : Chan := ⟨0, [], [], [], [], [], 0, []⟩
def State.chan (s : State) (c : Nat) : Chan := Tbl.getD s.chans c Chan.blank

def addOnce (l : List Nat) (n : Nat) : List Nat := if l.contains n then l else l ++ [n]

def State.putWarp (s : State) (k : Nat) (w : Warp) : State := { s with warps := Tbl.put s.warps k w }
def State.putWg (s : State) (g : Nat) (x : Wg) : State := { s with wgs := Tbl.put s.wgs g x }
def State.putCore (s : State) (k : Nat) (c : Core) : State := { s with cores := Tbl.put s.cores k c }
def State.putDie (s : State) (d : Nat) (x : Die) : State := { s with dies := Tbl.put s.dies d x }
def State.putFn (s : State) (f : Nat) (x : Fn) : State := { s with fns := Tbl.put s.fns f x }
def State.putLine (s : State) (l : Nat) (x : HomeLine) : State := { s with lines := Tbl.put s.lines l x }
def State.putFrame (s : State) (f : Nat) (x : Frame) : State := { s with frames := Tbl.put s.frames f x }
def State.putQueue (s : State) (q : Nat) (x : Shq) : State := { s with queues := Tbl.put s.queues q x }
def State.putChan (s : State) (c : Nat) (x : Chan) : State := { s with chans := Tbl.put s.chans c x }
def State.putReq (s : State) (r : Req) : State := { s with reqs := Tbl.put s.reqs r.id r }
def State.delReq (s : State) (r : Nat) : State := { s with reqs := Tbl.del s.reqs r }
def State.putCmdq (s : State) (q : Nat) (x : Queue) : State := { s with cmdq := Tbl.put s.cmdq q x }
def State.putBundle (s : State) (b : Nat) (x : Bundle) : State := { s with bundles := Tbl.put s.bundles b x }

/-- The warp `k` changed by `f`, where it exists. -/
def State.onWarp (s : State) (k : Nat) (f : Warp → Warp) : State := { s with warps := Tbl.adjust s.warps k f }
def State.onWg (s : State) (g : Nat) (f : Wg → Wg) : State := { s with wgs := Tbl.adjust s.wgs g f }
def State.onReq (s : State) (r : Nat) (f : Req → Req) : State := { s with reqs := Tbl.adjust s.reqs r f }
/-- A core changed by `f`; no core has a number from 240 on. -/
def State.onCore (s : State) (k : Nat) (f : Core → Core) : State := if k < 240 then s.putCore k (f (s.core k)) else s
def State.onFn (s : State) (k : Nat) (f : Fn → Fn) : State := s.putFn k (f (s.fn k))
def State.onDie (s : State) (k : Nat) (f : Die → Die) : State := s.putDie k (f (s.die k))

/-- The key that stands for no warp, and the core that stands for no core, in requests of other sources (R416). -/
def noWarp : Nat := 2 ^ 40
def noCore : Nat := 2 ^ 20

/-- The workgroup of a warp key. -/
def wgOf (k : Nat) : Nat := k / 16

/-- A workgroup with nothing in it, where a warp's workgroup is not listed. -/
def Wg.blank : Wg where
  fn := 0
  proc := 0
  die := 0
  core := 0
  bundle := 0
  grid := 0
  wg := 0
  nwg := 0
  cohort := none
  wgc := 0
  warps := 0
  nreg := 0
  lanes := 0
  padSize := 0
  padBase := 0
  pad := []
  padPoison := []
  producer := none
  sbase := 0
  slen := 0
  lbase := 0
  llen := 0
  age := 0
  order := 0
  status := .resident
  bars := []
  chains := []
  epoch := 0
  banks := []
  matq := []
  copies := []
  claims := []
  handler := .none
  cscope := 2
  priv := 0
  leave := 0
  ctx := none
  failed := false
  trapper := none

def State.wg (s : State) (g : Nat) : Wg := Tbl.getD s.wgs g Wg.blank
def Wg.coreKey (g : Wg) : Nat := Machine.coreKey g.die g.core

/-- The warps of a workgroup, by key. -/
def State.warpsOf (s : State) (g : Nat) : List (Nat × Warp) := List.filter (fun x : Nat × Warp => wgOf x.1 == g) s.warps

/-- A fresh number for a request, a result or an engine operation. -/
def State.bump (s : State) : State := { s with nextId := s.nextId + 1 }

/-- A free value: nothing constrains it (log 6). -/
def State.freeWord (s : State) : W64 := Config.freeBits s.free
def State.drawn (s : State) (n : Nat) : State := { s with free := s.free + n }

/-! ## Scalar registers (R36, R49, R114) -/

/-- `s0` reads as zero. -/
def Warp.sr (w : Warp) (r : SReg) : W64 := if r = 0#6 then 0#64 else w.sc.s[r.toNat]

/-- A write to a scalar register, which fills it; `s0` ignores writes. -/
def Scalar.put (c : Scalar) (r : SReg) (v : W64) : Scalar :=
  if r = 0#6 then c
  else { c with s := c.s.set r.toNat v, empty := c.empty &&& ~~~(1#64 <<< r.toNat) }

def Warp.writeS (w : Warp) (r : SReg) (v : W64) : Warp := { w with sc := w.sc.put r v }

/-- The register is marked empty at issue; `s0` never is (R114). -/
def Scalar.mark (c : Scalar) (r : SReg) : Scalar :=
  if r = 0#6 then c else { c with empty := c.empty ||| (1#64 <<< r.toNat) }

/-- A long operation: `sd` is empty until its result in flight lands (R114). -/
def Warp.longS (w : Warp) (r : SReg) (v : W64) : Warp :=
  if r = 0#6 then w else { w with sc := { w.sc.mark r with fill := w.sc.fill ++ [(r, v)] } }

def Scalar.full (c : Scalar) (r : SReg) : Bool := !c.empty.getLsbD r.toNat
/-- Every register named is full (R50, R114). -/
def Scalar.ready (c : Scalar) (rs : List SReg) : Bool := rs.all c.full

/-! ## Lane registers (R46, R49) -/

def Regs.get (r : Regs) (e : Nat) : Lanes := Tbl.getD r.pool e (Lanes.splat 0#32)
def Regs.put (r : Regs) (e : Nat) (v : Lanes) : Regs := { r with pool := Tbl.put r.pool e v }
def Regs.isEmpty (r : Regs) (e : Nat) : Bool := r.empty.getLsbD e
def Regs.isPoison (r : Regs) (e : Nat) : Bool := r.poison.getLsbD e
def Regs.setEmpty (r : Regs) (e : Nat) (b : Bool) : Regs :=
  { r with empty := if b then r.empty ||| (1#512 <<< e) else r.empty &&& ~~~(1#512 <<< e) }
def Regs.setPoison (r : Regs) (e : Nat) (b : Bool) : Regs :=
  { r with poison := if b then r.poison ||| (1#512 <<< e) else r.poison &&& ~~~(1#512 <<< e) }
def Regs.marked (r : Regs) (es : List Nat) : Regs := es.foldl (fun r e => r.setEmpty e true) r
def Regs.filled (r : Regs) (es : List Nat) : Regs := es.foldl (fun r e => r.setEmpty e false) r

/-- Lanes `m` of entry `e` take new values; a word overwritten whole is no longer poisoned (R203). -/
def Regs.merge (r : Regs) (m : LaneMask) (e : Nat) (v : Lanes) : Regs :=
  let r' := r.put e (Lanes.merge m v (r.get e))
  if m == 0xFFFFFFFF#32 then r'.setPoison e false else r'

/-- `p0` is all-true (R95). -/
def Regs.pr (r : Regs) (n : Nat) : LaneMask := if n = 0 then 0xFFFFFFFF#32 else r.p.toList.getD n 0#32
/-- P[0] ignores writes. -/
def Regs.putP (r : Regs) (n : Nat) (v : LaneMask) : Regs :=
  if n = 0 then r else { r with p := r.p.setIfInBounds n v }
def Regs.kr (r : Regs) (n : Nat) : W16 := r.k.toList.getD n 0#16
def Regs.putK (r : Regs) (n : Nat) (v : W16) : Regs := { r with k := r.k.setIfInBounds n v }
/-- A counter after `n` arrivals: at 0xFFFF it stays there (R51). -/
def arrived (v : W16) (n : Nat) : W16 := BitVec.ofNat 16 (min 0xFFFF (v.toNat + n))
/-- An arrival (R51); it is remembered for the rest of the cycle (R160). -/
def Regs.arrive (r : Regs) (n : Nat) : Regs := { r.putK n (arrived (r.kr n) 1) with arrs := n :: r.arrs }
/-- A counter written: the arrivals that landed in the same cycle are applied after the write (R160). -/
def Regs.writeK (r : Regs) (n : Nat) (v : W16) : Regs := r.putK n (arrived v (r.arrs.count n))

/-- The pool entry of the `i`-th register of a group from a register name on, where it is valid (R46). -/
def Regs.entry (r : Regs) (o : Opnd) (i : Nat) : Option Nat :=
  match o with
  | .v n => if n.toNat + i < r.vb then some (n.toNat + i) else none
  | .a n => if n.toNat + i < r.nreg - r.vb then some (r.nreg - 1 - (n.toNat + i)) else none
  | _ => none

/-! ## Pages and the fetch (R75, R76, R330) -/

def pageBytes : PageSize → Nat | .k64 => 65536 | .m2 => 2097152 | .g1 => 1073741824

/-- The home in the upper bits of a physical address: 0 own, 1 host, 2 + dev remote. -/
def homeCode : HomeAt → Nat | .own => 0 | .host => 1 | .remote d => 2 + d
def homeBase (h : HomeAt) : Nat := homeCode h * 2 ^ 57
def homeOf (pa : Nat) : Nat := pa / 2 ^ 57
def paOf (pa : Nat) : Nat := pa % 2 ^ 57
def isRemote (pa : Nat) : Bool := 2 ≤ homeOf pa

def pageCovers (p : PageEntry) (fn space va : Nat) : Bool :=
  p.fn == fn && p.space == space && p.va ≤ va && va < p.va + pageBytes p.size

/-- The entry's rights admit the access: a writing one needs the write right, any other the read right (R330, log 10). -/
def pageAllows (p : PageEntry) (write : Bool) : Bool := if write then p.write else p.read

def pagePhys (p : PageEntry) (va : Nat) : Nat := homeBase p.home + p.pa + (va - p.va)

/-- The page entry in force for an address. -/
def State.page (s : State) (fn space va : Nat) : Option PageEntry := s.pages.find? fun p => pageCovers p fn space va

/-- The physical address that a virtual one has now, through no TLB. -/
def State.phys (s : State) (fn space va : Nat) : Option Nat := (s.page fn space va).map fun p => pagePhys p va

/-- The device is in the safe state, or not yet brought up: lane pipelines, matrix arrays, copy engines, doorbells and fabric data are off (R405, R406). -/
def State.off (s : State) : Bool := s.boot.safe || s.boot.retired || s.boot.stage < 6

/-- A stale line reads as zero bytes (R403). -/
def State.stale (s : State) (pa : Nat) : Bool :=
  homeOf pa == 0 && (s.line (pa / 128)).epoch != (s.frame (paOf pa / 65536)).epoch

/-- One byte at its home. -/
def State.homeByte (s : State) (pa : Nat) : Byte := if s.stale pa then 0#8 else Memory.read s.mem pa

/-- One byte as the fetch, and the device's own engines, read it: unmapped bytes are blank (log 20), and what another device's memory holds is free (log 86). -/
def State.vbyte (s : State) (fn space va : Nat) : Byte :=
  match s.phys fn space va with
  | some pa => if isRemote pa then Config.remoteByte s.cyc pa else s.homeByte pa
  | none => Memory.blank

/-- `n` bytes of a function's address space as a little-endian number. -/
def State.vread (s : State) (fn space va : Nat) : Nat → Nat
  | 0 => 0
  | n + 1 => (s.vbyte fn space va).toNat + 256 * s.vread fn space (va + 1) n

/-- The bytes of an instruction, lowest address first. -/
def State.vbytes (s : State) (fn space va : Nat) : Nat → List Byte
  | 0 => []
  | n + 1 => s.vbyte fn space va :: s.vbytes fn space (va + 1) n

/-- The scalar word at a warp's scalar PC. -/
def State.scalarBytes (s : State) (g : Wg) (w : Warp) : List Byte := s.vbytes g.fn g.proc w.sc.pc.toNat 4
/-- The lane instruction at a lane PC (R75). -/
def State.laneBytes (s : State) (g : Wg) (pc : Nat) : List Byte := s.vbytes g.fn g.proc (g.lbase.toNat + 12 * pc) 12

/-- An address the scalar section holds (R76). -/
def Wg.inScalar (g : Wg) (pc : W64) : Bool :=
  g.sbase.toNat ≤ pc.toNat && pc.toNat < g.sbase.toNat + g.slen && pc.toNat % 4 == 0
/-- A lane PC the lane section holds (R76). -/
def Wg.inLane (g : Wg) (pc : Nat) : Bool := pc < g.llen / 12

/-! ## Slots -/

def Slot.idle : Slot := ⟨.idle, 0, 0, 0, .none, 0, 0⟩

/-- A slot emptied; its issue spacing holds on (R85). -/
def Slot.cleared (x : Slot) : Slot := { Slot.idle with until_ := x.until_ }

/-- A slot that begins to run at a place; its issue spacing holds on (R85). -/
def Slot.begins (x : Slot) (pc : BitVec 20) (m : LaneMask) (join : BitVec 24) : Slot :=
  ⟨.running, pc, m, join, .none, x.until_, 0⟩

def Warp.slot (w : Warp) : Stream → Slot
  | .slotB => w.slotB
  | _ => w.slotA

def Warp.putSlot (w : Warp) (st : Stream) (x : Slot) : Warp :=
  match st with
  | .slotB => { w with slotB := x }
  | _ => { w with slotA := x }

/-- `LPCA` and `LPCB` (R320). -/
def Slot.lpc (x : Slot) : W64 :=
  BitVec.ofNat 64 (x.mask.toNat * 2 ^ 32 +
    (match x.st with | .idle => 0 | .running => 1 | .parked => 2) * 2 ^ 24 + x.pc.toNat)

/-! ## Taking a trap (R319 to R324) -/

/-- Codes that a user handler can take (R319). -/
def delegable (code : Nat) : Bool := code != 0x0A && code != 0x1B && 1 ≤ code && code ≤ 0x21

def cILLOP : Nat := 0x01
def cREGRANGE : Nat := 0x02
def cEMPTYREG : Nat := 0x03
def cFETCHF : Nat := 0x04
def cALIGNF : Nat := 0x05
def cADDRF : Nat := 0x06
def cSPRANGE : Nat := 0x07
def cCTXF : Nat := 0x08
def cPROTF : Nat := 0x09
def cPAGEF : Nat := 0x0A
def cLOOPF : Nat := 0x0B
def cRQEMPTY : Nat := 0x0C
def cRQDIV : Nat := 0x0D
def cDIVOVF : Nat := 0x0E
def cLSTOPDIV : Nat := 0x0F
def cLJOINF : Nat := 0x10
def cXLDIV : Nat := 0x11
def cVBDIV : Nat := 0x12
def cFUSEUND : Nat := 0x13
def cMCASTF : Nat := 0x14
def cCSLICEF : Nat := 0x15
def cPRODF : Nat := 0x16
def cWBANKF : Nat := 0x17
def cCPYF : Nat := 0x18
def cRINGF : Nat := 0x19
def cWSLOCK : Nat := 0x1A
def cCPYPF : Nat := 0x1B
def cMEMRACE : Nat := 0x1C
def cMEMERR : Nat := 0x1D
def cATOMUNK : Nat := 0x1E
def cSCOPEF : Nat := 0x1F
def cUTRAP : Nat := 0x20
def cERETF : Nat := 0x21

/-- `TRAPCAUSE` (R320): INFO, SRC, PEND and CODE; SKIP is 0. -/
def causeWord (info src : Nat) (pend : Bool) (code : Nat) : W64 :=
  BitVec.ofNat 64 (info % 2 ^ 32 * 2 ^ 32 + src % 4 * 2 ^ 14 + (if pend then 2 ^ 12 else 0) + code % 256)

def trapCode (c : W64) : Nat := c.toNat % 256
def trapSrc (c : W64) : Nat := c.toNat / 2 ^ 14 % 4
def trapSkip (c : W64) : Bool := c.toNat / 2 ^ 13 % 2 == 1
def trapPend (c : W64) : Bool := c.toNat / 2 ^ 12 % 2 == 1

/-- The trap registers a stopping warp writes; its slots freeze into `LPCA` and `LPCB`. -/
def Warp.record (w : Warp) (cause pc : W64) (inst : W32) : Warp :=
  { w with trap := { w.trap with cause := cause, pc := pc, inst := inst.setWidth 64, lpca := w.slotA.lpc, lpcb := w.slotB.lpc } }

/-- The warp that a trap stops. -/
def Warp.stop (w : Warp) (cause pc : W64) (inst : W32) : Warp := { w.record cause pc inst with halt := .stopped }

/-- The state set aside at the entry of a user handler (R324). -/
def Warp.setAside (w : Warp) : SetAside := ⟨w.sc.loops, w.sc.wait, w.sc.pc⟩

/-- Entry of the user handler: the scalar stream goes on at `TRAPVEC`.ADDR with an empty loop stack (R323, R324). -/
def Warp.enterHandler (w : Warp) : Warp :=
  { w with
    handler := some w.setAside
    sc := { w.sc with loops := [], wait := .none, pc := BitVec.ofNat 64 (w.trap.vec.toNat / 4 * 4) }
    halt := .run }

/-- What was set aside is put back (R325). -/
def Warp.restored (w : Warp) (a : SetAside) : Warp :=
  { w with handler := none, sc := { w.sc with loops := a.loops, wait := a.wait, pc := a.pc } }

/-- `TRAPDELEG` selects the cause and `TRAPVEC`.EN is 1 (R319, R323). -/
def Warp.delegates (w : Warp) (code : Nat) : Bool :=
  delegable code && w.trap.deleg.getLsbD code && w.trap.vec.getLsbD 0

/-- A halt reaches the warp: its skid window begins, and the counts of R322 with it; it ends by itself at cycle `stop`. -/
def Warp.halted_ (w : Warp) (now stop : Nat) : Warp := { w with halt := .skid now stop, trap := { w.trap with skids := 0, skidl := 0 } }

/-- The cycle at which a halted sibling stops by itself: a free member of the nine that R322 allows (logs 6, 7). -/
def State.stopCycle (s : State) (j : Nat) : Nat := s.cyc + 1 + (Config.freeBits (s.free + j % 16)).toNat % 9

/-- The halt reaches every other warp of the workgroup (R321). -/
def State.broadcastHalt (s : State) (k : Nat) : State :=
  State.drawn { s with warps := Tbl.mapVal (fun j w =>
      if wgOf j = wgOf k && j != k && !w.exited && decide (w.halt = .run) then w.halted_ s.cyc (s.stopCycle j) else w) s.warps } 16

/-- The trap of warp `k`, stopped as `w`, is the one that is handled: by its user handler, or by firmware (R323, R324). The warp issues nothing more in this cycle. -/
def State.takeTrap (s : State) (k : Nat) (w : Warp) (code : Nat) : State :=
  let s1 := { s with used := s.used ++ [(k, false), (k, true)] }
  if w.handler.isNone && w.delegates code then (s1.putWarp k w.enterHandler).onWg (wgOf k) fun g => { g with trapper := some k }
  else (s1.putWarp k w).onWg (wgOf k) fun g => { g with status := .halted, trapper := some k }

/-- The trap taken a moment ago gives way to that of a lower-numbered warp in the same cycle: its warp becomes a PEND sibling (R322). -/
def Warp.demoted (w : Warp) : Warp :=
  let w1 := match w.handler with | some a => w.restored a | none => w
  { w1 with halt := .stopped, trap := { w1.trap with cause := w1.trap.cause ||| 4096#64 } }

def State.demote (s : State) (j : Nat) : State := (s.onWarp j Warp.demoted).onWg (wgOf j) fun g => { g with status := .resident }

/-- The trap of warp `k` (R319 to R324): the trap registers are written, the siblings halt, and the user handler is entered or the workgroup is left to firmware. A sibling that the halt has reached records PEND and stops (R322), but of several warps that trap in one cycle the lowest-numbered is the trapping warp. A trap in handler mode leaves the workgroup to firmware (R324). A stopped warp that has recorded a trap keeps it. -/
def State.raise (s : State) (k src code info : Nat) (pc : W64) (inst : W32) : State :=
  match Tbl.find s.warps k with
  | none => s
  | some w =>
    let first := w.stop (causeWord info src false code) pc inst
    let pend := w.stop (causeWord info src true code) pc inst
    match w.halt with
    | .run => (s.broadcastHalt k).takeTrap k first code
    | .skid t _ =>
      match (s.wg (wgOf k)).trapper with
      | some j => if t = s.cyc ∧ k < j then (s.demote j).takeTrap k first code else s.putWarp k pend
      | none => s.putWarp k pend
    | .stopped =>
      if trapPend w.trap.cause || (s.wg (wgOf k)).trapper == some k then s else s.putWarp k pend

def streamSrc : Stream → Nat | .scalar => 0 | .slotA => 1 | .slotB => 2

/-- The low 32 bits of a scalar word, and bits [95:64] of a lane instruction, for `TRAPINST` (R94). -/
def State.scalarInst (s : State) (g : Wg) (w : Warp) : W32 := BitVec.ofNat 32 (leNat (s.scalarBytes g w))
def State.laneInst (s : State) (g : Wg) (pc : Nat) : W32 := BitVec.ofNat 32 (leNat (s.laneBytes g pc) / 2 ^ 64)

/-- A precise trap at the scalar instruction of warp `k`. -/
def State.raiseScalar (s : State) (k : Nat) (w : Warp) (code info : Nat) : State :=
  s.raise k 0 code info w.sc.pc (s.scalarInst (s.wg (wgOf k)) w)

/-- A precise trap at the lane instruction of a slot. -/
def State.raiseLane (s : State) (k : Nat) (w : Warp) (st : Stream) (code info : Nat) : State :=
  let pc := (w.slot st).pc.toNat
  s.raise k (streamSrc st) code info (BitVec.ofNat 64 pc) (s.laneInst (s.wg (wgOf k)) pc)

/-! ## Lane PCs after an instruction (R42, R76) -/

/-- A running slot whose PC is its join PC parks (R42). -/
def Slot.park (x : Slot) : Slot :=
  if x.st = .running ∧ x.pc.setWidth 24 = x.join then { x with st := .parked } else x

/-- The slot `x` once the entry has been popped into it. -/
def DivEnt.into (e : DivEnt) (x : Slot) : Slot := (x.begins (e.pc.setWidth 20) e.mask e.join).park

/-- One step of R42; `none` when none applies. -/
def Warp.settle1 (w : Warp) : Option Warp :=
  if w.slotA.st = .parked then some { w with slotA := w.slotA.cleared }
  else if w.slotB.st = .parked then some { w with slotB := w.slotB.cleared }
  else match w.dstack with
    | [] => none
    | e :: r =>
      if !e.rcv then
        if w.slotA.st = .idle then some { w with dstack := r, slotA := e.into w.slotA }
        else if w.slotB.st = .idle then some { w with dstack := r, slotB := e.into w.slotB }
        else none
      else if w.slotA.st = .idle && !(w.slotB.st = .running && w.slotB.join == e.join) &&
          !(w.slotB.st = .running && e.mask &&& w.slotB.mask != 0) then
        some { w with dstack := r, slotA := e.into w.slotA }
      else none

def Warp.settleGo : Nat → Warp → Warp
  | 0, w => w
  | n + 1, w => match w.settle1 with | some w' => Warp.settleGo n w' | none => w

/-- Parking and the pops of R42 until none applies. -/
def Warp.settle (w : Warp) : Warp :=
  let w' := { w with slotA := w.slotA.park, slotB := w.slotB.park }
  Warp.settleGo (3 * w.dstack.length + 4) w'

/-! ## Returning from a trap (R325) -/

/-- The trapping warp after `SERET`: the set-aside state, and where it resumes. -/
def Warp.leaveHandler (w : Warp) (a : SetAside) : Warp :=
  let skip := trapSkip w.trap.cause
  let src := trapSrc w.trap.cause
  let w1 := w.restored a
  let next (x : Slot) : Slot := { x with wait := .none, pc := BitVec.ofNat 20 (w.trap.pc.toNat + if skip then 1 else 0) }
  match src with
  | 0 => { w1 with sc := { w1.sc with wait := .none, pc := if skip then w.trap.pc + 4 else w.trap.pc } }
  | 1 => Warp.settle { w1 with slotA := next w1.slotA }
  | 2 => Warp.settle { w1 with slotB := next w1.slotB }
  | _ => w1

/-- The lowest sibling that trapped while halted (R325). -/
def State.pendSibling (s : State) (g : Nat) : Option Nat :=
  ((s.warpsOf g).find? fun x => trapPend x.2.trap.cause && decide (x.2.halt = .stopped) && x.2.handler.isNone).map (·.1)

def clearPend (c : W64) : W64 := c &&& ~~~(4096#64)

/-- PEND is taken: the warp enters its own handler, or the workgroup is left to firmware (R325, R323). -/
def State.takePend (s : State) (k : Nat) : State :=
  match Tbl.find s.warps k with
  | none => s
  | some w =>
    let w1 := { w with trap := { w.trap with cause := clearPend w.trap.cause } }
    s.takeTrap k w1 (trapCode w1.trap.cause)

/-- Every warp of the workgroup resumes where it stopped (R325). -/
def State.resume (s : State) (g : Nat) : State :=
  State.onWg { s with warps := Tbl.mapVal (fun j w => if wgOf j = g then { w with halt := .run } else w) s.warps } g
    fun x => { x with trapper := none }

/-- `SERET` in handler mode (R325). -/
def State.leave (s : State) (k : Nat) (w : Warp) (a : SetAside) : State :=
  let s1 := s.putWarp k { w.leaveHandler a with halt := .stopped }
  match s1.pendSibling (wgOf k) with
  | some j => s1.takePend j
  | none => s1.resume (wgOf k)

/-- The co-placed set of a workgroup: the workgroups of its bundle with its number on its core, itself alone without CO-PLACE (R33, R221, R267). -/
def State.coplaced (s : State) (g : Nat) : List Nat :=
  let x := s.wg g
  match Tbl.find s.bundles x.bundle with
  | some b => if b.coplace then (s.wgs.filter fun y : Nat × Wg => y.2.bundle == x.bundle && y.2.wg == x.wg && y.2.coreKey == x.coreKey).map (·.1) else [g]
  | none => [g]

/-- An invalidation has come: the TLB entries that wait for it can be replaced (R411). -/
def Boot.invalidated (b : Boot) : Boot := { b with due := (b.pending.filter fun p => decide (p.1 = .tlb)).map (·.2) }

/-- The workgroup whose scratchpad holds the ring that a consumer names: its own where it has a producer, else that of the co-placed member that has one (R279, R290; log 44). -/
def State.ringWg (s : State) (g : Nat) : Nat :=
  if (s.wg g).producer.isSome then g else ((s.coplaced g).find? fun x => (s.wg x).producer.isSome).getD g

end Sys2Proof.Machine
end

