-- ==== Sys2Proof/Machine/Operands.lean ====
section
/-! DEFINITION. Operand forms and the issue of one instruction: the checks of R94 and R115, waits (R50, R141), guards (R95), what an issue does to the stream (R85, R123), and results in flight (R141). -/

namespace Sys2Proof.Machine

abbrev Out := Host.Outcome State Fault Refusal

/-- The warp at the issuing position (log 1). -/
def State.issuer (s : State) : Option (Nat × Warp × Stream) :=
  match s.cur with
  | none => none
  | some (k, st) => (Tbl.find s.warps k).map fun w => (k, w, st)

/-! ## Scalar instructions -/

/-- The check at the top entry's END (R123): the next PC and the loop stack. -/
def loopEnd (pc : W64) : List LoopEnt → W64 × List LoopEnt
  | [] => (pc + 4, [])
  | e :: r =>
    if pc = e.endPc then
      if e.count - 1 = 0#64 then loopEnd pc r else (e.start, { e with count := e.count - 1 } :: r)
    else (pc + 4, e :: r)

/-- Completion by falling through (R123). -/
def Scalar.fall (c : Scalar) : Scalar :=
  let n := loopEnd c.pc c.loops
  { c with pc := n.1, loops := n.2 }

def bumpPerf (c : WarpCsrs) (i : Fin 9) : WarpCsrs := { c with perf := c.perf.set i.val (c.perf[i] + 1) }

/-- The scalar instruction of the warp completes and falls through. -/
def Warp.fallS (w : Warp) : Warp := { w with sc := w.sc.fall, csr := bumpPerf w.csr 1 }
/-- It completes with the PC it has set. -/
def Warp.jumpS (w : Warp) (pc : W64) : Warp := { w with sc := { w.sc with pc := pc }, csr := bumpPerf w.csr 1 }
/-- The scalar stream waits. -/
def Warp.holdS (w : Warp) (x : SWait) : Warp := { w with sc := { w.sc with wait := x } }

/-- What a scalar instruction does at its issue. -/
inductive SOut where
  | done (s : State)                   -- effect made; falls through
  | jump (s : State) (pc : W64)        -- effect made; goes on at `pc`
  | stay (s : State)                   -- the stream waits at the instruction
  | trap (code info : Nat)
  | final (s : State)                  -- the whole next state
deriving DecidableEq, Repr

/-- Issue of a scalar instruction whose registers are `uses` (R114, R115): it waits while one of them is empty; a fall-through or a jump out of the scalar section raises `FETCHF` (R76). -/
def scalarIssue (s : State) (uses : List SReg) (f : Nat → Warp → SOut) : Out :=
  match s.issuer with
  | none => .fault .noIssuer
  | some (k, w, _) =>
    if w.sc.ready uses then
      let g := s.wg (wgOf k)
      match f k w with
      | .trap code info => .next (s.raiseScalar k w code info)
      | .final t => .next t
      | .jump t pc =>
        if g.inScalar pc then .next (t.onWarp k fun w => w.jumpS pc) else .next (s.raiseScalar k w cFETCHF 0)
      | .done t =>
        if g.inScalar w.sc.fall.pc then .next (t.onWarp k Warp.fallS) else .next (s.raiseScalar k w cFETCHF 0)
      | .stay t => if g.inScalar w.sc.fall.pc then .next t else .next (s.raiseScalar k w cFETCHF 0)
    else .next s

/-- A scalar instruction that a handler may not use (R324): in handler mode it raises `ILLOP`. -/
def scalarUser (s : State) (uses : List SReg) (f : Nat → Warp → SOut) : Out :=
  scalarIssue s uses fun k w => if w.handler.isSome then .trap cILLOP 0 else f k w

/-- An operation that writes its result in time for the next instruction (R114, R116). -/
def scalarAlu (s : State) (uses : List SReg) (d : SReg) (f : Warp → W64) : Out :=
  scalarIssue s uses fun k w => .done (s.putWarp k (w.writeS d (f w)))

/-- An operation whose result is in flight after issue (R114). -/
def scalarLong (s : State) (uses : List SReg) (d : SReg) (f : Warp → W64) : Out :=
  scalarIssue s uses fun k w => .done (s.putWarp k (w.longS d (f w)))

def sext14 (i : BitVec 14) : W64 := i.signExtend 64

/-- R80. -/
def SCond.holds (c : SCond) (a b : W64) : Bool :=
  match c with
  | .eq => a == b | .ne => a != b | .lt => a.slt b | .ge => b.sle a | .ltu => a.ult b | .geu => b.ule a

/-! ## Lane operands -/

/-- pred(g, ·) of R95. -/
def guardPred (r : Regs) (g : Guard) : LaneMask := if g.neg then ~~~(r.pr g.idx.toNat) else r.pr g.idx.toNat
/-- guard(·) of R95. -/
def guardMask (r : Regs) (h : LaneHdr) : LaneMask :=
  if h.gc then guardPred r h.ga ||| guardPred r h.gb else guardPred r h.ga &&& guardPred r h.gb

/-- The special lane registers (R35); `n` counts from index 8. -/
def State.special (s : State) (k : Nat) (w : Warp) (st : Stream) (n : Nat) (l : Fin 32) : W32 :=
  let g := s.wg (wgOf k)
  match n with
  | 0 => BitVec.ofNat 32 l.val
  | 1 => BitVec.ofNat 32 (k % 16)
  | 2 => BitVec.ofNat 32 g.wg
  | 3 => match g.cohort with | some c => BitVec.ofNat 32 c | none => 0xFFFFFFFF#32
  | 4 => BitVec.ofNat 32 g.grid
  | 5 => BitVec.ofNat 32 g.core
  | 6 => BitVec.ofNat 32 g.die
  | 7 => s.devid.setWidth 32
  | 8 => BitVec.ofNat 32 g.wgc
  | 9 => BitVec.ofNat 32 g.warps
  | 10 => BitVec.ofNat 32 g.nwg
  | 11 => BitVec.ofNat 32 s.cyc
  | 12 => (w.slot st).mask
  | 13 => if st = .slotB then 1#32 else 0#32
  | 14 => BitVec.ofNat 32 w.rg.vb
  | _ => BitVec.ofNat 32 w.rg.nreg

/-- rd(slot, ·) of R95, `i` registers beyond the one named (R88). -/
def State.rd (s : State) (k : Nat) (w : Warp) (st : Stream) (o : Opnd) (i : Nat) : Lanes :=
  match o with
  | .v _ => match w.rg.entry o i with | some e => w.rg.get e | none => Lanes.splat 0
  | .a _ => match w.rg.entry o i with | some e => w.rg.get e | none => Lanes.splat 0
  | .x n => Lanes.splat (w.x[n.toNat].setWidth 32)
  | .sp n => Lanes.mk (s.special k w st n.toNat)
  | .p n => Lanes.mk fun l => if (w.rg.pr n.toNat).has l then 1#32 else 0#32
  | .k n => Lanes.splat ((w.rg.kr n.toNat).setWidth 32)
  | .none => Lanes.splat 0

/-- One operand as the checks see it: `n` registers from `o` on, its FE bit, whether it is written or read. -/
structure Use where
  o   : Opnd
  n   : Nat
  fe  : Bool
  dst : Bool
deriving DecidableEq, Repr

def Use.entries (r : Regs) (u : Use) : List Nat := (List.range u.n).filterMap (r.entry u.o)

/-- Check 2 of R94 on one operand. -/
def Use.inRange (r : Regs) (u : Use) : Bool :=
  !u.o.isV || (List.range u.n).all fun i => (r.entry u.o i).isSome

/-- The uses of a register form with `n` registers per slot, D written. -/
def LaneReg.uses (l : LaneReg) (d a b c e : Nat) : List Use :=
  let f := l.hdr.fe
  [⟨l.d, d, f.getLsbD 4, true⟩, ⟨l.a, a, f.getLsbD 3, false⟩, ⟨l.b, b, f.getLsbD 2, false⟩,
   ⟨l.c, c, f.getLsbD 1, false⟩, ⟨l.e, e, f.getLsbD 0, false⟩]

def LaneReg.uses1 (l : LaneReg) : List Use := LaneReg.uses l 1 1 1 1 1

/-- The uses of an immediate form. -/
def LaneImm.uses (l : LaneImm) : List Use :=
  let f := l.hdr.fe
  [⟨l.d, 1, f.getLsbD 4, true⟩, ⟨l.a, 1, f.getLsbD 3, false⟩, ⟨l.b, 1, f.getLsbD 2, false⟩]

/-- The predicates and counters an instruction names, its guards among them. -/
def namedPreds (h : LaneHdr) (us : List Use) : List Nat :=
  h.ga.idx.toNat :: h.gb.idx.toNat :: us.filterMap fun u => match u.o with | .p n => some n.toNat | _ => none
def namedCtrs (us : List Use) : List Nat := us.filterMap fun u => match u.o with | .k n => some n.toNat | _ => none

/-- The issue interlock (R141): a result in flight writes, in lanes of the slot, something the instruction names. A result whose registers are marked empty is held back by the full/empty bits instead. A counter is written for the whole warp, so only an instruction of the same slot waits for it. -/
def Result.blocks (x : Result) (st : Stream) (mask : LaneMask) (es ps ks : List Nat) : Bool :=
  (!x.fills && x.lanes &&& mask != 0 && x.regs.any fun y => es.contains y.1) ||
  (x.lanes &&& mask != 0 && x.preds.any fun y => ps.contains y.1) ||
  (decide (x.slot = st) && x.ctrs.any fun y => ks.contains y.1)

def Warp.interlocked (w : Warp) (st : Stream) (mask : LaneMask) (h : LaneHdr) (us : List Use) : Bool :=
  let es := us.flatMap (Use.entries w.rg)
  w.flight.any fun x => x.blocks st mask es (namedPreds h us) (namedCtrs us)

/-- What a lane instruction does at its issue. -/
inductive LOut where
  | done (s : State)
  | stay (s : State)
  | trap (code info : Nat)
  | final (s : State)
deriving DecidableEq, Repr

/-- The slot after an issue: PC, yield and spacing (R85), the other slot's turn (R45). -/
def Warp.passLane (w : Warp) (st : Stream) (h : LaneHdr) (now : Nat) (pc : BitVec 20) : Warp :=
  let x := w.slot st
  Warp.settle { w.putSlot st { x with pc := pc, until_ := now + 1 + h.spc.toNat } with
    csr := bumpPerf w.csr 2
    yielded := w.yielded || h.yld
    turnB := decide (st = .slotA) }

/-- An empty register whose FE bit is clear keeps the instruction waiting (R50). -/
def Warp.laneWaits (w : Warp) (us : List Use) : Bool := us.any fun u => !u.fe && (u.entries w.rg).any w.rg.isEmpty

/-- Issue of a lane instruction: it waits for the results in flight that it names, its guards among them (R141); then checks 2 and 3 of R94, register range and `EMPTYREG`; then it waits for empty registers (R50); then a poisoned source raises `MEMERR`, for which neither R94 nor R203 gives a place: this one is the model's choice (log 83); then its own conditions and effect in `f`, which receives warp key, warp, stream, slot and active mask. -/
def laneIssue (s : State) (h : LaneHdr) (us : List Use) (f : Nat → Warp → Stream → Slot → LaneMask → LOut) : Out :=
  match s.issuer with
  | none => .fault .noIssuer
  | some (k, w, st) =>
    let x := w.slot st
    let act := x.mask &&& guardMask w.rg h
    let raise code info := Host.Outcome.next (s.raiseLane k w st code info)
    if w.interlocked st x.mask h us then .next s
    else if !us.all (Use.inRange w.rg) then raise cREGRANGE act.toNat
    else if us.any fun u => u.fe && (u.entries w.rg).any w.rg.isEmpty then raise cEMPTYREG act.toNat
    else if w.laneWaits us then .next s
    else if us.any fun u => !u.dst && (u.entries w.rg).any w.rg.isPoison then raise cMEMERR act.toNat
    else
      match f k w st x act with
      | .trap code info => raise code info
      | .final t => .next t
      | .stay t => .next t
      | .done t =>
        if (s.wg (wgOf k)).inLane (x.pc.toNat + 1) then
          .next (t.onWarp k fun w => w.passLane st h s.cyc (x.pc + 1))
        else raise cFETCHF act.toNat

/-- The slot waits at its instruction, whose active lanes are `act`; the marks of the issue are made (R85, R45). -/
def Warp.holdLane (w : Warp) (st : Stream) (h : LaneHdr) (now : Nat) (act : LaneMask) (x : LWait) : Warp :=
  { w.putSlot st { w.slot st with wait := x, until_ := now + 1 + h.spc.toNat, act := act } with
    yielded := w.yielded || h.yld
    turnB := decide (st = .slotA) }

/-- The slot's instruction meets a trap after a wait; its wait is gone. -/
def State.trapHeld (s : State) (k : Nat) (w : Warp) (st : Stream) (code info : Nat) : State :=
  let w1 := w.putSlot st { w.slot st with wait := .none }
  (s.putWarp k w1).raiseLane k w1 st code info

/-- The slot's wait is over and the instruction completes: the slot goes on behind it; out of the section that is `FETCHF` (R76). -/
def State.passHeld (s : State) (k : Nat) (st : Stream) : State :=
  match Tbl.find s.warps k with
  | none => s
  | some w =>
    let x := w.slot st
    if (s.wg (wgOf k)).inLane (x.pc.toNat + 1) then
      s.putWarp k { Warp.settle (w.putSlot st { x with wait := .none, pc := x.pc + 1 }) with csr := bumpPerf w.csr 2 }
    else s.trapHeld k w st cFETCHF x.act.toNat

/-- The scalar stream's wait is over and its instruction completes by falling through. -/
def State.passScalar (s : State) (k : Nat) : State :=
  match Tbl.find s.warps k with
  | none => s
  | some w =>
    if (s.wg (wgOf k)).inScalar w.sc.fall.pc then s.putWarp k { w with sc := { w.sc.fall with wait := .none }, csr := bumpPerf w.csr 1 }
    else (s.putWarp k (w.holdS .none)).raiseScalar k w cFETCHF 0

/-- A wait that a handler has set aside is over: the set-aside stream falls through behind its instruction (R324, R325). -/
def SetAside.passed (a : SetAside) : SetAside :=
  let n := loopEnd a.pc a.loops
  { a with pc := n.1, loops := n.2, wait := .none }

/-- A wait of the scalar stream that `p` recognises is over, whether the stream stands at it or a handler has set it aside. -/
def State.endScalarWait (s : State) (k : Nat) (p : SWait → Bool) : State :=
  match Tbl.find s.warps k with
  | none => s
  | some w =>
    match w.handler with
    | some a => if p a.wait then s.putWarp k { w with handler := some a.passed, csr := bumpPerf w.csr 1 } else if p w.sc.wait then s.passScalar k else s
    | none => if p w.sc.wait then s.passScalar k else s

/-- The events that end a wait find the warp running: no halt has stopped it, and its streams are not set aside (R321, R324). -/
def Warp.live (w : Warp) : Bool := w.handler.isNone && decide (w.halt ≠ .stopped)

/-! ## Results in flight -/

def Result.blank (id : Nat) (st : Stream) (lanes : LaneMask) : Result where
  id := id
  slot := st
  lanes := lanes
  regs := []
  preds := []
  ctrs := []
  flags := 0
  push := none
  need := 0
  fills := false
  kctr := none
  mem := false
  keep := false
  fuse := none

/-- A result joins those in flight; it takes the next number. -/
def State.fly (s : State) (k : Nat) (r : Result) : State :=
  (s.onWarp k fun w => { w with flight := w.flight ++ [{ r with id := s.nextId }] }).bump

def State.blankResult (s : State) (st : Stream) (m : LaneMask) : Result := Result.blank s.nextId st m

/-- The flags raised in the active lanes (R63). -/
def orFlags (m : LaneMask) (f : Fin 32 → Flags) : Flags := m.lanes.foldl (fun a l => a ||| f l) 0

/-- The result of a lane-wise instruction: D's lanes and the flags of the active lanes. -/
def laneResult (s : State) (w : Warp) (st : Stream) (act : LaneMask) (d : Opnd) (f : Fin 32 → W32 × Flags) : Result :=
  { s.blankResult st act with
    regs := match w.rg.entry d 0 with | some e => [(e, Lanes.mk fun l => (f l).1)] | none => []
    flags := orFlags act fun l => (f l).2 }

/-- The result that writes a predicate. -/
def predResult (s : State) (st : Stream) (act : LaneMask) (d : Opnd) (f : Fin 32 → Bool) : Result :=
  { s.blankResult st act with
    preds := match d with | .p n => [(n.toNat, LaneMask.mk f)] | _ => [] }

/-- The source values of one lane: operands A, B, C, E, and the free bits that a special function may draw (R71, log 7). -/
structure LaneSrc where
  a : W32
  b : W32
  c : W32
  e : W32
  cand : W64
deriving DecidableEq, Repr

/-- A lane-wise instruction of the register form (R140); `draws` says that it uses free values. -/
def laneWise (s : State) (l : LaneReg) (draws : Bool) (f : LaneSrc → W32 × Flags) : Out :=
  laneIssue s l.hdr (LaneReg.uses1 l) fun k w st _ act =>
    let va := s.rd k w st l.a 0; let vb := s.rd k w st l.b 0
    let vc := s.rd k w st l.c 0; let ve := s.rd k w st l.e 0
    .done ((s.fly k (laneResult s w st act l.d fun i =>
      f ⟨va[i], vb[i], vc[i], ve[i], if draws then Config.freeBits (s.free + i.val) else 0⟩)).drawn (if draws then 32 else 0))

/-- A lane-wise instruction of the immediate form (R89): the immediate stands in place of B. -/
def laneWiseImm (s : State) (l : LaneImm) (f : LaneSrc → W32 × Flags) : Out :=
  laneIssue s l.hdr (LaneImm.uses l) fun k w st _ act =>
    let va := s.rd k w st l.a 0
    .done (s.fly k (laneResult s w st act l.d fun i => f ⟨va[i], l.imm, 0, 0, 0⟩))

end Sys2Proof.Machine
end

