-- ==== Sys2Proof/Machine/LaneArith.lean ====
section
/-! DEFINITION. Lane integer, logic, bit and float arithmetic, groups 0x1 to 0x3 (R143 to R152): for each instruction its function on one lane, which `FUSE` uses too, and its meaning. -/

namespace Sys2Proof.Machine

def plain (v : W32) : W32 × Flags := (v, 0)

/-! ## Integer arithmetic (R143, R144) -/

def laneIadd (l : LaneReg) (x : LaneSrc) : W32 × Flags := plain (intOp2 l.ty l.sat (· + ·) x.a x.b)
def laneIaddImm (x : LaneSrc) : W32 × Flags := plain (intOp2 7 false (· + ·) x.a x.b)
def laneIsub (l : LaneReg) (x : LaneSrc) : W32 × Flags := plain (intOp2 l.ty l.sat (· - ·) x.a x.b)
def laneImul (l : LaneReg) (x : LaneSrc) : W32 × Flags := plain (intOp2 l.ty l.sat (· * ·) x.a x.b)
def laneImulImm (x : LaneSrc) : W32 × Flags := plain (intOp2 7 false (· * ·) x.a x.b)
def laneImulh (l : LaneReg) (x : LaneSrc) : W32 × Flags :=
  plain (intOp2 l.ty false (fun a b => a * b / 2 ^ elemWidth l.ty) x.a x.b)
def laneImad (l : LaneReg) (x : LaneSrc) : W32 × Flags := plain (intOp3 l.ty l.sat (fun a b c => a * b + c) x.a x.b x.c)
def laneImin (l : LaneReg) (x : LaneSrc) : W32 × Flags := plain (intOp2 l.ty false min x.a x.b)
def laneIminImm (x : LaneSrc) : W32 × Flags := plain (intOp2 7 false min x.a x.b)
def laneImax (l : LaneReg) (x : LaneSrc) : W32 × Flags := plain (intOp2 l.ty false max x.a x.b)
def laneImaxImm (x : LaneSrc) : W32 × Flags := plain (intOp2 7 false max x.a x.b)
def laneIabs (l : LaneReg) (x : LaneSrc) : W32 × Flags := plain (intOp1 l.ty l.sat (fun a => (a.natAbs : Int)) x.a)
/-- The outcome of `ICMP` on one element, as an order of the two values (R144, R93). -/
def icmpElem (t cc a b : Nat) : Bool := condHolds cc (intVal t a - intVal t b)
/-- The V destination: all ones of the element width where the condition holds. -/
def laneIcmp (l : LaneReg) (x : LaneSrc) : W32 × Flags :=
  let w := elemWidth l.ty
  plain (packPlain w fun e => if icmpElem l.ty l.low (elem w x.a e) (elem w x.b e) then 2 ^ w - 1 else 0)

def execIadd (l : LaneReg) (s : State) : Out := laneWise s l false (laneIadd l)
def execIaddImm (l : LaneImm) (s : State) : Out := laneWiseImm s l laneIaddImm
def execIsub (l : LaneReg) (s : State) : Out := laneWise s l false (laneIsub l)
def execImul (l : LaneReg) (s : State) : Out := laneWise s l false (laneImul l)
def execImulImm (l : LaneImm) (s : State) : Out := laneWiseImm s l laneImulImm
def execImulh (l : LaneReg) (s : State) : Out := laneWise s l false (laneImulh l)
def execImad (l : LaneReg) (s : State) : Out := laneWise s l false (laneImad l)
def execImin (l : LaneReg) (s : State) : Out := laneWise s l false (laneImin l)
def execIminImm (l : LaneImm) (s : State) : Out := laneWiseImm s l laneIminImm
def execImax (l : LaneReg) (s : State) : Out := laneWise s l false (laneImax l)
def execImaxImm (l : LaneImm) (s : State) : Out := laneWiseImm s l laneImaxImm
def execIabs (l : LaneReg) (s : State) : Out := laneWise s l false (laneIabs l)

/-- A compare: a predicate destination takes the outcome, a V destination the element masks (R144, R150). -/
def laneCompare (s : State) (l : LaneReg) (test : W32 → W32 → Bool) (f : LaneSrc → W32 × Flags) : Out :=
  if l.d.isP then
    laneIssue s l.hdr (LaneReg.uses1 l) fun k w st _ act =>
      let va := s.rd k w st l.a 0; let vb := s.rd k w st l.b 0
      .done (s.fly k (predResult s st act l.d fun i => test va[i] vb[i]))
  else laneWise s l false f

def execIcmp (l : LaneReg) (s : State) : Out :=
  laneCompare s l (fun a b => icmpElem l.ty l.low a.toNat b.toNat) (laneIcmp l)

/-! ## Logic and bits (R145 to R148) -/

def laneLand (x : LaneSrc) : W32 × Flags := plain (x.a &&& x.b)
def laneLor (x : LaneSrc) : W32 × Flags := plain (x.a ||| x.b)
def laneLxor (x : LaneSrc) : W32 × Flags := plain (x.a ^^^ x.b)
def laneShl (t : Nat) (x : LaneSrc) : W32 × Flags := plain (shlW t x.a x.b)
def laneShr (t : Nat) (x : LaneSrc) : W32 × Flags := plain (shrW t x.a x.b)
def laneSra (t : Nat) (x : LaneSrc) : W32 × Flags := plain (sraW t x.a x.b)
def laneBits (f : Nat → Nat → Nat) (t : Nat) (x : LaneSrc) : W32 × Flags :=
  let w := elemWidth t
  plain (packPlain w fun e => f w (elem w x.a e))
def laneBfe (l : LaneReg) (x : LaneSrc) : W32 × Flags := plain (bfeW (l.ty == 7) x.a x.b x.c)
def laneBfi (x : LaneSrc) : W32 × Flags := plain (bfiW x.a x.b x.c x.e)

def execLand (l : LaneReg) (s : State) : Out := laneWise s l false laneLand
def execLandImm (l : LaneImm) (s : State) : Out := laneWiseImm s l laneLand
def execLor (l : LaneReg) (s : State) : Out := laneWise s l false laneLor
def execLorImm (l : LaneImm) (s : State) : Out := laneWiseImm s l laneLor
def execLxor (l : LaneReg) (s : State) : Out := laneWise s l false laneLxor
def execLxorImm (l : LaneImm) (s : State) : Out := laneWiseImm s l laneLxor
def execLshl (l : LaneReg) (s : State) : Out := laneWise s l false (laneShl l.ty)
def execLshlImm (l : LaneImm) (s : State) : Out := laneWiseImm s l (laneShl 10)
def execLshr (l : LaneReg) (s : State) : Out := laneWise s l false (laneShr l.ty)
def execLshrImm (l : LaneImm) (s : State) : Out := laneWiseImm s l (laneShr 10)
def execLsra (l : LaneReg) (s : State) : Out := laneWise s l false (laneSra l.ty)
def execLsraImm (l : LaneImm) (s : State) : Out := laneWiseImm s l (laneSra 10)
def execPopc (l : LaneReg) (s : State) : Out := laneWise s l false (laneBits popcN l.ty)
def execClz (l : LaneReg) (s : State) : Out := laneWise s l false (laneBits clzN l.ty)
def execBrev (l : LaneReg) (s : State) : Out := laneWise s l false (laneBits brevN l.ty)
def execBfe (l : LaneReg) (s : State) : Out := laneWise s l false (laneBfe l)
def execBfi (l : LaneReg) (s : State) : Out := laneWise s l false laneBfi

/-! ## Float arithmetic (R149 to R152) -/

/-- An operation on the elements of a float type. -/
def fElems (t : Nat) (f : Nat → Nat × Flags) : W32 × Flags := packElems (fltWidth t) f
def fel (t : Nat) (v : W32) (e : Nat) : Nat := elem (fltWidth t) v e

def laneFadd (t rm : Nat) (sat : Bool) (x : LaneSrc) : W32 × Flags :=
  fElems t fun e => fAdd t rm sat (fel t x.a e) (fel t x.b e)
def laneFsub (t rm : Nat) (sat : Bool) (x : LaneSrc) : W32 × Flags :=
  fElems t fun e => fSub t rm sat (fel t x.a e) (fel t x.b e)
def laneFmul (t rm : Nat) (sat : Bool) (x : LaneSrc) : W32 × Flags :=
  fElems t fun e => fMul t rm sat (fel t x.a e) (fel t x.b e)
def laneFfma (t rm : Nat) (sat : Bool) (x : LaneSrc) : W32 × Flags :=
  fElems t fun e => fFma t rm sat (fel t x.a e) (fel t x.b e) (fel t x.c e)
def laneFminmax (isMax : Bool) (t : Nat) (x : LaneSrc) : W32 × Flags :=
  fElems t fun e => (fMinMax t isMax (fel t x.a e) (fel t x.b e), 0)
def laneFcmp (l : LaneReg) (x : LaneSrc) : W32 × Flags :=
  fElems l.ty fun e => (if fCmp l.ty l.low (fel l.ty x.a e) (fel l.ty x.b e) then 2 ^ fltWidth l.ty - 1 else 0, 0)
def laneFclass (t : Nat) (x : LaneSrc) : W32 × Flags := fElems t fun e => (fClass t (fel t x.a e), 0)
def laneFrnd (t rm : Nat) (x : LaneSrc) : W32 × Flags := fElems t fun e => fRnd t rm (fel t x.a e)

def execFadd (l : LaneReg) (s : State) : Out := laneWise s l false (laneFadd l.ty l.rm l.sat)
def execFaddImm (l : LaneImm) (s : State) : Out := laneWiseImm s l (laneFadd 0 0 false)
def execFsub (l : LaneReg) (s : State) : Out := laneWise s l false (laneFsub l.ty l.rm l.sat)
def execFmul (l : LaneReg) (s : State) : Out := laneWise s l false (laneFmul l.ty l.rm l.sat)
def execFmulImm (l : LaneImm) (s : State) : Out := laneWiseImm s l (laneFmul 0 0 false)
def execFfma (l : LaneReg) (s : State) : Out := laneWise s l false (laneFfma l.ty l.rm l.sat)
def execFmin (l : LaneReg) (s : State) : Out := laneWise s l false (laneFminmax false l.ty)
def execFminImm (l : LaneImm) (s : State) : Out := laneWiseImm s l (laneFminmax false 0)
def execFmax (l : LaneReg) (s : State) : Out := laneWise s l false (laneFminmax true l.ty)
def execFmaxImm (l : LaneImm) (s : State) : Out := laneWiseImm s l (laneFminmax true 0)
def execFcmp (l : LaneReg) (s : State) : Out :=
  laneCompare s l (fun a b => fCmp l.ty l.low (fel l.ty a 0) (fel l.ty b 0)) (laneFcmp l)
def execFclass (l : LaneReg) (s : State) : Out := laneWise s l false (laneFclass l.ty)
def execFrnd (l : LaneReg) (s : State) : Out := laneWise s l false (laneFrnd l.ty l.rm)

end Sys2Proof.Machine
end

