-- ==== Sys2Proof/Machine/Special.lean ====
section
/-! DEFINITION. The special functions: an enclosure of the exact value in integers, the set of allowed results, and the member returned (R71, R72, R153). -/

namespace Sys2Proof.Machine

/-- The exact value lies between `lo × 2^e` and `hi × 2^e`; equal bounds mean that it is `lo × 2^e` itself. -/
structure Encl where
  lo : Int
  hi : Int
  e  : Int
deriving DecidableEq, Repr

/-- Fixed point: numbers are integers × 2^−100. -/
def fxOne : Int := 2 ^ 100
def fxLn2 : Int := 878668439483319573618263538048
def fxHalfPi : Int := 1991220906497848681844175556976
def fxMul (a b : Int) : Int := a * b / fxOne
/-- What the fixed-point sums may be off by, in units of 2^−100. -/
def fxSlack : Int := 2 ^ 20

/-- m × 2^e in fixed point, rounded down. -/
def fxOf (m : Int) (e : Int) : Int :=
  if 0 ≤ e + 100 then m * 2 ^ (e + 100).toNat else m / 2 ^ (-(e + 100)).toNat

/-- Σ over n < fuel of term n, where term (n+1) = term n × x ÷ d n. -/
def fxSeries (x : Int) (d : Nat → Int) : Nat → Nat → Int → Int
  | 0, _, _ => 0
  | fuel + 1, n, t => t + fxSeries x d fuel (n + 1) (fxMul t x / d n)

def fxExp (r : Int) : Int := fxSeries r (fun n => (n + 1 : Nat)) 34 0 fxOne
def fxSin (r : Int) : Int := fxSeries (-(fxMul r r)) (fun n => ((2 * n + 2) * (2 * n + 3) : Nat)) 18 0 r
def fxCos (r : Int) : Int := fxSeries (-(fxMul r r)) (fun n => ((2 * n + 1) * (2 * n + 2) : Nat)) 18 0 fxOne

/-- Σ of z^(2k+1) ÷ (2k+1). -/
def fxAtanhGo (zz : Int) : Nat → Nat → Int → Int
  | 0, _, _ => 0
  | fuel + 1, k, t => t / (2 * k + 1 : Nat) + fxAtanhGo zz fuel (k + 1) (fxMul t zz)

/-- ln of a fixed-point number from 1 to 2. -/
def fxLn (m : Int) : Int :=
  let z := (m - fxOne) * fxOne / (m + fxOne)
  2 * fxAtanhGo (fxMul z z) 36 0 z

/-- Largest r with r² ≤ n, bit by bit. -/
def isqrtGo (n : Nat) : Nat → Nat → Nat
  | 0, r => r
  | k + 1, r =>
    let c := r + 2 ^ k
    isqrtGo n k (if c * c ≤ n then c else r)
def isqrt (n : Nat) : Nat := isqrtGo n (Nat.log2 n / 2 + 1) 0

/-- 1 ÷ (m × 2^e), m > 0. -/
def enclRcp (m : Nat) (e : Int) : Encl :=
  let k := Nat.log2 m + 64
  let q := 2 ^ k / m
  ⟨q, if q * m == 2 ^ k then q else q + 1, -e - k⟩

/-- √(m × 2^e), m > 0. -/
def enclSqrt (m : Nat) (e : Int) : Encl :=
  let odd : Nat := (e % 2).toNat
  let n := m * 2 ^ (odd + 128)
  let r := isqrt n
  ⟨r, if r * r == n then r else r + 1, (e - odd) / 2 - 64⟩

/-- 1 ÷ √(m × 2^e), m > 0: exact when m × 2^e is a power of 4. -/
def enclRsq (m : Nat) (e : Int) : Encl :=
  let odd : Nat := (e % 2).toNat
  let k := 2 * (Nat.log2 m + 100)
  let d := m * 2 ^ odd
  let r := isqrt (2 ^ k / d)
  ⟨r, if r * r * d == 2 ^ k then r else r + 1, -((e - odd) / 2) - (k / 2 : Nat)⟩

/-- 2^x for x = ± m × 2^e. -/
def enclExp2 (neg : Bool) (m : Nat) (e : Int) : Encl :=
  let x := signedM neg m
  if 0 ≤ e && 11 ≤ e + Nat.log2 m || 11 ≤ e + Nat.log2 m then
    (if neg then ⟨1, 2, -2000⟩ else ⟨2 ^ 64, 2 ^ 64 + 1, 2000⟩)
  else if 0 ≤ e then ⟨1, 1, x * 2 ^ e.toNat⟩
  else
    let s := (-e).toNat
    let n := x / 2 ^ s
    let f := x % 2 ^ s
    if f == 0 then ⟨1, 1, n⟩
    else
      -- 1 < 2^f < 2 for 0 < f < 1: the enclosure never leaves that interval
      let v := fxExp (fxMul (fxOf f e) fxLn2)
      ⟨max fxOne (v - fxSlack), min (2 * fxOne) (v + fxSlack), n - 100⟩

/-- log₂ of m × 2^e, m > 0. -/
def enclLog2 (m : Nat) (e : Int) : Encl :=
  let k := Nat.log2 m
  let ex := e + k
  if m == 2 ^ k then ⟨ex, ex, 0⟩
  else
    let v := fxLn (fxOf m (-k)) * fxOne / fxLn2 + ex * fxOne
    ⟨v - fxSlack, v + fxSlack, -100⟩

/-- sin or tanh of a small x = m × 2^e > 0, by x − x³ ÷ d < f x < x for d = 6 or 3: x is on the grid of the results, so the bounds of R71 meet no value in between. -/
def enclSmall (d : Int) (m : Nat) (e : Int) : Encl :=
  let mm : Int := m * 2 ^ 100
  ⟨mm - mm * (fxOf ((m : Int) * m) (2 * e) + 1) / (d * fxOne) - 1, mm, e - 100⟩

def Encl.neg (x : Encl) : Encl := ⟨-x.hi, -x.lo, x.e⟩

/-- sin or cos of x = ± m × 2^e, 0 < |x| ≤ 32,768: the enclosure never leaves the interval from −1 to 1. -/
def enclTrig (isCos neg : Bool) (m : Nat) (e : Int) : Encl :=
  if !isCos && e + Nat.log2 m < -20 then (if neg then (enclSmall 6 m e).neg else enclSmall 6 m e) else
  let x := fxOf (signedM neg m) e
  let k := (2 * x + fxHalfPi) / (2 * fxHalfPi)
  let r := x - k * fxHalfPi
  let q := ((k + if isCos then 1 else 0) % 4).toNat
  let v := match q with
    | 0 => fxSin r | 1 => fxCos r | 2 => -(fxSin r) | _ => -(fxCos r)
  ⟨max (-fxOne) (v - fxSlack), min fxOne (v + fxSlack), -100⟩

/-- tanh of m × 2^e, m > 0. -/
def enclTanh (m : Nat) (e : Int) : Encl :=
  let h := e + Nat.log2 m
  if h < -20 then enclSmall 3 m e
  else if 6 ≤ h then ⟨2 ^ 180 - 1, 2 ^ 180, -180⟩
  else
    let u := fxOf (2 * (m : Int)) e
    let n := u / fxLn2
    let v := fxExp (-(u - n * fxLn2)) / 2 ^ n.toNat
    let t := (fxOne - v) * fxOne / (fxOne + v)
    ⟨t - fxSlack, min fxOne (t + fxSlack), -100⟩

/-- The value rounded to nearest, from the enclosure. -/
def Encl.round (t rm : Nat) (x : Encl) : Nat × Flags :=
  if x.lo == x.hi then roundInt t rm false x.lo x.e false
  else if 0 ≤ x.lo then roundTo t rm false false x.lo.natAbs x.e true
  else if x.hi ≤ 0 then roundTo t rm false true x.hi.natAbs x.e true
  else (0, flagNX)

/-- |m × 2^e − bound of the enclosure| ≤ num × 2^be for both bounds. -/
def Encl.within (x : Encl) (m e : Int) (num : Nat) (be : Int) : Bool :=
  let q := min (min x.e e) be
  let r := m * 2 ^ (e - q).toNat
  let b : Int := num * 2 ^ (be - q).toNat
  let d1 := (r - x.lo * 2 ^ (x.e - q).toNat).natAbs
  let d2 := (r - x.hi * 2 ^ (x.e - q).toNat).natAbs
  decide ((d1 : Int) ≤ b) && decide ((d2 : Int) ≤ b)

/-- The exponent of one ulp of the format at the enclosed value. -/
def Encl.ulpExp (t : Nat) (x : Encl) : Int :=
  max (minExp t) (x.e + Nat.log2 (min x.lo.natAbs x.hi.natAbs) - manBits t)

/-- The functions of R71 in table order. -/
inductive SFun where
  | rcp | rsq | sqrt | exp2 | log2 | sin | cos | tanh
deriving DecidableEq, Repr

/-- The f32 bound in ulp, and the exponent of the absolute bound where there is one (R71). -/
def SFun.ulps : SFun → Nat | .rcp => 1 | .rsq => 1 | .sqrt => 0 | .exp2 => 2 | .log2 => 2 | .sin => 0 | .cos => 0 | .tanh => 2
def SFun.absExp : SFun → Option Int | .log2 => some (-22) | .sin => some (-21) | .cos => some (-21) | _ => none

/-- Whether the finite encoding `r` of type `t` is a member of the set of R71 for the enclosed value. -/
def SFun.allows (f : SFun) (t : Nat) (x : Encl) (r : Nat) : Bool :=
  match fval t r with
  | .fin n m e =>
    let v := signedM n m
    let byAbs := match f.absExp with | some a => x.within v e 1 a | none => false
    let byUlp := if t == 0 then x.within v e f.ulps (x.ulpExp t)
      else r == (x.round t 2).1 || r == (x.round t 3).1
    byAbs || byUlp
  | _ => false

/-- The flags of the member returned, where the exact result is not representable (R71). -/
def memberFlags (t r : Nat) : Flags :=
  match fval t r with
  | .fin _ m _ => if m < 2 ^ manBits t then flagNX ||| flagUF else flagNX
  | _ => flagNX

/-- The member of R71 returned: the exact value where it is representable, ±∞ on overflow, else the free candidate where the set has it, else the nearest value. -/
def SFun.member (f : SFun) (t : Nat) (x : Encl) (cand : Nat) : Nat × Flags :=
  let d := x.round t 0
  if d.2 == 0 then d
  else if d.2 &&& flagOF != 0 then d
  else
    let r := if f.allows t x cand then cand else d.1
    (r, memberFlags t r)

/-- A member of the values from −1 to 1, for `SIN` and `COS` beyond 32,768 (R71), with the flags of the value returned. R71 speaks of f32 values; for an f16 or bf16 operand the model returns any value of the operand's own format in that range (log 8). -/
def unitMember (t : Nat) (cand : Nat) : Nat × Flags :=
  let r := match fval t cand with
    | .fin _ m e => if (Encl.mk 0 0 0).within m e 1 0 then cand else 0
    | _ => 0
  (r, memberFlags t r)

def oneBits (t : Nat) (neg : Bool) : Nat := signBit t neg + bias t * 2 ^ manBits t

/-- One element of a special function (R71, R72): mode `rm` matters for `SQRT` only; `cand` is the free candidate. -/
def SFun.eval (f : SFun) (t rm : Nat) (a cand : Nat) : Nat × Flags :=
  let c := cand % 2 ^ fltWidth t
  match f, fval t a with
  | _, .nan => (canonNaN t, 0)
  | .rcp, .inf n => (signBit t n, 0)
  | .rcp, .fin n m e =>
    if m == 0 then (infBits t n, flagDZ)
    else f.member t (if n then (enclRcp m e).neg else enclRcp m e) c
  | .rsq, .inf n => if n then invalid t else (0, 0)
  | .rsq, .fin n m e =>
    if m == 0 then (infBits t n, flagDZ) else if n then invalid t else f.member t (enclRsq m e) c
  | .sqrt, .inf n => if n then invalid t else (a, 0)
  | .sqrt, .fin n m e =>
    if m == 0 then (a, 0) else if n then invalid t else (enclSqrt m e).round t rm
  | .exp2, .inf n => if n then (0, 0) else (a, 0)
  | .exp2, .fin n m e => if m == 0 then (oneBits t false, 0) else f.member t (enclExp2 n m e) c
  | .log2, .inf n => if n then invalid t else (a, 0)
  | .log2, .fin n m e =>
    if m == 0 then (infBits t true, flagDZ) else if n then invalid t else f.member t (enclLog2 m e) c
  | .sin, .inf _ => invalid t
  | .cos, .inf _ => invalid t
  | .sin, .fin n m e =>
    if m == 0 then (a, 0)
    else if (Encl.mk 0 0 0).within m e 1 15 then f.member t (enclTrig false n m e) c else unitMember t c
  | .cos, .fin n m e =>
    if m == 0 then (oneBits t false, 0)
    else if (Encl.mk 0 0 0).within m e 1 15 then f.member t (enclTrig true n m e) c else unitMember t c
  | .tanh, .inf n => (oneBits t n, 0)
  | .tanh, .fin n m e =>
    if m == 0 then (a, 0) else f.member t (if n then (enclTanh m e).neg else enclTanh m e) c

end Sys2Proof.Machine
end

