-- ==== Sys2Proof/Machine/LaneConv.lean ====
section
/-! DEFINITION. Special functions, conversions, moves and predicates, groups 0x4 and 0x5 (R153 to R165), `SETVB` and the landing of a lane result (R141). -/

namespace Sys2Proof.Machine

/-! ## Special functions (R153) -/

def laneSpecial (f : SFun) (t rm : Nat) (x : LaneSrc) : W32 × Flags :=
  fElems t fun e => f.eval t rm (fel t x.a e) (x.cand.toNat / 2 ^ (32 * e))

def execRcp (l : LaneReg) (s : State) : Out := laneWise s l true (laneSpecial .rcp l.ty 0)
def execRsq (l : LaneReg) (s : State) : Out := laneWise s l true (laneSpecial .rsq l.ty 0)
def execSqrt (l : LaneReg) (s : State) : Out := laneWise s l true (laneSpecial .sqrt l.ty l.rm)
def execExp2 (l : LaneReg) (s : State) : Out := laneWise s l true (laneSpecial .exp2 l.ty 0)
def execLog2 (l : LaneReg) (s : State) : Out := laneWise s l true (laneSpecial .log2 l.ty 0)
def execSin (l : LaneReg) (s : State) : Out := laneWise s l true (laneSpecial .sin l.ty 0)
def execCos (l : LaneReg) (s : State) : Out := laneWise s l true (laneSpecial .cos l.ty 0)
def execTanh (l : LaneReg) (s : State) : Out := laneWise s l true (laneSpecial .tanh l.ty 0)

/-! ## Conversions (R154 to R159) -/

def cvtLow (l : LaneReg) (v : W32) (e : Nat) : Nat × Flags := cvtElem l.ty l.rm l.sat l.st (elem (tyBits l.st) v e)

def laneCvt (l : LaneReg) (x : LaneSrc) : W32 × Flags :=
  let r := cvtLow l x.a 0
  (placeTy l.ty r.1, r.2)

def lanePack (l : LaneReg) (x : LaneSrc) : W32 × Flags :=
  packElems (tyBits l.ty) fun e =>
    cvtLow l (match e with | 0 => x.a | 1 => x.b | 2 => x.c | _ => x.e) 0

def laneUnpack (l : LaneReg) (x : LaneSrc) : W32 × Flags :=
  let r := cvtLow l x.a l.wei
  (placeTy l.ty r.1, r.2)

/-- `BFPD` (R159). -/
def laneBfpd (l : LaneReg) (x : LaneSrc) : W32 × Flags :=
  let w := l.wei + 2
  let r := bfpDeq l.ty l.rm l.sat w (x.a.toNat / 256 % 256) (sextN w (x.a.toNat % 2 ^ w))
  (placeTy l.ty r.1, r.2)

def execCvt (l : LaneReg) (s : State) : Out := laneWise s l false (laneCvt l)
def execPack (l : LaneReg) (s : State) : Out := laneWise s l false (lanePack l)
def execUnpack (l : LaneReg) (s : State) : Out := laneWise s l false (laneUnpack l)
def execBfpd (l : LaneReg) (s : State) : Out := laneWise s l false (laneBfpd l)

/-- The lane word of `BFPQ`: exponent in [15:8], the mantissa sign-extended to 8 bits below (R158). -/
def bfpqWord (ex : Nat) (m : Int) : W32 := BitVec.ofNat 32 (ex * 256 + wrapN 8 m)

/-- `BFPQ`: one block over the active lanes (R158, R66). -/
def execBfpq (l : LaneReg) (s : State) : Out :=
  laneIssue s l.hdr (LaneReg.uses1 l) fun k w st _ act =>
    let va := s.rd k w st l.a 0
    let val (i : Fin 32) : FVal := fval l.st (fel l.st va[i] 0)
    let wd := l.wei + 2
    let ex := bfpExp wd l.rm (act.lanes.map val)
    .done (s.fly k (laneResult s w st act l.d fun i =>
      let m := bfpMant wd l.rm ex (val i)
      (bfpqWord ex m.1, m.2)))

/-! ## Moves and predicates (R160 to R163) -/

/-- The lowest-numbered lane of a mask. -/
def firstLane (m : LaneMask) : Option (Fin 32) := m.lanes.head?

def ctrResult (s : State) (st : Stream) (d : Opnd) (v : W16) : Result :=
  { s.blankResult st 0 with ctrs := match d with | .k n => [(n.toNat, v)] | _ => [] }

def laneMov (x : LaneSrc) : W32 × Flags := plain x.a

def execMov (l : LaneReg) (s : State) : Out :=
  laneIssue s l.hdr (LaneReg.uses1 l) fun k w st _ act =>
    let va := s.rd k w st l.a 0
    if l.d.isP then .done (s.fly k (predResult s st act l.d fun i => va[i] != 0))
    else if l.d.isK then
      match firstLane act with
      | some m => .done (s.fly k (ctrResult s st l.d (va[m].setWidth 16)))
      | none => .done s
    else .done (s.fly k (laneResult s w st act l.d fun i => plain va[i]))

def execMovi (l : LaneImm) (s : State) : Out :=
  laneIssue s l.hdr (LaneImm.uses l) fun k w st _ act =>
    if l.d.isP then .done (s.fly k (predResult s st act l.d fun _ => l.imm != 0))
    else if l.d.isK then
      if act = 0 then .done s else .done (s.fly k (ctrResult s st l.d (l.imm.setWidth 16)))
    else .done (s.fly k (laneResult s w st act l.d fun _ => plain l.imm))

/-- `SEL` (R162): C reads as 1 in the lanes whose predicate is set. -/
def laneSel (x : LaneSrc) : W32 × Flags := plain (if x.c != 0 then x.a else x.b)
def execSel (l : LaneReg) (s : State) : Out := laneWise s l false laneSel

/-- `PLOP` (R163). -/
def execPlop (l : LaneReg) (s : State) : Out :=
  laneIssue s l.hdr (LaneReg.uses1 l) fun k w st _ act =>
    let va := s.rd k w st l.a 0; let vb := s.rd k w st l.b 0
    .done (s.fly k (predResult s st act l.d fun i => l.mod.getLsbD (2 * va[i].toNat + vb[i].toNat)))

/-! ## Warp state (R164, R165) -/

/-- Every register of the partition is full (R47). -/
def Regs.allFull (r : Regs) : Bool := r.empty.toNat % 2 ^ r.nreg == 0

/-- The `VB` CSR (R48). -/
def Regs.vbCsr (r : Regs) : W64 := BitVec.ofNat 64 (r.nreg * 2 ^ 16 + r.vb)

/-- `SETVB` (R164): traps and no effect as R164 lists them; it waits in its slot while a register of the partition is empty or a result is in flight to one. -/
def execSetvb (l : LaneReg) (s : State) : Out :=
  laneIssue s l.hdr (LaneReg.uses1 l) fun k w st _ act =>
    let n := (s.rd k w st l.a 0)[0].toNat
    if w.slotB.st != .idle || !w.dstack.isEmpty then .trap cVBDIV act.toNat
    else if act = 0 then .done s
    else if !w.rg.allFull then .stay (s.putWarp k (w.holdLane st l.hdr s.cyc act (.setvb n)))
    else if w.rg.nreg < n then .trap cREGRANGE act.toNat
    else .done (s.putWarp k { w with rg := { w.rg with vb := n } })

/-- The flags of the slot's earlier instructions, completed or in flight (R165, R63). Which of the other slot's completed instructions are among them, R165 leaves open: all that have landed are, which is the model's choice (log 83). -/
def Warp.flagsFor (w : Warp) (st : Stream) : Flags :=
  w.flight.foldl (fun f x => if x.slot = st then f ||| x.flags else f) w.fflags

/-- The values of `SPRD` (R165). -/
def State.sprdValue (s : State) (w : Warp) (st : Stream) (n : Nat) : W32 :=
  match n with
  | 0 => (w.flagsFor st).setWidth 32
  | 1 => w.rg.vbCsr.setWidth 32
  | 2 => BitVec.ofNat 32 w.dstack.length
  | 3 => BitVec.ofNat 32 (s.cyc / 2 ^ 32)
  | 4 => w.csr.latcnt.setWidth 32
  | 5 => w.csr.bouncecnt.setWidth 32
  | 6 => BitVec.ofNat 32 s.ptp.now
  | _ => BitVec.ofNat 32 (s.ptp.now / 2 ^ 32)

/-- An `MMA` of the slot is still in the matrix queue, so its flags are not known (R165, R74). -/
def State.flagsOwed (s : State) (k : Nat) (st : Stream) : Bool :=
  (s.core (s.wg (wgOf k)).coreKey).matq.any fun m => decide (m.kind = .mma) && m.warp == k && decide (m.slot = st)

/-- `SPRD` (R165): a read of `FFLAGS` waits until the flags of every earlier instruction of its slot are known. -/
def execSprd (l : LaneReg) (s : State) : Out :=
  laneIssue s l.hdr (LaneReg.uses1 l) fun k w st _ act =>
    if l.low == 0 && s.flagsOwed k st then .final s
    else .done (s.fly k (laneResult s w st act l.d fun _ => plain (s.sprdValue w st l.low)))

/-! ## Landing (R141, R39, R51, R63) -/

/-- A result may land: nothing is outstanding, and no older result pushes before it or writes the same counter (R39, R160). -/
def Result.mayLand (older : List Result) (x : Result) : Bool :=
  x.need == 0 && !(x.push.isSome && older.any fun y => y.push.isSome) &&
  !(x.ctrs.any fun c => older.any fun y => y.ctrs.any fun d => d.1 == c.1)

/-- The registers, predicates, counters and flags of a result are written; registers marked empty become full and count as arrivals (R49, R51). -/
def Regs.land (r : Regs) (x : Result) : Regs :=
  let r1 := if x.keep then r else x.regs.foldl (fun r y => r.merge x.lanes y.1 y.2) r
  let r2 := if x.keep then r1 else x.preds.foldl (fun r y => r.putP y.1 ((y.2 &&& x.lanes) ||| (r.pr y.1 &&& ~~~x.lanes))) r1
  let r3 := x.ctrs.foldl (fun r y => r.writeK y.1 y.2) r2
  if x.fills then
    let r4 := r3.filled (x.regs.map (·.1))
    match x.kctr with
    | some c => x.regs.foldl (fun r _ => r.arrive c) r4
    | none => r4
  else r3

/-- Operations of a `FUSE` are still to be performed. -/
def Result.fusing (x : Result) : Bool := x.fuse.any fun f => f.next < f.steps.length

/-- The next operation of a `FUSE` is performed: a switch-out after it resumes behind it (R179, R294, R329). -/
def Warp.fuseStep (w : Warp) (id : Nat) : Warp :=
  { w with flight := w.flight.map fun x => if x.id == id then { x with fuse := x.fuse.map fun f => { f with next := f.next + 1 } } else x }

/-- The warp once result `x` has landed. -/
def Warp.land (w : Warp) (x : Result) : Warp :=
  { w with
    rg := w.rg.land x
    flight := w.flight.filter fun y => y.id != x.id
    fflags := w.fflags ||| x.flags
    rq := match x.push with | some v => w.rq ++ [v] | none => w.rq }

def Warp.landNth (w : Warp) (n : Nat) : Warp :=
  match w.flight.drop n with
  | x :: _ => if x.fusing then w.fuseStep x.id else if x.mayLand (w.flight.take n) then w.land x else w
  | [] => w

/-- `LANE_RESULT_WRITE`: result number `n` in flight of the warp is written; of a `FUSE`, the operations are performed first, one at a time. -/
def execLaneResultWrite (k n : Nat) (s : State) : Out :=
  if (s.wg (wgOf k)).status = .out then .next s else .next (s.onWarp k fun w => w.landNth n)

end Sys2Proof.Machine
end

