-- ==== Sys2Proof/Machine/Scalar.lean ====
section
/-! DEFINITION. Scalar integer operations (R116 to R118). -/

namespace Sys2Proof.Machine

def execSadd (d a b : SReg) (s : State) : Out := scalarAlu s [d, a, b] d fun w => w.sr a + w.sr b
def execSsub (d a b : SReg) (s : State) : Out := scalarAlu s [d, a, b] d fun w => w.sr a - w.sr b
def execSand (d a b : SReg) (s : State) : Out := scalarAlu s [d, a, b] d fun w => w.sr a &&& w.sr b
def execSor (d a b : SReg) (s : State) : Out := scalarAlu s [d, a, b] d fun w => w.sr a ||| w.sr b
def execSxor (d a b : SReg) (s : State) : Out := scalarAlu s [d, a, b] d fun w => w.sr a ^^^ w.sr b

/-- The count of a register shift: bits [5:0] (R116). -/
def shiftCount (v : W64) : Nat := v.toNat % 64

def execSshl (d a b : SReg) (s : State) : Out := scalarAlu s [d, a, b] d fun w => w.sr a <<< shiftCount (w.sr b)
def execSshr (d a b : SReg) (s : State) : Out := scalarAlu s [d, a, b] d fun w => w.sr a >>> shiftCount (w.sr b)
def execSsra (d a b : SReg) (s : State) : Out := scalarAlu s [d, a, b] d fun w => (w.sr a).sshiftRight (shiftCount (w.sr b))

def smin64 (a b : W64) : W64 := if a.sle b then a else b
def smax64 (a b : W64) : W64 := if a.sle b then b else a
def umin64 (a b : W64) : W64 := if a.ule b then a else b
def umax64 (a b : W64) : W64 := if a.ule b then b else a

def execSmin (d a b : SReg) (s : State) : Out := scalarAlu s [d, a, b] d fun w => smin64 (w.sr a) (w.sr b)
def execSmax (d a b : SReg) (s : State) : Out := scalarAlu s [d, a, b] d fun w => smax64 (w.sr a) (w.sr b)
def execSminU (d a b : SReg) (s : State) : Out := scalarAlu s [d, a, b] d fun w => umin64 (w.sr a) (w.sr b)
def execSmaxU (d a b : SReg) (s : State) : Out := scalarAlu s [d, a, b] d fun w => umax64 (w.sr a) (w.sr b)

def boolWord (b : Bool) : W64 := if b then 1 else 0

def execScmp (cc : SCond) (d a b : SReg) (s : State) : Out :=
  scalarAlu s [d, a, b] d fun w => boolWord (SCond.holds cc (w.sr a) (w.sr b))

/-- Bits [127:64] of the exact product (R116). -/
def mulHigh (signed : Bool) (a b : W64) : W64 :=
  BitVec.ofInt 64 ((if signed then a.toInt * b.toInt else a.toNat * b.toNat) / 2 ^ 64)

/-- Quotients and remainders with the edges of R117. -/
def sdiv64 (a b : W64) : W64 := if b = 0 then -1 else BitVec.ofInt 64 (a.toInt.tdiv b.toInt)
def srem64 (a b : W64) : W64 := if b = 0 then a else a - b * sdiv64 a b
def udiv64 (a b : W64) : W64 := if b = 0 then -1 else BitVec.ofNat 64 (a.toNat / b.toNat)
def urem64 (a b : W64) : W64 := if b = 0 then a else a - b * udiv64 a b

def execSmul (d a b : SReg) (s : State) : Out := scalarLong s [d, a, b] d fun w => w.sr a * w.sr b
def execSmulh (d a b : SReg) (s : State) : Out := scalarLong s [d, a, b] d fun w => mulHigh true (w.sr a) (w.sr b)
def execSmulhU (d a b : SReg) (s : State) : Out := scalarLong s [d, a, b] d fun w => mulHigh false (w.sr a) (w.sr b)
def execSdiv (d a b : SReg) (s : State) : Out := scalarLong s [d, a, b] d fun w => sdiv64 (w.sr a) (w.sr b)
def execSrem (d a b : SReg) (s : State) : Out := scalarLong s [d, a, b] d fun w => srem64 (w.sr a) (w.sr b)
def execSdivU (d a b : SReg) (s : State) : Out := scalarLong s [d, a, b] d fun w => udiv64 (w.sr a) (w.sr b)
def execSremU (d a b : SReg) (s : State) : Out := scalarLong s [d, a, b] d fun w => urem64 (w.sr a) (w.sr b)

def execSaddi (d a : SReg) (i : BitVec 14) (s : State) : Out := scalarAlu s [d, a] d fun w => w.sr a + sext14 i
def execSmuli (d a : SReg) (i : BitVec 14) (s : State) : Out := scalarLong s [d, a] d fun w => w.sr a * sext14 i
def execSandi (d a : SReg) (i : BitVec 14) (s : State) : Out := scalarAlu s [d, a] d fun w => w.sr a &&& sext14 i
def execSori (d a : SReg) (i : BitVec 14) (s : State) : Out := scalarAlu s [d, a] d fun w => w.sr a ||| sext14 i
def execSxori (d a : SReg) (i : BitVec 14) (s : State) : Out := scalarAlu s [d, a] d fun w => w.sr a ^^^ sext14 i
def execSmini (d a : SReg) (i : BitVec 14) (s : State) : Out := scalarAlu s [d, a] d fun w => smin64 (w.sr a) (sext14 i)
def execSmaxi (d a : SReg) (i : BitVec 14) (s : State) : Out := scalarAlu s [d, a] d fun w => smax64 (w.sr a) (sext14 i)
def execScmpi (cc : SCond) (d a : SReg) (i : BitVec 11) (s : State) : Out :=
  scalarAlu s [d, a] d fun w => boolWord (SCond.holds cc (w.sr a) (i.signExtend 64))
def execSshli (d a : SReg) (n : BitVec 6) (s : State) : Out := scalarAlu s [d, a] d fun w => w.sr a <<< n.toNat
def execSshri (d a : SReg) (n : BitVec 6) (s : State) : Out := scalarAlu s [d, a] d fun w => w.sr a >>> n.toNat
def execSsrai (d a : SReg) (n : BitVec 6) (s : State) : Out := scalarAlu s [d, a] d fun w => (w.sr a).sshiftRight n.toNat
/-- `SLUI` (R118). -/
def execSlui (d : SReg) (i : BitVec 20) (s : State) : Out :=
  scalarAlu s [d] d fun _ => (i ++ 0#12 : BitVec 32).signExtend 64

/-- The oldest result in flight for a register lands (R114). -/
def landScalar (c : Scalar) (d : SReg) : Scalar :=
  match c.fill.find? fun x => x.1 == d with
  | some x => { c with fill := c.fill.erase x }.put d x.2
  | none => c

/-- `SCALAR_RESULT_FILL`. -/
def execScalarResultFill (k : Nat) (d : SReg) (s : State) : Out :=
  .next (s.onWarp k fun w => { w with sc := landScalar w.sc d })

end Sys2Proof.Machine
end

