-- ==== Sys2Proof/Machine/Mem.lean ====
section
/-! DEFINITION. The memory hierarchy: address checks, translation, the word states of the L1, the home's memory value, and the two parts of a synchronisation (R185 to R195, R203, R205, R214, R225, R226, R330, R403). -/

namespace Sys2Proof.Machine

/-- Bytes of a SIZE code (R91). -/
def sizeBytes (c : Nat) : Nat := match c with | 0 => 1 | 1 => 1 | 2 => 2 | 3 => 2 | 4 => 4 | 5 => 8 | _ => 16

/-- 57 address bits are implemented (R95). -/
def canonical (a : W64) : Bool := a.toNat / 2 ^ 56 == 0 || a.toNat / 2 ^ 56 == 255

/-! ## Translation (R330) -/

inductive Xlate where
  | hit (pa : Nat) (page : TlbEnt)
  | refused
  | miss
deriving DecidableEq, Repr

def tlbFind (t : List TlbEnt) (fn space va : Nat) : Option TlbEnt := t.find? fun e => pageCovers e.page fn space va

/-- Bytes of a private area: 7.5 MiB (R304). -/
def privBytes : Nat := 7864320

/-- The address lies in a live private area, which only the hardware writes: a bundle's from its start to its retirement, a handler's while it runs (R304, R365). -/
def State.livePriv (s : State) (fn space va : Nat) : Bool :=
  let inside (p : Nat) : Bool := p ≤ va && va < p + privBytes
  (Tbl.values s.bundles).any (fun b => b.started && !b.done && b.fn == fn && b.proc == space && inside b.priv) ||
  (Tbl.values s.wgs).any fun g => decide (g.handler ≠ .none) && decide (g.status ≠ .ended) && g.fn == fn && g.proc == space && inside g.priv

/-- Translation in the core's L1 TLB, then in its die's L2 TLB (R330). A write into a live private area is refused whatever a TLB holds (R304). -/
def State.xlate (s : State) (core fn space va : Nat) (write : Bool) : Xlate :=
  if write && s.livePriv fn space va then .refused
  else
    let use (e : TlbEnt) : Xlate := if !pageAllows e.page write then .refused else .hit (pagePhys e.page va) e
    match tlbFind (s.core core).tlb fn space va with
    | some e => use e
    | none =>
      match tlbFind (s.die (core / 60)).tlb fn space va with
      | some e => use e
      | none => .miss

/-- An entry joins the entries that share its set, `cap` of them at most: the least recently used one leaves (log 12). -/
def tlbInsert (cap : Nat) (same : TlbEnt → Bool) (t : List TlbEnt) (e : TlbEnt) : List TlbEnt :=
  let set := t.filter same
  if set.length < cap then e :: t
  else
    let old := set.foldl (fun m x => min m x.used) e.used
    e :: match set.find? fun x => x.used == old with | some x => t.erase x | none => t

/-- The set of an L2 TLB: 32,768 entries in 8 ways (R330). -/
def tlbSetOf (p : PageEntry) : Nat := Config.tlbSet (p.va / 65536) % 4096

/-- The L1 TLB of 512 entries, fully associative, holds the entry used (R330, R331). -/
def State.install (s : State) (core : Nat) (e : TlbEnt) : State :=
  s.onCore core fun c =>
    if c.tlb.any fun x => x.page == e.page then
      { c with tlb := c.tlb.map fun x => if x.page == e.page then { x with used := s.cyc } else x }
    else { c with tlb := tlbInsert 512 (fun _ => true) c.tlb { e with used := s.cyc } }

/-- A completed walk installs its entry in the die's L2 TLB (R330, R331). -/
def State.installL2 (s : State) (die : Nat) (p : PageEntry) : State :=
  s.onDie die fun d =>
    if d.tlb.any fun e => e.page == p then d
    else { d with tlb := tlbInsert 8 (fun e => tlbSetOf e.page == tlbSetOf p) d.tlb ⟨p, s.cyc⟩ }

/-! ## The home's memory value -/

/-- The home slice of a physical address, 64·die + tile (R193). -/
def homeSlice (pa : Nat) : Nat :=
  let f (k : Nat) := pa / 2 ^ k % 256
  (f 7) ^^^ (f 15) ^^^ (f 23) ^^^ (f 31) ^^^ (f 39) ^^^ (f 47) ^^^ (pa / 2 ^ 55 % 4)

/-- `n` bytes at their home as a number. -/
def State.homeN (s : State) (pa : Nat) : Nat → Nat
  | 0 => 0
  | n + 1 => (s.homeByte pa).toNat + 256 * s.homeN (pa + 1) n

def State.homeBytes (s : State) (pa : Nat) : Nat → List Byte
  | 0 => []
  | n + 1 => s.homeByte pa :: s.homeBytes (pa + 1) n

/-- The version a line shows: a stale line has version 0 (R403). -/
def State.version (s : State) (l : Nat) : Nat := if s.stale (l * 128) then 0 else (s.line l).version

/-- Poisoned memory: some 8-byte word of the access (R203); a stale line reads as zeros, so it shows no poison (R403). -/
def State.poisoned (s : State) (pa n : Nat) : Bool := s.poison.any fun w => w * 8 < pa + n && pa < w * 8 + 8 && !s.stale (w * 8)

/-- The poisoned 8-byte words of a line at its home (R203). -/
def State.badWords (s : State) (l : Nat) : List Nat := if s.stale (l * 128) then [] else s.poison.filter fun w => w / 16 == l

/-- An 8-byte word is poisoned at its home. -/
def State.badAt (s : State) (w : Nat) : Bool := s.poison.contains w && !s.stale (w * 8)

/-- Bytes written at the home of one line, as one write: stale lines become zeros of the frame's epoch first (R403); 8-byte words written whole are no longer poisoned, and the words of `bad` bring their poison with them (R203). The version rises by one (R214). -/
def State.homeWrite (s : State) (l : Nat) (bytes : List (Nat × Byte)) (bad : List Nat) : State :=
  let fr := s.frame (paOf (l * 128) / 65536)
  let m0 := if s.stale (l * 128) then Memory.clear s.mem (l * 128) 128 else s.mem
  let ver := s.version l
  let m1 := bytes.foldl (fun m b => Memory.write m b.1 b.2) m0
  let whole (w : Nat) : Bool := (List.range 8).all fun i => bytes.any fun b => b.1 == w * 8 + i
  let kept := s.poison.filter fun w => !(w / 16 == l && (s.stale (l * 128) || whole w || bad.contains w))
  let s1 := { s with mem := m1, poison := kept ++ bad.eraseDups }
  let x := s1.line l
  s1.putLine l { x with version := (ver + 1) % 65536, epoch := if homeOf (l * 128) == 0 then fr.epoch else x.epoch, dirty := true }

/-- A word's registration is dropped where workgroup `g` holds it. -/
def State.deregister (s : State) (word g : Nat) : State :=
  let l := word / 32
  let x := s.line l
  s.putLine l { x with owners := x.owners.filter fun o => !(o.1 == word % 32 && o.2.1 == g) }

/-- A registration recorded: one owner per word (R224). -/
def State.register (s : State) (word g core : Nat) : State :=
  let l := word / 32
  let x := s.line l
  s.putLine l { x with owners := (word % 32, g, core) :: x.owners.filter fun o => o.1 != word % 32 }

/-! ## Queues and requests (R246 to R258) -/

/-- The key of a shared queue. -/
def qCode : QId → Nat
  | .coreOut c => c
  | .sliceIn n => 65536 + n
  | .sliceMiss n => 2 * 65536 + n
  | .msc e => 3 * 65536 + e
  | .hbm c => 4 * 65536 + c
  | .egress p => 5 * 65536 + p
  | .ingress p => 6 * 65536 + p
  | .hostReq => 7 * 65536
  | .ctxStore d => 8 * 65536 + d

def qKind (q : Nat) : Nat := q / 65536
def qIndex (q : Nat) : Nat := q % 65536

def clsCode : OwnerClass → Nat | .warp => 0 | .eviction => 1 | .ingress => 2 | .host => 3 | .firmware => 4

/-- The edge die of a physical address: 128 channels each (log 13). -/
def edgeOf (pa : Nat) : Nat := Config.hbmChannel (paOf pa) / 128 % 2

/-- A request with nothing in it. -/
def Req.blank (id : Nat) : Req where
  id := id
  iid := id
  kind := .load
  cls := .warp
  warp := 0
  core := 0
  fn := 0
  space := 0
  lspace := 0
  stream := .scalar
  mask := 0
  accs := []
  xl := false
  op := none
  ext := 0
  rh := 0
  scope := 0
  ord := 0
  pkts := []
  rel := 0
  acq := false
  home := false
  direct := false
  parent := 0
  after := 0
  result := 0
  sd := none
  targets := []
  want := []
  epoch := 0
  cinnabar := false
  probes := none
  clear := false
  pc := 0
  inst := 0
  stage := .issued
  dev := none
  resv := false
  bounces := 0
  entered := 0
  bound := 0
  reply := []
  snap := []
  snapBad := []
  nofill := []
  relEpoch := 0
  gang := false
  looked := false
  ok := false
  fault := 0
  source := 0

/-- Where notices and grants for a request go (R250, R257): a core, or the number of another source. -/
def Req.src (r : Req) : Nat := match r.cls with | .warp => r.core | _ => r.source

/-- The physical lines of a translated request. -/
def Req.palines (r : Req) : List Nat := (r.accs.map fun a => a.pa / 128).eraseDups
def Req.valines (r : Req) : List Nat := (r.accs.map fun a => a.va / 128).eraseDups
def Req.pa (r : Req) : Nat := match r.accs with | a :: _ => a.pa | [] => 0
def Req.line (r : Req) : Nat := r.pa / 128

def Req.isPerformed (r : Req) : Bool := decide (r.stage = .performed)
def Req.isIssued (r : Req) : Bool := decide (r.stage = .issued)

/-! ## Ways, classes and victims (R190, R195) -/

/-- Order in which the ways of a set become victims: streaming, default, sticky, and the least recently used first (R190). -/
def wayRank (cls used : Nat) : Nat := (if cls == 1 then 0 else if cls == 2 then 2 else 1) * 2 ^ 64 + used

/-- The key of least rank. -/
def leastWay : List (Nat × Nat) → Option Nat
  | [] => none
  | x :: xs => some (xs.foldl (fun a b => if b.2 < a.2 then b else a) x).1

/-- The class of a line after an access with hint `rh`, beside the sticky lines its set holds (R190). -/
def hintClass (old rh stickies : Nat) : Nat := if rh == 1 then 1 else if rh == 2 then (if stickies < 12 then 2 else 0) else old

/-- The L2 set of a line: its slice, and one of 1,024 sets of 16 ways (R16). -/
def l2Place (l : Nat) : Nat := 1024 * homeSlice (l * 128) + Config.l2Set l % 1024

/-- The set of a line in the memory-side cache of its edge die: 131,072 sets of 16 ways (R15, R195). -/
def mscPlace (l : Nat) : Nat := 131072 * edgeOf (l * 128) + Config.mscSet l % 131072

/-- The lines that the L2 holds in the set of `l`. -/
def State.l2SetOf (s : State) (l : Nat) : List (Nat × HomeLine) :=
  s.lines.filter fun y : Nat × HomeLine => decide (y.2.place = .l2) && l2Place y.1 == l2Place l

def State.mscSetOf (s : State) (l : Nat) : List (Nat × HomeLine) :=
  s.lines.filter fun y : Nat × HomeLine => decide (y.2.place = .msc) && mscPlace y.1 == mscPlace l

/-- Ways of a slice that cache lines: 16 less those of the stream context store (R20), and those that wait for a spare (R411). -/
def State.l2Ways (s : State) (slice : Nat) : Nat :=
  16 - max ((s.die (slice / 64)).ways.getD s.ctxstore.lo) s.ctxstore.lo - (s.boot.pending.filter fun p => decide (p.1 = .l2way) && p.2 / 16 == slice).length

/-- Numbers of the sources of victim writes: L2 slices and memory-side caches (R248, R257). -/
def srcSlice (n : Nat) : Nat := 1024 + n
def srcCache (e : Nat) : Nat := 2048 + e

/-- Lines in the victim buffer of a source (R248). -/
def State.victims (s : State) (source : Nat) : Nat :=
  (s.reqs.filter fun x : Nat × Req => decide (x.2.kind = .victim) && x.2.source == source).length

/-- The function that a write-back or a victim write of a line is charged to: the owner of its frame (R201, R398). -/
def State.payer (s : State) (l : Nat) : Nat := if homeOf (l * 128) == 0 then (s.frame (paOf (l * 128) / 65536)).owner else 0

/-- The victim write of a line, on its way to queue `q` (R248). -/
def State.sendVictim (s : State) (l source q : Nat) : State :=
  ((s.putLine l { s.line l with place := .victim }).putReq { Req.blank s.nextId with
    kind := .victim
    cls := .eviction
    fn := s.payer l
    warp := noWarp
    core := noCore
    source := source
    xl := true
    accs := [⟨32, 0, l * 128, 128, 0, 0, 0⟩]
    stage := .transit q }).bump

/-- A line leaves its L2 slice (R195): a default or sticky line for the memory-side cache, a dirty streaming line for its stack, through the slice's victim buffer of 32 lines; a clean streaming line and a line of host memory leave at once. None where the buffer is full. -/
def State.evictL2 (s : State) (l : Nat) : Option State :=
  let x := s.line l
  let src := srcSlice (homeSlice (l * 128))
  if homeOf (l * 128) == 1 then some { s.putLine l { x with place := .hbm, dirty := false } with hostLines := Tbl.del s.hostLines l }
  else if x.cls == 1 && !x.dirty then some (s.putLine l { x with place := .hbm })
  else if s.victims src < 32 then some (s.sendVictim l src (qCode (.sliceMiss (homeSlice (l * 128)))))
  else none

/-- Victims leave until the set of `l` has a free way; the first argument bounds their number. -/
def State.makeWay (s : State) (l : Nat) : Nat → Option State
  | 0 => some s
  | n + 1 =>
    if (s.l2SetOf l).length < s.l2Ways (homeSlice (l * 128)) then some s
    else match leastWay ((s.l2SetOf l).map fun y => (y.1, wayRank y.2.cls y.2.used)) with
      | some v => match s.evictL2 v with | some s1 => s1.makeWay l n | none => none
      | none => some s

/-- Lines in the ways that a larger context store takes leave their sets, as far as the victim buffers have room (R20, R390). -/
def State.trimL2 (s : State) (die : Nat) : State :=
  (s.lines.filter fun y : Nat × HomeLine => decide (y.2.place = .l2) && homeSlice (y.1 * 128) / 64 == die).foldl (fun s y =>
    if (s.l2SetOf y.1).length ≤ s.l2Ways (homeSlice (y.1 * 128)) then s
    else match leastWay ((s.l2SetOf y.1).map fun z => (z.1, wayRank z.2.cls z.2.used)) with
      | some v => (s.evictL2 v).getD s
      | none => s) s

/-- Every set of the die's slices fits the ways left to it. -/
def State.trimmed (s : State) (die : Nat) : Bool :=
  s.lines.all fun y : Nat × HomeLine => y.2.place ≠ .l2 || homeSlice (y.1 * 128) / 64 != die || (s.l2SetOf y.1).length ≤ s.l2Ways (homeSlice (y.1 * 128))

/-- An access of a line in its slice: recency and class follow its hint (R190). -/
def State.touchL2 (s : State) (l rh : Nat) : State :=
  let x := s.line l
  let stickies := ((s.l2SetOf l).filter fun y => y.1 != l && y.2.cls == 2).length
  s.putLine l { x with used := s.cyc, cls := hintClass x.cls rh stickies }

/-- A line that the slice does not hold is allocated there (R190, R195); none where its victim finds the victim buffer full. -/
def State.fetchLine (s : State) (l rh : Nat) : Option State :=
  if (s.line l).place = .l2 then some (s.touchL2 l rh)
  else (s.makeWay l 17).map fun s1 => (s1.putLine l { s1.line l with place := .l2, cls := 0 }).touchL2 l rh

/-- A line comes into its slice within one step, for a write that firmware or the end of a workgroup makes there (R195). Where the victim buffer is full, the victim's write to its stack is part of the step. -/
def State.fetchNow (s : State) (l rh : Nat) : State :=
  match s.fetchLine l rh with
  | some s1 => s1
  | none =>
    let s1 := match leastWay ((s.l2SetOf l).map fun y => (y.1, wayRank y.2.cls y.2.used)) with
      | some v => s.putLine v { s.line v with place := .hbm, dirty := false }
      | none => s
    (s1.putLine l { s1.line l with place := .l2, cls := 0 }).touchL2 l rh

/-- A line that the L2 evicted enters the memory-side cache of its edge die; a dirty victim there leaves for its stack through the cache's victim buffer of 64 lines (R195, R248). -/
def State.insertMsc (s : State) (l : Nat) : Option State :=
  let put (s : State) : State := s.putLine l { s.line l with place := .msc, used := s.cyc }
  if (s.mscSetOf l).length < 16 then some (put s)
  else match leastWay ((s.mscSetOf l).map fun y => (y.1, y.2.used)) with
    | none => some (put s)
    | some v =>
      let src := srcCache (edgeOf (v * 128))
      if !(s.line v).dirty then some (put (s.putLine v { s.line v with place := .hbm }))
      else if s.victims src < 64 then some (put (s.sendVictim v src (qCode (.hbm (Config.hbmChannel (paOf (v * 128)))))))
      else none

/-! ## The L1 (R187 to R190) -/

def Core.word (c : Core) (word : Nat) : Option L1Word := Tbl.find c.l1 word
def State.l1Word (s : State) (core word : Nat) : Option L1Word := (s.core core).word word

/-- The owned bytes of a word, as addresses and values. -/
def ownedBytes (word : Nat) (x : L1Word) : List (Nat × Byte) :=
  (List.range 4).filterMap fun i => if x.mask.getLsbD i then some (word * 4 + i, x.value.extractLsb' (8 * i) 8) else none

/-- Words of a core's L1 that satisfy `p`, by word address. -/
def Core.wordsWhere (c : Core) (p : Nat → L1Word → Bool) : List Nat :=
  (c.l1.filter fun x : Nat × L1Word => p x.1 x.2).map (·.1)

/-- The owned-dirty words among `words`, with what the L1 holds of them and their owners. -/
def State.ownedOf (s : State) (core : Nat) (words : List Nat) : List (Nat × L1Word × Nat) :=
  words.filterMap fun w => match s.l1Word core w with | some x => x.owner.map fun g => (w, x, g) | none => none

/-- The frame epoch under which the word was written is still in force, so its write-back takes effect (R403). -/
def State.freshAt (s : State) (l epoch : Nat) : Bool := homeOf (l * 128) != 0 || epoch == (s.frame (paOf (l * 128) / 65536)).epoch

/-- Owned-dirty words of one line written back as one write, and deregistered: filled under a full mask, else invalid (R187). Words whose frame epoch has passed are discarded (R403). -/
def State.writeBackLine (s : State) (core l : Nat) (words : List Nat) : State :=
  let own := s.ownedOf core words
  let fresh := own.filter fun y => s.freshAt l y.2.1.epoch
  let bytes := fresh.flatMap fun y => ownedBytes y.1 y.2.1
  let s1 := if bytes.isEmpty then s else s.homeWrite l bytes ((fresh.filter fun y => y.2.1.poison).map fun y => y.1 / 2)
  (own.foldl (fun s y => s.deregister y.1 y.2.2) s1).onCore core fun c =>
    { c with l1 := own.foldl (fun t y =>
        if y.2.1.mask == 15#4 then Tbl.put t y.1 { y.2.1 with owner := none, mask := 0, open_ := [] } else Tbl.del t y.1) c.l1 }

/-- The words of a line that a workgroup owns dirty in the core's L1. -/
def State.ownDirty (s : State) (core g l : Nat) : List Nat := (s.core core).wordsWhere fun w x => w / 32 == l && x.owner == some g

/-- The issuing workgroup's owned-dirty words of a line written back (R215, R216, R218). -/
def State.flushLine (s : State) (core g l : Nat) : State := s.writeBackLine core l (s.ownDirty core g l)

/-- Replies under way to the core fill these words no more: the core's view of them has changed since their values were read. -/
def State.voidFills (s : State) (core : Nat) (ws : List Nat) : State :=
  { s with reqs := Tbl.mapVal (fun _ r =>
      if (!r.snap.isEmpty || r.stage = .sent) && (r.core == core || r.targets.contains core) then
        { r with nofill := r.nofill ++ (ws.filter fun w => w / 32 == r.line).map fun w => (core, w) }
      else r) s.reqs }

/-- The words of a line. -/
def lineWords (l : Nat) : List Nat := (List.range 32).map (32 * l + ·)

/-- The filled words among `ws` become invalid in the core's L1, and no reply under way fills them. -/
def State.dropWords (s : State) (core : Nat) (ws : List Nat) : State :=
  (s.voidFills core ws).onCore core fun c => { c with l1 := c.l1.filter fun x : Nat × L1Word => !(ws.contains x.1 && x.2.owner.isNone) }

/-- The filled words of a line become invalid. -/
def State.dropFilled (s : State) (core l : Nat) : State := s.dropWords core (lineWords l)

/-- The acquire part at `DIE` scope or wider: every filled word of the core becomes invalid, and no reply under way fills one (R231). -/
def State.acquire (s : State) (core scope : Nat) : State :=
  if scope == 0 then s
  else
    let s1 := s.onCore core fun c => { c with l1 := c.l1.filter fun x : Nat × L1Word => x.2.owner.isSome }
    { s1 with reqs := Tbl.mapVal (fun _ r =>
        if (!r.snap.isEmpty || r.stage = .sent) && (r.core == core || r.targets.contains core) then
          { r with nofill := r.nofill ++ (lineWords r.line).map fun w => (core, w) }
        else r) s1.reqs }

/-- The L1 set of a line: one of 1,024 sets of 16 ways (R18). -/
def l1Place (l : Nat) : Nat := Config.l1Set l % 1024

/-- The victim that the L1 gives up for line `l`, where its set is full (R190). -/
def Core.victim (c : Core) (l : Nat) : Option Nat :=
  let same := c.lines.filter fun x : Nat × L1Line => l1Place x.1 == l1Place l && x.1 != l
  if same.length < 16 then none else leastWay (same.map fun x => (x.1, wayRank x.2.cls x.2.used))

/-- The write-back of an evicted line: its owned words in the write-back buffer, with their poison (R187, R203, R262). -/
def evictionReq (id core fn : Nat) (ws : List (Nat × L1Word)) : Req :=
  { Req.blank id with
    kind := .wback
    cls := .eviction
    fn := fn
    core := core
    source := core
    xl := true
    epoch := match ws with | x :: _ => x.2.epoch | [] => 0
    snapBad := (ws.filter fun x => x.2.poison).map fun x => x.1 / 2
    accs := ws.map fun x => ⟨32, 0, x.1 * 4, 4, x.2.value.toNat, x.2.owner.getD 0, x.2.mask.toNat⟩ }

/-- Eviction of a line: owned-dirty words go to the write-back buffer, filled words vanish (R187, R262). -/
def State.evict (s : State) (core l : Nat) : State :=
  let ws := (s.core core).l1.filter fun x : Nat × L1Word => x.1 / 32 == l && x.2.owner.isSome
  let s1 := s.onCore core fun c =>
    { c with
      l1 := c.l1.filter (fun x : Nat × L1Word => x.1 / 32 != l)
      lines := Tbl.del c.lines l
      wbuf := if ws.isEmpty then c.wbuf else c.wbuf ++ [l] }
  if ws.isEmpty then s1 else (s1.putReq (evictionReq s.nextId core (s.payer l) ws)).bump

/-- Whether the L1 can take line `l` now: the write-back buffer has room for the victim (R262). -/
def State.roomL1 (s : State) (core l : Nat) : Bool :=
  let c := s.core core
  (Tbl.find c.lines l).isSome ||
  match c.victim l with
  | some v => c.wbuf.length < 32 || !(c.l1.any fun x : Nat × L1Word => x.1 / 32 == v && x.2.owner.isSome)
  | none => true

/-- A line is allocated or hit in the L1 with hint `rh`; at most 12 of a set's ways are sticky (R190). -/
def State.touchL1 (s : State) (core l rh : Nat) : State :=
  let c := s.core core
  let stickies := (c.lines.filter fun x : Nat × L1Line => l1Place x.1 == l1Place l && x.1 != l && x.2.cls == 2).length
  match Tbl.find c.lines l with
  | some x => s.putCore core { c with lines := Tbl.put c.lines l ⟨hintClass x.cls rh stickies, s.cyc⟩ }
  | none =>
    let s1 := match c.victim l with | some v => s.evict core v | none => s
    s1.onCore core fun c => { c with lines := Tbl.put c.lines l ⟨hintClass 0 rh stickies, s.cyc⟩ }

/-- The 32-bit word of a list of 128 bytes. -/
def wordAt (bs : List Byte) (i : Nat) : W32 := BitVec.ofNat 32 (leNat ((bs.drop (4 * i)).take 4))

/-- `v` with the bytes of `m` taken from `o`. -/
def mergeWord (m : BitVec 4) (o v : W32) : W32 :=
  (List.range 4).foldl (fun r i => if m.getLsbD i then
    (r &&& ~~~(255#32 <<< (8 * i))) ||| (o &&& (255#32 <<< (8 * i))) else r) v

/-- One word of an L1 after the fill by value `v`, poisoned or not: invalid becomes filled, owned-dirty keeps its bytes; a filled word keeps its value, but takes that of a multicast, which no workgroup has loaded (R187, R211, R242). -/
def fillWord (old : Option L1Word) (multi : Bool) (v : W32) (bad : Bool) (epoch : Nat) : L1Word :=
  match old with
  | some x =>
    if x.owner.isSome then { x with value := mergeWord x.mask x.value v, poison := x.poison || (bad && x.mask != 15#4) }
    else if multi then ⟨none, 0, v, epoch, [], bad⟩ else x
  | none => ⟨none, 0, v, epoch, [], bad⟩

/-- The fill of a line into a core's L1 by the reply of request `r`; `multi` says that the reply is a multicast's (R187, R211). -/
def State.fill (s : State) (core : Nat) (r : Req) (multi : Bool) : State :=
  let ws := (lineWords r.line).filter fun w => !r.nofill.contains (core, w)
  if r.snap.isEmpty || ws.isEmpty then s
  else
    (s.touchL1 core r.line r.rh).onCore core fun c =>
      { c with l1 := ws.foldl (fun t w =>
          Tbl.put t w (fillWord (Tbl.find t w) multi (wordAt r.snap (w % 32)) (r.snapBad.contains (w / 2)) r.epoch)) c.l1 }

/-- Words that an access touches, by word address. -/
def Access.words (a : Access) : List Nat := (List.range ((a.pa + a.size + 3) / 4 - a.pa / 4)).map (a.pa / 4 + ·)

/-- A filled word is open for a workgroup once its load has bound it (R242). -/
def State.openWords (s : State) (core g : Nat) (ws : List Nat) : State :=
  s.onCore core fun c =>
    { c with l1 := ws.foldl (fun t w =>
        match Tbl.find t w with
        | some x => if x.owner.isNone && !x.open_.contains g then Tbl.put t w { x with open_ := g :: x.open_ } else t
        | none => t) c.l1 }

/-- Whether the L1 serves a word of a load: filled, and the load is no bypass load, or owned with a full mask (R226). -/
def L1Word.serves (x : L1Word) (bypass : Bool) : Bool :=
  match x.owner with
  | some _ => x.mask == 15#4
  | none => !bypass

/-- One byte as a load of the core sees it (R226): the owned byte, else the filled one, else the home's, which `home` gives. -/
def State.loadByte (s : State) (core pa : Nat) (bypass : Bool) (home : Byte) : Byte :=
  match s.l1Word core (pa / 4) with
  | some x =>
    if x.owner.isSome then (if x.mask.getLsbD (pa % 4) then x.value.extractLsb' (8 * (pa % 4)) 8 else home)
    else if bypass then home else x.value.extractLsb' (8 * (pa % 4)) 8
  | none => home

/-- `n` bytes as a load of the core sees them; `home` gives the home's bytes by address. -/
def State.loadN (s : State) (core pa : Nat) (bypass : Bool) (home : Nat → Byte) : Nat → Nat
  | 0 => 0
  | n + 1 => (s.loadByte core pa bypass (home pa)).toNat + 256 * s.loadN core (pa + 1) bypass home n

/-- A word that a load of the core consumes is poisoned (R203); `bad` says it of the home's 8-byte words. -/
def State.wordPoisoned (s : State) (core w : Nat) (bypass : Bool) (bad : Nat → Bool) : Bool :=
  match s.l1Word core w with
  | some x => if x.owner.isSome then x.poison || (x.mask != 15#4 && bad (w / 2)) else if bypass then bad (w / 2) else x.poison
  | none => bad (w / 2)

/-- The bytes an access writes, by address. -/
def Access.bytes (a : Access) : List (Nat × Byte) :=
  (List.range a.size).filterMap fun i =>
    if a.bmask / 2 ^ i % 2 == 1 then some (a.pa + i, BitVec.ofNat 8 (a.data / 2 ^ (8 * i))) else none

/-- The bytes of several accesses; a byte that several lanes write takes the value of the highest lane (R192). -/
def storeBytes (as : List Access) : List (Nat × Byte) :=
  (as.foldl (fun (m : Tbl Byte) a => a.bytes.foldl (fun m b => Tbl.put m b.1 b.2) m) [])

/-- Bytes stored by workgroup `g` into an L1 word that no other workgroup owns (R187); `whole` says that the store writes all of its 8-byte word, which heals poison (R203). -/
def State.storeL1 (s : State) (core g epoch rh : Nat) (whole : Bool) (word : Nat) (bs : List (Nat × Byte)) : State :=
  let s1 := s.touchL1 core (word / 32) rh
  let old : L1Word := ((s1.l1Word core word).getD ⟨none, 0, 0, epoch, [], false⟩)
  let m0 : BitVec 4 := if old.owner.isSome then old.mask else 0
  let m : BitVec 4 := bs.foldl (fun m b => m ||| (1#4 <<< (b.1 % 4))) m0
  let v : W32 := bs.foldl (fun v b => (v &&& ~~~(255#32 <<< (8 * (b.1 % 4)))) ||| ((b.2.setWidth 32 : W32) <<< (8 * (b.1 % 4)))) old.value
  s1.onCore core fun c => { c with l1 := Tbl.put c.l1 word ⟨some g, m, v, epoch, [], old.poison && !whole⟩ }

/-! ## Local spaces (R185, R186) -/

/-- The workgroup whose scratchpad a cohort-window address names, and the offset (R185, R186). A workgroup of the cohort that has ended has no scratchpad any more, and its offsets are out of range (log 75). -/
def State.window (s : State) (g : Nat) (a : W64) : Option (Nat × Nat) :=
  if a.toNat / 2 ^ 24 != 0 then none
  else
    let x := s.wg g
    let n := a.toNat / 2 ^ 20 % 16
    let off := a.toNat % 2 ^ 20
    match x.cohort with
    | none => if n == 0 then some (g, off) else none
    | some c =>
      (s.wgs.find? fun y : Nat × Wg => y.2.bundle == x.bundle && y.2.grid == x.grid && y.2.cohort == some c && y.2.wgc == n &&
        decide (y.2.status ≠ .ended)).map fun y => (y.1, off)

/-- The end record of a key at this device. -/
def State.endRec (s : State) (k : EndKey) : Option EndRec := s.ends.find? fun e => e.key == k

def State.putEnd (s : State) (e : EndRec) : State :=
  { s with ends := if s.ends.any fun x => x.key == e.key then s.ends.map fun x => if x.key == e.key then e else x else s.ends ++ [e] }

/-- The pinned context of the running handler (R185, R385). -/
def State.context (s : State) (g : Nat) : Option Binding :=
  match (s.wg g).ctx with
  | some k => (s.endRec k).bind fun e => e.bind
  | none => none

/-- Check 3 of R205 on an address of a local space: 0 passes, else the cause. -/
def State.localFault (s : State) (g space : Nat) (a : W64) (n : Nat) : Nat :=
  match space with
  | 1 => if a.toNat + n ≤ (s.wg g).padSize then 0 else cSPRANGE
  | 2 =>
    match s.window g a with
    | some (t, off) => if off + n ≤ (s.wg t).padSize then 0 else cSPRANGE
    | none => cSPRANGE
  | _ =>
    match s.context g with
    | some b => if a.toNat + n ≤ b.kib * 1024 then 0 else cSPRANGE
    | none => cCTXF

/-- One byte of a local space. -/
def State.localByte (s : State) (g space : Nat) (a : W64) : Byte :=
  match space with
  | 1 => Memory.read (s.wg g).pad a.toNat
  | 2 => match s.window g a with | some (t, off) => Memory.read (s.wg t).pad off | none => 0
  | _ => match s.context g with | some b => Memory.read b.ctx a.toNat | none => 0

def State.localN (s : State) (g space : Nat) (a : W64) : Nat → Nat
  | 0 => 0
  | n + 1 => (s.localByte g space a).toNat + 256 * s.localN g space (a + 1) n

def State.padWrite (s : State) (g a : Nat) (b : Byte) : State := s.onWg g fun x => { x with pad := Memory.write x.pad a b }

def State.localPut (s : State) (g space : Nat) (a : W64) (b : Byte) : State :=
  match space with
  | 1 => s.padWrite g a.toNat b
  | 2 => match s.window g a with | some (t, off) => s.padWrite t off b | none => s
  | _ =>
    match (s.wg g).ctx with
    | some k =>
      match s.endRec k with
      | some e => s.putEnd { e with bind := e.bind.map fun x => { x with ctx := Memory.write x.ctx a.toNat b } }
      | none => s
    | none => s

def State.localPutN (s : State) (g space : Nat) (a : W64) : Nat → Nat → State
  | 0, _ => s
  | n + 1, v => (s.localPut g space a (BitVec.ofNat 8 v)).localPutN g space (a + 1) n (v / 256)

/-- The poisoned 8-byte words of a context that an access meets (R203). -/
def badIn (l : List Nat) (off n : Nat) : Bool := l.any fun w => w * 8 < off + n && off < w * 8 + 8

/-- The 8-byte words that stay poisoned when the bytes at `addrs` are overwritten: those not overwritten whole (R203). -/
def healed (l : List Nat) (addrs : List Nat) : List Nat := l.filter fun w => !((List.range 8).all fun i => addrs.contains (8 * w + i))

/-- The workgroup and offset of a scratchpad that a local address names. -/
def State.padOf (s : State) (g space : Nat) (a : W64) : Option (Nat × Nat) :=
  match space with | 1 => some (g, a.toNat) | 2 => s.window g a | _ => none

/-- A poisoned word of the scratchpad or of the stream context among the bytes of an access (R203). -/
def State.padPoisoned (s : State) (g space : Nat) (a : W64) (n : Nat) : Bool :=
  match s.padOf g space a with
  | some (t, off) => badIn (s.wg t).padPoison off n
  | none => if space == 3 then (match s.context g with | some b => badIn b.bad a.toNat n | none => false) else false

/-- Words overwritten whole are no longer poisoned (R203). -/
def State.padHeal (s : State) (g space : Nat) (addrs : List Nat) : State :=
  match addrs with
  | [] => s
  | a :: _ =>
    match s.padOf g space (BitVec.ofNat 64 a) with
    | some (t, off) => s.onWg t fun x => { x with padPoison := healed x.padPoison (addrs.map fun b => b + off - a) }
    | none =>
      match (s.wg g).ctx.bind s.endRec with
      | some e => if space == 3 then s.putEnd { e with bind := e.bind.map fun b => { b with bad := healed b.bad addrs } } else s
      | none => s

/-! ## Atomic operations (R120, R218) -/

/-- The new value of an atomic on `n`-bit words. -/
def amoNew (op : AmoOp) (signed : Bool) (n old b c : Nat) : Nat :=
  let less := if signed then sextN n old ≤ sextN n b else old ≤ b
  match op with
  | .add => (old + b) % 2 ^ n
  | .min => if less then old else b
  | .max => if less then b else old
  | .and => old &&& b
  | .or => old ||| b
  | .xor => old ^^^ b
  | .swap => b
  | .cas => if old == c then b else old

def amoWrites (op : AmoOp) (old c : Nat) : Bool := match op with | .cas => old == c | _ => true

end Sys2Proof.Machine
end

