-- ==== Sys2Proof/Machine/Tags.lean ====
section
/-! DEFINITION. Fabric packets: routes, tags and the packets of line requests (R334 to R343). -/

namespace Sys2Proof.Machine

/-! ## Routes (R335) -/

/-- The valid next hops of a route entry, with their weights. -/
def hops (e : W64) : List (Nat × Nat) :=
  (List.range 4).filterMap fun k =>
    let h := e.toNat / 2 ^ (16 * k) % 65536
    if h / 2 ^ 15 == 1 && h / 2 ^ 11 % 16 != 0 then some (h % 128, h / 2 ^ 11 % 16) else none

/-- The entry is invalid when some valid hop has weight 0. -/
def hopsValid (e : W64) : Bool :=
  (List.range 4).all fun k => let h := e.toNat / 2 ^ (16 * k) % 65536; h / 2 ^ 15 == 0 || h / 2 ^ 11 % 16 != 0

/-- Weighted round-robin: packet number `n` takes this hop. -/
def pickHop : List (Nat × Nat) → Nat → Option Nat
  | [], _ => none
  | (p, w) :: r, n => if n < w then some p else pickHop r (n - w)

def State.hopOf (s : State) (dev : Nat) : Option Nat :=
  let e := Tbl.getD s.fab.route dev 0
  if hopsValid e then
    let hs := hops e
    pickHop hs (Tbl.getD s.fab.wrr dev 0 % max 1 (hs.foldl (fun n h => n + h.2) 0))
  else none

/-- The egress port that the next packet for a device takes; 128 where it has no valid hop. -/
def State.routePort (s : State) (dev : Nat) : Nat := (s.hopOf dev).getD 128

def State.countBad (s : State) : State := { s with fab := { s.fab with bad := s.fab.bad + 1 } }
def State.countLate (s : State) : State := { s with fab := { s.fab with late := s.fab.late + 1 } }

/-- The ports carry no data: the device is not in service (R405, R406), or has no device ID yet (R29). -/
def State.dataOff (s : State) : Bool := s.off || s.devid == 0xFFFFF

/-- Whether packets and accesses for the function are charged: a virtual function with a budget (R398). -/
def Fn.limited (f : Fn) : Bool := f.vfbud.lo != 0

/-- Bytes in a function's bucket now: RATE GB/s are RATE · 5 / 7 bytes per cycle (R398, R399). -/
def State.bucket (s : State) (fn : Nat) : Nat :=
  let f := s.fn fn
  min (f.vfbud.hi * 65536) (f.bucket + f.vfbud.lo * 5 * (s.cyc - f.filledAt) / 7)

/-- The bucket is charged. -/
def State.charge (s : State) (fn n : Nat) : State :=
  if fn == 0 || 33 ≤ fn || !(s.fn fn).limited then s
  else s.onFn fn fun f => { f with bucket := s.bucket fn - n, filledAt := s.cyc }

/-- Bytes of a packet: header and data flits of 32 bytes (R337, R338). -/
def packetSize (p : Packet) : Nat := 32 + 32 * p.flits.length

/-- A packet leaves through the port its route gives, or is dropped and counted in BAD (R335). One of this device is charged to its function (R398). -/
def State.emit (s0 : State) (p : Packet) : State :=
  let s := if p.src == s0.devid then s0.charge p.vf.toNat (packetSize p) else s0
  if s0.dataOff then s0
  else match s.hopOf p.dst.toNat with
  | some port => { s with fab := { s.fab with
      out := s.fab.out ++ [(port, p)]
      wrr := Tbl.put s.fab.wrr p.dst.toNat (Tbl.getD s.fab.wrr p.dst.toNat 0 + 1) } }
  | none => s0.countBad

/-! ## Tags (R343) -/

/-- The generation a free tag carries next. -/
def State.tagGen (s : State) (dev tag : Nat) : Nat :=
  match (s.fab.freed.filter fun f => f.dev == dev && f.tag == tag).getLast? with
  | some f => (f.gen + 1) % 16
  | none => 0

/-- A tag is free, and its generation was not carried in the last 120 µs. -/
def State.tagFree (s : State) (dev tag gen : Nat) : Bool :=
  !(s.fab.tags.any fun t => t.dev == dev && t.tag == tag) && s.tagGen dev tag == gen &&
  !(s.fab.freed.any fun f => f.dev == dev && f.tag == tag && f.gen == gen && s.cyc < f.at_ + Config.usec 120)

/-- The first run of `n` free tags of one generation. -/
def State.findTags (s : State) (dev n : Nat) : Nat → Nat → Option (Nat × Nat)
  | 0, _ => none
  | fuel + 1, t =>
    let g := s.tagGen dev t
    if t + n ≤ 4096 && (List.range n).all fun i => s.tagFree dev (t + i) g then some (t, g) else s.findTags dev n fuel (t + 1)

/-- A tag is freed on completion. -/
def State.freeTags (s : State) (p : TagRec → Bool) : State :=
  let gone := s.fab.tags.filter p
  { s with fab := { s.fab with
      tags := s.fab.tags.filter fun t => !p t
      freed := s.fab.freed ++ gone.map fun t => ⟨t.dev, t.tag, t.gen, s.cyc⟩ } }

/-! ## The packets of a line request (R338 to R342) -/

/-- A packet from this device to another; the fields not given are zero. -/
def State.header (s : State) (dst op tag gen vf scope order osa osb : Nat) (flits : List (BitVec 256)) : Packet where
  dst := BitVec.ofNat 20 dst
  src := s.devid
  hop := 0
  op := BitVec.ofNat 5 op
  tag := BitVec.ofNat 12 tag
  gen := BitVec.ofNat 4 gen
  vf := BitVec.ofNat 6 vf
  scope := BitVec.ofNat 3 scope
  order := BitVec.ofNat 3 order
  rsv := 0
  osa := BitVec.ofNat 50 osa
  osb := BitVec.ofNat 128 osb
  flits := flits

/-- The MASK of a line request. -/
def byteMask (bs : List Nat) : Nat := bs.foldl (fun m b => m ||| 2 ^ (b % 128)) 0

def Access.reach (a : Access) : List Nat := (List.range a.size).map (a.pa + ·)

/-- Bytes of a line as 32-byte flits, the first byte lowest. -/
def flitOf (bytes : List (Nat × Byte)) (line q : Nat) : BitVec 256 :=
  BitVec.ofNat 256 ((List.range 32).foldl (fun n i =>
    n + (match bytes.find? fun b => b.1 == line * 128 + 32 * q + i with | some b => b.2.toNat | none => 0) * 2 ^ (8 * i)) 0)

/-- The bytes and the value of the element that a reduction's accesses make up, each at the byte offset `cmp` (R285). -/
def Req.wholeSize (r : Req) : Nat := r.accs.foldl (fun n a => n + a.size) 0
def Req.wholeData (r : Req) : Nat := r.accs.foldl (fun v a => v + a.data % 2 ^ (8 * a.size) * 2 ^ (8 * a.cmp)) 0

/-- An access cut at the end of its line; `cmp` is the offset of each part. -/
def Access.parts (a : Access) : List Access :=
  let r := 128 - a.pa % 128
  if a.size ≤ r then [{ a with cmp := 0 }]
  else [{ a with size := r, cmp := 0, bmask := 2 ^ r - 1 }, { a with pa := a.pa + r, va := a.va + r, size := a.size - r, data := a.data / 2 ^ (8 * r), cmp := r, bmask := 2 ^ (a.size - r) - 1 }]

/-- The number of an access in an ATOM packet: a scalar access travels as lane 0. -/
def Access.laneNo (a : Access) : Nat := if a.lane == 32 then 0 else a.lane

/-- SIZE of an ATOM packet, by R91 codes 0-5: the access size, and for 8 and 16 bits the sign (R340). -/
def atomSize (bytes : Nat) (signed : Bool) : Nat :=
  match bytes with | 1 => if signed then 1 else 0 | 2 => if signed then 3 else 2 | 4 => 4 | _ => 5

/-- What an ATOM packet's fields of R340 have no place for travels in the upper bits of c, which no comparand of 32 bits or less uses (log 23): the byte offset in the word [63:62], which a reduction's strides may make other than 0 for 32 bits too, a reduction of R285 [61] with its RED, TYPE and RM, and the sign of a 32-bit minimum or maximum [60]. -/
def atomC (a : Access) (size : Nat) (signed : Bool) (red : Nat) : Nat :=
  if size == 5 && red == 0 then a.cmp % 2 ^ 64
  else a.cmp % 2 ^ 32 + (if size < 4 || red != 0 then a.pa % 4 * 2 ^ 62 else 0) + red + (if signed && size == 4 then 2 ^ 60 else 0)

/-- The code of an operation in R92 order. -/
def amoCode : AmoOp → Nat | .add => 0 | .min => 1 | .max => 2 | .and => 3 | .or => 4 | .xor => 5 | .swap => 6 | .cas => 7

/-- Packets a request takes tags for. -/
def Req.pktCount (r : Req) : Nat :=
  match r.kind with
  | .atom => (r.accs.length + 7) / 8
  | .cstore => r.accs.length
  | _ => 1

/-- The packets of a request whose tags start at `tag` (R339, R340). -/
def State.packetsOf (s : State) (r : Req) (tag gen : Nat) : List Packet :=
  let d := r.dev.getD 0
  let line := paOf r.pa / 128
  let hd := s.header d
  match r.kind with
  | .store =>
    let bs := storeBytes r.accs
    let m := byteMask (bs.map (·.1))
    [hd 1 tag gen r.fn r.scope r.ord line m
      (((List.range 4).filter fun q => m / 2 ^ (32 * q) % 2 ^ 32 != 0).map fun q => flitOf bs r.line q)]
  | .atom =>
    let lm := r.accs.foldl (fun m a => m ||| 2 ^ a.laneNo) 0
    let n := r.pktCount
    let signed := r.sd.isSome || r.ext == 1 || r.ext == 3
    let size := atomSize (match r.accs with | a :: _ => a.size | [] => 4) signed
    (List.range n).map fun i =>
      let part := (r.accs.drop (8 * i)).take 8
      let first := match part with | a :: _ => a.laneNo | [] => 0
      hd 2 (tag + i) gen r.fn r.scope r.ord line
        (lm * 2 ^ 96 + first * 2 ^ 91 + amoCode (r.op.getD .add) * 2 ^ 88 +
          size * 2 ^ 85 + i * 2 ^ 83 + (n - 1) * 2 ^ 81)
        (part.map fun a => BitVec.ofNat 256 (a.pa / 4 % 32 * 2 ^ 251 + atomC (if r.op = some .cas then a else { a with cmp := 0 }) size signed 0 * 2 ^ 64 + a.data % 2 ^ 64))
  | .reduce =>
    -- a reduction of a copy travels as a one-lane atomic (log 21)
    match r.accs, r.want with
    | a :: _, red :: ty :: rm :: _ =>
      let op := match red with | 1 => 0 | 2 => 1 | 3 => 2 | 4 => 3 | _ => 4
      let size := atomSize r.wholeSize (signedTy ty)
      [hd 2 tag gen r.fn r.scope r.ord line (2 ^ 96 + op * 2 ^ 88 + size * 2 ^ 85)
        [BitVec.ofNat 256 (a.pa / 4 % 32 * 2 ^ 251 + atomC { a with cmp := 0 } size (signedTy ty) (2 ^ 61 + red * 2 ^ 48 + ty * 2 ^ 40 + rm * 2 ^ 32) * 2 ^ 64 + r.wholeData % 2 ^ 64)]]
    | _, _ => []
  | .cstore =>
    let n := r.accs.length
    ((List.range n).zip (r.accs.zip r.want)).map fun x =>
      let a := x.2.1
      let wm := (List.range 32).foldl (fun m l => if a.bmask / 2 ^ (4 * l) % 2 == 1 then m ||| 2 ^ l else m) 0
      let bs := (List.range 128).map fun i => (a.pa + i, BitVec.ofNat 8 (a.data / 2 ^ (8 * i)))
      hd 3 (tag + x.1) gen r.fn r.scope r.ord (paOf a.pa / 128)
        (wm * 2 ^ 96 + x.2.2 % 65536 * 2 ^ 80 + x.1 * 2 ^ 78 + (n - 1) * 2 ^ 76)
        ((List.range 4).map fun q => flitOf bs (a.pa / 128) q)
  | .packet => r.pkts.map fun p => { p with tag := BitVec.ofNat 12 tag, gen := BitVec.ofNat 4 gen }
  -- the reply to a multicast is the whole line (R211; log 84)
  | _ => [hd 0 tag gen r.fn r.scope r.ord line (if r.targets.isEmpty then byteMask (r.accs.flatMap Access.reach) else 2 ^ 128 - 1) []]

/-- A request takes its tags as it enters the egress queue; none where no run of them is free (R343). -/
def State.takeTags (s : State) (r : Req) : Option State :=
  let d := r.dev.getD 0
  match s.findTags d r.pktCount 4096 0 with
  | none => none
  | some (t, g) =>
    let ps := s.packetsOf r t g
    some { s with fab := { s.fab with tags := s.fab.tags ++ ps.map fun p => ⟨d, p.tag.toNat, g, r.id, s.cyc, 0, [p]⟩ } }

/-- The packets of a request are sent; the tag's clock starts (R344). -/
def State.sendTagged (s : State) (r : Req) : State :=
  let ps := (s.fab.tags.filter fun t => t.req == r.id).flatMap fun t => t.pkts
  let s1 := { s with fab := { s.fab with tags := s.fab.tags.map fun t => if t.req == r.id then { t with sentAt := s.cyc, sends := 1 } else t } }
  ps.foldl (fun s p => s.emit p) s1

end Sys2Proof.Machine
end

