-- ==== Sys2Proof/Machine/Request.lean ====
section
/-! DEFINITION. Requests: how one is made, served by the L1, queued, bounced, performed at its home and answered (R206, R224 to R231, R243 to R263). -/

namespace Sys2Proof.Machine

/-! ## Queues -/

/-- Entries of a queue (R248). -/
def qEntries (q : Nat) : Nat :=
  match qKind q with | 0 => 96 | 1 => 128 | 2 => 64 | 3 => 512 | 4 => 64 | 5 => 256 | 6 => 256 | 7 => 256 | _ => 64

/-- Owner classes that feed it; each keeps one reserved entry (R248). -/
def qClasses (q : Nat) : Nat :=
  match qKind q with | 0 => 2 | 1 => 5 | 2 => 5 | 3 => 5 | 4 => 5 | 5 => 3 | 6 => 1 | 7 => 2 | _ => 2

def qOrdinary (q : Nat) : Nat := qEntries q - qClasses q

/-- The residency bound in force (R247). -/
def State.bound (s : State) : Nat := s.resid.lo

/-! ## Line chains (R227, R254) -/

/-- A request that stands in line chains: no write-back of an eviction, victim, fence or packet (R254). -/
def Req.chained (r : Req) : Bool :=
  match r.kind with | .wback => r.cls != .eviction | .fence => false | .packet => false | .victim => false | _ => true

/-- The lines on which a request stands in a chain: virtual and, where translated, physical lines of global memory; lines of the scratchpads that local addresses name (R227). -/
def State.chainKeys (s : State) (r : Req) : List (Nat × Nat × Nat) :=
  match r.lspace with
  | 0 =>
    (if r.cls == .warp && r.kind != .wback then r.valines.map fun l => (0, r.fn * 2 ^ 32 + r.space, l) else []) ++
    (if r.xl then r.palines.map fun l => (1, 0, l) else [])
  | 3 => r.valines.map fun l => (3, 0, l)
  | sp => r.accs.map fun a => match s.padOf (wgOf r.warp) sp (BitVec.ofNat 64 a.va) with
    | some (t, off) => (2, t, off / 128)
    | none => (2, noWarp, a.va / 128)

/-- Two requests touch one line. -/
def State.sameLine (s : State) (a b : Req) : Bool := (s.chainKeys a).any fun k => (s.chainKeys b).contains k

def State.reqList (s : State) : List Req := Tbl.values s.reqs
def State.reqsOf (s : State) (k : Nat) : List Req := s.reqList.filter fun r => r.warp == k && r.cls == .warp
def State.siblings (s : State) (iid : Nat) : List Req := s.reqList.filter fun r => r.iid == iid

/-- Its place in issue order: a write-back of a release stands where the release does (R254, R262). -/
def Req.order (r : Req) : Nat := if r.kind == .wback && r.cls == .warp then r.parent else r.id

def Req.before (q r : Req) : Bool := q.order < r.order || (q.order == r.order && q.kind == .wback && r.kind != .wback)

/-- It is outstanding beyond the L1, or its reply is (R254). -/
def Req.isOut (r : Req) : Bool := match r.stage with | .issued => false | .replay _ _ => false | _ => true

/-- Reason 0 of a replay entry: it has joined its line's chain behind other entries, and no queue has bounced it (R228, R254). -/
def Req.chainedUp (r : Req) : Bool := match r.stage with | .replay why _ => why == 0 | _ => false

/-- It has not left for the L1 or a queue: it stands in the memory queue, or unbounced in a line chain. -/
def Req.waiting (r : Req) : Bool := r.isIssued || r.chainedUp

/-- The requests that a request waits for in its line chains: the earlier ones, and one that is already out (R254). -/
def State.aheadInChain (s : State) (r : Req) : List Req :=
  if !r.chained then []
  else s.reqList.filter fun q =>
    q.id != r.id && q.cls == r.cls && q.warp == r.warp && q.src == r.src && q.chained && (q.before r || q.isOut) && s.sameLine q r

/-- `r` heads its line chains, and no eviction of the core still writes its line back (R254, R262). -/
def State.heads (s : State) (r : Req) : Bool :=
  (s.aheadInChain r).isEmpty && !(r.cls == .warp && r.xl && r.lspace == 0 && r.palines.any fun l => (s.core r.core).wbuf.contains l)

/-! ## Program order and gates (R40, R230, R231) -/

/-- `q` precedes an operation of stream `st`, lanes `mask` and join number `after`, in the program order of R40. -/
def Req.precedes (q : Req) (st : Stream) (mask : LaneMask) (after : Nat) : Bool :=
  match q.stream, st with
  | .scalar, .scalar => true
  | .scalar, _ => q.id < after
  | _, .scalar => q.id < after
  | _, _ => decide (q.kind = .fence) || q.mask &&& mask != 0

/-- A release, acquire or fence that has not ended; that of a fabric operation holds back no other instruction (R358). -/
def Req.orders (q : Req) : Bool := q.parent == 0 && (q.rel != 0 || q.acq || decide (q.kind = .fence))

/-- A memory instruction waits to issue behind an earlier release, acquire or fence of its program order. -/
def State.memBlocked (s : State) (k : Nat) (st : Stream) (mask : LaneMask) (after : Nat) : Bool :=
  (s.reqsOf k).any fun q => q.orders && q.precedes st mask after

/-- The number below which requests precede a stream's next access across the join (R40). -/
def Warp.afterOf (w : Warp) (st : Stream) : Nat := match st with | .scalar => w.joined | _ => w.after

/-! ## The replay stores (R251, R252, R262, R266, R416) -/

/-- Replay entries a request takes: one per line (R252). -/
def Req.entries (r : Req) : Nat := match r.kind with | .cstore => max 1 r.accs.length | .fence => 0 | _ => 1

/-- It holds replay entries: it has left the memory queue and is not answered. -/
def Req.holds (r : Req) : Bool := match r.stage with | .issued => false | .performed => r.entered != 0 | _ => true

def State.partition (s : State) (k : Nat) : Nat := ((s.reqsOf k).filter Req.holds).foldl (fun n r => n + r.entries) 0

/-- The warps that stand on a core: a switched-out workgroup's entries are saved with it (R265). -/
def State.warpsOn (s : State) (core : Nat) : List Nat :=
  (s.warps.filter fun x : Nat × Warp =>
    (s.wg (wgOf x.1)).coreKey == core && decide ((s.wg (wgOf x.1)).status ≠ .out) && decide ((s.wg (wgOf x.1)).status ≠ .ended)).map (·.1)

/-- CAP and GUAR in force on a core (R252). -/
def State.replayLimits (s : State) (core : Nat) : Nat × Nat := (s.core core).replay.getD (s.replayq.hi, s.replayq.lo)

/-- The entries above its guarantee that the warps of a core take from the pool. -/
def State.poolUse (s : State) (core : Nat) : Nat :=
  (s.warpsOn core).foldl (fun n k => n + (s.partition k - (s.replayLimits core).2)) 0

/-- A change of REPLAYQ takes effect on a core once every partition there holds no more than the new CAP (R252); until then the values `old` stay in force. -/
def State.replayHeld (s : State) (core : Nat) (old : Nat × Nat) : Option (Nat × Nat) :=
  if (s.warpsOn core).all fun k => s.partition k ≤ s.replayq.hi then none else some old

/-- Entries in use in a replay buffer of R416, or in a firmware core's replay store. -/
def State.bufferUse (s : State) (cls : OwnerClass) (source : Nat) : Nat :=
  (s.reqList.filter fun r => r.cls == cls && r.source == source && (match r.stage with | .issued => false | .queued q _ => qKind q != 6 | .performed => false | _ => true)).length

/-- Whether the request can obtain its replay entries (R252, R416). -/
def State.partitionRoom (s : State) (r : Req) : Bool :=
  r.holds ||
  match r.cls with
  | .warp =>
    let lim := s.replayLimits r.core
    let n := s.partition r.warp + r.entries
    n ≤ lim.1 && (n ≤ lim.2 || s.poolUse r.core + (n - max (s.partition r.warp) lim.2) ≤ 256 - 32 * lim.2)
  | .firmware => s.bufferUse .firmware r.source < 256
  | .host => s.bufferUse .host r.source < 256
  | _ => true

/-- `BOUNCECNT` after a bounce (R266). -/
def bounceCount (c : W64) (reason : Nat) : W64 :=
  BitVec.ofNat 64 (reason % 16 * 2 ^ 60 + c.toNat / 2 ^ 48 % 4096 * 2 ^ 48 + (c.toNat + 1) % 2 ^ 48)
def rescnt (c : W64) : W64 :=
  BitVec.ofNat 64 (c.toNat / 2 ^ 60 * 2 ^ 60 + (c.toNat / 2 ^ 48 + 1) % 4096 * 2 ^ 48 + c.toNat % 2 ^ 48)

/-- The notice of a bounce arrives: the entry records reason and wake condition (R251, R256, R266). A switched-out warp counts no notice. -/
def State.noticed (s : State) (r : Req) (reason : Nat) (wake : Wake) : State :=
  let s1 := s.putReq { r with stage := .replay reason wake, bounces := min 15 (r.bounces + 1) }
  if r.cls == .warp && decide ((s.wg (wgOf r.warp)).status ≠ .out) then
    s1.onWarp r.warp fun w => { w with csr := bumpPerf { w.csr with bouncecnt := bounceCount w.csr.bouncecnt reason } 4 }
  else s1

/-- Two addresses lie in one page: of the entry in force, and where there is none, of 64 KiB (R331). -/
def State.samePage (s : State) (fn space a b : Nat) : Bool :=
  a / 65536 == b / 65536 || (s.page fn space a).any fun p => pageCovers p fn space b

/-- The walk of a page. -/
def State.walkOf (s : State) (fn space va : Nat) (x : Walk) : Bool := x.fn == fn && x.space == space && s.samePage fn space va x.va

/-- A page joins its die's walk queue, or the walk already there (R331). -/
def State.addWalk (s : State) (die fn space va : Nat) (pref : Bool) : State :=
  s.onDie die fun d =>
    if d.walks.any (s.walkOf fn space va) then
      { d with walks := d.walks.map fun x => if s.walkOf fn space va x then { x with pref := x.pref && pref } else x }
    else { d with walks := d.walks ++ [⟨fn, space, va / 65536 * 65536, false, pref⟩] }

/-- A request's miss joins the walk under way for its page; where firmware was asked for the page already, the page is walked again (R331, R332). -/
def State.missWalk (s : State) (die fn space va : Nat) (pref : Bool) : State :=
  let here := (s.die die).walks.filter (s.walkOf fn space va)
  if !pref && !here.isEmpty && here.all (·.asked) then s.onDie die fun d => { d with walks := d.walks ++ [⟨fn, space, va / 65536 * 65536, false, false⟩] }
  else s.addWalk die fn space va pref

/-- The walks that the 64 walkers of a die have in hand: the oldest of those queued (R331). -/
def Die.walking (d : Die) : List Walk := (d.walks.filter fun x => !x.asked).take 64

/-! ## Leaving a queue (R246, R250, R257) -/

/-- "Congestion cleared" is sent to the sources that a queue at half or less bounced lately (R250). -/
def State.clearCongestion (s : State) (q : Nat) : State :=
  let x := s.queue q
  if 2 * x.ord.length ≤ qOrdinary q && !x.bounced.isEmpty then
    s.putQueue q { x with bounced := [], cleared := (x.cleared ++ (x.bounced.filter fun b => s.cyc ≤ b.2 + 4 * s.bound).map (·.1)).eraseDups }
  else s

/-- The wake condition of an entry, its notice arrived or still under way, changed where `f` gives one. -/
def Stage.rewake (f : Nat → Wake → Option Wake) : Stage → Stage
  | .replay why w => .replay why ((f why w).getD w)
  | .bounced why w => .bounced why ((f why w).getD w)
  | x => x

/-- The notice arrives: the entries bounced there for reason 0x3 wake (R250). -/
def State.wakeCleared (s : State) (q : Nat) : State :=
  let x := s.queue q
  let s1 := s.putQueue q { x with cleared := [] }
  { s1 with reqs := Tbl.mapVal (fun _ r =>
      if x.cleared.contains r.src then
        { r with stage := r.stage.rewake fun why w => match w with | .cleared q' _ => if why == 3 && q' == q then some .ready else none | _ => none }
      else r) s1.reqs }

/-- The next source of the mask, round-robin from the pointer (R257). -/
def nextSource (last : Nat) (srcs : List Nat) : Option Nat :=
  match (srcs.filter fun n => last < n) with
  | x :: xs => some (xs.foldl min x)
  | [] => match srcs with | x :: xs => some (xs.foldl min x) | [] => none

/-- A freed reserved entry is granted to a waiting source for 64 cycles (R257). -/
def State.grantResv (s : State) (q c : Nat) : State :=
  let x := s.queue q
  if (x.resv.any fun e => e.1 == c) || (x.grants.any fun g => g.1 == c) then s
  else
    match nextSource (Tbl.getD x.ptr c 0) ((x.mask.filter fun m => m.1 == c).map (·.2)) with
    | some src => s.putQueue q { x with
        mask := x.mask.filter fun m => !(m.1 == c && m.2 == src)
        ptr := Tbl.put x.ptr c src
        grants := x.grants ++ [(c, src, s.cyc + 64)] }
    | none => s

/-- The request's entry in a queue is freed (R246, R250, R257). -/
def State.leaveQueue (s : State) (r : Req) : State :=
  match r.stage with
  | .queued q b =>
    let x := s.queue q
    let s1 := s.putQueue q { x with ord := x.ord.filter fun i => i != r.id, resv := x.resv.filter fun e => e.2 != r.id }
    let s2 := s1.clearCongestion q
    if b then s2.grantResv q (clsCode r.cls) else s2
  | _ => s

/-- A request leaves the machine unperformed; its tags are free (R343). -/
def State.dropReq (s : State) (r : Req) : State := (((s.leaveQueue r).freeTags fun t => t.req == r.id)).delReq r.id

/-- Every request of an instruction leaves the machine unperformed. -/
def State.cancel (s : State) (iid : Nat) : State := (s.siblings iid).foldl State.dropReq s

/-! ## Faults of requests -/

/-- The cause becomes pending in the warp (R319). -/
def Warp.defer (w : Warp) (d : Deferred) : Warp := { w with deferred := w.deferred ++ [d] }

/-- A copy that meets a fault stops: its producer raises `cause` with `PIX` naming the copy and its progress (R288, R294). -/
def State.stopCopy (s : State) (core copy cause : Nat) : State :=
  match (s.core core).copies.find? fun c => c.id == copy with
  | none => s
  | some c =>
    let s1 := s.onCore core fun x => { x with copies := x.copies.map fun y => if y.id == copy then { y with stopped := true, cause := cause, wait := [] } else y }
    match c.warp with
    | some k => s1.onWarp k fun w => Warp.defer { w with csr := { w.csr with pix := BitVec.ofNat 64 (3 * 2 ^ 60 + c.done % 2 ^ 32) } } ⟨cause, c.pc.setWidth 64, c.inst⟩
    | none => s1

/-- A line access of a copy fails: an unmappable page stops the copy (R288), and so do a write into a live private area, the one refusal of a copy's access by `PROTF` (R304), and any fault of a packet's copy (R317); another cause of a warp's copy is deferred, and the copy goes on behind those bytes (log 22). -/
def State.faultCopy (s : State) (core copy cause : Nat) : State :=
  match (s.core core).copies.find? fun c => c.id == copy with
  | none => s
  | some c =>
    match c.warp with
    | some k =>
      if cause == cPAGEF || cause == cPROTF then s.stopCopy core copy cCPYPF
      else
        (s.onCore core fun x => { x with copies := x.copies.map fun y => if y.id == copy then { y with phase := 2, wait := [] } else y }).onWarp k
          fun w => w.defer ⟨cause, c.pc.setWidth 64, c.inst⟩
    | none => s.stopCopy core copy cause

/-- Every request that works for a fabric operation or message leaves unperformed. -/
def State.cancelParent (s : State) (id : Nat) : State :=
  ((s.reqList.filter fun r => r.parent == id && r.kind != .wback).map (·.iid)).foldl (fun s i => s.cancel i) s

/-- The control packet BSTAT for a message (R340): 1 done, 2 orphan, 3 abort. -/
def State.bstat (s : State) (dev msgid vf status : Nat) : State := s.emit (s.header dev 0x1A 0 0 vf 0 0 (msgid * 2 ^ 34) status [])

/-- A read or write that works for a fabric operation fails (R360, R363): the operation ends with its destinations full and unchanged (a lost write ends it with the status UNKNOWN instead), an open message is aborted toward its receiver, and the cause is deferred. -/
def State.fabFault (s : State) (r : Req) (code : Nat) : State :=
  match Tbl.find s.warps r.warp with
  | none => s
  | some w =>
    let d : Deferred := ⟨code, r.pc, r.inst⟩
    match w.fabq.find? fun o => o.id == r.parent with
    | some o =>
      -- a lost write raises nothing (R378): the operation goes on without its acknowledgement, and answers UNKNOWN (R345)
      if code == cATOMUNK then
        let rest := o.wait.filter fun i => i != r.id
        (s.delReq r.id).putWarp r.warp { w with
          fabq := w.fabq.map fun x => if x.id == o.id then { o with wait := rest, unknown := true, phase := if rest.isEmpty then 2 else o.phase } else x }
      else
      ((s.cancelParent r.parent).delReq o.fence).putWarp r.warp (Warp.defer { w with
        fabq := w.fabq.filter fun x => x.id != o.id
        rg := w.rg.filled o.dregs } d)
    | none =>
      match w.msgs.find? fun m => m.id == r.parent with
      | some m =>
        ((s.cancelParent r.parent).bstat m.dev m.msgid r.fn 3).putWarp r.warp (Warp.defer { w with
          msgs := w.msgs.filter fun x => x.id != m.id
          rg := w.rg.filled m.dregs } d)
      | none => s.cancelParent r.parent

/-- It works for a copy or a fabric operation. -/
def Req.forEngine (r : Req) : Bool := r.parent != 0 && r.kind != .wback

/-- It works for a copy. -/
def State.ofCopy (s : State) (r : Req) : Bool := r.forEngine && (s.core r.core).copies.any fun c => c.id == r.parent

/-- A request that works for a copy or for a fabric operation fails. -/
def State.parentFault (s : State) (r : Req) (code : Nat) : State :=
  if s.ofCopy r then (s.cancel r.iid).faultCopy r.core r.parent code
  else s.fabFault r code

/-! ## Performing (R225, R226) -/

/-- A value extended as its instruction says (R81, R91). -/
def extend (scalar : Bool) (ext v : Nat) : Nat :=
  match ext with
  | 1 => wrapN (if scalar then 64 else 32) (sextN 8 v)
  | 3 => wrapN (if scalar then 64 else 32) (sextN 16 v)
  | 5 => if scalar then wrapN 64 (sextN 32 v) else v
  | _ => v

def Req.extend (r : Req) (v : Nat) : Nat := Machine.extend r.sd.isSome r.ext v

/-- Bypass accesses: by hint, of a synchronisation at the home, of a copy (R189, R225, R284). -/
def Req.bypass (r : Req) : Bool := r.rh == 3 || r.home || r.direct || r.kind == .record

/-- The workgroup of a request's warp. -/
def Req.wgKey (r : Req) : Nat := wgOf r.warp

/-- Whether the access of a request writes. -/
def Req.writes (r : Req) : Bool := match r.kind with | .store => true | .atom => true | .cstore => true | .reduce => true | _ => false

def Req.wordsOf (r : Req) : List Nat := r.accs.flatMap Access.words

/-- The multicast in flight whose reply answers a load of this core (R212); the core's view of the words must not have changed since its read. An `LDMC` of a target core reads the home itself and joins none, which R212 leaves open: the model's choice (log 83). -/
def State.multicastFor (s : State) (r : Req) : Option Req :=
  if r.kind != .load || r.cls != .warp || !r.targets.isEmpty || r.forEngine then none
  else (s.line r.line).mcast.findSome? fun m =>
    if m.2.2.contains r.core then
      (Tbl.find s.reqs m.1).filter fun q => !q.snap.isEmpty && r.wordsOf.all fun w => !q.nofill.contains (r.core, w)
    else none

/-- The lane number under which a reply to another device carries the line's version. -/
def versionLane : Nat := 200

/-- A load performed at the home (R189, R211, R212, R226). It reads what a multicast in flight to its core has read, where there is one; it voids the older fills under way to the cores that its own reply will fill. -/
def State.performLoad (s : State) (r : Req) : State :=
  let l := r.line
  let m := s.multicastFor r
  let home (a : Nat) : Byte := match m with | some q => q.snap.getD (a % 128) 0 | none => s.homeByte a
  let badAt (w : Nat) : Bool := match m with | some q => q.snapBad.contains w | none => s.badAt w
  let bad := r.wordsOf.any fun w => s.wordPoisoned r.core w r.bypass badAt
  let vals := r.accs.map fun a => (a.lane, r.extend (s.loadN r.core a.pa r.bypass home a.size))
  let fills := !r.bypass && !isRemote r.pa && r.cls == .warp
  let cores := if fills then r.core :: r.targets else r.targets
  let s1 := if r.bypass then (match m with | some q => (s.dropWords r.core r.wordsOf).putReq q | none => s.dropWords r.core r.wordsOf) else s
  let s2 := if m.isNone then cores.foldl (fun s c => s.voidFills c (lineWords l)) s1 else s1
  let s3 := s2.putLine l (let x := s2.line l
    { x with
      sharers := cores.foldl (fun a c => if a.contains c then a else a ++ [c]) x.sharers
      mcast := if r.targets.isEmpty then x.mcast else x.mcast ++ [(r.id, s.cyc, r.targets)] })
  s3.putReq { r with
    stage := .performed
    reply := if r.cls == .ingress then vals ++ [(versionLane, s.version l)] else vals
    fault := if bad then cMEMERR else 0
    relEpoch := (s.wg r.wgKey).epoch
    snap := if cores.isEmpty then [] else match m with | some q => q.snap | none => s.homeBytes (l * 128) 128
    snapBad := if cores.isEmpty then [] else match m with | some q => q.snapBad | none => s.badWords l
    nofill := match m with | some q => q.nofill | none => [] }

/-- The release part of a request's instruction lets it leave. -/
def Req.relDone (r : Req) : Bool := r.rel == 0 || r.rel == 3

/-- A load is counted as hit or miss at its first lookup (R135). -/
def State.countLoad (s : State) (r : Req) (i : Fin 9) : State :=
  if r.kind == .load && r.cls == .warp && !r.looked then
    (s.putReq { r with looked := true }).onWarp r.warp fun w => { w with csr := bumpPerf w.csr i }
  else s

/-- Load misses of the same warp that merged into this one are bound with it (R254). -/
def State.mergedLoads (s : State) (r : Req) : List Req :=
  if r.kind != .load || r.bypass || !r.targets.isEmpty then []
  else (s.reqsOf r.warp).filter fun q =>
    q.id != r.id && q.kind == .load && q.waiting && q.xl && q.lspace == 0 && q.line == r.line && q.targets.isEmpty &&
    !q.bypass && !q.gang && q.relDone && (s.aheadInChain q).all fun p => p.kind == .load && (p.id == r.id || p.waiting)

/-- The words a store writes in the L1, and those it writes at the home (R187, R189, R225). -/
def State.toL1 (s : State) (r : Req) (w : Nat) : Bool :=
  let owned := match s.l1Word r.core w with | some x => x.owner.isSome | none => false
  r.cls == .warp && (!r.bypass || (owned && !r.home)) && !isRemote (w * 4)

/-- A store performed (R187, R189, R225): the words that another workgroup of the core owns are first written back, those of one workgroup as one write (log 74). -/
def State.performStore (s : State) (r : Req) : State :=
  let g := r.wgKey
  let bytes := storeBytes r.accs
  let words := (bytes.map fun b => b.1 / 4).eraseDups
  let whole (w : Nat) : Bool := (List.range 8).all fun i => bytes.any fun b => b.1 == w / 2 * 8 + i
  let l1s := words.filter (s.toL1 r)
  let atHome := words.filter fun w => !l1s.contains w
  let lost := (s.ownedOf r.core l1s).filter fun y => y.2.2 != g
  let s0 := (lost.map fun y => y.2.2).eraseDups.foldl (fun s o => s.writeBackLine r.core r.line ((lost.filter fun y => y.2.2 == o).map (·.1))) s
  let s1 := l1s.foldl (fun s w => (s.storeL1 r.core g r.epoch r.rh (whole w) w (bytes.filter fun b => b.1 / 4 == w)).register w g r.core) s0
  let s2 := if atHome.isEmpty then s1
    else (s1.homeWrite r.line (bytes.filter fun b => atHome.contains (b.1 / 4)) []).dropWords r.core atHome
  (s2.voidFills r.core l1s).putReq { r with stage := .performed }

/-- Minimum and maximum are signed (R92, R120): every scalar form, and the lane forms of SIZE 1, 3 and 5. -/
def Req.signed (r : Req) : Bool := r.sd.isSome || r.ext == 1 || r.ext == 3 || r.ext == 5

/-- An atomic's step on one line, lane by lane in ascending order (R218). -/
def State.performAtom (s : State) (r : Req) : State :=
  let s0 := s.flushLine r.core r.wgKey r.line
  if r.accs.any fun a => s0.poisoned a.pa a.size then s0.putReq { r with stage := .performed, fault := cMEMERR }
  else
    let step (x : Memory × List (Nat × Nat) × List (Nat × Byte)) (a : Access) : Memory × List (Nat × Nat) × List (Nat × Byte) :=
      let old := Memory.readN x.1 a.pa a.size
      let n := 8 * a.size
      let op := r.op.getD .add
      let new := amoNew op r.signed n old (a.data % 2 ^ n) (a.cmp % 2 ^ n)
      let bs := Access.bytes { a with data := new, bmask := 2 ^ a.size - 1 }
      if amoWrites op old (a.cmp % 2 ^ n) then (Memory.writeN x.1 a.pa a.size new, x.2.1 ++ [(a.lane, r.extend old)], x.2.2 ++ bs)
      else (x.1, x.2.1 ++ [(a.lane, r.extend old)], x.2.2)
    let base : Memory := (List.range 128).foldl (fun m i => Memory.write m (r.line * 128 + i) (s0.homeByte (r.line * 128 + i))) []
    let out := r.accs.foldl step (base, [], [])
    let bytes : List (Nat × Byte) := out.2.2.foldl (fun (m : Tbl Byte) b => Tbl.put m b.1 b.2) []
    let s1 := if bytes.isEmpty then s0 else s0.homeWrite r.line bytes []
    (s1.dropFilled r.core r.line).putReq { r with stage := .performed, reply := out.2.1 }

/-- One element under a reduction of R285: codes 1 add, 2 min, 3 max, 4 and, 5 or. -/
def reduceElem (red ty rm a b : Nat) : Nat × Flags :=
  if isFltTy ty then
    match red with
    | 1 => fAdd ty rm false a b
    | 2 => (fMinMax ty false a b, 0)
    | _ => (fMinMax ty true a b, 0)
  else
    match red with
    | 1 => ((a + b) % 2 ^ elemWidth ty, 0)
    | 2 => (if intVal ty a ≤ intVal ty b then a else b, 0)
    | 3 => (if intVal ty a ≤ intVal ty b then b else a, 0)
    | 4 => (a &&& b, 0)
    | _ => (a ||| b, 0)

/-- A reduction of a copy at the home, one element (R285): its accesses are the parts of the element, each at the byte offset `cmp` in it, two where its strides put it across a line (log 21). The reply carries its flags, and to another device the old value. -/
def State.performReduce (s : State) (r : Req) : State :=
  let s0 := r.palines.foldl (fun s l => s.flushLine r.core r.wgKey l) s
  match r.want with
  | [red, ty, rm] =>
    if r.accs.any fun a => s0.poisoned a.pa a.size then s0.putReq { r with stage := .performed, fault := cMEMERR }
    else
      let old := r.accs.foldl (fun v a => v + s0.homeN a.pa a.size * 2 ^ (8 * a.cmp)) 0
      let v := reduceElem red ty rm old r.wholeData
      let s1 := r.accs.foldl (fun s a => s.homeWrite (a.pa / 128) (Access.bytes { a with data := v.1 / 2 ^ (8 * a.cmp), bmask := 2 ^ a.size - 1 }) []) s0
      (r.palines.foldl (fun s l => s.dropFilled r.core l) s1).putReq { r with stage := .performed, reply := [(0, if r.cls == .ingress then old else v.2.toNat)] }
  | _ => s0.putReq { r with stage := .performed }

/-- `CREAD` at the home: the line's words with its version in the upper half (R215). -/
def State.performCread (s : State) (r : Req) : State :=
  let l := r.line
  let s0 := s.flushLine r.core r.wgKey l
  let ver := s0.version l
  let bad := (lineWords l).any fun w => s0.wordPoisoned r.core w true s0.badAt
  let vals := (List.range 32).map fun i => (i, s0.loadN r.core (l * 128 + 4 * i) true s0.homeByte 4 + ver * 2 ^ 32)
  (s0.dropFilled r.core l).putReq { r with stage := .performed, reply := vals, fault := if bad then cMEMERR else 0 }

/-- The state of a `CSTORE`'s lines at its step: the issuing workgroup's owned-dirty words are home (R216). -/
def State.cstoreBase (s : State) (r : Req) : State := r.palines.foldl (fun s l => s.flushLine r.core r.wgKey l) s

/-- Every line has the version the `CSTORE` wants. -/
def State.versionsMatch (s : State) (r : Req) : Bool := (r.accs.zip r.want).all fun p => s.version (p.1.pa / 128) == p.2

/-- `CSTORE`'s indivisible step (R216): access i is line i, its data 128 bytes and `bmask` the bytes of the active lanes. -/
def State.performCstore (s : State) (r : Req) : State :=
  let s0 := s.cstoreBase r
  let ok := s0.versionsMatch r
  let bad := r.accs.any fun a => s0.poisoned a.pa 128
  let s1 := if ok && !bad then r.accs.foldl (fun s a => s.homeWrite (a.pa / 128) a.bytes []) s0 else s0
  (r.palines.foldl (fun s l => s.dropFilled r.core l) s1).putReq
    { r with stage := .performed, ok := ok && !bad, fault := if bad then cMEMERR else 0 }

/-- A write-back: of a release, the words as the L1 holds them now; of an eviction, the bytes of the buffer (R187, R230, R262, R403). -/
def State.performWback (s : State) (r : Req) : State :=
  match r.cls with
  | .eviction =>
    let s1 := if s.freshAt r.line r.epoch then s.homeWrite r.line (storeBytes r.accs) r.snapBad else s
    let s2 := r.accs.foldl (fun s a => s.deregister (a.pa / 4) a.cmp) s1
    s2.putReq { r with stage := .performed }
  | _ => (s.flushLine r.core r.wgKey r.line).putReq { r with stage := .performed }

/-- A prefetch performed: its line for the L1, or with RH 11 for the L2 alone (R213). -/
def State.performPref (s : State) (r : Req) : State :=
  if r.rh == 3 then s.putReq { r with stage := .performed }
  else (s.putLine r.line (let x := s.line r.line
      { x with sharers := if x.sharers.contains r.core then x.sharers else x.sharers ++ [r.core] })).putReq
    { r with stage := .performed, snap := s.homeBytes (r.line * 128) 128, snapBad := s.badWords r.line }

/-- The request is performed at the place that serves it. -/
def State.perform (s : State) (r : Req) : State :=
  match r.kind with
  | .load => (s.mergedLoads r).foldl (fun s q => (s.countLoad q 7).performLoad { q with looked := true }) (s.performLoad r)
  | .store => s.performStore r
  | .atom => s.performAtom r
  | .cread => s.performCread r
  | .cstore => s.performCstore r
  | .wback => s.performWback r
  | .pref => s.performPref r
  | .record => s.performLoad { r with rh := 3 }
  | .reduce => s.performReduce r
  | _ => s.putReq { r with stage := .performed }

/-- Write-backs of evictions of a core that its home has still to acknowledge for these lines. -/
def State.evictionsOf (s : State) (core : Nat) (ls : List Nat) : List Req :=
  s.reqList.filter fun q => q.kind == .wback && q.cls == .eviction && q.core == core && !q.isPerformed && ls.contains q.line

/-- The evicted words of a core are part of what its accesses see until they are home: before the home performs a request of the core for these lines, it performs the core's write-backs of them (R187, R226, R240). -/
def State.drainEvictions (s : State) (core : Nat) (ls : List Nat) : State :=
  (s.evictionsOf core ls).foldl (fun s q => (s.leaveQueue q).performWback q) s

/-- The home's part of a request that has reached it: its lines are used (R190), and it is performed. A store whose line finds no room in the L1 has its registration recorded, and waits there for the room (R262). -/
def State.performAt (s0 : State) (r : Req) : State :=
  let s := r.palines.foldl (fun s l => s.touchL2 l r.rh) (if r.cls == .warp then s0.drainEvictions r.core r.palines else s0)
  let ws := if r.kind == .store then ((storeBytes r.accs).map fun b => b.1 / 4).eraseDups.filter (s.toL1 r) else []
  if ws.isEmpty || s.roomL1 r.core r.line then s.perform r
  else (ws.foldl (fun s w => s.register w r.wgKey r.core) s).putReq { r with stage := .granted }

/-- A local access performed at its banks, or at the stream context store of the die (R185, R191, R192, R218). -/
def State.performLocal (s : State) (r : Req) : State :=
  let g := r.wgKey
  let at_ (a : Access) : W64 := BitVec.ofNat 64 a.va
  match r.kind with
  | .load =>
    s.putReq { r with
      stage := .performed
      reply := r.accs.map fun a => (a.lane, r.extend (s.localN g r.lspace (at_ a) a.size))
      fault := if r.accs.any fun a => s.padPoisoned g r.lspace (at_ a) a.size then cMEMERR else 0 }
  | .store =>
    ((r.accs.foldl (fun s a => s.localPutN g r.lspace (at_ a) a.size a.data) s).padHeal g r.lspace
      (r.accs.flatMap fun a => (List.range a.size).map (a.va + ·))).putReq { r with stage := .performed }
  | _ =>
    if r.accs.any fun a => s.padPoisoned g r.lspace (at_ a) a.size then s.putReq { r with stage := .performed, fault := cMEMERR }
    else
      let out := r.accs.foldl (fun (x : State × List (Nat × Nat)) a =>
        let old := x.1.localN g r.lspace (at_ a) a.size
        let n := 8 * a.size
        let op := r.op.getD .add
        let new := amoNew op r.signed n old (a.data % 2 ^ n) (a.cmp % 2 ^ n)
        (if amoWrites op old (a.cmp % 2 ^ n) then x.1.localPutN g r.lspace (at_ a) a.size new else x.1,
         x.2 ++ [(a.lane, r.extend old)])) (s, [])
      out.1.putReq { r with stage := .performed, reply := out.2 }

/-! ## Service by the L1 (R226, R187, R189, R190) -/

def State.l1Serves (s : State) (r : Req) : Bool :=
  r.xl && r.lspace == 0 && (!isRemote r.pa || r.kind == .load) &&
  match r.kind with
  | .load => r.targets.isEmpty && r.wordsOf.all fun w => match s.l1Word r.core w with | some x => x.serves r.bypass | none => false
  | .store => !r.home && r.wordsOf.all fun w => match s.l1Word r.core w with | some x => x.owner == some r.wgKey | none => false
  | .pref => r.rh != 3 && (lineWords r.line).all fun w => (s.l1Word r.core w).isSome
  | _ => false

/-- The request is performed by the L1. -/
def State.serveL1 (s : State) (r : Req) : State :=
  let s0 := s.touchL1 r.core r.line r.rh
  match r.kind with
  | .load =>
    let bad := r.wordsOf.any fun w => s.wordPoisoned r.core w r.bypass fun _ => false
    (s0.openWords r.core r.wgKey r.wordsOf).putReq { r with
      stage := .performed
      reply := r.accs.map fun a => (a.lane, r.extend (s.loadN r.core a.pa r.bypass s.homeByte a.size))
      fault := if bad then cMEMERR else 0 }
  | .store => s0.performStore r
  | _ => s0.putReq { r with stage := .performed }

/-! ## Cinnabar pages (R242 to R245) -/

/-- `RACEPEER`. -/
def racePeer (kind dev die lcore wg : Nat) : W64 :=
  BitVec.ofNat 64 (kind * 2 ^ 62 + dev % 2 ^ 20 * 2 ^ 40 + die * 2 ^ 38 + lcore * 2 ^ 32 + wg % 2 ^ 32)

/-- A failed check of an access: its lane, the virtual address of its word, and of the earlier access the KIND, workgroup and core (R243, R245). -/
abbrev Race := Nat × Nat × Nat × Nat × Nat

/-- The words of an access that its instruction reads or writes: of a `CSTORE` line, those of the active lanes. -/
def Access.touched (a : Access) (kind : ReqKind) : List Nat :=
  if kind == .cstore then (Access.words a).filter fun w => a.bmask / 2 ^ (4 * (w % 32)) % 16 != 0 else a.words

/-- A word open for another workgroup in a sharer core: the lowest-numbered such workgroup, and the core (R243, R245). -/
def State.openElsewhere (s : State) (g w : Nat) (cores : List Nat) : Option (Nat × Nat) :=
  let found := cores.flatMap fun c => match s.l1Word c w with
    | some x => if x.owner.isNone then (x.open_.filter fun o => o != g).map fun o => (o, c) else []
    | none => []
  match found with
  | [] => none
  | x :: xs => some (xs.foldl (fun a b => if (s.wg b.1).wg < (s.wg a.1).wg then b else a) x)

/-- The check of R243 on word `w`, with the probes answered by `cores`. -/
def State.raceAt (s : State) (r : Req) (cores : List Nat) (w : Nat) : Option (Nat × Nat × Nat) :=
  let g := r.wgKey
  let owner := match s.l1Word r.core w with | some x => x.owner | none => none
  let reg := ((s.line (w / 32)).owners.find? fun o => o.1 == w % 32 && o.2.1 != g).map fun o => (0, o.2.1, o.2.2)
  if r.writes then
    if r.kind == .store && !r.home && owner == some g then none
    else match reg with
      | some x => some x
      | none => (s.openElsewhere g w cores).map fun o => (1, o.1, o.2)
  else if s.l1Serves r then match owner with | some o => if o != g then some (2, o, r.core) else none | none => none
  else reg

/-- A request whose accesses are checked: on a Cinnabar page of this device, and of a `CSTORE` only one that would commit (R243). Accesses of fabric operations are not: `MEMRACE` is not among the causes of R378. -/
def State.checked (s : State) (r : Req) : Bool :=
  r.cinnabar && (!r.forEngine || s.ofCopy r) && r.dev.isNone && r.kind != .pref && (r.kind != .cstore || (s.cstoreBase r).versionsMatch r)

/-- The sharer cores of a request's lines. -/
def State.sharersOf (s : State) (r : Req) : List Nat := (r.palines.flatMap fun l => (s.line l).sharers).eraseDups

/-- The failed checks of a request, with the probes of `cores` answered. -/
def State.racesOf (s : State) (r : Req) (cores : List Nat) : List Race :=
  if !s.checked r then []
  else r.accs.flatMap fun a => (a.touched r.kind).filterMap fun w => (s.raceAt r cores w).map fun x =>
    (if r.kind == .cstore then w % 32 else a.lane, (a.va + (w * 4 - a.pa / 4 * 4)) / 4 * 4, x)

/-- Sibling requests of an instruction that have not been performed, homed on this device. -/
def State.gangOf (s : State) (iid : Nat) : List Req := (s.siblings iid).filter fun r => r.dev.isNone && r.stage ≠ .performed && r.stage ≠ .granted

/-- The held stream goes on after its Cinnabar access (R245), or once a `CSTORE` has passed its line check (R216). -/
def State.releaseHeld (s : State) (r : Req) : State :=
  match r.stream with
  | .scalar => s.endScalarWait r.warp fun w => w = .held r.iid
  | st =>
    match Tbl.find s.warps r.warp with
    | some w => if (w.slot st).wait = .held r.iid then s.passHeld r.warp st else s
    | none => s

/-- The hold of an instruction ends without it: it stands where it stood. -/
def Warp.dropHold (w : Warp) (st : Stream) (iid : Nat) : Warp :=
  match st with
  | .scalar => { w with
      sc := { w.sc with wait := if w.sc.wait = .held iid then .none else w.sc.wait }
      handler := w.handler.map fun a => { a with wait := if a.wait = .held iid then .none else a.wait } }
  | st => if (w.slot st).wait = .held iid then w.putSlot st { w.slot st with wait := .none } else w

/-- The instruction leaves nothing behind: its result is not in flight, its destinations are full as before. -/
def Warp.unissue (w : Warp) (r : Req) : Warp :=
  let res := w.flight.find? fun x => x.id == r.result && r.result != 0
  Warp.dropHold { w with
    flight := w.flight.filter fun x => x.id != r.result || r.result == 0
    rg := match res with | some x => if x.fills then w.rg.filled (x.regs.map (·.1)) else w.rg | none => w.rg
    sc := match r.sd with | some d => { w.sc with empty := w.sc.empty &&& ~~~(1#64 <<< d.toNat) } | none => w.sc } r.stream r.iid

/-- The failed check of the first lane. -/
def firstRace : List Race → Option Race
  | [] => none
  | x :: xs => some (xs.foldl (fun a b => if b.1 < a.1 then b else a) x)

/-- `MEMRACE` (R243, R245): the instruction is the trapping one, none of its accesses takes effect, and the CSRs name the first failing lane's word. A store or atomic holds its place, so one that a handler has set aside is issued again when the handler has ended, and the handler's own ends the workgroup (R324). A load holds none (R114): what has issued behind it stays issued, and the trap is taken at the load's PC when the check fails, in handler mode too; a warp that has exited, or has a trap of its own to take, takes it as a deferred one (log 32). That of a copy, whose instruction has issued, is taken before the producer's next issue (R295; log 22). -/
def State.memRace (s : State) (r : Req) (xs : List Race) : State :=
  match firstRace xs with
  | none => s
  | some x =>
    let pg := s.wg x.2.2.2.1
    let core := x.2.2.2.2
    let mark (w : Warp) : Warp :=
      { w with csr := { w.csr with raceaddr := BitVec.ofNat 64 x.2.1, racepeer := racePeer x.2.2.1 s.devid.toNat (core / 60) (core % 60) pg.wg } }
    if r.forEngine then (s.parentFault r cMEMRACE).onWarp r.warp mark
    else
    let lanes : LaneMask := xs.foldl (fun m y => if y.1 < 32 then m ||| (1#32 <<< y.1) else m) 0
    let load := r.kind == .load || r.kind == .cread
    let is (f : Warp → Bool) : Bool := match Tbl.find s.warps r.warp with | some w => f w | none => false
    let aside := is fun w => w.handler.isSome && !(r.stream == Stream.scalar && w.sc.wait == SWait.held r.iid)
    let later := is fun w => w.exited || (decide (w.halt = .stopped) && trapPend w.trap.cause)
    let s1 := (s.cancel r.iid).onWarp r.warp fun w => w.unissue r
    if load && later then s1.onWarp r.warp fun w => (mark w).defer ⟨cMEMRACE, r.pc, r.inst⟩
    else if !load && aside then s1
    else (s1.onWarp r.warp mark).raise r.warp (streamSrc r.stream) cMEMRACE (if r.stream = Stream.scalar then 0 else lanes.toNat) r.pc r.inst

/-- Requests that are performed only at the head of the slice input queue (R261). -/
def Req.headOnly (r : Req) : Bool := match r.kind with | .atom => true | .cstore => true | .reduce => true | _ => false

/-- The request needs its line exclusively, from a host by read-own (R395). -/
def Req.takesOwn (r : Req) : Bool := r.writes || decide (r.kind = .wback)

/-- A line of host memory that the slice holds in the shared state only, for a request that needs it exclusive: it is fetched by read-own (R395, R396). -/
def State.sharedOnly (s : State) (r : Req) (l : Nat) : Bool :=
  homeOf (l * 128) == 1 && r.takesOwn && Tbl.find s.hostLines l != some true

/-- The first line of the request that its slice does not hold as it must. -/
def State.missLine (s : State) (r : Req) : Option Nat := r.palines.find? fun l => decide ((s.line l).place ≠ .l2) || s.sharedOnly r l

/-- The head of a slice input queue: no ordinary entry stands before the request's but those of its own instruction. A request in the reserved entry stands behind none: the model's choice, where R261 speaks of one head (log 83). -/
def State.atHead (s : State) (r : Req) (q : Nat) (resv : Bool) : Bool :=
  resv || ((s.queue q).ord.takeWhile (· != r.id)).all fun i => (Tbl.find s.reqs i).any fun x => x.iid == r.iid && x.gang

/-- The request stands where it can be performed: in the L1's hands, or in its slice's input queue, at the head where it must be (R225, R261). -/
def State.atPlace (s : State) (r : Req) : Bool :=
  match r.stage with
  | .queued q resv => qKind q == 1 && (s.missLine r).isNone && (!r.headOnly || s.atHead r q resv)
  | .issued => s.l1Serves r
  | .replay _ _ => s.l1Serves r
  | _ => false

/-- Every failed check that the accesses of an instruction meet now, of those that stand where they are performed: one that waits in a replay store is not checked (R245). -/
def State.races (s : State) (iid : Nat) : List Race :=
  ((s.gangOf iid).filter s.atPlace).flatMap fun r => s.racesOf r (s.sharersOf r)

/-- The accesses of an instruction that touches a Cinnabar page take effect together, once each is at its place and its probes are answered (R243, R245). -/
def State.tryGang (s : State) (iid : Nat) : State :=
  let rs := s.gangOf iid
  if !rs.all fun r => r.clear && s.atPlace r then s
  else match rs with
    | [] => s
    | r :: _ =>
      match s.races iid with
      | [] =>
        let s1 := rs.foldl (fun s r => if s.l1Serves r then (s.countLoad r 6).serveL1 { r with looked := true } else (s.leaveQueue r).performAt r) s
        if (s1.siblings iid).any fun x => x.dev.isSome then s1 else s1.releaseHeld r
      | xs => s.memRace r xs

/-- A request of such an instruction has reached its place and passed its probes. -/
def State.markClear (s : State) (r : Req) : State := (s.putReq { r with clear := true, probes := some [] }).tryGang r.iid

/-! ## Shared queues (R246, R250, R257, R258) -/

/-- Whether the function has no budget, or enough in it. -/
def State.affords (s : State) (fn n : Nat) : Bool := fn == 0 || 33 ≤ fn || !(s.fn fn).limited || n ≤ s.bucket fn

/-- Bytes of the fabric packets of the request: headers and data flits of 32 bytes (R337, R338). -/
def Req.egressBytes (r : Req) : Nat :=
  match r.kind with
  | .store => 32 + 32 * ((storeBytes r.accs).map fun b => b.1 % 128 / 32).eraseDups.length
  | .atom => 32 * (r.pktCount + r.accs.length)
  | .cstore => 160 * r.accs.length
  | .packet => r.pkts.foldl (fun n p => n + 32 + 32 * p.flits.length) 0
  | .reduce => 64
  | _ => 32

/-- Bytes of the packets that answer it (R339, R340). -/
def Req.replyBytes (r : Req) : Nat :=
  r.pkts.foldl (fun n p => n + match p.op.toNat with | 0 => 160 | 2 => 96 | _ => 32) 0

/-- A cause of the request's own owner that makes a queue bounce it, on arrival or as soon as the cause is found there (R250, R201). -/
def State.ownerBounce (s : State) (q : Nat) (r : Req) : Option (Nat × Wake) :=
  if r.cls == .eviction then none
  else
    match qKind q with
    | 5 =>
      let dev := r.dev.getD 0
      if s.fab.cong.any fun c => c.dev == dev then some (4, .uncongested dev)
      else if !s.affords r.fn r.egressBytes then some (6, .budget) else none
    | 6 => if !s.affords r.fn r.replyBytes then some (6, .budget) else none
    | 4 =>
      let c := s.chan (qIndex q)
      let b := Config.hbmBank (paOf r.pa); let row := Config.hbmRow (paOf r.pa)
      match c.gated.find? fun x => x.1 == r.fn && x.2.1 == b && x.2.2.1 == row && s.cyc < x.2.2.2 with
      | some x => some (5, .time x.2.2.2)
      | none => if !s.affords r.fn 128 then some (6, .budget) else none
    | _ => none

/-- A queue bounces a request: the notice is under way; a prefetch is dropped instead (R213, R250). The queue may by then be half empty, and clears at once. -/
def State.bounce (s : State) (q : Nat) (r : Req) (reason : Nat) (wake : Wake) : State :=
  if r.kind == .pref then s.delReq r.id
  else
    let s0 := if qKind q == 5 then s.freeTags fun t => t.req == r.id else s
    let s1 := s0.putReq { r with stage := .bounced reason wake, clear := false, probes := none }
    match reason with
    | 3 => (s1.putQueue q (let x := s1.queue q; { x with bounced := x.bounced ++ [(r.src, s.cyc)] })).clearCongestion q
    | 7 => s1.putQueue q (let x := s1.queue q
        { x with mask := if x.mask.contains (clsCode r.cls, r.src) then x.mask else x.mask ++ [(clsCode r.cls, r.src)] })
    | _ => s1

/-- The reserved entry of a class is free for a source: none in it, and no grant held for another (R257). -/
def Shq.resvFree (x : Shq) (cls src : Nat) : Bool :=
  !(x.resv.any fun e => e.1 == cls) && !(x.grants.any fun g => g.1 == cls && g.2.1 != src)

/-- A request arrives at a shared queue (R246, R250, R257, R258); `resv` says that it asks for the reserved entry. -/
def State.arriveAs (s : State) (q : Nat) (r : Req) (resv : Bool) : State :=
  let x := s.queue q
  let c := clsCode r.cls
  match s.ownerBounce q r with
  | some (why, wake) => s.bounce q r why wake
  | none =>
    let enter (s : State) (b : Bool) : State := s.putReq { r with stage := .queued q b, entered := s.cyc, bound := s.bound, resv := r.resv }
    -- a remote request takes its tags here; without a free tag it waits in its replay entry, which is no bounce (R343)
    let tagged : Option State := if qKind q == 5 && r.cls != .ingress then s.takeTags r else some s
    if resv && x.resvFree c r.src then
      match tagged with
      | some s1 => (enter s1 true).putQueue q { x with resv := x.resv ++ [(c, r.id)], grants := x.grants.filter fun g => !(g.1 == c && g.2.1 == r.src) }
      | none => s
    else if !resv && x.ord.length < qOrdinary q then
      match tagged with
      | some s1 => (enter s1 false).putQueue q { x with ord := x.ord ++ [r.id] }
      | none => s
    else if resv then s.bounce q r 7 (.grant q)
    else s.bounce q r 3 (.cleared q (s.cyc + 4 * s.bound))

def State.arrive (s : State) (q : Nat) (r : Req) : State := s.arriveAs q r r.resv

/-- The request leaves queue `q` for queue `q'`: from an ordinary entry it goes on its way; from a reserved one it takes whichever entry of the next queue is free, and waits where none is (R258). -/
def State.moveOn (s : State) (r : Req) (q' : Nat) (resv : Bool) : State :=
  let x := s.queue q'
  if !resv then (s.leaveQueue r).putReq { r with stage := .transit q' }
  else if x.resvFree (clsCode r.cls) r.src then (s.leaveQueue r).arriveAs q' r true
  else if x.ord.length < qOrdinary q' then (s.leaveQueue r).arriveAs q' r false
  else s

/-- The queue a request of this place enters first: the core's outbound queue, the slice of its home, or the port's; a victim write's is the queue below its cache (R248). -/
def State.firstQueue (s : State) (r : Req) : Nat :=
  match r.kind, r.cls with
  | .victim, _ => if r.source < srcCache 0 then qCode (.sliceMiss (r.source - srcSlice 0)) else qCode (.hbm (Config.hbmChannel (paOf r.pa)))
  | _, .warp => qCode (.coreOut r.core)
  | _, .eviction => qCode (.coreOut r.core)
  | _, _ => match r.dev with | some d => qCode (.egress (s.routePort d)) | none => qCode (.sliceIn (homeSlice r.pa))

/-- The next queue of a request that leaves queue `q`, none where it has reached its place (R195, R248). -/
def State.nextQueue (s : State) (r : Req) (q : Nat) : Option Nat :=
  match qKind q with
  | 0 =>
    if r.lspace == 3 then some (qCode (.ctxStore (r.core / 60)))
    else match r.dev with
      | some d => some (qCode (.egress (s.routePort d)))
      | none => some (qCode (.sliceIn (homeSlice r.pa)))
  | 1 => if (s.missLine r).isNone then none else some (qCode (.sliceMiss (qIndex q)))
  | 2 => match s.missLine r with
    | some l => if homeOf r.pa == 1 then some (qCode .hostReq) else some (qCode (.msc (edgeOf (l * 128))))
    | none => some (qCode (.sliceIn (homeSlice r.pa)))
  | 3 =>
    if r.kind == .victim then (if (s.line r.line).cls == 1 then some (qCode (.hbm (Config.hbmChannel (paOf r.pa)))) else none)
    else match s.missLine r with
      | some l => if (s.line l).place = .hbm then some (qCode (.hbm (Config.hbmChannel (paOf (l * 128))))) else none
      | none => none
  | _ => none

/-! ## Leaving the core (R205, R254, R255, R331, R342) -/

/-- Every access translated again: on hits the request is translated; a refused access gives its cause. -/
inductive Rexlate where
  | ok (r : Req) (es : List TlbEnt)
  | miss (va : Nat)
  | refused (code : Nat)
deriving DecidableEq, Repr

def State.translate (s : State) (r : Req) : List Access → List Access → List TlbEnt → Rexlate
  | [], done, es => .ok { r with
      xl := true
      accs := done
      epoch := match done with | a :: _ => (s.frame (paOf a.pa / 65536)).epoch | [] => 0
      cinnabar := es.any fun e => e.page.cinnabar
      dev := match done with | a :: _ => if isRemote a.pa then some (homeOf a.pa - 2) else none | [] => none } es
  | a :: rest, done, es =>
    match s.xlate r.core r.fn r.space a.va r.writes with
    | .hit pa e => s.translate r rest (done ++ [{ a with pa := pa }]) (es ++ [e])
    | .miss => .miss a.va
    | .refused => .refused (if s.livePriv r.fn r.space a.va then cPROTF else cPAGEF)

/-- The acquire part of an instruction ends with its last request, whatever became of it (R231). -/
def State.endAcquire (s : State) (r : Req) : State :=
  if r.acq && (s.siblings r.iid).isEmpty then s.acquire r.core r.scope else s

/-- A deferred cause of an instruction becomes known (R319): the destinations become full with their old contents. -/
def State.dropFault (s : State) (r : Req) (code : Nat) : State :=
  if r.forEngine then s.parentFault r code
  else
  let s1 := (s.delReq r.id).onWarp r.warp fun w =>
    { w with
      deferred := if r.cls == .warp then w.deferred ++ [⟨code, r.pc, r.inst⟩] else w.deferred
      flight := w.flight.map fun x => if x.id == r.result && r.result != 0 then { x with keep := true, need := x.need - 1 } else x
      sc := match r.sd with | some d => { w.sc with empty := w.sc.empty &&& ~~~(1#64 <<< d.toNat) } | none => w.sc }
  let s2 := s1.endAcquire r
  -- the slot of a copy whose record cannot be read goes on behind it (R281), and so does one held by its last access (R245)
  if r.kind == .record && r.stream != .scalar then (s2.cancel r.iid).releaseHeld r
  else if (s2.siblings r.iid).isEmpty then s2.releaseHeld r
  else s2

/-- The two `CSLICEF` conditions on translated lines (R216). -/
def cslice (r : Req) : Bool :=
  let ls := r.accs.map fun a => a.pa / 128
  ls.eraseDups.length != ls.length ||
  (match r.accs with | [] => false | a :: as => as.any fun b => homeSlice b.pa != homeSlice a.pa || homeOf b.pa != homeOf a.pa)

/-- `CSLICEF` found once every line is translated: the instruction is the trapping one, and INFO names its active lanes (R216, R320). -/
def State.csliceTrap (s : State) (r : Req) : State :=
  match Tbl.find s.warps r.warp with
  | none => s
  | some w =>
    let s1 := (s.cancel r.iid).putWarp r.warp (w.unissue r)
    if w.handler.isSome then s1 else s1.raise r.warp (streamSrc r.stream) cCSLICEF (w.slot r.stream).act.toNat r.pc r.inst

/-- A reissued request starts again at its outbound queue, but for a missing translation (R255). One that was saved over a context switch has no translation any more (R265). -/
def Req.pastLookup (r : Req) : Bool := match r.stage with | .replay why _ => r.xl && why != 0 && why != 1 && why != 2 | _ => false

/-- A request offers itself to its first queue, where it can obtain its replay entries; from the eighth bounce on it carries a reservation (R252, R256). -/
def State.offer (s : State) (r : Req) : State :=
  if !s.partitionRoom r then s
  else
    let r2 := { r with resv := r.resv || 8 ≤ r.bounces, clear := false, probes := none }
    let s1 := s.countLoad r 7
    let r3 := { r2 with looked := r2.looked || r2.kind == .load }
    s1.arrive (s1.firstQueue r3) r3

/-- The sibling requests learn that one of them touches a Cinnabar page. -/
def State.ganged (s : State) (r : Req) : State :=
  if r.cinnabar && !r.gang && r.cls == .warp then { s with reqs := Tbl.mapVal (fun _ x => if x.iid == r.iid then { x with gang := true } else x) s.reqs } else s

/-- A request that its line chain holds back. A load is translated there, so that it can merge into the miss ahead of it (R254), and a `CSTORE`, whose lines are checked before its release part (R216). -/
def State.lookAhead (s : State) (r : Req) : State :=
  if !(r.kind == .cstore || (r.kind == .load && r.relDone)) || r.xl || r.gang || !r.waiting || r.lspace != 0 then s
  else match s.translate r r.accs [] [] with
    | .ok r1 es =>
      let s1 := es.foldl (fun s e => s.install r.core e) (s.putReq r1)
      if r.kind == .cstore then (if cslice r1 then s1.csliceTrap r1 else if r1.cinnabar then s else s1.releaseHeld r1) else if r1.cinnabar then s else s1
    | .miss va => if r.kind == .cstore then s.addWalk (r.core / 60) r.fn r.space va false else s
    | .refused _ => s

/-- A request behind others in its line's chain joins the chain in its partition, where it can obtain its entries (R228, R254). -/
def State.joinChain (s : State) (r : Req) : State :=
  match Tbl.find s.reqs r.id with
  | some x =>
    if x.isIssued && (x.lspace == 0 || x.lspace == 3) && x.relDone && !(s.aheadInChain x).isEmpty && s.partitionRoom x then s.putReq { x with stage := .replay 0 .ready } else s
  | none => s

/-- A translated request at the head of its chains: it waits for its release part, is served by the L1, or leaves the core. One of an instruction that touches a Cinnabar page waits for its siblings; those homed elsewhere leave after the local ones (R245). -/
def State.depart (s : State) (r : Req) : State :=
  if !r.relDone then s
  else if r.gang && r.dev.isSome then (if (s.gangOf r.iid).isEmpty then s.offer r else s)
  else if s.l1Serves r then (if r.gang then s.markClear r else (s.countLoad r 6).serveL1 { r with looked := r.looked || r.kind == .load })
  else s.offer r

/-- A request leaves its warp's memory queue, or its replay entry, at translation or at the first queue (R254, R255). -/
def State.launch (s : State) (r : Req) : State :=
  if r.kind == .fence || (r.cls == .warp && decide ((s.wg (wgOf r.warp)).status = .out)) then s
  else if !s.heads r then (s.lookAhead r).joinChain r
  else if r.lspace != 0 then (if !r.relDone then s else if r.lspace == 3 then s.offer r else s.performLocal r)
  else if !r.relDone && r.kind != .cstore then s
  else if r.pastLookup || r.cls == .eviction then s.offer r
  else
    match (if r.xl then .ok r [] else s.translate r r.accs [] []) with
    | .refused code => if r.kind == .pref then s.delReq r.id else s.dropFault r code
    | .miss va =>
      if r.kind == .pref then (s.missWalk (r.core / 60) r.fn r.space va true).delReq r.id
      else if s.partitionRoom r then (s.missWalk (r.core / 60) r.fn r.space va false).noticed r 1 .walk
      else s
    | .ok r0 es =>
      let s0 := (es.foldl (fun s e => s.install r.core e) (s.putReq r0)).ganged r0
      let r1 := { r0 with gang := r0.gang || (r0.cinnabar && r0.cls == .warp) }
      if r1.kind == .cstore && cslice r1 then s0.csliceTrap r1
      else if r1.kind == .pref && r1.dev.isSome then s0.delReq r1.id
      else if !s0.heads r1 then s0
      else (if r1.kind == .cstore && !r1.gang then s0.releaseHeld r1 else s0).depart r1

/-! ## Making requests (R206) -/

/-- An access with the line it is coalesced by, physical where a TLB holds its page and else virtual, and the line it is sorted by: by destination, then by address (R206, R342; log 55). -/
structure Coalesced where
  line : Nat
  sort : Nat
  acc  : Access
deriving DecidableEq, Repr

/-- Lines in ascending order of their sort key. -/
def insertLine (x : Nat × Nat) : List (Nat × Nat) → List (Nat × Nat)
  | [] => [x]
  | y :: ys => if x.1 < y.1 then x :: y :: ys else y :: insertLine x ys

/-- Accesses gathered line by line, the lines in ascending order. -/
def groupLines (as : List Coalesced) : List (List Access) :=
  let keys := ((as.map fun c => (c.sort, c.line)).eraseDups).foldr insertLine []
  let lines := (keys.map (·.2)).eraseDups
  lines.map fun k => (as.filter fun c => c.line == k).map fun c => c.acc

/-- The translation at hand at issue; check 4 of R205 has passed. -/
def State.coalesce (s : State) (proto : Req) (a : Access) : Coalesced :=
  if proto.lspace != 0 then ⟨a.va / 128, a.va / 128, a⟩
  else
    match s.xlate proto.core proto.fn proto.space a.va proto.writes with
    | .hit pa _ => ⟨2 * (pa / 128) + 1, pa / 128, { a with pa := pa }⟩
    | _ => ⟨2 * (a.va / 128), (match s.phys proto.fn proto.space a.va with | some pa => pa / 128 | none => 2 ^ 90 + a.va / 128), a⟩

/-- The requests of one instruction enter the issue sequence: one per line (R206); each takes the next number, and `proto.iid` is the first. -/
def State.addReqs (s : State) (proto : Req) : List (List Access) → State
  | [] => s
  | g :: rest => (s.putReq { proto with id := s.nextId, accs := g }).bump.addReqs proto rest

/-- The new requests try to leave at once. -/
def State.launchAll (s : State) (iid : Nat) : State :=
  (s.siblings iid).foldl (fun s r => match Tbl.find s.reqs r.id with | some x => if x.isIssued && x.kind != .fence then s.launch x else s | none => s) s

/-- How an instruction's accesses divide into requests (R206): one per line, or one for all of a `CSTORE`, and one for an element that a copy reduces (R285). -/
def State.plan (s : State) (proto : Req) (as : List Access) : List (List Access) :=
  match proto.kind with | .cstore => [as] | .reduce => [as] | _ => groupLines (as.map (s.coalesce proto))

/-- The requests of an instruction made and offered. -/
def State.request (s : State) (proto : Req) (as : List Access) : State :=
  let p := { proto with iid := s.nextId }
  (s.addReqs p (s.plan proto as)).launchAll p.iid

/-! ## What memory instructions share -/

/-- A scope after the tenant policy of a virtual function: none where it traps; `true` where it is downgraded (R219, R400). -/
def State.scopePolicy (s : State) (fn scope : Nat) : Option (Nat × Bool) :=
  if scope == 4 && fn != 0 && fn ≤ 32 then
    match (s.fn fn).vfscope.lo with | 0 => some (4, false) | 1 => some (3, true) | _ => none
  else some (scope, false)

/-- `SCOPEDN`.DN is set by a downgraded operation (R401). -/
def Warp.downgraded (w : Warp) (d : Bool) : Warp := if d then { w with csr := { w.csr with scopedn := true } } else w

/-- The page in force is a Cinnabar page, so the access holds its slot or stream (R245). -/
def State.onCinnabar (s : State) (fn space va : Nat) : Bool :=
  match s.page fn space va with | some p => p.cinnabar | none => false

def State.onRemote (s : State) (fn space va : Nat) : Bool :=
  match s.page fn space va with | some p => isRemote (pagePhys p va) | none => false

/-- Release and acquire parts of an order code (R237). -/
def ordRel (o : Nat) : Bool := o == 2 || o == 3 || o == 4
def ordAcq (o : Nat) : Bool := o == 1 || o == 3 || o == 4

end Sys2Proof.Machine
end

