-- ==== Sys2Proof/Machine/ScalarMem.lean ====
section
/-! DEFINITION. Scalar memory access (R119, R120). -/

namespace Sys2Proof.Machine

def ssizeCode : SSize → Nat | .n8 => 0 | .i8 => 1 | .n16 => 2 | .i16 => 3 | .n32 => 4 | .i32 => 5 | .b64 => 6
def ssizeBytes : SSize → Nat | .n8 => 1 | .i8 => 1 | .n16 => 2 | .i16 => 2 | .n32 => 4 | .i32 => 4 | .b64 => 8

/-- The checks of R119 in its order: 0 passes, else the cause. -/
def State.scalarCheck (s : State) (k lspace : Nat) (a : W64) (n : Nat) (write : Bool) : Nat :=
  let g := s.wg (wgOf k)
  if a.toNat % n != 0 then cALIGNF
  else if lspace != 0 then s.localFault (wgOf k) lspace a n
  else if !canonical a then cADDRF
  else
    match s.xlate g.coreKey g.fn g.proc a.toNat write with
    | .refused => cPROTF
    | _ => 0

/-- The request of a scalar access. -/
def State.scalarReq (s : State) (k : Nat) (w : Warp) (kind : ReqKind) (lspace : Nat) : Req :=
  let g := s.wg (wgOf k)
  { Req.blank s.nextId with
    kind := kind
    warp := k
    core := g.coreKey
    fn := g.fn
    space := g.proc
    lspace := lspace
    stream := .scalar
    after := w.joined
    pc := w.sc.pc
    inst := s.scalarInst g w }

/-- A scalar access issues: a store or `SAMO` to a Cinnabar page holds the stream until it has been performed or refused (R245); a load never does (R114). -/
def State.scalarAccess (s : State) (k : Nat) (w : Warp) (r : Req) (a : Access) : SOut :=
  let gang := r.lspace == 0 && s.onCinnabar r.fn r.space a.va
  if gang && r.kind != .load then
    .stay ((s.putWarp k (w.holdS (.held s.nextId))).request { r with gang := gang } [a])
  else .done ((s.putWarp k w).request { r with gang := gang } [a])

/-- `SLD` (R119). -/
def scalarLoad (sz : SSize) (lspace : Nat) (d a : SReg) (off : BitVec 11) (s : State) : Out :=
  scalarIssue s [d, a] fun k w =>
    let ea := w.sr a + off.signExtend 64
    match s.scalarCheck k lspace ea (ssizeBytes sz) false with
    | 0 =>
      if s.memBlocked k .scalar 0 w.joined then .final s
      else s.scalarAccess k { w with sc := w.sc.mark d }
        { s.scalarReq k w .load lspace with ext := ssizeCode sz, sd := some d } ⟨32, ea.toNat, 0, ssizeBytes sz, 0, 0, 0⟩
    | c => .trap c 0

/-- `SST` (R119). -/
def scalarStore (sz : SSize) (lspace : Nat) (d a : SReg) (off : BitVec 11) (s : State) : Out :=
  scalarIssue s [d, a] fun k w =>
    let ea := w.sr a + off.signExtend 64
    match s.scalarCheck k lspace ea (ssizeBytes sz) true with
    | 0 =>
      if s.memBlocked k .scalar 0 w.joined then .final s
      else s.scalarAccess k w (s.scalarReq k w .store lspace)
        ⟨32, ea.toNat, 0, ssizeBytes sz, (w.sr d).toNat % 2 ^ (8 * ssizeBytes sz), 0, 2 ^ ssizeBytes sz - 1⟩
    | c => .trap c 0

def execSld (sz : SSize) (d a : SReg) (off : BitVec 11) (s : State) : Out := scalarLoad sz 0 d a off s
def execSldPad (sz : SSize) (d a : SReg) (off : BitVec 11) (s : State) : Out := scalarLoad sz 1 d a off s
def execSst (sz : SSize) (d a : SReg) (off : BitVec 11) (s : State) : Out := scalarStore sz 0 d a off s
def execSstPad (sz : SSize) (d a : SReg) (off : BitVec 11) (s : State) : Out := scalarStore sz 1 d a off s

def ordCode : MemOrder → Nat | .rlx => 0 | .acq => 1 | .rel => 2 | .acqrel => 3 | .sc => 4

/-- `SAMO` (R120): the comparand is `sd` before issue. Under the trap policy `SCOPEF` comes before the address checks of R119: R120 puts those first, R400 makes it check 4 of R94, and the order between them is the model's choice (log 83). -/
def execSamo (op : AmoOp) (wide : Bool) (ord : MemOrder) (sys : Bool) (d a b : SReg) (s : State) : Out :=
  scalarIssue s [d, a, b] fun k w =>
    let n := if wide then 8 else 4
    let ea := w.sr a
    let o := ordCode ord
    match s.scopePolicy (s.wg (wgOf k)).fn (if sys then 4 else 2) with
    | none => .trap cSCOPEF 0
    | some (scope, down) =>
      match s.scalarCheck k 0 ea n true with
      | 0 =>
        if s.memBlocked k .scalar 0 w.joined then .final s
        else s.scalarAccess k ({ w with sc := w.sc.mark d }.downgraded down)
          { s.scalarReq k w .atom 0 with
            op := some op
            ext := if wide then 6 else 4
            sd := some d
            scope := scope
            ord := o
            rel := if ordRel o then 1 else 0
            acq := ordAcq o }
          ⟨32, ea.toNat, 0, n, (w.sr b).toNat, (w.sr d).toNat, 2 ^ n - 1⟩
      | c => .trap c 0

end Sys2Proof.Machine
end

