-- ==== Sys2Proof/Machine/Control.lean ====
section
/-! DEFINITION. Scalar control: branches, loops, the lane link, barriers, launches, CSRs and the rest of the system group (R121 to R136), with the events that end their waits. -/

namespace Sys2Proof.Machine

/-! ## Branches and jumps (R121) -/

def wordOff {n : Nat} (pc : W64) (off : BitVec n) : W64 := pc + (off.signExtend 64 <<< 2)

def execSbr (cc : SCond) (a b : SReg) (off : BitVec 11) (s : State) : Out :=
  scalarIssue s [a, b] fun _ w => if SCond.holds cc (w.sr a) (w.sr b) then .jump s (wordOff w.sc.pc off) else .done s

def execSj (off : BitVec 26) (s : State) : Out := scalarIssue s [] fun _ w => .jump s (wordOff w.sc.pc off)

def execSjal (d : SReg) (off : BitVec 20) (s : State) : Out :=
  scalarIssue s [d] fun k w => .jump (s.putWarp k (w.writeS d (w.sc.pc + 4))) (wordOff w.sc.pc off)

def execSjr (d a : SReg) (imm : BitVec 14) (s : State) : Out :=
  scalarIssue s [d, a] fun k w => .jump (s.putWarp k (w.writeS d (w.sc.pc + 4))) (wordOff (w.sr a) imm)

/-! ## Hardware loops (R122 to R124) -/

def execLoop (a : SReg) (c64 : Bool) (off : BitVec 16) (s : State) : Out :=
  scalarUser s [a] fun k w =>
    let e := w.sc.pc + (off.setWidth 64 <<< 2)
    let c := if c64 then w.sr a else (w.sr a).setWidth 32 |>.setWidth 64
    if c = 0 then .jump s (e + 4)
    else if w.sc.loops.length = 4 then .trap cLOOPF 0
    else if (match w.sc.loops with | t :: _ => t.endPc.ult e | [] => false) then .trap cLOOPF 0
    else .jump (s.putWarp k { w with sc := { w.sc with loops := ⟨w.sc.pc + 4, e, c⟩ :: w.sc.loops } }) (w.sc.pc + 4)

def execLbrk (s : State) : Out :=
  scalarUser s [] fun k w =>
    match w.sc.loops with
    | [] => .trap cLOOPF 0
    | t :: r => .jump (s.putWarp k { w with sc := { w.sc with loops := r } }) (t.endPc + 4)

/-! ## The lane link (R37, R126, R127) -/

/-- The snapshot of an `LGO`. -/
def Warp.snapshot (w : Warp) (a : SReg) : Vector W64 8 :=
  #v[w.sr a, w.sr (a + 1), w.sr (a + 2), w.sr (a + 3), w.larg[0], w.larg[1], w.larg[2], w.larg[3]]

/-- A block enters the lane-block queue. -/
def Warp.enqueue (w : Warp) (pc : BitVec 20) (x : Vector W64 8) (now : Nat) : Warp := { w with blocks := w.blocks ++ [⟨pc, x, now⟩] }

def execLgo (a : SReg) (pc : BitVec 20) (s : State) : Out :=
  scalarUser s (if 60 < a.toNat then [] else [a, a + 1, a + 2, a + 3]) fun k w =>
    if 60 < a.toNat then .trap cILLOP 0
    else if !(s.wg (wgOf k)).inLane pc.toNat then .trap cFETCHF 0
    else if w.blocks.length < 16 then .done (s.putWarp k (w.enqueue pc (w.snapshot a) s.nextId))
    else .stay (s.putWarp k (w.holdS (.lgo pc (w.snapshot a))))

/-- `LGO_UNSTALL`. -/
def execLgoUnstall (k : Nat) (s : State) : Out :=
  match Tbl.find s.warps k with
  | none => .next s
  | some w =>
    match w.sc.wait with
    | .lgo pc x => if w.blocks.length < 16 then .next ((s.putWarp k (w.enqueue pc x s.nextId)).passScalar k) else .next s
    | _ => .next s

def execLarg (i : BitVec 2) (a : SReg) (s : State) : Out :=
  scalarUser s [a] fun k w => .done (s.putWarp k { w with larg := w.larg.set i.toNat (w.sr a) })

/-! ## Barriers and triggers (R52, R53) -/

/-- The key of a cohort's barrier. -/
def cohortKey (g : Wg) : Nat := (g.bundle * 4 + g.grid) * 65536 + g.cohort.getD 0

/-- Workgroups that take part in a barrier: the own one, or those of the cohort. -/
def State.barrierMembers (s : State) (g b : Nat) : List Nat :=
  let x := s.wg g
  match b, x.cohort with
  | 16, some c => (s.wgs.filter fun y : Nat × Wg => y.2.bundle == x.bundle && y.2.grid == x.grid && y.2.cohort == some c && decide (y.2.status ≠ .ended)).map (·.1)
  | _, _ => [g]

def State.barrier (s : State) (g b : Nat) : Barrier :=
  let x := s.wg g
  if b == 16 && x.cohort.isSome then Tbl.getD s.cohorts (cohortKey x) ⟨[], 0⟩ else Tbl.getD x.bars b ⟨[], 0⟩

def State.putBarrier (s : State) (g b : Nat) (x : Barrier) : State :=
  let y := s.wg g
  if b == 16 && y.cohort.isSome then { s with cohorts := Tbl.put s.cohorts (cohortKey y) x }
  else s.onWg g fun y => { y with bars := Tbl.put y.bars b x }

/-- A member holds the barrier open: its warps have not started, or, at a cohort barrier, a trap has halted it, whether its user handler runs or firmware has it (R52, R323). -/
def State.holdsOpen (s : State) (b g : Nat) : Bool :=
  decide ((s.wg g).status = .placed) || (b == 16 && ((s.wg g).trapper.isSome || decide ((s.wg g).status = .halted)))

def waitsAt (b : Nat) (x : SWait) : Bool := match x with | .barrier c _ => c == b | _ => false

/-- The barrier completes when every warp that has not exited has arrived: a new generation, and each waiting warp acquires and goes on (R52). -/
def State.tryBarrier (s : State) (g b : Nat) : State :=
  let x := s.barrier g b
  let ws := (s.barrierMembers g b).flatMap s.warpsOf
  let stopped := (s.barrierMembers g b).any (s.holdsOpen b)
  if x.arrived.isEmpty || stopped || !(ws.all fun w => w.2.exited || x.arrived.contains w.1) then s
  else
    let s1 := s.putBarrier g b ⟨[], x.gen + 1⟩
    x.arrived.foldl (fun s k =>
      let s2 := if b == 16 then s.acquire (s.wg (wgOf k)).coreKey 1 else s
      (s2.onWarp k fun w => { w with joined := s.nextId }).endScalarWait k (waitsAt b)) s1

/-- A warp counts toward its grid's trigger; the trigger fires once every warp has been counted (R53). -/
def State.countTrigger (s : State) (k : Nat) : State :=
  let g := s.wg (wgOf k)
  match Tbl.find s.bundles g.bundle with
  | some b =>
    let grids := b.grids.mapIdx fun i x =>
      if i == g.grid then { x with trigs := x.trigs + 1, fired := x.fired || x.trigs + 1 == x.nwg * x.warps } else x
    s.putBundle g.bundle { b with grids := grids }
  | none => s

/-- The warp exits (R34): it counts as arrived at every barrier (R52) and toward the trigger. -/
def State.exitWarp (s : State) (k : Nat) : State :=
  match Tbl.find s.warps k with
  | none => s
  | some w =>
    let s1 := s.putWarp k { w with halted := true, exited := true, sc := { w.sc with loops := [], wait := .none } }
    let s2 := if w.triggered then s1 else s1.countTrigger k
    (List.range 17).foldl (fun s b => s.tryBarrier (wgOf k) b) s2

/-! ## Joins (R40, R52, R53, R130, R134) -/

/-- The conditions of `LWAIT` (R40). -/
def State.joinReady (s : State) (k : Nat) (w : Warp) : Bool :=
  w.blocks.isEmpty && !w.running && w.flight.all (·.mem) &&
  !((s.core (s.wg (wgOf k)).coreKey).matq.any fun x => x.warp == k)

/-- The request that stands for the release part of a scalar operation (R230). -/
def State.scalarRelease (s : State) (k scope : Nat) (j : Join) : State :=
  match Tbl.find s.warps k with
  | none => s
  | some w =>
    let r := { s.scalarReq k w .fence 0 with scope := scope, rel := 1, ord := 2, after := s.nextId, id := s.nextId, iid := s.nextId }
    ((s.putReq r).bump).onWarp k fun w => { w with joined := s.nextId, sc := { w.sc with wait := .release s.nextId j } }

/-- What follows once the join holds. -/
def State.continueJoin (s : State) (k : Nat) (j : Join) : State :=
  match j with
  | .lwait => (s.onWarp k fun w => { w with joined := s.nextId }).passScalar k
  | .sbar b => s.scalarRelease k (if b == 16 then 1 else 0) j
  | .strig =>
    match Tbl.find s.warps k with
    | some w => if w.triggered then (s.onWarp k fun w => { w with joined := s.nextId }).passScalar k else s.scalarRelease k 2 j
    | none => s
  | .shalt => s.exitWarp k
  | .slaunch _ _ => s.scalarRelease k 2 j

/-- The read of the packet that an `SLAUNCH` names, a request of the warp; `sd` stays empty until its status arrives, and the stream goes on (R114, R130). -/
def State.readPacket (s : State) (k : Nat) (d a : SReg) : State :=
  match Tbl.find s.warps k with
  | none => s
  | some w =>
    let r := { s.scalarReq k w .record 0 with sd := some d }
    (s.request r [⟨32, (w.sr a).toNat, 0, 64, 0, 0, 0⟩]).passScalar k

/-- What follows once the release part has ended. -/
def State.afterRelease (s : State) (k n : Nat) (j : Join) : State :=
  let s1 := s.delReq n
  match j with
  | .sbar b =>
    let x := s1.barrier (wgOf k) b
    ((s1.putBarrier (wgOf k) b { x with arrived := x.arrived ++ [k] }).onWarp k fun w => { w with sc := { w.sc with wait := .barrier b x.gen } }).tryBarrier (wgOf k) b
  | .strig => ((s1.onWarp k fun w => { w with triggered := true }).countTrigger k).passScalar k
  | .slaunch d a => s1.readPacket k d a
  | _ => s1.passScalar k

/-- `LWAIT_DONE`: a waiting join completes once its conditions hold, and goes on behind its release part once that has ended. -/
def execLwaitDone (k : Nat) (s : State) : Out :=
  match Tbl.find s.warps k with
  | none => .next s
  | some w =>
    match w.sc.wait with
    | .join j => if s.joinReady k w then .next (s.continueJoin k j) else .next s
    | .release n j =>
      match Tbl.find s.reqs n with
      | some r => if r.rel == 3 then .next (s.afterRelease k n j) else .next s
      | none => .next s
    | _ => .next s

/-- A joining instruction: it goes on at once where the join already holds. -/
def scalarJoin (j : Join) (s : State) : Out :=
  scalarUser s [] fun k w =>
    let t := s.putWarp k (w.holdS (.join j))
    .stay (if s.joinReady k w then t.continueJoin k j else t)

/-- `LWAIT` (R40, R128). -/
def execLwait (s : State) : Out := scalarJoin .lwait s
/-- `SBAR` (R52, R129). -/
def execSbar (b : BitVec 4) (s : State) : Out := scalarJoin (.sbar b.toNat) s
/-- `SBAR.c`. -/
def execSbarC (s : State) : Out := scalarJoin (.sbar 16) s
/-- `STRIG` (R53, R131). -/
def execStrig (s : State) : Out := scalarJoin .strig s

/-- `SHALT` (R134): nothing after it is fetched, so no fall-through is checked. -/
def execShalt (s : State) : Out :=
  scalarUser s [] fun k w =>
    let t := s.putWarp k { w.holdS (.join .shalt) with csr := bumpPerf w.csr 1 }
    .final (if s.joinReady k w then t.continueJoin k .shalt else t)

/-- `SLAUNCH` (R130). -/
def execSlaunch (d a : SReg) (s : State) : Out :=
  scalarUser s [d, a] fun k w =>
    match s.scalarCheck k 0 (w.sr a) 64 false with
    | 0 =>
      let w1 := { w with sc := w.sc.mark d }
      let t := s.putWarp k (w1.holdS (.join (.slaunch d a)))
      .stay (if s.joinReady k w then t.continueJoin k (.slaunch d a) else t)
    | c => .trap c 0

/-! ## The return queue (R39) -/

/-- Nothing that could still push: `SPOP` would wait for ever. -/
def Warp.neverPushes (w : Warp) : Bool :=
  w.blocks.isEmpty && !w.running && !(w.flight.any fun x => x.push.isSome)

def execSpop (d : SReg) (s : State) : Out :=
  scalarUser s [d] fun k w =>
    match w.rq with
    | v :: r => .done (s.putWarp k ({ w with rq := r }.longS d v))
    | [] =>
      if w.neverPushes then .trap cRQEMPTY 0
      else .stay (s.putWarp k ({ w with sc := w.sc.mark d }.holdS (.spop d)))

/-- `SPOP_DONE`: the entry is popped once it is pushed; when nothing can push any more, `RQEMPTY` (R39). -/
def execSpopDone (k : Nat) (s : State) : Out :=
  match Tbl.find s.warps k with
  | none => .next s
  | some w =>
    match w.sc.wait with
    | .spop d =>
      match w.rq with
      | v :: r => .next ((s.putWarp k { w with rq := r, sc := w.sc.put d v }).passScalar k)
      | [] =>
        if w.neverPushes then
          let w1 := { w with sc := { w.sc with empty := w.sc.empty &&& ~~~(1#64 <<< d.toNat), wait := .none } }
          .next ((s.putWarp k w1).raiseScalar k w1 cRQEMPTY 0)
        else .next s
    | _ => .next s

/-! ## CSRs (R83, R125, R132) -/

/-- The loop entry that `LSEL` shows. -/
def Scalar.shown (c : Scalar) : LoopEnt := (c.loops.drop c.lsel.toNat).headD ⟨0, 0, 0⟩


/-- The value of a CSR; none for a number no rule assigns. -/
def State.csr (s : State) (k : Nat) (w : Warp) (n : Nat) : Option W64 :=
  let g := s.wg (wgOf k)
  match n with
  | 0x000 => some 1
  | 0x001 => some (s.devid.setWidth 64)
  | 0x002 =>
    let c := s.core g.coreKey
    some (BitVec.ofNat 64 (g.die % 4 * 2 ^ 14 + g.core % 64 * 2 ^ 8 + c.row % 8 * 8 + c.col % 8))
  | 0x003 => some g.sbase
  | 0x004 => some (BitVec.ofNat 64 g.slen)
  | 0x005 => some g.lbase
  | 0x006 => some (BitVec.ofNat 64 g.llen)
  | 0x010 => some w.rg.vbCsr
  | 0x011 => some (w.fflags.setWidth 64)
  | 0x012 => some (BitVec.ofNat 64 (w.dsbase.toNat / 1024 * 1024))
  | 0x013 => some (BitVec.ofNat 64 w.dstack.length)
  | 0x014 => some w.csr.pix
  | 0x015 => some w.csr.latcnt
  | 0x016 => some w.csr.bouncecnt
  | 0x017 => some (BitVec.ofNat 64 w.trap.skids)
  | 0x018 => some (BitVec.ofNat 64 w.trap.skidl)
  | 0x019 => some w.trap.cause
  | 0x01A => some w.trap.pc
  | 0x01B => some w.trap.inst
  | 0x020 => some (BitVec.ofNat 64 (s.cyc % 4096 / 64 * 4096 + s.cyc % 4096))
  | 0x021 => some (BitVec.ofNat 64 s.ptp.now)
  | 0x022 => some (s.fab.bad ++ s.fab.late)
  | 0x023 => some (boolWord w.csr.scopedn)
  | 0x030 => some (BitVec.ofNat 64 w.sc.loops.length)
  | 0x031 => some (w.sc.lsel.setWidth 64)
  | 0x032 => some w.sc.shown.start
  | 0x033 => some w.sc.shown.endPc
  | 0x034 => some w.sc.shown.count
  | 0x040 => some w.csr.raceaddr
  | 0x041 => some w.csr.racepeer
  | 0x050 => some (w.csr.copystat.setWidth 64)
  | 0x060 => some w.csr.gridarg
  | 0x070 => some w.trap.vec
  | 0x071 => some w.trap.deleg
  | 0x072 => some w.trap.lpca
  | 0x073 => some w.trap.lpcb
  | 0x200 => some (BitVec.ofNat 64 ((if s.ptp.ever then 2 else 0) + if s.ptp.sync then 1 else 0))
  | _ => none

def execScsrr (n : BitVec 12) (d : SReg) (s : State) : Out :=
  scalarIssue s [d] fun k w =>
    match s.csr k w n.toNat with
    | some v => .done (s.putWarp k (w.longS d v))
    | none => .trap cILLOP 0

/-- Writable bits of `TRAPDELEG` (R320). -/
def delegMask : W64 := BitVec.ofNat 64 (2 ^ 34 - 2 - 2 ^ 0x0A - 2 ^ 0x1B)

/-- A CSR write, `VB` apart; read-only fields keep their values, and in handler mode only SKIP of the trap registers is written (R324). -/
def Warp.writeCsr (w : Warp) (n : Nat) (v : W64) : Warp :=
  match n with
  | 0x011 => { w with fflags := w.fflags &&& ~~~(v.setWidth 5) }
  | 0x019 => { w with trap := { w.trap with cause := (w.trap.cause &&& ~~~(8192#64)) ||| (v &&& 8192#64) } }
  | 0x023 => { w with csr := { w.csr with scopedn := w.csr.scopedn && !v.getLsbD 0 } }
  | 0x031 => { w with sc := { w.sc with lsel := v.setWidth 2 } }
  | 0x050 => { w with csr := { w.csr with copystat := w.csr.copystat &&& ~~~(v.setWidth 2) } }
  | 0x070 => if w.handler.isSome then w else { w with trap := { w.trap with vec := v &&& ~~~(2#64) } }
  | 0x071 => if w.handler.isSome then w else { w with trap := { w.trap with deleg := v &&& delegMask } }
  | _ => w

/-- `SCSRW` (R132). A write of `VB` acts as `SETVB`: it waits until every register of the partition is full, and only then is a value above NREG found out (R47, R48). -/
def execScsrw (n : BitVec 12) (a : SReg) (s : State) : Out :=
  scalarIssue s [a] fun k w =>
    if (s.csr k w n.toNat).isNone then .trap cILLOP 0
    else if n = 0x010#12 then
      let vb := (w.sr a).toNat % 1024
      if !w.rg.allFull then .stay (s.putWarp k (w.holdS (.setvb vb)))
      else if w.rg.nreg < vb then .trap cREGRANGE 0
      else .done (s.putWarp k { w with rg := { w.rg with vb := vb } })
    else .done (s.putWarp k (w.writeCsr n.toNat (w.sr a)))

/-- `SETVB_DONE`: of a lane `SETVB` in its slot, or of an `SCSRW` to `VB`, a handler's own among them (R47, R48, R164, R324). -/
def execSetvbDone (k : Nat) (st : Stream) (s : State) : Out :=
  match Tbl.find s.warps k with
  | none => .next s
  | some w =>
    if !w.rg.allFull || w.halt = .stopped then .next s
    else
      match st with
      | .scalar =>
        match w.sc.wait with
        | .setvb n =>
          if w.rg.nreg < n then .next ((s.putWarp k (w.holdS .none)).raiseScalar k w cREGRANGE 0)
          else .next ((s.putWarp k { w with rg := { w.rg with vb := n } }).passScalar k)
        | _ => .next s
      | _ =>
        if w.handler.isSome then .next s else
        match (w.slot st).wait with
        | .setvb n =>
          let x := w.slot st
          if w.rg.nreg < n then .next (s.trapHeld k w st cREGRANGE x.act.toNat)
          else if !(s.wg (wgOf k)).inLane (x.pc.toNat + 1) then .next (s.trapHeld k w st cFETCHF x.act.toNat)
          else .next ((s.putWarp k { w with rg := { w.rg with vb := n } }).passHeld k st)
        | _ => .next s

/-! ## The rest of the system group (R133 to R136, R325) -/

def execStrap (code : BitVec 12) (s : State) : Out := scalarUser s [] fun _ _ => .trap cUTRAP code.toNat

/-- The address at which `SERET` would resume lies in its section (R76). -/
def State.returnsInside (s : State) (k : Nat) (w : Warp) : Bool :=
  let g := s.wg (wgOf k)
  let skip := trapSkip w.trap.cause
  match trapSrc w.trap.cause with
  | 0 => g.inScalar (if skip then w.trap.pc + 4 else w.trap.pc)
  | 3 => true
  | _ => g.inLane (w.trap.pc.toNat + if skip then 1 else 0)

/-- `SERET` (R325, R133). -/
def execSeret (s : State) : Out :=
  scalarIssue s [] fun k w =>
    match w.handler with
    | some a => if s.returnsInside k w then .final ((s.leave k { w with csr := bumpPerf w.csr 1 } a).tryBarrier (wgOf k) 16) else .trap cFETCHF 0
    | none => .trap cERETF 0

def execSnop (s : State) : Out := scalarIssue s [] fun _ _ => .done s

def execSyield (s : State) : Out := scalarUser s [] fun k w => .done (s.putWarp k { w with yielded := true })

/-- `SSLEEP` (R134). -/
def execSsleep (a : SReg) (s : State) : Out :=
  scalarUser s [a] fun k w =>
    let c := min (w.sr a).toNat (2 ^ 32 - 1)
    .done (if c = 0 then s else s.putWarp k { w with sleep := s.cyc + 1 + c })

/-- `SLEEP_EXPIRY`. While the workgroup is switched out the warp holds the cycles that remain (R329). -/
def execSleepExpiry (k : Nat) (s : State) : Out :=
  .next (s.onWarp k fun w => if w.sleep ≤ s.cyc && decide ((s.wg (wgOf k)).status ≠ .out) then { w with sleep := 0 } else w)

/-- The counters of `SPERF` (R135). -/
def State.perf (s : State) (k : Nat) (w : Warp) (n : Nat) : Option W64 :=
  match n with
  | 4 => some (BitVec.ofNat 64 (w.csr.bouncecnt.toNat % 2 ^ 48))
  | 8 => some (BitVec.ofNat 64 (s.partition k))
  | n => if h : n < 8 then some w.csr.perf[n] else none

def execSperf (sel : BitVec 12) (d : SReg) (s : State) : Out :=
  scalarUser s [d] fun k w =>
    match s.perf k w sel.toNat with
    | some v => .done (s.putWarp k (w.longS d v))
    | none => .trap cILLOP 0

/-- `STIME` (R136). -/
def execStime (d : SReg) (s : State) : Out :=
  scalarUser s [d] fun k w => .done (s.putWarp k (w.longS d (BitVec.ofNat 64 s.ptp.now)))

/-! ## The start of a lane block (R38) -/

/-- A block starts in slot A at its PC with the launch mask; slot B is idle and the divergence stack empty. -/
def Warp.startBlock (w : Warp) : Warp :=
  match w.blocks with
  | [] => w
  | b :: r => { w with
      blocks := r
      running := true
      after := b.after
      x := b.x
      dstack := []
      slotA := w.slotA.begins b.pc w.launch 0xFFFFFF#24
      slotB := w.slotB.cleared }

/-- `LANE_BLOCK_START`. -/
def execLaneBlockStart (k : Nat) (s : State) : Out :=
  .next (s.onWarp k fun w => if w.running || w.handler.isSome || decide (w.halt ≠ .run) then w else w.startBlock)

end Sys2Proof.Machine
end

