-- ==== Sys2Proof/Machine/CopyOps.lean ====
section
/-! DEFINITION. Copies: shape records, the checks of R283, the moves of one copy, and the rings of R290. -/

namespace Sys2Proof.Machine

/-! ## Shape records (R280) -/

def fieldOf (n hi lo : Nat) : Nat := n / 2 ^ lo % 2 ^ (hi + 1 - lo)

/-- The record held in 64 bytes. -/
def shapeOf (n : Nat) : Shape where
  zeros := fieldOf n 511 490 == 0
  sparse := fieldOf n 489 489 == 1
  wdie := fieldOf n 488 487
  space := fieldOf n 486 485
  rank := fieldOf n 484 482
  esize := fieldOf n 481 480
  strides := [sextN 64 (fieldOf n 287 224), sextN 64 (fieldOf n 351 288), sextN 64 (fieldOf n 415 352), sextN 64 (fieldOf n 479 416)]
  meta_ := fieldOf n 479 416
  dims := [fieldOf n 95 64, fieldOf n 127 96, fieldOf n 159 128, fieldOf n 191 160, fieldOf n 223 192]
  base := fieldOf n 63 0

def Shape.dim (x : Shape) (k : Nat) : Nat := x.dims.getD k 1
/-- Bytes of an element; 4-bit elements are handled in bytes of two. -/
def Shape.ubytes (x : Shape) : Nat := if x.esize == 0 then 1 else 2 ^ (x.esize - 1)
def Shape.ebits (x : Shape) : Nat := 4 * 2 ^ x.esize
/-- Strides of the dimensions above 0; a sparse tensor has three, its fourth names the metadata (R286). -/
def Shape.steps (x : Shape) : List Int := if x.sparse then x.strides.take 3 else x.strides
/-- Bytes of one row along dimension 0. -/
def Shape.row (x : Shape) : Nat := if x.sparse then x.dim 0 / 2 * x.ubytes else x.dim 0 * x.ebits / 8

/-- The dimensions seen through a transpose. -/
def transposed (t : Bool) (d : List Nat) : List Nat :=
  match t, d with | true, a :: b :: r => b :: a :: r | _, d => d

/-- The checks of R283 on two records. -/
def shapesOk (src dst : Shape) (sdisp ddisp : Int) (t : Bool) (red ty : Nat) (ring : Bool) : Bool :=
  let dimsOk (x : Shape) : Bool := 1 ≤ x.rank && x.rank ≤ 5 &&
    (List.range 5).all fun k => if k < x.rank then 1 ≤ x.dim k else x.dim k == 1
  let placed (x : Shape) (d : Int) : Bool := ((x.base : Int) + d) % (x.ubytes : Int) == 0
  let tyFits : Bool := tyBits ty == src.ebits
  let sparseOk (x : Shape) : Bool := !x.sparse || (x.space == 0 && 1 ≤ x.esize && x.rank ≤ 4 && x.dim 0 % 4 == 0 && !t && red == 0)
  src.zeros && dst.zeros && dimsOk src && dimsOk dst &&
  src.esize == dst.esize && src.rank == dst.rank && decide (dst.dims = transposed t src.dims) &&
  (!t || 2 ≤ src.rank) &&
  src.space != 2 && src.wdie == 0 && (dst.space == 2 || dst.wdie == 0) &&
  (src.esize != 0 || (src.dim 0 % 2 == 0 && dst.dim 0 % 2 == 0)) && placed src sdisp && placed dst ddisp &&
  (red == 0 || (src.space == 1 && dst.space == 0 && tyFits && (red < 4 || 5 ≤ ty))) &&
  sparseOk src && sparseOk dst && !(src.sparse && dst.sparse) && (!dst.sparse || tyFits) &&
  (!ring || (dst.space == 1 && !dst.sparse)) &&
  (ty == 0 || red != 0 || dst.sparse)

/-- The lowest byte of a side and the one past its highest. -/
def Shape.extent (x : Shape) (disp : Int) : Int × Int :=
  let parts := (x.steps.zip (x.dims.drop 1)).map fun p => p.1 * ((p.2 : Int) - 1)
  let b := (x.base : Int) + disp
  (parts.foldl (fun a p => a + min 0 p) b, parts.foldl (fun a p => a + max 0 p) (b + (x.row : Int)))

def addr64 (a : Int) : W64 := BitVec.ofInt 64 a

/-- Some row of a side meets the bytes from `lo` to before `hi`. -/
def rowsTouch (lo hi : Int) (row : Int) : List (Int × Nat) → Int → Bool
  | [], a => a < hi && lo < a + row
  | (s, d) :: r, a => (List.range d).any fun (i : Nat) => rowsTouch lo hi row r (a + s * i)

/-- The regions of the weight store that bundles hold read-locked (R198). -/
def State.readLocks (s : State) : List (Nat × Nat × Nat) :=
  ((Tbl.values s.bundles).filter fun b => b.started && !b.done).flatMap fun b => b.locks.filter fun l => l.2.2 != 0

def State.touchesLock (s : State) (x : Shape) (disp : Int) : Bool :=
  s.readLocks.any fun l => l.1 == x.wdie &&
    rowsTouch l.2.1 ((l.2.1 : Int) + l.2.2) x.row (x.steps.zip (x.dims.drop 1)) ((x.base : Int) + disp)

/-- A byte address of a side, read from its record as a signed 64-bit value and summed exactly, lies within 57 bits (R283). -/
def in57 (a : Int) : Bool := -(2 ^ 56 : Int) ≤ a && a < 2 ^ 56

/-- Bytes of the metadata of a sparse tensor: a nibble for each group of four elements (R286). -/
def Shape.metaBytes (x : Shape) : Nat := (x.dims.foldl (· * ·) 1 / 4 + 1) / 2

/-- A global side lies within 57 bits, its metadata too. -/
def Shape.addressed (x : Shape) (disp : Int) : Bool :=
  let e := x.extent disp
  let off := sextN 64 x.base - (x.base : Int)
  let m := sextN 64 x.meta_
  in57 (e.1 + off) && in57 (e.2 + off - 1) && (!x.sparse || (in57 m && in57 (m + x.metaBytes - 1)))

/-- The extent check of a side for workgroup `g` (none: a packet, which has no scratchpad); 0 passes (R283). -/
def State.sideFault (s : State) (g : Option Nat) (x : Shape) (disp : Int) : Nat :=
  let e := x.extent disp
  match x.space with
  | 0 => if x.addressed disp then 0 else cADDRF
  | 2 => if e.1 < 0 || (2 : Int) ^ 29 < e.2 then cSPRANGE else if s.touchesLock x disp then cWSLOCK else 0
  | sp =>
    match g with
    | none => cSPRANGE
    | some g =>
      let c := if sp == 1 then 1 else 2
      if e.1 < 0 || (2 : Int) ^ 24 < e.2 then cSPRANGE
      else if s.localFault g c (addr64 e.1) 1 == 0 && s.localFault g c (addr64 (e.2 - 1)) 1 == 0 then 0 else cSPRANGE

/-! ## The elements of a copy (R284, R286) -/

/-- The index of element `n`, dimension 0 first. -/
def unrank : List Nat → Nat → List Nat
  | [], _ => []
  | d :: r, n => n % d :: unrank r (n / d)

def dotIdx : List Int → List Nat → Int
  | s :: ss, i :: is => s * i + dotIdx ss is
  | _, _ => 0

/-- Elements of a copy. -/
def Copy.total (c : Copy) : Nat := c.src.dims.foldl (· * ·) 1

/-- The address of the byte that holds an element, or the kept values of its group. -/
def Shape.at (x : Shape) (disp : Int) (i : List Nat) : Nat :=
  let i0 := i.headD 0
  let along : Nat := if x.sparse then i0 / 4 * 2 * x.ubytes else i0 * x.ebits / 8
  (addr64 ((x.base : Int) + disp + along + dotIdx x.steps (i.drop 1))).toNat

/-- One piece to be read: its offset in what is gathered, whether it lies on the destination side, address and bytes. Offset 256 is a byte read to be merged or a metadata byte. -/
structure Piece where
  off : Nat
  dst : Bool
  addr : Nat
  len : Nat
deriving DecidableEq, Repr

/-- Bytes left in a line, where the side is global. -/
def lineRoom (x : Shape) (a : Nat) : Nat := if x.space == 0 then 128 - a % 128 else 128

/-- The next elements that the copy moves: how many, and what is read for them. R284 allows any order of the elements; the model takes ascending element numbers, dimension 0 fastest, and so gives overlapping copies one outcome (log 83). -/
def Copy.next (c : Copy) : Nat × List Piece :=
  let i := unrank c.src.dims c.done
  let a := c.src.at c.sdisp i
  let j := transposed c.transp i
  let b := c.dst.at c.ddisp j
  let u := c.src.ubytes
  if c.src.sparse then (4, [⟨0, false, a, 2 * u⟩, ⟨256, false, c.src.meta_ + c.done / 8, 1⟩])
  else if c.dst.sparse then (4, [⟨0, false, a, 4 * u⟩, ⟨256, true, c.dst.meta_ + c.done / 8, 1⟩])
  else if c.transp && c.src.esize == 0 then (1, [⟨0, false, a, 1⟩, ⟨256, true, b, 1⟩])
  else if c.transp || c.red != 0 then (1, [⟨0, false, a, u⟩])
  else
    let e := if c.src.esize == 0 then 2 else 1
    let left := (c.src.dim 0 - i.headD 0) / e
    let m := max 1 (min left (min (lineRoom c.src a / u) (lineRoom c.dst b / u)))
    (m * e, [⟨0, false, a, m * u⟩])

/-- The value gathered at offset 0, and the byte at 256. -/
def Copy.main (c : Copy) : Nat := c.got.foldl (fun v p => if p.1 < 256 then v + p.2 * 2 ^ (8 * p.1) else v) 0
def Copy.extra (c : Copy) : Nat := match c.got.find? fun p => p.1 == 256 with | some p => p.2 | none => 0

/-- Magnitudes for a compaction: NaN counts as largest (R286). -/
def magnitude (ty x : Nat) : Nat :=
  if isFltTy ty then (if (fval ty x).isNaN then 2 ^ 40 else x % 2 ^ (tyBits ty - 1)) else (intVal ty x).natAbs

/-- The two positions kept of a group, ascending; ties go to the lower position. -/
def keptTwo (ms : List Nat) : Nat × Nat :=
  let best (skip : Nat) : Nat := (List.range 4).foldl (fun b i =>
    if i == skip then b else if b == skip || b == 4 then i else if ms.getD b 0 < ms.getD i 0 then i else b) 4
  let p := best 4
  let q := best p
  (min p q, max p q)

/-- A nibble of a byte replaced. -/
def putNib (old : Nat) (high : Bool) (v : Nat) : Nat := if high then old % 16 + v % 16 * 16 else old / 16 * 16 + v % 16

/-- What the copy writes for the elements gathered: address, bytes and value; and the `COPYSTAT` bits raised. -/
def Copy.out (c : Copy) : List (Nat × Nat × Nat) × BitVec 2 :=
  let i := unrank c.src.dims c.done
  let j := transposed c.transp i
  let b := c.dst.at c.ddisp j
  let u := c.src.ubytes
  let v := c.main
  let odd := c.done / 4 % 2 == 1
  if c.src.sparse then
    let nib := (if odd then c.extra / 16 else c.extra) % 16
    let p := nib % 4; let q := nib / 4
    let w := 2 ^ (8 * u)
    if p < q then ([(b, 4 * u, v % w * w ^ p + v / w % w * w ^ q)], 0) else ([(b, 4 * u, 0)], 1)
  else if c.dst.sparse then
    let w := 2 ^ (8 * u)
    let es := (List.range 4).map fun k => v / w ^ k % w
    let ms := es.map (magnitude c.ty)
    let kp := keptTwo ms
    ([(b, 2 * u, es.getD kp.1 0 + es.getD kp.2 0 * w), (c.dst.meta_ + c.done / 8, 1, putNib c.extra odd (kp.1 + 4 * kp.2))],
     if 2 < (ms.filter (· != 0)).length then 2 else 0)
  else if c.transp && c.src.esize == 0 then
    let nib := if i.headD 0 % 2 == 1 then v / 16 else v
    ([(b, 1, putNib c.extra (j.headD 0 % 2 == 1) nib)], 0)
  else
    match c.next.2 with
    | p :: _ => ([(b, p.len, v)], 0)
    | [] => ([], 0)

/-! ## Access for a copy -/

/-- The workgroup of a warp's copy. -/
def Copy.wg (c : Copy) : Nat := match c.warp with | some k => wgOf k | none => 0
/-- The lane of the copy queue it stands in: its workgroup, or its packet's queue (R264, R317). -/
def Copy.laneKey (c : Copy) : Nat := match c.warp with | some k => wgOf k | none => 2 ^ 32 + c.queue

/-- A run of bytes cut at the ends of lines. -/
def linePieces (off a n : Nat) : List (Nat × Nat × Nat) :=
  let r := 128 - a % 128
  if n ≤ r then [(off, a, n)] else [(off, a, r), (off + r, a + r, n - r)]

/-- A line access that the engine makes for a copy: a request of the producer, or of the firmware class (R284, R317). -/
def State.copyReq (s : State) (core : Nat) (c : Copy) (kind : ReqKind) : Req :=
  { Req.blank s.nextId with
    kind := kind
    cls := match c.warp with | some _ => .warp | none => .firmware
    warp := c.warp.getD noWarp
    core := core
    source := core
    fn := c.fn
    space := c.space
    stream := .slotA
    rh := c.rh
    direct := true
    parent := c.id
    want := if kind == .reduce then [c.red, c.ty, c.rm] else []
    pc := c.pc.setWidth 64
    inst := c.inst }

def State.onCopy (s : State) (core id : Nat) (f : Copy → Copy) : State :=
  s.onCore core fun x => { x with copies := x.copies.map fun c => if c.id == id then f c else c }

/-- Requests of a copy are made, and it waits for them. -/
def State.copyAccess (s : State) (core : Nat) (c : Copy) (kind : ReqKind) (as : List Access) : State :=
  if as.isEmpty then s
  else
    let s1 := s.request (s.copyReq core c kind) as
    s1.onCopy core c.id fun y => if y.stopped then y else { y with wait := (s1.siblings s.nextId).map (·.id) }

/-- A local byte run of a side; an element outside its space reads as a free value (log 6). -/
def State.sideRead (s : State) (c : Copy) (x : Shape) (a n : Nat) : Nat :=
  match x.space with
  | 2 => Memory.readN (s.die x.wdie).weights a n
  | sp =>
    let code := if sp == 1 then 1 else 2
    if s.localFault c.wg code (BitVec.ofNat 64 a) n == 0 then s.localN c.wg code (BitVec.ofNat 64 a) n
    else s.freeWord.toNat % 2 ^ (8 * n)

def State.sideWrite (s : State) (c : Copy) (x : Shape) (a n v : Nat) : State :=
  match x.space with
  | 2 => s.onDie x.wdie fun d => { d with
      weights := Memory.writeN d.weights a n v
      wpoison := d.wpoison.filter fun w => !(a ≤ w * 8 && w * 8 + 8 ≤ a + n) }
  | sp =>
    let code := if sp == 1 then 1 else 2
    if s.localFault c.wg code (BitVec.ofNat 64 a) n == 0 then
      (s.localPutN c.wg code (BitVec.ofNat 64 a) n v).padHeal c.wg code ((List.range n).map (a + ·))
    else s

def State.sidePoison (s : State) (c : Copy) (x : Shape) (a n : Nat) : Bool :=
  match x.space with
  | 1 => s.padPoisoned c.wg 1 (BitVec.ofNat 64 a) n
  | 3 => s.padPoisoned c.wg 2 (BitVec.ofNat 64 a) n
  | _ => false

/-! ## Rings (R290) -/

/-- A ring header. -/
structure Ring where
  base  : Nat
  size  : Nat
  gen   : Nat
  crnd  : Nat
  prnd  : Nat
  widx  : Nat
  cidx  : Nat
  pidx  : Nat
  slots : Nat
  scope : Nat
  zeros : Bool
deriving DecidableEq, Repr

def ringOf (n : Nat) : Ring where
  base := fieldOf n 127 96
  size := fieldOf n 95 64
  gen := fieldOf n 63 56
  crnd := fieldOf n 55 48
  prnd := fieldOf n 47 40
  widx := fieldOf n 39 36
  cidx := fieldOf n 35 32
  pidx := fieldOf n 31 28
  slots := fieldOf n 27 24 + 1
  scope := fieldOf n 23 22
  zeros := fieldOf n 21 0 == 0

def Ring.bits (r : Ring) : Nat :=
  r.base % 2 ^ 32 * 2 ^ 96 + r.size % 2 ^ 32 * 2 ^ 64 + r.gen % 256 * 2 ^ 56 + r.crnd % 256 * 2 ^ 48 + r.prnd % 256 * 2 ^ 40 +
  r.widx % 16 * 2 ^ 36 + r.cidx % 16 * 2 ^ 32 + r.pidx % 16 * 2 ^ 28 + (r.slots - 1) % 16 * 2 ^ 24 + r.scope % 4 * 2 ^ 22

/-- A sync word. -/
structure SyncWord where
  state  : Nat
  gen    : Nat
  target : Nat
  count  : Nat
deriving DecidableEq, Repr

def syncOf (n : Nat) : SyncWord := ⟨fieldOf n 57 56, fieldOf n 55 48, fieldOf n 47 24, fieldOf n 23 0⟩
def SyncWord.bits (x : SyncWord) : Nat := x.state % 4 * 2 ^ 56 + x.gen % 256 * 2 ^ 48 + x.target % 2 ^ 24 * 2 ^ 24 + x.count % 2 ^ 24

def State.ring (s : State) (g h : Nat) : Ring := ringOf (Memory.readN (s.wg g).pad h 16)
/-- Words of the scratchpad that the ring hardware writes whole; they carry no poison any more (R203). -/
def State.putRing (s : State) (g h : Nat) (r : Ring) : State :=
  (s.onWg g fun x => { x with pad := Memory.writeN x.pad h 16 r.bits }).padHeal g 1 ((List.range 16).map (h + ·))
def State.sync (s : State) (g h i : Nat) : SyncWord := syncOf (Memory.readN (s.wg g).pad (h + 16 + 8 * i) 8)
def State.putSync (s : State) (g h i : Nat) (x : SyncWord) : State :=
  (s.onWg g fun y => { y with pad := Memory.writeN y.pad (h + 16 + 8 * i) 8 x.bits }).padHeal g 1 ((List.range 8).map (h + 16 + 8 * i + ·))

/-- The header, its words and its data lie in the scratchpad and obey the table of R290 (R291). -/
def Ring.ok (r : Ring) (h padSize : Nat) : Bool :=
  h % 16 == 0 && h + 16 + 8 * r.slots ≤ padSize && r.zeros && r.scope ≤ 2 &&
  r.base % 128 == 0 && r.size % 128 == 0 && 128 ≤ r.size && r.size ≤ 2 ^ 20 &&
  r.base + r.slots * r.size ≤ padSize && r.widx < r.slots && r.cidx < r.slots && r.pidx < r.slots

def State.ringOk (s : State) (g : Nat) (h : W64) : Bool :=
  h.toNat < 2 ^ 20 && h.toNat + 16 ≤ (s.wg g).padSize && (s.ring g h.toNat).ok h.toNat (s.wg g).padSize

/-- One step of an index through the slots, and of a round with it. -/
def advance (i n round : Nat) : Nat × Nat := if i + 1 < n then (i + 1, round) else (0, (round + 1) % 256)

/-- Bytes counted into a slot; at its target it is filled and the indices advance (R292, R233). -/
def State.countRing (s : State) (g h i n : Nat) : State :=
  let x := s.sync g h i
  let x1 := { x with count := x.count + n }
  if n == 0 then s
  else if x1.count == x1.target then
    let r := s.ring g h
    let a := advance r.widx r.slots r.gen
    (s.putSync g h i { x1 with state := 2, gen := x1.gen + 1 }).putRing g h { r with widx := a.1, gen := a.2 }
  else s.putSync g h i x1

/-! ## One move of a copy (R284, R233, R288) -/

/-- Bytes of the destination that `m` elements after element `n` make up. -/
def Copy.bytesOf (c : Copy) (n m : Nat) : Nat := (n + m) * c.dst.ebits / 8 - n * c.dst.ebits / 8

/-- The elements under way have been performed: progress and ring count rise (R233, R292). -/
def State.copyAdvance (s : State) (core : Nat) (c : Copy) : State :=
  let m := c.next.1
  let s1 := s.onCopy core c.id fun y => { y with done := y.done + m, phase := 0, got := [], wait := [] }
  match c.ring with
  | some (h, i) => s1.countRing c.wg h i (c.bytesOf c.done m)
  | none => s1

/-- What was gathered is written. -/
def State.copyWrite (s : State) (core : Nat) (c : Copy) : State :=
  let o := c.out
  let s1 := match c.warp with
    | some k => s.onWarp k fun w => { w with csr := { w.csr with copystat := w.csr.copystat ||| o.2 } }
    | none => s
  if c.dst.space == 0 then
    let as := o.1.flatMap fun p => (linePieces 0 p.1 p.2.1).map fun q =>
      (⟨32, q.2.1, 0, q.2.2, p.2.2 / 2 ^ (8 * q.1) % 2 ^ (8 * q.2.2), q.1, 2 ^ q.2.2 - 1⟩ : Access)
    (s1.onCopy core c.id fun y => { y with phase := 2 }).copyAccess core c (if c.red == 0 then .store else .reduce) as
  else (o.1.foldl (fun s p => s.sideWrite c c.dst p.1 p.2.1 p.2.2) s1).copyAdvance core c

/-- The next elements are read. -/
def State.copyRead (s : State) (core : Nat) (c : Copy) : State :=
  let ps := c.next.2
  let sideOf (p : Piece) : Shape := if p.dst then c.dst else c.src
  let locals := ps.filter fun p => (sideOf p).space != 0
  let globals := ps.filter fun p => (sideOf p).space == 0
  let got := locals.map fun p => (p.off, s.sideRead c (sideOf p) p.addr p.len)
  let bad := locals.any fun p => s.sidePoison c (sideOf p) p.addr p.len
  let s0 := if locals.isEmpty then s else s.drawn 1
  let c1 := { c with phase := 1, got := got }
  let s1 := s0.onCopy core c.id fun _ => c1
  if bad then
    -- a poisoned word: the trap is deferred, and the bytes are not moved (R203)
    match c.warp with
    | some k => (s1.onWarp k fun w => { w with deferred := w.deferred ++ [⟨cMEMERR, c.pc.setWidth 64, c.inst⟩] }).copyAdvance core c
    | none => s1.stopCopy core c.id cMEMERR
  else if globals.isEmpty then s1.copyWrite core c1
  else
    let as := globals.flatMap fun p => (linePieces p.off p.addr p.len).map fun q => (⟨q.1, q.2.1, 0, q.2.2, 0, 0, 0⟩ : Access)
    s1.copyAccess core c1 .load as

/-- One move: elements are read, written, or counted as performed. -/
def State.copyStep (s : State) (core : Nat) (c : Copy) : State :=
  match c.phase with
  | 0 => s.copyRead core c
  | 1 => s.copyWrite core c
  | _ => s.copyAdvance core c

/-- A reply to a line access of a copy. -/
def State.copyReply (s : State) (r : Req) : State :=
  s.onCopy r.core r.parent fun c =>
    { c with
      wait := c.wait.filter fun i => i != r.id
      got := if r.kind == .load then c.got ++ r.reply else c.got
      flags := if r.kind == .reduce then r.reply.foldl (fun f p => f ||| BitVec.ofNat 5 p.2) c.flags else c.flags }

end Sys2Proof.Machine
end

