-- ==== Sys2Proof/Machine/Command.lean ====
section
/-! DEFINITION. The command front end: queues, validation, the start and completion of packets (R296 to R307, R316 to R318). -/

namespace Sys2Proof.Machine

/-! ## Memory as firmware reaches it (logs 9, 10) -/

/-- The function of a writer: 0, 1 to 32, or 33 for the firmware cores. -/
def mgrFn : Mgr → Nat | .pf => 0 | .vf n => n | .fw => 33

/-- The firmware core of a die (R17). -/
def fwCore (die : Nat) : Nat := coreKey die 0

/-- The 64 KiB pages that `n` bytes touch. -/
def pagesOf (a n : Nat) : List Nat := (List.range ((a + n + 65535) / 65536 - a / 65536)).map fun i => (a / 65536 + i) * 65536

/-- Pages with no entry yet, and not refused. -/
def State.unmapped (s : State) (fn space : Nat) (refused : List Nat) (a n : Nat) : List Nat :=
  (pagesOf a n).filter fun p => (s.page fn space p).isNone && !refused.contains p

/-- The function can access these bytes, wherever their pages are homed (R185, R194, R330). -/
def State.accessible (s : State) (fn space a n : Nat) (write : Bool) : Bool :=
  (pagesOf a n).all fun p => match s.page fn space p with | some e => pageAllows e write | none => false

/-- Bytes written by firmware through the function's pages, each line at its slice, which fetches it first (R195); unmapped bytes, and bytes homed on another device, are left out. -/
def State.vwrite (s : State) (fn space a : Nat) (bs : List Byte) : State :=
  let cells := (bs.zipIdx).filterMap fun b =>
    match s.phys fn space (a + b.2) with | some pa => if isRemote pa then none else some (pa, b.1) | none => none
  let lines := (cells.map fun c => c.1 / 128).eraseDups
  lines.foldl (fun s l => (s.fetchNow l 0).homeWrite l (cells.filter fun c => c.1 / 128 == l) []) s

/-- `n` bytes of a number, lowest first. -/
def bytesLE (n v : Nat) : List Byte := (List.range n).map fun i => BitVec.ofNat 8 (v / 2 ^ (8 * i))

/-- A request of a die's firmware core to the home of a line on another device (R248, R342). -/
def State.remoteReq (s : State) (die fn : Nat) (kind : ReqKind) (op : Option AmoOp) (a : Access) : State :=
  let r := { Req.blank s.nextId with
    kind := kind
    cls := .firmware
    warp := noWarp
    core := fwCore die
    source := fwCore die
    fn := fn
    op := op
    ext := if op.isSome then 5 else 0
    direct := true
    xl := true
    dev := some (homeOf a.pa - 2)
    accs := [a] }
  ((s.putReq r).bump).launch r

/-- `n` bytes, of which none crosses a line, written by a die's firmware core: at their home on this device, or by a request to another one (R317, log 86). -/
def State.fwWrite (s : State) (die fn space a n v : Nat) : State :=
  match s.phys fn space a with
  | some pa => if isRemote pa then s.remoteReq die fn .store none ⟨32, a, pa, n, v, 0, 2 ^ n - 1⟩ else s.vwrite fn space a (bytesLE n v)
  | none => s

/-- A 64-bit word raised by `v`, likewise; the addition is made at the word's home. -/
def State.fwAdd (s : State) (die fn space a v : Nat) : State :=
  match s.phys fn space a with
  | some pa => if isRemote pa then s.remoteReq die fn .atom (some .add) ⟨32, a, pa, 8, v, 0, 255⟩ else s.fwWrite die fn space a 8 ((s.vread fn space a 8 + v) % 2 ^ 64)
  | none => s

/-- Bytes `off` to `off + len - 1` of a record held as a number. -/
def bytesAt (n off len : Nat) : Nat := n / 2 ^ (8 * off) % 2 ^ (8 * len)

/-! ## Headers (R299 to R301) -/

def pktKind (p : Nat) : Nat := fieldOf p 7 0
def pktBegin (p : Nat) : Bool := fieldOf p 8 8 == 1
def pktCommit (p : Nat) : Bool := fieldOf p 9 9 == 1
def pktIrq (p : Nat) : Bool := fieldOf p 10 10 == 1
def pktScope (p : Nat) : Nat := fieldOf p 13 11
def pktDep (p : Nat) : Nat := fieldOf p 15 14
def pktQid (p : Nat) : Nat := fieldOf p 27 16
def pktTag (p : Nat) : Nat := fieldOf p 63 32
/-- Bytes 8 to 15, 16 to 23, 24 to 31, 32 to 39. -/
def pktWord (p i : Nat) : Nat := bytesAt p (8 * i) 8

/-- The body positions that R300 holds at zero are zero. -/
def pktBody (p : Nat) : Bool :=
  match pktKind p with
  | 1 => bytesAt p 16 48 == 0
  | 2 => bytesAt p 24 40 == 0
  | 3 => bytesAt p 40 24 == 0 && pktWord p 4 / 2 ^ 14 == 0
  | 4 => bytesAt p 40 24 == 0 && pktWord p 4 / 2 ^ 14 == 0
  | 5 => bytesAt p 40 24 == 0
  | 6 => bytesAt p 16 48 == 0
  | _ => bytesAt p 24 40 == 0 && pktWord p 2 / 2 ^ 12 == 0

/-- Check 0x01 of R302, with the tenant policy of R400. -/
def State.headerOk (s : State) (q : Nat) (x : Queue) (p : Nat) : Bool :=
  fieldOf p 31 28 == 0 && 1 ≤ pktKind p && pktKind p ≤ 7 && pktDep p != 3 &&
  2 ≤ pktScope p && pktScope p ≤ 4 && pktQid p == q && pktBody p &&
  (s.scopePolicy x.fn (pktScope p)).isSome

/-- The completion scope in force, after a downgrade (R400). -/
def State.pktScopeOf (s : State) (fn p : Nat) : Nat :=
  match s.scopePolicy fn (pktScope p) with | some (c, _) => c | none => pktScope p

/-! ## Queues (R296, R298, R303) -/

def Queue.entryAddr (x : Queue) (i : Nat) : Nat := x.ring + 64 * (i % 2 ^ x.logn)
/-- Packets between head and tail. -/
def Queue.offered (x : Queue) : Nat := (x.tail + 2 ^ 32 - x.head) % 2 ^ 32

/-- The queue enters the error state, with its error interrupt (R303). -/
def State.queueError (s : State) (q : Nat) (x : Queue) (code idx : Nat) : State :=
  { s.putCmdq q { x with state := 2, ecode := code, eidx := idx % 65536, refused := [] } with irqs := s.irqs ++ [⟨x.fn, 1, 0, 0⟩] }

/-- `QDOOR_WRITE` (R298): only the owner has the register (R414). -/
def execQdoorWrite (by_ : Mgr) (q : Nat) (tail : W32) (s : State) : Out :=
  match Tbl.find s.cmdq q with
  | some x =>
    if s.off || mgrFn by_ != x.fn || x.state == 0 then .next s
    else if 2 ^ x.logn < (tail.toNat + 2 ^ 32 - x.head) % 2 ^ 32 then .next (s.queueError q x 2 x.head)
    else .next (s.putCmdq q { x with tail := tail.toNat })
  | none => .next s

/-- `QSTAT_RESET` (R298). -/
def execQstatReset (by_ : Mgr) (q : Nat) (s : State) : Out :=
  match Tbl.find s.cmdq q with
  | some x =>
    if mgrFn by_ != x.fn || x.state == 0 then .next s
    else .next (s.putCmdq q { x with head := x.tail, ecode := 0, eidx := 0, state := 1, refused := [] })
  | none => .next s

/-! ## Records named by packets (R104, R304, R365) -/

/-- A kernel descriptor (R104) and whether its reserved bits are zero. -/
structure KDesc where
  entry   : Nat
  scratch : Nat
  prod    : Nat
  nreg    : Nat
  lanes   : Nat
  warps   : Nat
  zeros   : Bool
deriving DecidableEq, Repr

def kdescOf (n : Nat) : KDesc where
  entry := fieldOf n 127 96
  scratch := fieldOf n 95 64
  prod := fieldOf n 47 40
  nreg := fieldOf n 31 22
  lanes := fieldOf n 21 13 + 1
  warps := fieldOf n 12 8
  zeros := fieldOf n 63 48 == 0 && fieldOf n 39 32 == 0 && fieldOf n 7 0 == 0

/-- Check 0x04 of R302 (limits of R31). -/
def KDesc.ok (k : KDesc) (slen : Nat) : Bool :=
  k.zeros && 1 ≤ k.warps && k.warps ≤ 16 && 32 ≤ k.nreg && k.nreg ≤ 512 && k.nreg % 32 == 0 &&
  k.lanes ≤ 32 * k.warps && k.scratch ≤ 2 ^ 20 && k.scratch % 4096 == 0 && (k.prod < k.warps || k.prod == 255) && k.entry < slen

/-- The section bounds of R75 and R76. -/
def sectionsOk (sbase lbase slen llen : Nat) : Bool :=
  sbase % 4 == 0 && slen % 4 == 0 && lbase % 128 == 0 && llen % 12 == 0 && llen ≤ 12 * 2 ^ 20

/-- Check 0x03 on a bundle record held as a number. -/
def brecOk (addr n : Nat) : Bool :=
  let ng := bytesAt n 0 1
  addr % 256 == 0 && ng ≤ 4 && bytesAt n 1 1 / 2 == 0 && bytesAt n 2 6 == 0 && bytesAt n 40 24 == 0 &&
  sectionsOk (bytesAt n 8 8) (bytesAt n 16 8) (bytesAt n 24 4) (bytesAt n 28 4) &&
  (List.range 4).all (fun g => if g < ng then bytesAt n (78 + 32 * g) 2 == 0 && bytesAt n (88 + 32 * g) 8 == 0 else bytesAt n (64 + 32 * g) 32 == 0) &&
  (List.range 4).all fun k => bytesAt n (201 + 16 * k) 7 == 0

/-- The bundle that a record describes, and its kernel descriptors. -/
def State.bundleOf (s : State) (q : Nat) (x : Queue) (idx brec : Nat) : Bundle :=
  let n := s.vread x.fn x.proc brec 256
  { queue := q
    index := idx
    fn := x.fn
    proc := x.proc
    die := x.die
    coplace := bytesAt n 1 1 % 2 == 1
    sbase := BitVec.ofNat 64 (bytesAt n 8 8)
    lbase := BitVec.ofNat 64 (bytesAt n 16 8)
    slen := bytesAt n 24 4
    llen := bytesAt n 28 4
    priv := bytesAt n 32 8
    grids := (List.range (min 4 (bytesAt n 0 1))).map fun g =>
      let k := kdescOf (s.vread x.fn x.proc (bytesAt n (64 + 32 * g) 8) 16)
      { nwg := bytesAt n (72 + 32 * g) 4
        coh := bytesAt n (76 + 32 * g) 2
        garg := BitVec.ofNat 64 (bytesAt n (80 + 32 * g) 8)
        entry := k.entry
        scratch := k.scratch
        prod := k.prod
        nreg := k.nreg
        lanes := k.lanes
        warps := k.warps
        placed := 0
        low := 0
        ahead := []
        retired := 0
        fired := false
        trigs := 0
        done := false }
    locks := (List.range 4).map fun k => (bytesAt n (200 + 16 * k) 1, bytesAt n (192 + 16 * k) 4, bytesAt n (196 + 16 * k) 4)
    started := false
    done := false
    err := false
    next := []
    pick := 0 }

/-- Workgroups of one shape that a core holds when empty. -/
def perCore (w nreg scr : Nat) : Nat := min (32 / w) (min (8192 / (w * nreg)) (if scr == 0 then 32 else 2 ^ 20 / scr))

/-- Check 0x05: cohort sizes, and a cohort's demand against the 59 user cores of an empty die (R32). -/
def cohortOk (g : Grid) : Bool :=
  g.coh == 0 || (g.coh ≤ 16 && g.nwg % g.coh == 0 && g.coh ≤ 59 * perCore (max 1 g.warps) (max 32 g.nreg) g.scratch)

/-- Check 0x06 (R307). -/
def coplaceOk (b : Bundle) : Bool :=
  !b.coplace ||
  (b.grids.all (fun g => g.coh == 0 && g.nwg == (match b.grids with | h :: _ => h.nwg | [] => 0)) &&
   b.grids.foldl (fun n g => n + g.warps) 0 ≤ 32 && b.grids.foldl (fun n g => n + g.warps * g.nreg) 0 ≤ 8192 &&
   b.grids.foldl (fun n g => n + g.scratch) 0 ≤ 2 ^ 20)

/-- Check 0x07 on the locks of a bundle. -/
def locksOk (b : Bundle) : Bool := b.locks.all fun l => l.2.2 == 0 || (l.1 ≤ 3 && l.2.1 + l.2.2 ≤ 2 ^ 29)

/-- A handler table entry of 64 bytes (R365). -/
def handlerOf (n : Nat) : HandlerEnt :=
  let k := kdescOf (bytesAt n 24 16)
  { empty := bytesAt n 24 16 == 0
    sbase := BitVec.ofNat 64 (bytesAt n 0 8)
    lbase := BitVec.ofNat 64 (bytesAt n 8 8)
    slen := bytesAt n 16 4
    llen := bytesAt n 20 4
    entry := k.entry
    scratch := k.scratch
    prod := k.prod
    nreg := k.nreg
    lanes := k.lanes
    warps := k.warps
    priv := bytesAt n 40 8
    cscope := bytesAt n 48 1 }

/-- Check 0x0B on one entry. -/
def State.handlerOk (s : State) (fn n : Nat) : Bool :=
  let h := handlerOf n
  let k := kdescOf (bytesAt n 24 16)
  h.empty ||
  (sectionsOk (bytesAt n 0 8) (bytesAt n 8 8) h.slen h.llen && k.ok h.slen && k.warps == 1 && 4096 ≤ k.scratch &&
   (k.prod == 0 || k.prod == 255) && 2 ≤ h.cscope && h.cscope ≤ 4 && bytesAt n 49 15 == 0 && (s.scopePolicy fn h.cscope).isSome)

/-- A handler table entry as it will run: CSCOPE 4 under the downgrade policy is 3 (R400). -/
def State.handlerAt (s : State) (fn n : Nat) : HandlerEnt :=
  let h := handlerOf n
  match s.scopePolicy fn h.cscope with | some (c, _) => { h with cscope := c } | none => h

def State.handlers (s : State) (x : Queue) (p : Nat) : List Nat :=
  (List.range (pktWord p 2 % 4096 + 1)).map fun i => s.vread x.fn x.proc (pktWord p 1 + 64 * i) 64

/-- The two shape records of a copy packet. -/
def State.pktShapes (s : State) (x : Queue) (p : Nat) : Shape × Shape :=
  (shapeOf (s.vread x.fn x.proc (pktWord p 1) 64), shapeOf (s.vread x.fn x.proc (pktWord p 2) 64))

/-- Displacements and MOD of a copy packet. -/
def pktDisp (p : Nat) : Int × Int := (sextN 32 (pktWord p 3 % 2 ^ 32), sextN 32 (pktWord p 3 / 2 ^ 32))
def pktMod (p : Nat) : BitVec 14 := BitVec.ofNat 14 (pktWord p 4)

/-- A private area, mapped readable and writable (R304). -/
def privNamed (a : Nat) : List (Nat × Nat × Bool) := [(a, privBytes, false), (a, privBytes, true)]

/-- Addresses that a packet names for firmware or the hardware: address, bytes, written or not. -/
def State.named (s : State) (x : Queue) (p : Nat) : List (Nat × Nat × Bool) :=
  match pktKind p with
  | 3 => [(pktWord p 1, 64, false), (pktWord p 2, 64, false)]
  | 4 => [(pktWord p 1, 64, false), (pktWord p 2, 64, false)]
  | 5 => (if pktWord p 1 == 0 then [] else [(pktWord p 1, 8, false)]) ++ (if pktWord p 3 == 0 then [] else [(pktWord p 3, 8, true)])
  | 6 => []
  | 7 =>
    let n := pktWord p 2 % 4096 + 1
    (pktWord p 1, 64 * n, false) :: if !s.accessible x.fn x.proc (pktWord p 1) (64 * n) false then [] else
      ((s.handlers x p).map handlerOf).flatMap fun h => if h.empty then [] else privNamed h.priv
  | _ =>
    let b := pktWord p 1
    let n := s.vread x.fn x.proc b 256
    (b, 256, false) :: if !s.accessible x.fn x.proc b 256 false then [] else
      privNamed (bytesAt n 32 8) ++ (List.range (min 4 (bytesAt n 0 1))).map fun g => (bytesAt n (64 + 32 * g) 8, 16, false)

/-- The sections that a packet's records name, which warps fetch from (R76, R104, R304, R365). -/
def State.sectionsOf (s : State) (x : Queue) (p : Nat) : List (Nat × Nat) :=
  let ss : List (Nat × Nat) := match pktKind p with
    | 1 => let n := s.vread x.fn x.proc (pktWord p 1) 256; [(bytesAt n 8 8, bytesAt n 24 4), (bytesAt n 16 8, bytesAt n 28 4)]
    | 2 => let n := s.vread x.fn x.proc (pktWord p 1) 256; [(bytesAt n 8 8, bytesAt n 24 4), (bytesAt n 16 8, bytesAt n 28 4)]
    | 7 => ((s.handlers x p).map handlerOf).flatMap fun h => if h.empty then [] else [(h.sbase.toNat, h.slen), (h.lbase.toNat, h.llen)]
    | _ => []
  ss.filter fun a => a.2 != 0

/-- Pages that validation has to have mapped before it can check a packet; sections are known once the records are read. -/
def State.missingPages (s : State) (x : Queue) (p : Nat) : List Nat :=
  let vs := (s.named x p).flatMap fun a => s.unmapped x.fn x.proc x.refused a.1 a.2.1
  if vs.isEmpty && (s.named x p).all (fun a => s.accessible x.fn x.proc a.1 a.2.1 a.2.2) then
    (s.sectionsOf x p).flatMap fun a => s.unmapped x.fn x.proc x.refused a.1 a.2
  else vs

/-- The private areas among them are multiples of 64 KiB (R304). -/
def State.privAligned (s : State) (x : Queue) (p : Nat) : Bool := (s.named x p).all fun a => a.2.1 != privBytes || a.1 % 65536 == 0

/-! ## Validation (R302) -/

/-- A check of R302 on one packet, by its code. -/
def State.check (s : State) (q : Nat) (x : Queue) (code p : Nat) : Bool :=
  let launch := pktKind p == 1 || pktKind p == 2
  let copy := pktKind p == 3 || pktKind p == 4
  let readable (a n : Nat) : Bool := s.accessible x.fn x.proc a n false
  let b := s.bundleOf q x 0 (pktWord p 1)
  let sh := s.pktShapes x p
  let d := pktDisp p
  let recs := readable (pktWord p 1) 64 && readable (pktWord p 2) 64
  let brec := readable (pktWord p 1) 256
  match code with
  | 1 => s.headerOk q x p
  | 3 => !launch || if !brec then pktWord p 1 % 256 == 0 else brecOk (pktWord p 1) (s.vread x.fn x.proc (pktWord p 1) 256)
  | 4 => !launch || !brec || (List.range b.grids.length).all fun g =>
      let a := bytesAt (s.vread x.fn x.proc (pktWord p 1) 256) (64 + 32 * g) 8
      !readable a 16 || (kdescOf (s.vread x.fn x.proc a 16)).ok b.slen
  | 5 => !launch || !brec || b.grids.all cohortOk
  | 6 => !launch || !brec || coplaceOk b
  | 7 => (!launch || !brec || locksOk b) && (!(copy && recs) || sh.2.space != 2 || s.sideFault none sh.2 d.2 == 0)
  | 8 => pktKind p != 2 || (s.ptp.sync && pktWord p 2 ≤ s.ptp.now + 1000000000000)
  | 9 => !copy ||
      (pktWord p 1 % 64 == 0 && pktWord p 2 % 64 == 0 && copyModOk (pktMod p) &&
       (!recs || (shapesOk sh.1 sh.2 d.1 d.2 (modBits (pktMod p) 3 3 == 1) (modBits (pktMod p) 6 4) (modBits (pktMod p) 13 10) false &&
         (pktKind p == 3 || sh.2.space == 2) && s.sideFault none sh.1 d.1 == 0 && (sh.2.space == 2 || s.sideFault none sh.2 d.2 == 0))))
  | 10 => (s.named x p).all (fun a => s.accessible x.fn x.proc a.1 a.2.1 a.2.2) && s.privAligned x p &&
      (s.sectionsOf x p).all fun a => s.accessible x.fn x.proc a.1 a.2 false
  | 11 => pktKind p != 7 ||
      (pktWord p 1 % 64 == 0 && (!readable (pktWord p 1) (64 * (pktWord p 2 % 4096 + 1)) || (s.handlers x p).all (s.handlerOk x.fn)))
  | _ => true

/-- What firmware finds between head and tail. -/
inductive Scan where
  | wait
  | walk (vas : List Nat)
  | bad (code idx : Nat)
  | batch (ps : List (Nat × Nat))
deriving DecidableEq, Repr

/-- A framing error, unless a header of the batch is wrong, which comes first. -/
def State.framing (s : State) (q : Nat) (x : Queue) (ps : List (Nat × Nat)) (idx : Nat) : Scan :=
  match ps.find? fun p => !s.headerOk q x p.2 with
  | some p => .bad 1 p.1
  | none => .bad 2 idx

/-- The batch at the head of a queue, packet by packet (R301, R302). -/
def State.scan (s : State) (q : Nat) (x : Queue) : Nat → List (Nat × Nat) → Scan
  | 0, _ => .wait
  | fuel + 1, ps =>
    let n := ps.length
    if x.offered ≤ n then .wait
    else
      let idx := (x.head + n) % 2 ^ 32
      let a := x.entryAddr idx
      match s.unmapped x.fn x.proc x.refused a 64 with
      | v :: vs => .walk (v :: vs)
      | [] =>
        if !s.accessible x.fn x.proc a 64 false then .bad 10 idx
        else
          let p := s.vread x.fn x.proc a 64
          let all := ps ++ [(idx, p)]
          if decide (pktBegin p ↔ n ≠ 0) then s.framing q x all idx
          else if n == 64 then s.framing q x all idx
          else if pktCommit p then .batch all
          else s.scan q x fuel all

/-- The first failing check in code order, with its packet. -/
def State.verdict (s : State) (q : Nat) (x : Queue) (ps : List (Nat × Nat)) : Option (Nat × Nat) :=
  [1, 3, 4, 5, 6, 7, 8, 9, 10, 11].findSome? fun c => (ps.find? fun p => !s.check q x c p.2).map fun p => (c, p.1)

/-- The smallest bundle number free (log 5). -/
def State.freeBundle (s : State) : Nat := ((List.range (s.bundles.length + 1)).find? fun n => (Tbl.find s.bundles n).isNone).getD 0

/-- A validated packet joins its queue, with the copies that firmware has read. A timed launch whose T is PTPNOW itself counts as past, where R314 leaves equality open: the model's choice (log 83). -/
def State.acceptPacket (s : State) (q : Nat) (x : Queue) (idx p : Nat) : State :=
  let launch := pktKind p == 1 || pktKind p == 2
  let n := s.freeBundle
  let s1 := if launch then s.putBundle n (s.bundleOf q x idx (pktWord p 1)) else s
  let y := (Tbl.find s1.cmdq q).getD x
  s1.bump.putCmdq q { y with packets := y.packets ++ [
    { index := idx
      seq := s1.nextId
      bytes := p
      cscope := s.pktScopeOf x.fn p
      bundle := if launch then some n else none
      shapes := if pktKind p == 3 || pktKind p == 4 then some (s.pktShapes x p) else none
      table_ := if pktKind p == 7 then some ((s.handlers x p).map (s.handlerAt x.fn)) else none
      past := pktKind p == 2 && pktWord p 2 ≤ s.ptp.now
      started := false
      fired := false
      late := false
      unsync := false
      dep := pktDep p != 0
      ready := 0
      timed := 0
      ending := none }] }

/-- `BATCH_COMMIT` (R302, R303): accepted whole, rejected whole, or waiting for its COMMIT or for a page. -/
def execBatchCommit (q : Nat) (s : State) : Out :=
  match Tbl.find s.cmdq q with
  | some x =>
    if x.state != 1 || s.off then .next s
    else
      match s.scan q x 65 [] with
      | .wait => .next s
      | .walk vs => .next (vs.foldl (fun s v => s.addWalk x.die x.fn x.proc v false) s)
      | .bad c i => .next (s.queueError q x c i)
      | .batch ps =>
        let missing := ps.flatMap fun p => if s.check q x 1 p.2 then s.missingPages x p.2 else []
        if !missing.isEmpty then .next (missing.eraseDups.foldl (fun s v => s.addWalk x.die x.fn x.proc v false) s)
        else
          match s.verdict q x ps with
          | some (c, i) => .next (s.queueError q x c i)
          | none =>
            let s1 := s.putCmdq q { x with head := (x.head + ps.length) % 2 ^ 32, refused := [] }
            .next (ps.foldl (fun s p => s.acceptPacket q x p.1 p.2) s1)
  | none => .next s

/-! ## Start (R305, R306) -/

/-- The bundle of a launch packet. -/
def State.bundleOfPkt (s : State) (p : QPacket) : Option Bundle := p.bundle.bind fun n => Tbl.find s.bundles n

/-- A launch has fired its trigger: every member grid's has (R299). -/
def State.pktFired (s : State) (p : QPacket) : Bool :=
  match s.bundleOfPkt p with | some b => b.started && b.grids.all (·.fired) | none => false

/-- The DEP condition against the earlier packets of the queue; completed ones have left it (R299). -/
def State.depHolds (s : State) (earlier : List QPacket) (p : QPacket) : Bool :=
  match pktDep p.bytes with
  | 0 => true
  | 1 => earlier.isEmpty
  | _ => earlier.all s.pktFired

/-- Weight-store writes validated and not completed, as die and byte range. -/
def State.pendingWrites (s : State) : List (Nat × QPacket) :=
  s.cmdq.flatMap fun x : Nat × Queue => (x.2.packets.filter fun p => match p.shapes with | some sh => sh.2.space == 2 | none => false).map fun p => (x.1, p)

/-- A bundle's locks overlap a weight-store write that was validated before it and has not completed (R305). -/
def State.lockBlocked (s : State) (b : Bundle) (seq : Nat) : Bool :=
  s.pendingWrites.any fun p => p.2.seq < seq &&
    match p.2.shapes with
    | some sh => b.locks.any fun l => l.2.2 != 0 && l.1 == sh.2.wdie &&
        rowsTouch l.2.1 ((l.2.1 : Int) + l.2.2) sh.2.row (sh.2.steps.zip (sh.2.dims.drop 1)) ((sh.2.base : Int) + (pktDisp p.2.bytes).2)
    | none => false

/-- A packet can start now; none starts behind a timed launch whose time has not come (R305, R314). -/
def State.mayStart (s : State) (earlier : List QPacket) (p : QPacket) : Bool :=
  s.depHolds earlier p && earlier.all (fun e => pktKind e.bytes != 2 || e.timed == 2) &&
  (match s.bundleOfPkt p with | some b => !s.lockBlocked b p.seq | none => true) &&
  (match p.shapes with | some sh => sh.2.space != 2 || !s.touchesLock sh.2 (pktDisp p.bytes).2 | none => true)

/-- The first packet not started; later ones wait behind it. -/
def Queue.nextStart (x : Queue) : Option (List QPacket × QPacket) :=
  match x.packets.dropWhile (·.started) with
  | p :: _ => some (x.packets.takeWhile (·.started), p)
  | [] => none

def State.onPacket (s : State) (q idx : Nat) (f : QPacket → QPacket) : State :=
  { s with cmdq := Tbl.adjust s.cmdq q fun x => { x with packets := x.packets.map fun p => if p.index == idx then f p else p } }

/-- `PACKET_START`. -/
def execPacketStart (q : Nat) (s : State) : Out :=
  match Tbl.find s.cmdq q with
  | some x =>
    match x.nextStart with
    | some (earlier, p) =>
      if s.mayStart earlier p && !s.off then .next (s.onPacket q p.index fun p => { p with started := true, ready := s.cyc + 1 }) else .next s
    | none => .next s
  | none => .next s

/-! ## Completion (R316, R318) -/

/-- The held records reach the host in one interrupt (R318). -/
def State.fireCompletion (s : State) (fn : Nat) (cookie : W64) : State :=
  let f := s.fn fn
  { s.putFn fn { f with held := [] } with irqs := s.irqs ++ [⟨fn, 0, cookie, f.held.length⟩] }

/-- Where the completion record of ring index `idx` lies (R316). -/
def Queue.recordAddr (x : Queue) (idx : Nat) : Nat := x.comp + 16 * (idx % 2 ^ x.logn)

/-- A packet ends: its record is written, counts toward the interrupt under IRQ, and the packet leaves the queue. A record whose page firmware cannot map or may not write is not written (log 72). -/
def State.endPacket (s : State) (q idx : Nat) (err : Bool) : State :=
  match Tbl.find s.cmdq q with
  | none => s
  | some x =>
    match x.packets.find? fun p => p.index == idx with
    | none => s
    | some p =>
      let status := (if err then 1 else 0) + (if p.late then 256 else 0) + (if p.past then 512 else 0) + (if p.unsync then 1024 else 0)
      let writes := s.accessible x.fn x.proc (x.recordAddr idx) 16 true
      let s1 := if writes then s.fwWrite x.die x.fn x.proc (x.recordAddr idx) 16 (pktTag p.bytes + status * 2 ^ 32 + s.ptp.now % 2 ^ 64 * 2 ^ 64) else s
      let s2 := if pktIrq p.bytes && writes then s1.onFn x.fn fun f => { f with held := f.held ++ [s.cyc] } else s1
      { s2 with
        cmdq := Tbl.adjust s2.cmdq q fun y => { y with packets := y.packets.filter fun p => p.index != idx }
        bundles := match p.bundle with | some n => Tbl.del s2.bundles n | none => s2.bundles
        cohorts := match p.bundle with | some n => s2.cohorts.filter (fun c : Nat × Barrier => c.1 / 65536 / 4 != n) | none => s2.cohorts }

/-- A packet's work is done: it completes at once, or once firmware has mapped the page of its record (R316, R332). -/
def State.completePacket (s : State) (q idx : Nat) (err : Bool) : State :=
  match Tbl.find s.cmdq q with
  | none => s
  | some x =>
    match s.unmapped x.fn x.proc x.refused (x.recordAddr idx) 16 with
    | [] => s.endPacket q idx err
    | vs => vs.foldl (fun s v => s.addWalk x.die x.fn x.proc v false) (s.onPacket q idx fun p => { p with ending := some err })

/-- The packets that wait for their record's page end, where it is mapped or refused by now. -/
def State.endPackets (s : State) : State :=
  s.cmdq.foldl (fun s (y : Nat × Queue) => y.2.packets.foldl (fun s p =>
    match p.ending with
    | some err => if (s.unmapped y.2.fn y.2.proc y.2.refused (y.2.recordAddr p.index) 16).isEmpty then s.endPacket y.1 p.index err else s
    | none => s) s) s

/-- Firmware's fault record of a packet that stops (R317). -/
def State.packetFault (s : State) (fn code idx : Nat) : State :=
  s.onFn fn fun f => { f with log := f.log ++ [⟨3, code, 0, 0, 0, 0, idx⟩] }

/-- `COMPLETION_INTERRUPT_COUNT` (R318). -/
def execCompletionInterruptCount (fn : Nat) (s : State) : Out :=
  let f := s.fn fn
  if f.icoal.lo ≤ f.held.length && !f.held.isEmpty then .next (s.fireCompletion fn 0) else .next s

/-- `COMPLETION_INTERRUPT_TIMEOUT` (R318). -/
def execCompletionInterruptTimeout (fn : Nat) (s : State) : Out :=
  match (s.fn fn).held with
  | t :: _ => if t + Config.usec (s.fn fn).icoal.hi ≤ s.cyc then .next (s.fireCompletion fn 0) else .next s
  | [] => .next s

/-! ## Launches (R304, R306) -/

/-- A bundle whose grids have all retired retires: its locks end, its private area is ordinary memory again, and its packet completes (R34, R304, R316). -/
def State.tryRetireBundle (s : State) (n : Nat) : State :=
  match Tbl.find s.bundles n with
  | some b =>
    if b.started && b.grids.all (·.done) then
      let inPriv (p : PageEntry) : Bool := p.fn == b.fn && p.space == b.proc && p.va < b.priv + privBytes && b.priv < p.va + pageBytes p.size
      let s1 := { s with
        cores := Tbl.mapVal (fun _ c => { c with tlb := c.tlb.filter fun e => !inPriv e.page }) s.cores
        dies := Tbl.mapVal (fun _ d => { d with tlb := d.tlb.filter fun e => !inPriv e.page }) s.dies }
      (s1.putBundle n { b with done := true }).completePacket b.queue b.index b.err
    else s
  | none => s

/-- A bundle starts; a grid of no workgroups fires and retires at once (R306). What its order places first is a free member of R33's set. -/
def State.startBundle (s : State) (n : Nat) : State :=
  match Tbl.find s.bundles n with
  | some b =>
    if b.started then s
    else
      ((s.drawn 1).putBundle n { b with
        started := true
        pick := s.freeWord.toNat
        grids := b.grids.map fun g => if g.nwg == 0 then { g with fired := true, done := true } else g }).tryRetireBundle n
  | none => s

/-- The oldest started packet of a kind that has not been acted on yet. -/
def Queue.pick (x : Queue) (f : QPacket → Bool) : Option QPacket := x.packets.find? fun p => p.started && p.ending.isNone && f p

/-- `LAUNCH_BUNDLE` (R304). -/
def execLaunchBundle (q : Nat) (s : State) : Out :=
  match (Tbl.find s.cmdq q).bind fun x => x.pick fun p => pktKind p.bytes == 1 && !((s.bundleOfPkt p).elim true (·.started)) with
  | some p => match p.bundle with | some n => .next (s.startBundle n) | none => .next s
  | none => .next s

/-! ## Copy and weight-store write packets (R317) -/

/-- The copy of a packet, for the die copy path. -/
def State.pktCopy (s : State) (q : Nat) (x : Queue) (p : QPacket) (sh : Shape × Shape) : Copy where
  id := s.nextId
  warp := none
  queue := q
  pkt := p.index
  fn := x.fn
  space := x.proc
  src := sh.1
  dst := sh.2
  sdisp := (pktDisp p.bytes).1
  ddisp := (pktDisp p.bytes).2
  ty := modBits (pktMod p.bytes) 13 10
  rm := modBits (pktMod p.bytes) 9 8
  red := modBits (pktMod p.bytes) 6 4
  transp := modBits (pktMod p.bytes) 3 3 == 1
  rh := 0
  ring := none
  follow := none
  pc := 0
  inst := 0
  started := false
  stopped := false
  cause := 0
  done := 0
  phase := 0
  wait := []
  got := []
  flags := 0

/-- The packet's copy is given to the die copy path. -/
def State.givePacket (s : State) (q kind : Nat) : State :=
  match Tbl.find s.cmdq q with
  | some x =>
    match x.pick fun p => pktKind p.bytes == kind && !p.fired with
    | some p =>
      match p.shapes with
      | some sh => ((s.onCore (fwCore x.die) fun c => { c with copies := c.copies ++ [s.pktCopy q x p sh] }).bump).onPacket q p.index
          fun p => { p with fired := true }
      | none => s
    | none => s
  | none => s

/-- `COPY_PACKET`. -/
def execCopyPacket (q : Nat) (s : State) : Out := .next (s.givePacket q 3)
/-- `WS_WRITE_PACKET`. -/
def execWsWritePacket (q : Nat) (s : State) : Out := .next (s.givePacket q 4)

/-! ## Barrier-and-signal, interrupt and handler-table packets (R317) -/

/-- Some byte of an aligned run is poisoned. -/
def State.vpoison (s : State) (fn space a n : Nat) : Bool :=
  (List.range n).any fun i => match s.phys fn space (a + i) with | some pa => s.poisoned pa 1 | none => false

/-- A barrier-and-signal packet stops at a fault: fault record, and completion with ERR. -/
def State.stopBarrier (s : State) (q : Nat) (x : Queue) (p : QPacket) (code : Nat) : State :=
  (s.packetFault x.fn code p.index).completePacket q p.index true

/-- What a word's page lets firmware do: 0 go on, 1 wait for the page, else the cause that stops the packet. -/
def State.wordState (s : State) (x : Queue) (a : Nat) (write : Bool) : Nat :=
  if !(s.unmapped x.fn x.proc x.refused a 8).isEmpty then 1
  else if !s.accessible x.fn x.proc a 8 write then cPAGEF
  else if s.vpoison x.fn x.proc a 8 then cMEMERR
  else 0

/-- The wait is over: the signal, and the packet's completion; it may wait for the page of SADDR (`timed` 2). -/
def State.signal (s : State) (q : Nat) (x : Queue) (p : QPacket) : State :=
  let a := pktWord p.bytes 3
  if a == 0 then s.completePacket q p.index false
  else
    match s.wordState x a true with
    | 0 => (s.fwAdd x.die x.fn x.proc a (pktWord p.bytes 4)).completePacket q p.index false
    | 1 => (s.unmapped x.fn x.proc x.refused a 8).foldl (fun s v => s.addWalk x.die x.fn x.proc v false) (s.onPacket q p.index fun p => { p with timed := 2 })
    | c => s.stopBarrier q x p c

/-- The wait word is looked at; the packet waits, signals or stops. -/
def State.tryBarrierPkt (s : State) (q : Nat) (x : Queue) (p : QPacket) : State :=
  let a := pktWord p.bytes 1
  if a == 0 || p.timed == 2 then s.signal q x p
  else
    match s.wordState x a false with
    | 0 => if pktWord p.bytes 2 ≤ s.vread x.fn x.proc a 8 then s.signal q x p else s.onPacket q p.index fun p => { p with timed := 1 }
    | 1 => (s.unmapped x.fn x.proc x.refused a 8).foldl (fun s v => s.addWalk x.die x.fn x.proc v false) (s.onPacket q p.index fun p => { p with timed := 1 })
    | c => s.stopBarrier q x p c

/-- `BARRIER_AND_SIGNAL`. -/
def execBarrierAndSignal (q : Nat) (s : State) : Out :=
  match Tbl.find s.cmdq q with
  | some x => match x.pick fun p => pktKind p.bytes == 5 && p.timed == 0 with | some p => .next (s.tryBarrierPkt q x p) | none => .next s
  | none => .next s

/-- `BARRIER_SIGNAL_WAKE`: some waiting packet whose word has reached WVAL, or can no longer be read; or one whose wait is over and whose signal word has its page by now. -/
def execBarrierSignalWake (q : Nat) (s : State) : Out :=
  match Tbl.find s.cmdq q with
  | some x =>
    match x.pick fun p => pktKind p.bytes == 5 &&
        ((p.timed == 1 && (s.wordState x (pktWord p.bytes 1) false != 0 || pktWord p.bytes 2 ≤ s.vread x.fn x.proc (pktWord p.bytes 1) 8)) ||
         (p.timed == 2 && s.wordState x (pktWord p.bytes 3) true != 1)) with
    | some p => .next (s.tryBarrierPkt q x p)
    | none => .next s
  | none => .next s

/-- `INTERRUPT_PACKET`. -/
def execInterruptPacket (q : Nat) (s : State) : Out :=
  match Tbl.find s.cmdq q with
  | some x =>
    match x.pick fun p => pktKind p.bytes == 6 with
    | some p => .next ((s.fireCompletion x.fn (BitVec.ofNat 64 (pktWord p.bytes 1))).completePacket q p.index false)
    | none => .next s
  | none => .next s

/-- The entry of a handler index in a table; none where it is missing or empty. -/
def tableEnt (t : Option (List HandlerEnt)) (h : Nat) : Option HandlerEnt :=
  match (t.getD [])[h]? with | some e => if e.empty then none else some e | none => none

/-- Standing binds of the function whose entry has changed: an idle one is removed, a busy one turns stale (R387). -/
def dropStanding (fn : Nat) (old new : Option (List HandlerEnt)) (c : Core) : Core :=
  let changed (f h : Nat) : Bool := f == fn && tableEnt old h != tableEnt new h
  { c with binds := (c.binds.filter fun b => match b with
      | .standing f h none _ _ _ _ _ _ => !changed f h
      | _ => true).map fun b => match b with
      | .standing f h (some g) st w pb nr sb l => .standing f h (some g) (st || changed f h) w pb nr sb l
      | b => b }

/-- `REGISTER_HANDLER_TABLE`. -/
def execRegisterHandlerTable (q : Nat) (s : State) : Out :=
  match Tbl.find s.cmdq q with
  | some x =>
    match x.pick fun p => pktKind p.bytes == 7 with
    | some p =>
      let old := (s.fn x.fn).table_
      let s1 := s.onFn x.fn fun f => { f with table_ := p.table_, tproc := x.proc }
      .next (({ s1 with cores := Tbl.mapVal (fun _ c => dropStanding x.fn old p.table_ c) s1.cores }).completePacket q p.index false)
    | none => .next s
  | none => .next s

/-! ## `SLAUNCH` (R130, R296) -/

/-- What becomes of a packet that `SLAUNCH` has read: a status for `sd`; it waits for the page of its ring entry; or that page cannot be written (R332, log 72). -/
inductive Submitted where
  | status (v : W64)
  | wait (die fn space : Nat) (vs : List Nat)
  | refused

/-- The packet read is offered to the queue it names. Where several statuses apply, R130 ranks none: a closed or foreign queue answers first, then the error state, then a clear DEVSUB, then a full queue, which is the model's choice (log 83). -/
def State.submit (s : State) (fn p : Nat) : State × Submitted :=
  let q := pktQid p
  match Tbl.find s.cmdq q with
  | none => (s, .status 3)
  | some x =>
    let a := x.entryAddr x.tail
    if x.state == 0 || x.fn != fn then (s, .status 3)
    else if x.state == 2 then (s, .status 2)
    else if !x.devsub then (s, .status 4)
    else if 2 ^ x.logn ≤ x.offered then (s, .status 1)
    else match s.unmapped x.fn x.proc x.refused a 64 with
      | v :: vs => (s, .wait x.die x.fn x.proc (v :: vs))
      | [] =>
        if s.accessible x.fn x.proc a 64 true then ((s.fwWrite x.die x.fn x.proc a 64 p).putCmdq q { x with tail := (x.tail + 1) % 2 ^ 32 }, .status 0)
        else (s, .refused)

end Sys2Proof.Machine
end

