-- ==== Sys2Proof/Machine/LaneMem.lean ====
section
/-! DEFINITION. Lane memory, atomic and synchronisation instructions, groups 0x8 and 0x9 (R204 to R221). -/

namespace Sys2Proof.Machine

/-- Registers of a group by SIZE (R88). -/
def grpRegs (size : Nat) : Nat := match size with | 5 => 2 | 6 => 4 | _ => 1

/-- The full 64-bit value of an `x` operand. -/
def Warp.x64 (w : Warp) (o : Opnd) : W64 := match o with | .x n => w.x[n.toNat] | _ => 0

/-- ea(l) of R95, before the 57-bit test. -/
def State.ea (s : State) (k : Nat) (w : Warp) (st : Stream) (l : LaneReg) (i : Fin 32) : W64 :=
  let lo := (s.rd k w st l.b 0)[i].setWidth 64
  w.x64 l.a + if l.amode == 5 then ((s.rd k w st l.b 1)[i].setWidth 64 <<< 32 ||| lo) else lo <<< l.amode

/-- Lanes of a mask that satisfy a test. -/
def maskWhere (m : LaneMask) (f : Fin 32 → Bool) : LaneMask := LaneMask.mk fun i => m.has i && f i

/-- The checks of R205 in its order, over the lanes of `m` with their addresses: the cause and the lanes that fail it. -/
def State.laneCheck (s : State) (k space size : Nat) (write : Bool) (m : LaneMask) (ea : Fin 32 → W64) : Option (Nat × LaneMask) :=
  let g := s.wg (wgOf k)
  let c1 := maskWhere m fun i => (ea i).toNat % size != 0
  if c1 != 0 then some (cALIGNF, c1)
  else if space != 0 then
    let c3 := maskWhere m fun i => s.localFault (wgOf k) space (ea i) size != 0
    match firstLane c3 with
    | some i => some (s.localFault (wgOf k) space (ea i) size, c3)
    | none => none
  else
    let c2 := maskWhere m fun i => !canonical (ea i)
    if c2 != 0 then some (cADDRF, c2)
    else
      let c4 := maskWhere m fun i => decide (s.xlate g.coreKey g.fn g.proc (ea i).toNat write = .refused)
      if c4 != 0 then some (cPROTF, c4) else none
where
  firstLane (m : LaneMask) : Option (Fin 32) := m.lanes.head?

/-- Bytes of `n` registers of one lane, low register first. -/
def laneValue (rs : List Lanes) (i : Fin 32) : Nat := rs.foldr (fun r v => r[i].toNat + 2 ^ 32 * v) 0

def State.rds (s : State) (k : Nat) (w : Warp) (st : Stream) (o : Opnd) (n : Nat) : List Lanes := (List.range n).map (s.rd k w st o)

/-- The request of a lane instruction. -/
def State.laneReq (s : State) (k : Nat) (w : Warp) (st : Stream) (x : Slot) (h : LaneHdr) (kind : ReqKind) (space : Nat) : Req :=
  let g := s.wg (wgOf k)
  { Req.blank s.nextId with
    kind := kind
    warp := k
    core := g.coreKey
    fn := g.fn
    space := g.proc
    lspace := space
    stream := st
    mask := x.mask
    after := w.after
    rh := h.rh.toNat
    pc := x.pc.setWidth 64
    inst := s.laneInst g x.pc.toNat }

/-- A `QFENCE` of the warp keeps later operations out of the queues of `bit` (R221). -/
def Warp.qfenced (w : Warp) (bit : Nat) : Bool :=
  let f (x : Slot) : Bool := match x.wait with | .qfence m _ => m / 2 ^ bit % 2 == 1 | _ => false
  f w.slotA || f w.slotB

/-- A memory instruction cannot issue yet: an earlier release, acquire or fence, or a `QFENCE` of the memory queue. -/
def State.laneHeld (s : State) (k : Nat) (w : Warp) (st : Stream) (x : Slot) : Bool :=
  s.memBlocked k st x.mask w.after || w.qfenced 0

/-- The destination registers of a memory instruction, as the pool lists them. -/
def Warp.destRegs (w : Warp) (d : Opnd) (n : Nat) : List (Nat × Lanes) :=
  (List.range n).filterMap fun i => (w.rg.entry d i).map fun e => (e, w.rg.get e)

/-- The result of a memory instruction joins those in flight and its requests are made; a store, `ATOM` or `CSTORE` to a Cinnabar page holds the slot (`hold`, R245). -/
def State.laneAccess (s : State) (k : Nat) (w : Warp) (st : Stream) (h : LaneHdr) (act : LaneMask) (res : Option Result) (r : Req) (as : List Access) (hold : Bool) : LOut :=
  let n := (s.plan r as).length
  let w1 := match res with
    | some x => if x.fills then { w with rg := w.rg.marked (x.regs.map (·.1)) } else w
    | none => w
  let s1 := s.putWarp k w1
  let s2 := match res with
    | some x => s1.fly k { x with need := n }
    | none => s1
  let r2 := match res with | some _ => { r with result := s.nextId } | none => r
  if hold then
    if (s.wg (wgOf k)).inLane ((w.slot st).pc.toNat + 1) then
      .stay ((s2.onWarp k fun w => w.holdLane st h s.cyc act (.held s2.nextId)).request r2 as)
    else .trap cFETCHF act.toNat
  else .done (s2.request r2 as)

/-- What the order and scope of a memory instruction ask of its requests (R225, R237). -/
def Req.ordered (r : Req) (o scope : Nat) (mayRel mayAcq : Bool) : Req :=
  let rel := mayRel && ordRel o
  let acq := mayAcq && ordAcq o
  { r with
    ord := o
    scope := scope
    rel := if rel then 1 else 0
    acq := acq
    home := (rel || acq) && 1 ≤ scope }

/-- Some access lies on a Cinnabar page, so the accesses of the instruction take effect together (R245). -/
def State.gangs (s : State) (g : Wg) (space : Nat) (as : List Access) : Bool := space == 0 && as.any fun a => s.onCinnabar g.fn g.proc a.va

/-- Loads of `LD` and `LDA` shape: `split` marks D empty whatever the home (R209). -/
def laneLoad (l : LaneReg) (split : Bool) (s : State) : Out :=
  let n := grpRegs l.size
  laneIssue s l.hdr (LaneReg.uses l n 1 (if l.amode == 5 then 2 else 1) 1 1) fun k w st x act =>
    let g := s.wg (wgOf k)
    match s.scopePolicy g.fn l.scope with
    | none => .trap cSCOPEF act.toNat
    | some (scope, down) =>
      let ea := s.ea k w st l
      match s.laneCheck k l.space (sizeBytes l.size) false act ea with
      | some (c, m) => .trap c m.toNat
      | none =>
        if s.laneHeld k w st x then .stay s
        else
          let ctr : Option Nat := match l.c with | .k c => some c.toNat | _ => none
          if act = 0 then
            -- no request; the arrivals of an `LDA` still count (R209)
            match ctr with
            | some c => .done (s.putWarp k { w with rg := (List.range n).foldl (fun r _ => r.arrive c) w.rg })
            | none => .done s
          else
            let as := act.lanes.map fun i => (⟨i.val, (ea i).toNat, 0, sizeBytes l.size, 0, 0, 0⟩ : Access)
            let remote := l.space == 0 && as.any fun a => s.onRemote g.fn g.proc a.va
            let res := { s.blankResult st act with
              regs := w.destRegs l.d n
              fills := split || remote
              kctr := ctr
              mem := true }
            let r := { s.laneReq k w st x l.hdr .load l.space with ext := l.size, gang := s.gangs g l.space as }.ordered l.order scope false true
            s.laneAccess k (w.downgraded down) st l.hdr act (some res) r as false

/-- `LD` (R207). -/
def execLd (l : LaneReg) (s : State) : Out := laneLoad l false s
/-- `LDA` (R209). -/
def execLda (l : LaneReg) (s : State) : Out := laneLoad l true s

/-- `ST` (R208). -/
def execSt (l : LaneReg) (s : State) : Out :=
  let n := grpRegs l.size
  laneIssue s l.hdr (LaneReg.uses l 1 1 (if l.amode == 5 then 2 else 1) n 1) fun k w st x act =>
    let g := s.wg (wgOf k)
    match s.scopePolicy g.fn l.scope with
    | none => .trap cSCOPEF act.toNat
    | some (scope, down) =>
      let ea := s.ea k w st l
      match s.laneCheck k l.space (sizeBytes l.size) true act ea with
      | some (c, m) => .trap c m.toNat
      | none =>
        if s.laneHeld k w st x then .stay s
        else if act = 0 then .done s
        else
          let data := s.rds k w st l.c n
          let as := act.lanes.map fun i =>
            (⟨i.val, (ea i).toNat, 0, sizeBytes l.size, laneValue data i % 2 ^ (8 * sizeBytes l.size), 0, 2 ^ sizeBytes l.size - 1⟩ : Access)
          let r := { s.laneReq k w st x l.hdr .store l.space with gang := s.gangs g l.space as }.ordered l.order scope true false
          s.laneAccess k (w.downgraded down) st l.hdr act none r as r.gang

/-- `WAITK` (R210). -/
def execWaitk (l : LaneImm) (s : State) : Out :=
  laneIssue s l.hdr (LaneImm.uses l) fun k w st _ act =>
    match l.a with
    | .k c =>
      let n := l.imm.toNat % 65536
      if n ≤ (w.rg.kr c.toNat).toNat then .done s
      else .stay (s.putWarp k (w.holdLane st l.hdr s.cyc act (.waitk c.toNat n)))
    | _ => .done s

/-- `WAITK_DONE`. -/
def execWaitkDone (k : Nat) (st : Stream) (s : State) : Out :=
  match Tbl.find s.warps k with
  | none => .next s
  | some w =>
    match (w.slot st).wait with
    | .waitk c n => if w.live && n ≤ (w.rg.kr c).toNat then .next (s.passHeld k st) else .next s
    | _ => .next s

/-- The workgroups of the issuing cohort that an `LDMC` mask names, by `%wgc`; none where a bit names no workgroup (R211). -/
def State.mcTargets (s : State) (g m : Nat) : Option (List Nat) :=
  let x := s.wg g
  if m / 65536 != 0 then none
  else
    let bits := (List.range 16).filter fun i => m / 2 ^ i % 2 == 1
    let find (i : Nat) : Option Nat :=
      match x.cohort with
      | none => if i == 0 then some x.coreKey else none
      | some c => (s.wgs.find? fun y : Nat × Wg => y.2.bundle == x.bundle && y.2.grid == x.grid && y.2.cohort == some c && y.2.wgc == i).map fun y => y.2.coreKey
    if bits.all fun i => (find i).isSome then some ((bits.filterMap find).eraseDups) else none

/-- `LDMC` (R211). A mask taken from a special lane register that differs by lane is read in lane 0, and RH 11 keeps the line out of the issuing L1 as a bypass does, the other targets taking it as default (log 75). -/
def execLdmc (l : LaneReg) (s : State) : Out :=
  let n := grpRegs l.size
  laneIssue s l.hdr (LaneReg.uses l n 1 (if l.amode == 5 then 2 else 1) 1 1) fun k w st x act =>
    let g := s.wg (wgOf k)
    let m := (s.rd k w st l.e 0)[0].toNat
    match s.mcTargets (wgOf k) m with
    | none => .trap cMCASTF act.toNat
    | some cores =>
      let ea := s.ea k w st l
      match s.laneCheck k 0 (sizeBytes l.size) false act ea with
      | some (c, mm) => .trap c mm.toNat
      | none =>
        if s.laneHeld k w st x then .stay s
        else
          let ctr : Option Nat := match l.c with | .k c => some c.toNat | _ => none
          if act = 0 then
            match ctr with
            | some c => .done (s.putWarp k { w with rg := (List.range n).foldl (fun r _ => r.arrive c) w.rg })
            | none => .done s
          else
            let as := act.lanes.map fun i => (⟨i.val, (ea i).toNat, 0, sizeBytes l.size, 0, 0, 0⟩ : Access)
            let res := { s.blankResult st act with regs := w.destRegs l.d n, fills := true, kctr := ctr, mem := true }
            let r := { s.laneReq k w st x l.hdr .load 0 with
              ext := l.size
              targets := (g.coreKey :: cores).eraseDups
              gang := s.gangs g 0 as }
            s.laneAccess k w st l.hdr act (some res) r as false

/-- `PREF` (R213): a lane that fails a check is dropped. -/
def execPref (l : LaneReg) (s : State) : Out :=
  laneIssue s l.hdr (LaneReg.uses l 1 1 (if l.amode == 5 then 2 else 1) 1 1) fun k w st x act =>
    let g := s.wg (wgOf k)
    let ea := s.ea k w st l
    if s.laneHeld k w st x then .stay s
    else
      let good := act.lanes.filter fun i =>
        (ea i).toNat % 4 == 0 && canonical (ea i) && decide (s.xlate g.coreKey g.fn g.proc (ea i).toNat false ≠ .refused) &&
        !s.onRemote g.fn g.proc (ea i).toNat
      let as := good.map fun i => (⟨i.val, (ea i).toNat, 0, 4, 0, 0, 0⟩ : Access)
      .done (s.request (s.laneReq k w st x l.hdr .pref 0) as)

/-- `CREAD` (R215). -/
def execCread (l : LaneReg) (s : State) : Out :=
  laneIssue s l.hdr (LaneReg.uses l 2 1 1 1 1) fun k w st x act =>
    let g := s.wg (wgOf k)
    if decide (w.slotB.st ≠ .idle) || !w.dstack.isEmpty then .trap cXLDIV act.toNat
    else
      match s.scopePolicy g.fn l.scope with
      | none => .trap cSCOPEF act.toNat
      | some (scope, down) =>
        let a := w.x64 l.a
        match s.laneCheck k 0 128 false act fun _ => a with
        | some (c, m) => .trap c m.toNat
        | none =>
          if s.laneHeld k w st x then .stay s
          else if act = 0 then .done s
          else
            let res := { s.blankResult st act with
              regs := w.destRegs l.d 2
              fills := true
              kctr := match l.c with | .k c => some c.toNat | _ => none
              mem := true }
            let as : List Access := [⟨0, a.toNat, 0, 128, 0, 0, 0⟩]
            let r := ({ s.laneReq k w st x l.hdr .cread 0 with ext := 5, gang := s.gangs g 0 as }).ordered l.order scope false true
            s.laneAccess k (w.downgraded down) st l.hdr act (some res) r as false

/-- `CSTORE` (R216): its slot is held until its lines have been checked. The line addresses come from lanes 0 to N − 1 whatever the guard, and INFO of a failed address check names those lane numbers, active or not (log 75). -/
def execCstore (l : LaneReg) (s : State) : Out :=
  let n := l.amode + 1
  laneIssue s l.hdr (LaneReg.uses l 1 1 1 n 1) fun k w st x act =>
    let g := s.wg (wgOf k)
    if decide (w.slotB.st ≠ .idle) || !w.dstack.isEmpty then .trap cXLDIV act.toNat
    else
      match s.scopePolicy g.fn l.scope with
      | none => .trap cSCOPEF act.toNat
      | some (scope, down) =>
        let offs := s.rd k w st l.b 0
        let vers := s.rd k w st l.e 0
        let lineOf (i : Fin 32) : W64 := w.x64 l.a + offs[i].setWidth 64
        match s.laneCheck k 0 128 true (if act = 0 then 0 else BitVec.ofNat 32 (2 ^ n - 1)) lineOf with
        | some (c, m) => .trap c m.toNat
        | none =>
          if s.laneHeld k w st x then .stay s
          else if act = 0 then .done s
          else
            let idx := (List.finRange 32).take n
            let bm := act.lanes.foldl (fun m i => m ||| 15 * 2 ^ (4 * i.val)) 0
            let as := idx.map fun i =>
              let v := s.rd k w st l.c i.val
              (⟨i.val, (lineOf i).toNat, 0, 128, (List.finRange 32).foldr (fun j t => v[j].toNat + 2 ^ 32 * t) 0, 0, bm⟩ : Access)
            let res := { s.blankResult st act with
              preds := match l.d with | .p p => [(p.toNat, 0)] | _ => []
              mem := true }
            let r := ({ s.laneReq k w st x l.hdr .cstore 0 with want := idx.map (fun (i : Fin 32) => vers[i].toNat % 65536), gang := s.gangs g 0 as }).ordered l.order scope true true
            s.laneAccess k (w.downgraded down) st l.hdr act (some res) r as true

/-- `ATOM` (R218). -/
def execAtom (op : AmoOp) (l : LaneReg) (s : State) : Out :=
  let n := grpRegs l.size
  laneIssue s l.hdr (LaneReg.uses l n 1 (if l.amode == 5 then 2 else 1) n n) fun k w st x act =>
    let g := s.wg (wgOf k)
    match s.scopePolicy g.fn l.scope with
    | none => .trap cSCOPEF act.toNat
    | some (scope, down) =>
      let ea := s.ea k w st l
      match s.laneCheck k l.space (sizeBytes l.size) true act ea with
      | some (c, m) => .trap c m.toNat
      | none =>
        if s.laneHeld k w st x then .stay s
        else if act = 0 then .done s
        else
          let vb := s.rds k w st l.c n
          let vc := s.rds k w st l.e n
          let as := act.lanes.map fun i =>
            (⟨i.val, (ea i).toNat, 0, sizeBytes l.size, laneValue vb i, laneValue vc i, 2 ^ sizeBytes l.size - 1⟩ : Access)
          let remote := l.space == 0 && as.any fun a => s.onRemote g.fn g.proc a.va
          let res : Option Result := if l.d.isNone then none
            else some { s.blankResult st act with regs := w.destRegs l.d n, fills := remote, mem := true }
          let r := ({ s.laneReq k w st x l.hdr .atom l.space with op := some op, ext := l.size, gang := s.gangs g l.space as }).ordered l.order scope true true
          s.laneAccess k (w.downgraded down) st l.hdr act res r as r.gang

/-- The request that stands for a fence in the issue sequence (R220). -/
def State.fenceReq (s : State) (r : Req) (rel acq : Bool) (scope : Nat) : State :=
  (s.putReq { r with id := s.nextId, iid := s.nextId, kind := .fence, rel := if rel then 1 else 0, acq := acq, scope := scope }).bump

/-- `FENCE` (R220): the slot waits until the fence ends. -/
def execFence (l : LaneReg) (s : State) : Out :=
  laneIssue s l.hdr (LaneReg.uses1 l) fun k w st x act =>
    match s.scopePolicy (s.wg (wgOf k)).fn l.scope with
    | none => .trap cSCOPEF act.toNat
    | some (scope, down) =>
      if s.laneHeld k w st x then .stay s
      else if !(s.wg (wgOf k)).inLane (x.pc.toNat + 1) then .trap cFETCHF act.toNat
      else
        .stay ((s.putWarp k ((w.downgraded down).holdLane st l.hdr s.cyc act (.fence s.nextId))).fenceReq
          (s.laneReq k w st x l.hdr .fence 0) (ordRel l.order) (ordAcq l.order) scope)

/-- `FENCE_DONE` (R220). -/
def execFenceDone (k : Nat) (st : Stream) (s : State) : Out :=
  match Tbl.find s.warps k with
  | none => .next s
  | some w =>
    match (w.slot st).wait with
    | .fence n =>
      match Tbl.find s.reqs n with
      | some r =>
        if w.live && r.relDone then .next (((if r.acq then s.acquire r.core r.scope else s).delReq n).passHeld k st) else .next s
      | none => .next s
    | _ => .next s

/-- `QFENCE` (R221). -/
def execQfence (l : LaneImm) (s : State) : Out :=
  laneIssue s l.hdr (LaneImm.uses l) fun k w st x act =>
    if !(s.wg (wgOf k)).inLane (x.pc.toNat + 1) then .trap cFETCHF act.toNat
    else .stay (s.putWarp k (w.holdLane st l.hdr s.cyc act (.qfence (l.imm.toNat % 16) s.nextId)))

/-- Every operation that the `QFENCE` covers has been performed (R221). -/
def State.qfenceReady (s : State) (k mask upTo : Nat) : Bool :=
  let g := wgOf k
  let c := s.core (s.wg g).coreKey
  let w := Tbl.find s.warps k
  let set := s.coplaced g
  (mask % 2 == 0 || !((s.reqsOf k).any fun r => r.id < upTo && r.parent == 0 && r.stream != .scalar && r.kind != .fence && !r.isPerformed)) &&
  (mask / 2 % 2 == 0 || !(c.copies.any fun x => x.id < upTo && match x.warp with | some j => wgOf j == g | none => false)) &&
  (mask / 4 % 2 == 0 || !(c.matq.any fun x => x.id < upTo && set.contains (wgOf x.warp)) &&
    !(c.copies.any fun x => x.id < upTo && match x.follow with | some m => set.contains (wgOf m.warp) | none => false)) &&
  (mask / 8 % 2 == 0 || match w with | some w => !(w.fabq.any fun x => x.id < upTo) && !(w.msgs.any fun x => x.id < upTo) | none => true)

/-- `QFENCE_DONE` (R221). -/
def execQfenceDone (k : Nat) (st : Stream) (s : State) : Out :=
  match Tbl.find s.warps k with
  | none => .next s
  | some w =>
    match (w.slot st).wait with
    | .qfence m n => if w.live && s.qfenceReady k m n then .next (s.passHeld k st) else .next s
    | _ => .next s

end Sys2Proof.Machine
end

