-- ==== Sys2Proof/Machine/Matrix.lean ====
section
/-! DEFINITION. Matrix instructions, group 0xA, and the events of the matrix queue (R267 to R278). -/

namespace Sys2Proof.Machine

/-! ## Banks (R267) -/

def Core.bank (c : Core) (b : Nat) : Bank := if b = 0 then c.banks[0] else c.banks[1]
def Core.putBank (c : Core) (b : Nat) (x : Bank) : Core :=
  if b = 0 then { c with banks := c.banks.set 0 x } else { c with banks := c.banks.set 1 x }

/-- The bank is claimed by no workgroup outside the workgroup or its co-placed set. -/
def State.bankMine (s : State) (g b : Nat) : Bool :=
  match ((s.core (s.wg g).coreKey).bank b).claim with | some o => (s.coplaced g).contains o | none => true

/-- A `WLOAD` on the bank is queued. -/
def Core.loading (c : Core) (b : Nat) : Bool := c.matq.any fun m => decide (m.kind = .wload) && m.bank == b

/-- The bank can serve an `MMA` of the workgroup: it is claimed by it, and holds a tile or has one coming (R267, R272). -/
def State.bankReady (s : State) (g b : Nat) : Bool :=
  let c := s.core (s.wg g).coreKey
  s.bankMine g b && (!(c.bank b).tile.isEmpty || c.loading b)

/-- Bytes of a tile of width `w` (R268) and of an activation row (R269). -/
def tileBytes (w : Nat) : Nat := 2048 + 8192 * w
def rowBytes (w : Nat) : Nat := 8 + 32 * w

def bankNo (l : LaneReg) : Nat := modBits l.mod 3 3
def bfpW (l : LaneReg) : Nat := LaneReg.wei l + 2

/-- An operation joins the matrix queue of its core under the next number. -/
def State.enqueueMat (s : State) (core : Nat) (m : MatOp) : State :=
  (s.onCore core fun c => { c with matq := c.matq ++ [{ m with id := s.nextId }] }).bump

/-- The operation of a lane instruction. -/
def State.matOp (s : State) (k : Nat) (st : Stream) (x : Slot) (act : LaneMask) (kind : MatKind) : MatOp where
  id := s.nextId
  kind := kind
  warp := k
  slot := st
  mask := act
  bank := 0
  width := 0
  addr := 0
  pad := false
  rows := []
  accs := []
  res := 0
  started := false
  done := 0
  pc := x.pc
  inst := s.laneInst (s.wg (wgOf k)) x.pc.toNat

/-- The address checks of `WLOAD` (R271): 0 passes. -/
def State.tileFault (s : State) (g : Nat) (pad : Bool) (a : W64) (size : Nat) : Nat :=
  if a.toNat % 128 != 0 then cALIGNF
  else if pad then (if a.toNat + size ≤ (s.wg g).padSize then 0 else cSPRANGE)
  else if a.toNat / 2 ^ 29 == 0 && a.toNat + size ≤ 2 ^ 29 then 0 else cSPRANGE

/-- `WLOAD` (R271). -/
def execWload (l : LaneReg) (s : State) : Out :=
  laneIssue s l.hdr (LaneReg.uses1 l) fun k w st x act =>
    let g := wgOf k
    let core := (s.wg g).coreKey
    let a := w.x64 l.a
    let pad := modBits l.mod 4 4 == 1
    if !s.bankMine g (bankNo l) then .trap cWBANKF act.toNat
    else
      match s.tileFault g pad a (tileBytes (bfpW l)) with
      | 0 =>
        if w.qfenced 2 || s.memBlocked k st x.mask w.after then .stay s
        else
          let s1 := (s.onCore core fun c => c.putBank (bankNo l) { c.bank (bankNo l) with claim := ((c.bank (bankNo l)).claim).orElse fun _ => some g }).onWg g
            fun y => { y with claims := if y.claims.contains (bankNo l) then y.claims else y.claims ++ [(bankNo l)] }
          .done (s1.enqueueMat core { s.matOp k st x act .wload with bank := (bankNo l), width := (bfpW l), addr := a.toNat, pad := pad })
      | c => .trap c act.toNat

/-! ## `MMA` (R273, R274) -/

/-- Accumulators that operations of the queue write for a warp. -/
def Core.queuedAccs (c : Core) (k : Nat) : List Nat := (c.matq.filter fun m => m.warp == k).flatMap (·.accs)

/-- Accumulators that the follow-ons of copies still under way will fill for a warp (R289). -/
def Core.followAccs (c : Core) (k : Nat) : List Nat :=
  (c.copies.filterMap (·.follow)).flatMap fun m => if m.warp == k then m.accs else []

/-- An accumulator keeps an `MMA` from being accepted: empty, or written by a result in flight, for a reason other than an operation of the queue. A follow-on whose copy still runs is such a reason, and so is a load or a fabric operation that fills it (R274, R141, R289). -/
def State.accWaits (s : State) (k : Nat) (w : Warp) (mask : LaneMask) (es : List Nat) : Bool :=
  let c := s.core (s.wg (wgOf k)).coreKey
  let own := c.queuedAccs k
  let moves := (c.matq.filter fun m => m.warp == k && (decide (m.kind = .aread) || decide (m.kind = .awrite))).map (·.res)
  let others := c.followAccs k ++ (w.flight.filter fun r => r.fills && !moves.contains r.id).flatMap (fun r => r.regs.map (·.1)) ++
    w.fabq.flatMap (·.dregs) ++ w.msgs.flatMap (·.dregs)
  (es.any fun e => w.rg.isEmpty e && (!own.contains e || others.contains e)) ||
  w.flight.any fun r => !moves.contains r.id && r.blocks .slotA mask es [] []

/-- NC of `MMA`. -/
def columns (l : LaneReg) : Nat := 64 * (modBits l.mod 5 4 + 1)

/-- Row offsets of the lanes of `m`. -/
def State.mmaRow (s : State) (k : Nat) (w : Warp) (st : Stream) (l : LaneReg) (i : Fin 32) : Nat :=
  (w.x64 l.b).toNat % 2 ^ 32 + (s.rd k w st l.a 0)[i].toNat * ((w.x64 l.c).toNat % 2 ^ 32)

/-- The lanes whose row fails a check of R273, alignment first. -/
def rowFault (m : LaneMask) (r : Fin 32 → Nat) (wa size : Nat) : Option (Nat × LaneMask) :=
  let c1 := maskWhere m fun i => r i % 4 != 0
  if c1 != 0 then some (cALIGNF, c1)
  else
    let c2 := maskWhere m fun i => size < r i + rowBytes wa
    if c2 != 0 then some (cSPRANGE, c2) else none

/-- `MMA` (R273): the accumulators it updates cause no wait where only the queue keeps them (R274). -/
def execMma (l : LaneReg) (s : State) : Out :=
  match s.issuer with
  | none => .fault .noIssuer
  | some (k0, w0, st0) =>
    if !Use.inRange w0.rg ⟨l.d, (columns l), false, true⟩ && !w0.interlocked st0 (w0.slot st0).mask l.hdr (LaneReg.uses l 0 1 1 1 1) then
      .next (s.raiseLane k0 w0 st0 cREGRANGE ((w0.slot st0).mask &&& guardMask w0.rg l.hdr).toNat)
    else
      laneIssue s l.hdr (LaneReg.uses l 0 1 1 1 1) fun k w st x act =>
        let g := wgOf k
        let core := (s.wg g).coreKey
        let es := Use.entries w.rg ⟨l.d, (columns l), false, true⟩
        if s.accWaits k w x.mask es then .stay s
        else if es.any w.rg.isPoison then .trap cMEMERR act.toNat
        else if !s.bankReady g (bankNo l) then .trap cWBANKF act.toNat
        else
          let r := s.mmaRow k w st l
          match rowFault act r (bfpW l) (s.wg g).padSize with
          | some (c, m) => .trap c m.toNat
          | none =>
            if act = 0 then .done s
            else if w.qfenced 2 || s.memBlocked k st x.mask w.after then .stay s
            else
              .done ((s.putWarp k { w with rg := w.rg.marked es }).enqueueMat core
                { s.matOp k st x act .mma with
                  bank := (bankNo l)
                  width := (bfpW l)
                  rows := act.lanes.map fun i => (i.val, r i)
                  accs := es })

/-- Column `j`, K-block `b` of a tile: its exponent and mantissas (R268). -/
def tileExp (t : List Byte) (j b : Nat) : Nat := (t.getD (8 * j + b) 0).toNat
def tileRun (t : List Byte) (w j : Nat) : Nat := leNat ((t.drop (2048 + 32 * w * j)).take (32 * w))

def blockOf (w run b : Nat) : List Int := (List.range 32).map (bfpAt w run b)

/-- The K-blocks of a row (as its bytes) against column `j` of a tile (R73). -/
def kBlocks (wa : Nat) (row : List Byte) (ww : Nat) (t : List Byte) (j : Nat) : List KBlock :=
  let ra := leNat (row.drop 8)
  let rw := tileRun t ww j
  (List.range 8).map fun b => ⟨(row.getD b 0).toNat, tileExp t j b, dotInt (blockOf wa ra b) (blockOf ww rw b)⟩

/-- One accumulator after the pass: lanes with a row take the sum of R73, with the flags of R74. -/
def mmaAcc (wa ww : Nat) (t : List Byte) (rows : List (Nat × List Byte)) (j : Nat) (old : Lanes) : Lanes × Flags :=
  rows.foldl (fun (x : Lanes × Flags) r =>
    if h : r.1 < 32 then
      let v := mmaPass wa ww x.1[r.1].toNat (kBlocks wa r.2 ww t j)
      (x.1.set r.1 (BitVec.ofNat 32 v.1), x.2 ||| v.2)
    else x) (old, 0)

/-- The accumulators of a warp that an operation still to come will fill: a queued `MMA`, or the follow-on of a copy (R274, R289). -/
def Core.pendingAccs (c : Core) (k : Nat) : List Nat :=
  (c.matq.filter fun m => m.warp == k && decide (m.kind = .mma)).flatMap (·.accs) ++ c.followAccs k

/-- The warp after one row of an `MMA` has landed in its lane of every accumulator (R273, R294). -/
def Warp.mmaLand (w : Warp) (m : MatOp) (ww : Nat) (t : List Byte) (row : Nat × List Byte) : Warp :=
  let out := (m.accs.zipIdx).foldl (fun (x : Regs × Flags) e =>
    let v := mmaAcc m.width ww t [row] e.2 (x.1.get e.1)
    (x.1.merge (1#32 <<< row.1) e.1 v.1, x.2 ||| v.2)) (w.rg, 0)
  { w with rg := out.1, fflags := w.fflags ||| out.2 }

/-- An operation of the queue, where it stands at its head or not. -/
def Core.matFind (c : Core) (n : Nat) : Option MatOp := c.matq.find? fun m => m.id == n
def Core.matAhead (c : Core) (n : Nat) : List MatOp := c.matq.takeWhile fun m => m.id != n
def Core.dropMat (c : Core) (n : Nat) : Core := { c with matq := c.matq.filter fun m => m.id != n }
def Core.startMat (c : Core) (n : Nat) : Core := { c with matq := c.matq.map fun m => if m.id == n then { m with started := true } else m }

/-- A change to an operation of the queue. -/
def State.onMat (s : State) (core n : Nat) (f : MatOp → MatOp) : State :=
  s.onCore core fun c => { c with matq := c.matq.map fun m => if m.id == n then f m else m }

/-- A deferred cause joins those of a warp (R319). -/
def State.deferTo (s : State) (k : Nat) (d : Deferred) : State := s.onWarp k fun w => { w with deferred := w.deferred ++ [d] }

/-- `MMA_START`: the gather begins once every earlier `WLOAD` on the bank has finished (R272). -/
def execMmaStart (core n : Nat) (s : State) : Out :=
  let c := s.core core
  match c.matFind n with
  | some m =>
    if !s.off && decide (m.kind = .mma) && !m.started &&
        !((c.matAhead n).any fun x => decide (x.kind = .wload) && x.bank == m.bank) then
      .next (s.putCore core (c.startMat n))
    else .next s
  | none => .next s

/-- A row's lane and its bytes as the gather reads them. -/
def State.gather (s : State) (m : MatOp) (r : Nat × Nat) : Nat × List Byte :=
  (r.1, Memory.readL (s.wg (wgOf m.warp)).pad r.2 (rowBytes m.width))

/-- Some row still to be read, or the tile, holds a poisoned word (R203). -/
def State.matPoison (s : State) (m : MatOp) (b : Bank) : Bool :=
  b.poison || (m.rows.drop m.done).any fun r => s.padPoisoned (wgOf m.warp) 1 (BitVec.ofNat 64 r.2) (rowBytes m.width)

/-- An `MMA` leaves the queue: every accumulator of its range that no later operation fills is full (R273). -/
def State.matLeave (s : State) (core : Nat) (m : MatOp) : State :=
  let c := (s.core core).dropMat m.id
  (s.putCore core c).onWarp m.warp fun w => { w with rg := w.rg.filled (m.accs.filter fun e => !(c.pendingAccs m.warp).contains e) }

/-- `MMA_DONE`: in queue order, the next row is read and its updates land; with the last one the operation ends (R273, R232, R294). -/
def execMmaDone (core n : Nat) (s : State) : Out :=
  let c := s.core core
  match c.matq with
  | m :: _ =>
    if !s.off && m.id == n && decide (m.kind = .mma) && m.started then
      let b := c.bank m.bank
      if s.matPoison m b then .next ((s.matLeave core m).deferTo m.warp ⟨cMEMERR, m.pc.setWidth 64, m.inst⟩)
      else
        match m.rows.drop m.done with
        | [] => .next (s.matLeave core m)
        | r :: rest =>
          let s1 := s.onWarp m.warp fun w => w.mmaLand m b.width b.tile (s.gather m r)
          if rest.isEmpty then .next (s1.matLeave core m) else .next (s1.onMat core n fun x => { x with done := x.done + 1 })
    else .next s
  | [] => .next s

/-! ## `WLOAD_START` and `WLOAD_DONE` (R272, R197) -/

/-- The weight-store banks that a tile touches: 4 KiB pieces, bank offset[17:12] (R196). -/
def tileBanks (a size : Nat) : List Nat := (List.range ((a + size + 4095) / 4096 - a / 4096)).map fun i => (a / 4096 + i) % 64

/-- The cycle until which a load from the weight store waits for the bank in its refresh window, taken last (R197). -/
def State.refreshWait (s : State) (m : MatOp) : Nat :=
  if !m.pad && (tileBanks m.addr (tileBytes m.width)).contains (s.cyc % 4096 / 64) then (s.cyc / 64 + 1) * 64 else s.cyc

/-- `WLOAD_START`: once every earlier `MMA` on the bank has read it. -/
def execWloadStart (core n : Nat) (s : State) : Out :=
  let c := s.core core
  match c.matFind n with
  | some m =>
    if !s.off && decide (m.kind = .wload) && !m.started &&
        !((c.matAhead n).any fun x => (decide (x.kind = .wload) || decide (x.kind = .mma)) && x.bank == m.bank) then
      let t := s.refreshWait m
      .next ((s.putCore core { c with matq := c.matq.map fun x => if x.id == n then { x with started := true, res := t } else x }).onWarp m.warp
        fun w => { w with csr := { w.csr with latcnt := w.csr.latcnt + BitVec.ofNat 64 (t - s.cyc) } })
    else .next s
  | none => .next s

/-- The next line of the tile: 128 bytes, the last one perhaps fewer. -/
def MatOp.lineLen (m : MatOp) : Nat := min 128 (tileBytes m.width - m.done)
def State.tileLine (s : State) (m : MatOp) : List Byte :=
  let x := if m.pad then (s.wg (wgOf m.warp)).pad else (s.die (s.wg (wgOf m.warp)).die).weights
  Memory.readL x (m.addr + m.done) m.lineLen

def State.tilePoisoned (s : State) (m : MatOp) : Bool :=
  let ps := if m.pad then (s.wg (wgOf m.warp)).padPoison else (s.die (s.wg (wgOf m.warp)).die).wpoison
  ps.any fun w => w * 8 < m.addr + m.done + m.lineLen && m.addr + m.done < w * 8 + 8

/-- The bank after the next line of a tile has reached it; the width is latched with it (R271). -/
def Bank.takeLine (b : Bank) (m : MatOp) (line : List Byte) (bad : Bool) : Bank :=
  { b with
    tile := b.tile.take m.done ++ line
    width := m.width
    poison := (m.done != 0 && b.poison) || bad }

/-- `WLOAD_DONE`: the next line reaches the bank, and with the last one the operation ends; a poisoned word of the tile is then known (R271, R272, R294, R203). -/
def execWloadDone (core n : Nat) (s : State) : Out :=
  let c := s.core core
  match c.matq with
  | m :: _ =>
    if !s.off && m.id == n && decide (m.kind = .wload) && m.started && m.res ≤ s.cyc then
      let b := (c.bank m.bank).takeLine m (s.tileLine m) (s.tilePoisoned m)
      let s1 := s.putCore core (c.putBank m.bank b)
      if m.done + m.lineLen < tileBytes m.width then .next (s1.onMat core n fun x => { x with done := x.done + m.lineLen })
      else
        let s2 := s1.onCore core fun c => c.dropMat n
        .next (if b.poison then s2.deferTo m.warp ⟨cMEMERR, m.pc.setWidth 64, m.inst⟩ else s2)
    else .next s
  | [] => .next s

/-! ## Accumulator moves (R275 to R277) -/

/-- The registers of an `AREAD` destination or `AWRITE` source (R276). -/
def moveRegs (ty w n : Nat) : Nat :=
  if ty == 0 then n else if ty == 11 then (n / 32 + 3) / 4 + n / 32 * w else n / 2

/-- `AREAD` of one lane: the words written, from the accumulators' bits (R276). -/
def areadLane (ty w rm : Nat) (sat : Bool) (as : List Nat) : List W32 × Flags :=
  let n := as.length
  if ty == 0 then (as.map (BitVec.ofNat 32), 0)
  else if ty != 11 then
    (List.range (n / 2)).foldl (fun (x : List W32 × Flags) i =>
      let a := cvtElem ty rm sat 0 (as.getD (2 * i) 0)
      let b := cvtElem ty rm sat 0 (as.getD (2 * i + 1) 0)
      (x.1 ++ [BitVec.ofNat 32 (a.1 + b.1 * 65536)], x.2 ||| a.2 ||| b.2)) ([], 0)
  else
    let gs := n / 32
    let groups := (List.range gs).map fun g => (List.range 32).map fun i => fval 0 (as.getD (32 * g + i) 0)
    let exps := groups.map (bfpExp w rm)
    let ms := (groups.zip exps).map fun p => p.1.map (bfpMant w rm p.2)
    let runs := ms.map fun m => (m.zipIdx).foldl (fun n (x : (Int × Flags) × Nat) => n + wrapN w x.1.1 * 2 ^ (w * x.2)) 0
    let head := (List.range ((gs + 3) / 4)).map fun r =>
      BitVec.ofNat 32 ((List.range 4).foldl (fun v q => v + exps.getD (4 * r + q) 0 * 2 ^ (8 * q)) 0)
    let body := runs.flatMap fun r => (List.range w).map fun q => BitVec.ofNat 32 (r / 2 ^ (32 * q))
    (head ++ body, ms.foldl (fun f m => m.foldl (fun f x => f ||| x.2) f) 0)

/-- `AWRITE` of one lane: the accumulators' bits from the source words (R277). -/
def awriteLane (ty w n : Nat) (vs : List Nat) : List W32 :=
  if ty == 0 then vs.map (BitVec.ofNat 32)
  else if ty != 11 then
    (List.range n).map fun i => BitVec.ofNat 32 (cvtElem 0 0 false ty (vs.getD (i / 2) 0 / 2 ^ (16 * (i % 2)) % 65536)).1
  else
    let x := (n / 32 + 3) / 4
    (List.range n).map fun i =>
      let g := i / 32
      let ex := vs.getD (g / 4) 0 / 2 ^ (8 * (g % 4)) % 256
      let run := (List.range w).foldl (fun r q => r + vs.getD (x + g * w + q) 0 * 2 ^ (32 * q)) 0
      BitVec.ofNat 32 (bfpDeq 0 0 false w ex (bfpAt w run 0 (i % 32))).1

/-- The values of one lane of several registers. -/
def laneOf (rs : List Lanes) (l : Fin 32) : List Nat := rs.map fun r => r[l].toNat

/-- Registers from per-lane word lists. -/
def regsFrom (es : List Nat) (f : Fin 32 → List W32) : List (Nat × Lanes) :=
  let vs := Vector.ofFn f
  (es.zipIdx).map fun e => (e.1, Lanes.mk fun l => (vs[l]).getD e.2 0)

/-- A move enters the matrix queue with its result in flight, which is written in queue order. -/
def State.queueMove (s : State) (k : Nat) (st : Stream) (x : Slot) (act : LaneMask) (kind : MatKind) (accs : List Nat) (r : Result) : State :=
  let s1 := s.fly k { r with need := 1 }
  s1.enqueueMat (s.wg (wgOf k)).coreKey { s.matOp k st x act kind with accs := accs, res := s.nextId }

/-- `AZERO` (R277). -/
def execAzero (l : LaneReg) (s : State) : Out :=
  laneIssue s l.hdr (LaneReg.uses l l.accCount 1 1 1 1) fun k w st x act =>
    if act = 0 then .done s
    else if w.qfenced 2 then .stay s
    else
      let es := Use.entries w.rg ⟨l.d, l.accCount, false, true⟩
      .done (s.queueMove k st x act .azero es { s.blankResult st act with regs := es.map fun e => (e, Lanes.splat 0) })

/-- `AREAD` (R276). -/
def execAread (l : LaneReg) (s : State) : Out :=
  let n := moveRegs l.ty (bfpW l) l.accCount
  laneIssue s l.hdr (LaneReg.uses l n l.accCount 1 1 1) fun k w st x act =>
    if act = 0 then .done s
    else if w.qfenced 2 then .stay s
    else
      let src := s.rds k w st l.a l.accCount
      let es := Use.entries w.rg ⟨l.d, n, false, true⟩
      let out : Vector (List W32 × Flags) 32 := Vector.ofFn fun i => areadLane l.ty (bfpW l) l.rm l.sat (laneOf src i)
      let r := { s.blankResult st act with
        regs := regsFrom es fun i => out[i].1
        flags := orFlags act fun i => out[i].2
        fills := true }
      .done ((s.putWarp k { w with rg := w.rg.marked es }).queueMove k st x act .aread [] r)

/-- `AWRITE` (R277): its sources are read at issue, under R50. -/
def execAwrite (l : LaneReg) (s : State) : Out :=
  let n := moveRegs l.ty (bfpW l) l.accCount
  laneIssue s l.hdr (LaneReg.uses l l.accCount n 1 1 1) fun k w st x act =>
    if act = 0 then .done s
    else if w.qfenced 2 then .stay s
    else
      let src := s.rds k w st l.a n
      let es := Use.entries w.rg ⟨l.d, l.accCount, false, true⟩
      .done (s.queueMove k st x act .awrite es { s.blankResult st act with
        regs := regsFrom es fun i => awriteLane l.ty (bfpW l) l.accCount (laneOf src i) })

/-- `ACCUM_MOVE_DONE`: a move writes its destinations, in queue order (R275). -/
def execAccumMoveDone (core n : Nat) (s : State) : Out :=
  let c := s.core core
  match c.matq with
  | m :: _ =>
    if !s.off && m.id == n && (decide (m.kind = .azero) || decide (m.kind = .aread) || decide (m.kind = .awrite)) then
      .next ((s.putCore core (c.dropMat n)).onWarp m.warp fun w =>
        match w.flight.find? fun r => r.id == m.res with
        | some r => w.land r
        | none => w)
    else .next s
  | [] => .next s

end Sys2Proof.Machine
end

