-- ==== Sys2Proof/Machine/CopyRing.lean ====
section
/-! DEFINITION. Copy and ring instructions, group 0xB, and the events of the copy queue (R279 to R294). -/

namespace Sys2Proof.Machine

/-- The warp has producer rights (R279). -/
def State.isProducer (s : State) (k : Nat) : Bool := (s.wg (wgOf k)).producer == some (k % 16)

/-! ## The record cache (R281) -/

/-- A record as the core's cache holds it. -/
def State.cached (s : State) (core fn space a : Nat) : Option Shape :=
  ((s.core core).records.find? fun r => r.1 == fn && r.2.1 == space && r.2.2.1 == a).map fun r => r.2.2.2.1

/-- A record that a copy has found while the other one is still being read is kept for it (R281). -/
def State.keptRecord (s : State) (core fn space a : Nat) : Bool :=
  s.reqList.any fun r => r.kind == .record && r.core == core && r.fn == fn && r.space == space && r.want.contains a

/-- A record is used. -/
def State.touchRecord (s : State) (core fn space a : Nat) : State :=
  s.onCore core fun c => { c with records := c.records.map fun r => if r.1 == fn && r.2.1 == space && r.2.2.1 == a then (r.1, r.2.1, r.2.2.1, r.2.2.2.1, s.cyc) else r }

/-- A record enters the cache, in place of the least recently used of 16. -/
def State.cacheRecord (s : State) (core fn space a : Nat) (x : Shape) : State :=
  s.onCore core fun c =>
    let rest := c.records.filter fun r => !(r.1 == fn && r.2.1 == space && r.2.2.1 == a)
    let kept := if rest.length < 16 then rest
      else
        let out := rest.filter fun r => !s.keptRecord core r.1 r.2.1 r.2.2.1
        let old := out.foldl (fun m r => min m r.2.2.2.2) s.cyc
        match out.find? fun r => r.2.2.2.2 == old with | some r => rest.erase r | none => rest.drop 1
    { c with records := (fn, space, a, x, s.cyc) :: kept }

/-! ## Issue of a copy (R282, R283, R289) -/

/-- The copy of a lane instruction, its records read. -/
def State.laneCopy (s : State) (k : Nat) (w : Warp) (x : Slot) (l : LaneReg) (src dst : Shape) : Copy where
  id := s.nextId
  warp := some k
  queue := 0
  pkt := 0
  fn := (s.wg (wgOf k)).fn
  space := (s.wg (wgOf k)).proc
  src := src
  dst := dst
  sdisp := sextN 32 ((w.x64 l.c).toNat % 2 ^ 32)
  ddisp := sextN 32 ((w.x64 l.c).toNat / 2 ^ 32)
  ty := l.ty
  rm := l.rm
  red := modBits l.mod 6 4
  transp := modBits l.mod 3 3 == 1
  rh := l.hdr.rh.toNat
  ring := none
  follow := none
  pc := x.pc
  inst := s.laneInst (s.wg (wgOf k)) x.pc.toNat
  started := false
  stopped := false
  cause := 0
  done := 0
  phase := 0
  wait := []
  got := []
  flags := 0

/-- Bytes of the destination that the copy fills. -/
def Copy.bytes (c : Copy) : Nat := c.bytesOf 0 c.total

/-- The checks of R283 on a copy: 0 passes. -/
def Copy.shapeFault (c : Copy) (ring : Bool) : Nat :=
  if shapesOk c.src c.dst c.sdisp c.ddisp c.transp c.red c.ty ring then 0 else cCPYF

/-- The extent checks, source first (R283). -/
def State.extentFault (s : State) (c : Copy) : Nat :=
  match s.sideFault (some c.wg) c.src c.sdisp with
  | 0 => s.sideFault (some c.wg) c.dst c.ddisp
  | e => e

/-- A ring's header can be used: it is well formed, and none of its words is poisoned (R291, R203). -/
def State.ringFault (s : State) (g : Nat) (h : W64) : Nat :=
  if s.ringOk g h then
    (if s.padPoisoned g 1 h (16 + 8 * (s.ring g h.toNat).slots) then cMEMERR else 0)
  else cRINGF

/-- A copy into a ring: its destination moves into the slot last claimed (R292). -/
def State.ringCopy (s : State) (w : Warp) (c : Copy) (h : W64) : Except Nat Copy :=
  match s.ringFault c.wg h with
  | 0 =>
    match Tbl.find w.rings h.toNat with
    | none => .error cRINGF
    | some (slot, taken) =>
      let r := s.ring c.wg h.toNat
      let y := s.sync c.wg h.toNat slot
      let lo := r.base + slot * r.size
      let c1 := { c with ddisp := c.ddisp + lo, ring := some (h.toNat, slot) }
      let e := c1.dst.extent c1.ddisp
      if y.state != 1 || y.target < taken + c.bytes || e.1 < (lo : Int) || (lo : Int) + r.size < e.2 then .error cRINGF else .ok c1
  | e => .error e

/-- A copy joins the copy queue of its core. -/
def State.acceptCopy (s : State) (core : Nat) (c : Copy) : State := (s.onCore core fun x => { x with copies := x.copies ++ [c] }).bump

/-- The read of the records that the cache does not hold; the slot is held until they are, and what it holds of the two at `hits` stays (R281). -/
def State.readRecords (s : State) (k : Nat) (w : Warp) (st : Stream) (x : Slot) (act : LaneMask) (l : LaneReg) (hits : List Nat) (as : List Access) : State :=
  let g := s.wg (wgOf k)
  (hits.foldl (fun s a => s.touchRecord g.coreKey g.fn g.proc a) (s.putWarp k (w.holdLane st l.hdr s.cyc act (.held s.nextId)))).request
    { s.laneReq k w st x l.hdr .record 0 with rh := 3, want := hits } as

/-- The issue of `CPY` and `CPYM` up to the records: `range` is a register range beyond the instruction's own (check 2 of R94), `pre` what is checked before a record is read; `f` receives the state, warp key, warp, copy and the active mask (R281 to R283). -/
def copyIssue (s : State) (l : LaneReg) (range pre : Nat → Warp → Nat) (f : State → Nat → Warp → Copy → Nat → LOut) : Out :=
  laneIssue s l.hdr (LaneReg.uses1 l) fun k w st x act =>
    let g := s.wg (wgOf k)
    let a := w.x64 l.a
    let b := w.x64 l.b
    -- a record that the cache holds is not read (R281)
    let refused (v : W64) : Bool := (s.cached g.coreKey g.fn g.proc v.toNat).isNone && decide (s.xlate g.coreKey g.fn g.proc v.toNat false = .refused)
    if range k w != 0 then .trap (range k w) act.toNat
    else if !s.isProducer k then .trap cPRODF act.toNat
    else if pre k w != 0 then .trap (pre k w) act.toNat
    else if a.toNat % 64 != 0 || b.toNat % 64 != 0 then .trap cCPYF act.toNat
    else if !canonical a || !canonical b then .trap cADDRF act.toNat
    else if refused a || refused b then .trap cPROTF act.toNat
    else if w.qfenced 1 || s.memBlocked k st x.mask w.after then .stay s
    else
      match s.cached g.coreKey g.fn g.proc a.toNat, s.cached g.coreKey g.fn g.proc b.toNat with
      | some src, some dst =>
        let s1 := (s.cacheRecord g.coreKey g.fn g.proc a.toNat src).cacheRecord g.coreKey g.fn g.proc b.toNat dst
        f s1 k w (s.laneCopy k w x l src dst) act.toNat
      | ra, rb =>
        let as : List Access := (if ra.isNone then [⟨0, a.toNat, 0, 64, 0, 0, 0⟩] else []) ++ (if rb.isNone then [⟨1, b.toNat, 0, 64, 0, 0, 0⟩] else [])
        .stay (s.readRecords k w st x act l ((if ra.isSome then [a.toNat] else []) ++ if rb.isSome then [b.toNat] else []) as)

/-- `CPY` (R282). -/
def execCpy (l : LaneReg) (s : State) : Out :=
  copyIssue s l (fun _ _ => 0) (fun _ _ => 0) fun s k w c info =>
    let core := (s.wg (wgOf k)).coreKey
    match c.shapeFault (!l.e.isNone) with
    | 0 =>
      if l.e.isNone then
        match s.extentFault c with
        | 0 => .done (s.acceptCopy core c)
        | e => .trap e info
      else
        match s.ringCopy w c (w.x64 l.e) with
        | .error e => .trap e info
        | .ok c1 =>
          match s.extentFault c1 with
          | 0 =>
            let h := (w.x64 l.e).toNat
            let t := Tbl.getD w.rings h (0, 0)
            .done ((s.putWarp k { w with rings := Tbl.put w.rings h (t.1, t.2 + c.bytes) }).acceptCopy core c1)
          | e => .trap e info
    | e => .trap e info

/-! ## `CPYM` (R289) -/

/-- A follow-on descriptor. -/
structure Follow where
  stride : Nat
  nrow   : Nat
  wa     : Nat      -- the code, w_a − 2
  bank   : Nat
  cols   : Nat
  acc    : Nat
  cw     : Nat
  zeros  : Bool
deriving DecidableEq, Repr

def followOf (n : Nat) : Follow where
  stride := fieldOf n 47 24
  nrow := fieldOf n 22 18 + 1
  wa := fieldOf n 17 15
  bank := fieldOf n 14 14
  cols := 64 * (fieldOf n 13 12 + 1)
  acc := fieldOf n 11 4
  cw := fieldOf n 3 0
  zeros := fieldOf n 63 48 == 0 && fieldOf n 23 23 == 0

/-- The consumer: a resident warp of the workgroup. -/
def State.consumer (s : State) (g : Nat) (f : Follow) : Option Warp :=
  match Tbl.find s.warps (warpKey g f.cw) with
  | some w => if w.exited then none else some w
  | none => none

/-- The pool entries of the consumer's range, where all lie in its partition. -/
def Follow.entries (f : Follow) (r : Regs) : Option (List Nat) :=
  let es := (List.range f.cols).filterMap fun i => r.entry (.a (BitVec.ofNat 8 f.acc)) i
  if f.acc + f.cols ≤ 256 && es.length == f.cols then some es else none

/-- The consumer's range lies in its partition (check 2 of R94); 0 passes. -/
def State.rangeFault (s : State) (g : Nat) (f : Follow) : Nat :=
  match s.consumer g f with
  | none => 0
  | some c => if (f.entries c.rg).isSome then 0 else cREGRANGE

/-- The checks on the descriptor, before any record is read: 0 passes. -/
def State.followFault (s : State) (g : Nat) (f : Follow) : Nat :=
  if !f.zeros || f.stride % 4 != 0 || f.wa == 7 || (s.consumer g f).isNone then cCPYF else 0

/-- Lanes 0 to NROW − 1. -/
def lowLanes (n : Nat) : LaneMask := LaneMask.mk fun i => decide (i.val < n)

/-- `CPYM`: the conditions of check 4, `CPYF` and `WBANKF`, come before the extents of check 5 (R94, R273, R295). The follow-on `MMA` takes its number here, so that a later `QFENCE` covers it from now on (R221). -/
def execCpym (l : LaneReg) (s : State) : Out :=
  copyIssue s l (fun k w => s.rangeFault (wgOf k) (followOf (w.x64 l.e).toNat)) (fun k w => s.followFault (wgOf k) (followOf (w.x64 l.e).toNat)) fun s k w c info =>
    let g := wgOf k
    let core := (s.wg g).coreKey
    let f := followOf (w.x64 l.e).toNat
    if c.dst.space != 1 then .trap cCPYF info
    else
      match c.shapeFault false with
      | 0 =>
        if !s.bankReady g f.bank then .trap cWBANKF info
        else
          match s.extentFault c with
          | 0 =>
            let dst := c.dst.at c.ddisp [0, 0, 0, 0, 0]
            let row (i : Fin 32) : Nat := dst + i.val * f.stride
            match rowFault (lowLanes f.nrow) row (f.wa + 2) (s.wg g).padSize with
            | some (e, m) => .trap e m.toNat
            | none =>
              match (s.consumer g f).bind fun v => f.entries v.rg with
              | none => .trap cREGRANGE info
              | some es =>
                let m : MatOp :=
                  { id := s.nextId + 1
                    kind := .mma
                    warp := warpKey g f.cw
                    slot := .slotA
                    mask := lowLanes f.nrow
                    bank := f.bank
                    width := f.wa + 2
                    addr := 0
                    pad := false
                    rows := (lowLanes f.nrow).lanes.map fun i => (i.val, row i)
                    accs := es
                    res := 0
                    started := false
                    done := 0
                    pc := c.pc
                    inst := c.inst }
                .done ((s.onWarp (warpKey g f.cw) fun v => { v with rg := v.rg.marked es })
                  |>.acceptCopy core { c with follow := some m }).bump
          | e => .trap e info
      | e => .trap e info

/-- `RCF` (R281). -/
def execRcf (l : LaneReg) (s : State) : Out :=
  laneIssue s l.hdr (LaneReg.uses1 l) fun k _ _ _ act =>
    if !s.isProducer k then .trap cPRODF act.toNat
    else .done (s.onCore (s.wg (wgOf k)).coreKey fun c => { c with records := [] })

/-! ## Rings (R290 to R293) -/

/-- `RINIT` (R291). -/
def execRinit (l : LaneReg) (s : State) : Out :=
  laneIssue s l.hdr (LaneReg.uses1 l) fun k w st x act =>
    let g := wgOf k
    let h := (w.x64 l.a).toNat
    let r : Ring :=
      { base := (w.x64 l.b).toNat
        size := (w.x64 l.c).toNat
        gen := 0
        crnd := 0
        prnd := 0
        widx := 0
        cidx := 0
        pidx := 0
        slots := modBits l.mod 3 0 + 1
        scope := modBits l.mod 6 4
        zeros := true }
    let top := h + 16 + 8 * r.slots
    if !s.isProducer k then .trap cPRODF act.toNat
    else if 2 ^ 20 ≤ h || !r.ok h (s.wg g).padSize || (h < r.base + r.slots * r.size && r.base < top) then .trap cRINGF act.toNat
    else if s.memBlocked k st x.mask w.after then .stay s
    else
      .done (((List.range r.slots).foldl (fun s i => s.putSync g h i ⟨0, 0, r.size, 0⟩) (s.putRing g h r)).padHeal g 1
        ((List.range (top - h)).map (h + ·)))

/-- The value that a ring instruction writes to D in the lanes active at its issue, as a result in flight. -/
def State.ringResult (s : State) (k : Nat) (st : Stream) (d : Option Nat) (v : Nat) : State :=
  match d, Tbl.find s.warps k with
  | some e, some w => s.fly k { s.blankResult st (w.slot st).act with regs := [(e, Lanes.splat (BitVec.ofNat 32 v))] }
  | _, _ => s

/-- `RWAIT.free` goes on once the slot that it named at issue is free in that round: the slot fills, and the producer index advances past it, and with a wrap the header's round as it stands by then (R292). A header that software has made malformed meanwhile raises `RINGF`. -/
def State.tryRwaitFree (s : State) (k : Nat) (st : Stream) : State :=
  match Tbl.find s.warps k with
  | none => s
  | some w =>
    match (w.slot st).wait with
    | .rwaitFree h slot round t d =>
      let g := wgOf k
      let r := s.ring g h
      let y := s.sync g h slot
      if !w.live then s
      else if !r.ok h (s.wg g).padSize then
        let w1 := w.putSlot st { w.slot st with wait := .none }
        (s.putWarp k w1).raiseLane k w1 st cRINGF (w.slot st).act.toNat
      else if y.state == 0 && y.gen == round then
        let a := advance slot r.slots r.prnd
        let s1 := ((s.putSync g h slot ⟨1, round, t, 0⟩).putRing g h { r with pidx := a.1, prnd := a.2 }).onWarp k
          fun w => { w with rings := Tbl.put w.rings h (slot, 0) }
        ((s1.acquire (s.wg g).coreKey r.scope).ringResult k st d slot).passHeld k st
      else s
    | _ => s

/-- `RWAIT.filled` goes on once its slot is filled in its round (R293). -/
def State.tryRwaitFilled (s : State) (k : Nat) (st : Stream) : State :=
  match Tbl.find s.warps k with
  | none => s
  | some w =>
    match (w.slot st).wait with
    | .rwaitFilled h slot round d =>
      let g := s.ringWg (wgOf k)
      let y := s.sync g h slot
      if w.live && y.state == 2 && y.gen == (round + 1) % 256 then
        (((s.putSync g h slot { y with state := 3 }).acquire (s.wg (wgOf k)).coreKey (s.ring g h).scope).ringResult k st d slot).passHeld k st
      else s
    | _ => s

/-- The pool entry that D names. -/
def Warp.destEntry (w : Warp) (d : Opnd) : Option Nat := w.rg.entry d 0

/-- `RWAIT.free` (R292): slot and round are taken at issue. -/
def execRwaitFree (l : LaneReg) (s : State) : Out :=
  laneIssue s l.hdr (LaneReg.uses1 l) fun k w st x act =>
    let g := wgOf k
    let h := w.x64 l.a
    let t := (w.x64 l.b).toNat % 2 ^ 24
    if !s.isProducer k then .trap cPRODF act.toNat
    else
      match s.ringFault g h with
      | 0 =>
        if t == 0 || (s.ring g h.toNat).size < t then .trap cRINGF act.toNat
        else if !(s.wg g).inLane (x.pc.toNat + 1) then .trap cFETCHF act.toNat
        else if s.memBlocked k st x.mask w.after then .stay s
        else .stay ((s.putWarp k (w.holdLane st l.hdr s.cyc act
          (.rwaitFree h.toNat (s.ring g h.toNat).pidx (s.ring g h.toNat).prnd t (w.destEntry l.d)))).tryRwaitFree k st)
      | e => .trap e act.toNat

/-- `RWAIT.filled` (R293): the claim is made at issue. -/
def execRwaitFilled (l : LaneReg) (s : State) : Out :=
  laneIssue s l.hdr (LaneReg.uses1 l) fun k w st x act =>
    let g := s.ringWg (wgOf k)
    let h := w.x64 l.a
    match s.ringFault g h with
    | 0 =>
      if !(s.wg (wgOf k)).inLane (x.pc.toNat + 1) then .trap cFETCHF act.toNat
      else if s.memBlocked k st x.mask w.after then .stay s
      else
        let r := s.ring g h.toNat
        let a := advance r.cidx r.slots r.crnd
        let s1 := s.putRing g h.toNat { r with cidx := a.1, crnd := a.2 }
        .stay ((s1.putWarp k (w.holdLane st l.hdr s.cyc act (.rwaitFilled h.toNat r.cidx r.crnd (w.destEntry l.d)))).tryRwaitFilled k st)
    | e => .trap e act.toNat

/-- `RREL` (R293): the slot is freed when its release part has ended (`RELEASE_PART`). -/
def execRrel (l : LaneReg) (s : State) : Out :=
  laneIssue s l.hdr (LaneReg.uses1 l) fun k w st x act =>
    let g := s.ringWg (wgOf k)
    let h := w.x64 l.a
    match s.ringFault g h with
    | 0 =>
      let r := s.ring g h.toNat
      let slot := match x.mask.lanes with | i :: _ => (s.rd k w st l.b 0)[i].toNat | [] => 0
      if r.slots ≤ slot || (s.sync g h.toNat slot).state != 3 then .trap cRINGF act.toNat
      else if s.memBlocked k st x.mask w.after then .stay s
      else .done (s.fenceReq { s.laneReq k w st x l.hdr .fence 0 with want := [h.toNat, slot] } true false r.scope)
    | e => .trap e act.toNat

/-- `RWAIT_FREE_DONE`. -/
def execRwaitFreeDone (k : Nat) (st : Stream) (s : State) : Out := .next (s.tryRwaitFree k st)
/-- `RWAIT_FILLED_DONE`. -/
def execRwaitFilledDone (k : Nat) (st : Stream) (s : State) : Out := .next (s.tryRwaitFilled k st)

/-! ## The copy queue (R284, R232, R233); its engine is off in the safe state (R406) -/

/-- The copy at the head of a lane of the copy queue; a stopped copy stays there and holds the later ones back (R288). -/
def Core.laneHead (c : Core) (g : Nat) : Option Copy := c.copies.find? fun x => x.laneKey == g

/-- `COPY_START`. -/
def execCopyStart (core g : Nat) (s : State) : Out :=
  match (s.core core).laneHead g with
  | some c => if s.off || c.started || c.stopped then .next s else .next (s.onCopy core c.id fun y => { y with started := true })
  | none => .next s

/-- The copy at the head of a lane can move elements: it has started, and waits for no line (R264). -/
def Core.laneReady (c : Core) (g : Nat) : Bool :=
  match c.laneHead g with | some x => x.started && !x.stopped && x.wait.isEmpty && x.done < x.total | none => false

/-- The lane that the engine serves next: round-robin in the order of the workgroups' numbers, from the one after the lane served last (R264). -/
def Core.laneTurn (c : Core) : Option Nat :=
  let gs := (c.copies.map Copy.laneKey).filter c.laneReady
  let least (l : List Nat) : Option Nat := l.foldl (fun m g => match m with | some x => some (min x g) | none => some g) none
  (least (gs.filter fun g => c.laneAt < g)).orElse fun _ => least gs

/-- `COPY_BYTES_PERFORMED`: the engine serves the lane whose turn it is, and the next elements of its copy move. -/
def execCopyBytesPerformed (core g : Nat) (s : State) : Out :=
  match (s.core core).laneHead g with
  | some c => if !s.off && (s.core core).laneTurn == some g then .next ((s.onCore core fun x => { x with laneAt := g }).copyStep core c) else .next s
  | none => .next s

/-- The follow-on `MMA` enters the matrix queue (R289). -/
def State.followOn (s : State) (core : Nat) (c : Copy) : State :=
  match c.follow with | some m => s.onCore core fun x => { x with matq := x.matq ++ [m] } | none => s

/-- `COPY_DONE`: every byte is performed; the flags join the producer's, and a packet completes (R285, R289, R317). -/
def execCopyDone (core g : Nat) (s : State) : Out :=
  match (s.core core).laneHead g with
  | some c =>
    let s1 := s.onCore core fun x => { x with copies := x.copies.filter fun y => y.id != c.id }
    match c.warp with
    | some k =>
      if c.started && !c.stopped && c.total ≤ c.done then
        .next ((s1.onWarp k fun w => { w with fflags := w.fflags ||| c.flags }).followOn core c)
      else .next s
    | none =>
      if c.stopped then .next ((s1.packetFault c.fn c.cause c.pkt).completePacket c.queue c.pkt true)
      else if c.started && c.total ≤ c.done then .next (s1.completePacket c.queue c.pkt false)
      else .next s
  | none => .next s

end Sys2Proof.Machine
end

