-- ==== Sys2Proof/Machine/Placement.lean ====
section
/-! DEFINITION. Arbitration, placement and the start of workgroups (R30 to R33, R304, R308 to R314). -/

namespace Sys2Proof.Machine

/-! ## Free resources of a core (R31, R311) -/

/-- Warp slots, pool registers and scratchpad (in 4 KiB units) that a bind record holds. -/
def Bind.slots : Bind → List Nat
  | .workgroup _ m _ _ _ _ => (List.range 32).filter fun i => m.getLsbD i
  | .standing _ _ _ _ s _ _ _ _ => [s]
def Bind.pool : Bind → Nat × Nat
  | .workgroup _ _ b n _ _ => (b, n)
  | .standing _ _ _ _ _ b n _ _ => (b, n)
def Bind.pad : Bind → Nat × Nat
  | .workgroup _ _ _ _ b n => (b, n)
  | .standing _ _ _ _ _ _ _ b n => (b, n)

def runsMeet (a b : Nat × Nat) : Bool := a.1 < b.1 + b.2 && b.1 < a.1 + a.2

/-- Two records overlap (R311). -/
def Bind.overlaps (a b : Bind) : Bool :=
  (a.slots.any fun i => b.slots.contains i) || runsMeet a.pool b.pool || runsMeet a.pad b.pad

/-- The lowest start of `n` free units among `cap`, beside the runs in use. -/
def freeRun (cap n : Nat) (used : List (Nat × Nat)) : Option Nat :=
  if n == 0 then some 0
  else
    let ok (b : Nat) : Bool := b + n ≤ cap && !(used.any fun u => runsMeet (b, n) u)
    match (0 :: used.map fun u => u.1 + u.2).filter ok with
    | [] => none
    | x :: xs => some (xs.foldl min x)

/-- What a workgroup needs (R31). -/
structure Need where
  warps : Nat
  nreg  : Nat
  pad   : Nat      -- 4 KiB units
  banks : List Nat -- weight banks that it claims (R328)
deriving DecidableEq, Repr

def Grid.need (g : Grid) : Need := ⟨g.warps, g.nreg, g.scratch / 4096, []⟩

/-- A place for a workgroup beside the records of a core: warp slots, first pool register, scratchpad base. -/
def fitBinds (binds : List Bind) (n : Need) : Option (List Nat × Nat × Nat) :=
  let slots := (List.range 32).filter fun i => !(binds.any fun b => b.slots.contains i)
  if slots.length < n.warps || 32 ≤ binds.length then none
  else
    match freeRun 8192 (n.warps * n.nreg) (binds.map Bind.pool), freeRun 256 n.pad (binds.map Bind.pad) with
    | some p, some q => some (slots.take n.warps, p, q)
    | _, _ => none

def slotMask (l : List Nat) : W32 := l.foldl (fun m i => m ||| (1#32 <<< i)) 0

/-- The record of a workgroup in a place. -/
def bindOf (g : Nat) (n : Need) (p : List Nat × Nat × Nat) : Bind := .workgroup g (slotMask p.1) p.2.1 (n.warps * n.nreg) p.2.2 n.pad

/-- Places for several workgroups, each on the first core of `order` with room beside the records of `binds` and those before it, and with the banks that it claims free (`free`) and claimed by none of those before it. -/
def fitAll (binds : Nat → List Bind) (free : Nat → Nat → Bool) (order : List Nat) : List Need → List (Nat × Bind) → List (Nat × Nat) → Option (List (Nat × Bind))
  | [], done, _ => some done
  | n :: rest, done, claimed =>
    let at_ (c : Nat) : List Bind := binds c ++ (done.filter fun x => x.1 == c).map (·.2)
    let banks (c : Nat) : Bool := n.banks.all fun b => free c b && !claimed.contains (c, b)
    match order.findSome? fun c => if banks c then (fitBinds (at_ c) n).map fun p => (c, p) else none with
    | some (c, p) => fitAll binds free order rest (done ++ [(c, bindOf 0 n p)]) (claimed ++ n.banks.map fun b => (c, b))
    | none => none

/-! ## Units of placement (R32, R33, R307) -/

/-- What is placed in one step: a workgroup, a cohort, or workgroup i of every co-placed grid. -/
structure PUnit where
  queue   : Nat
  pkt     : QPacket
  bundle  : Nat
  members : List (Nat × Nat)     -- grid, workgroup
  needs   : List Need
  one     : Bool                 -- all on one core
  again   : Bool                 -- placed again after a refused record
deriving DecidableEq, Repr

def Bundle.grid (b : Bundle) (g : Nat) : Option Grid := b.grids[g]?
def Bundle.needOf (b : Bundle) (m : Nat × Nat) : Need := match b.grid m.1 with | some g => g.need | none => ⟨1, 32, 0, []⟩

/-- Workgroups or cohorts of a grid. -/
def Grid.parts (g : Grid) : Nat := g.nwg / max 1 g.coh

/-- Those of them not placed yet. -/
def Grid.left (g : Grid) : Nat := g.parts - g.low - g.ahead.length

/-- The `k`-th of them, counted from 0. -/
def Grid.nth (g : Grid) (k : Nat) : Nat := g.ahead.foldl (fun x a => if a ≤ x then x + 1 else x) (g.low + k)

/-- A number put into an ascending list that does not hold it. -/
def insertAsc (x : Nat) : List Nat → List Nat
  | [] => [x]
  | y :: r => if x < y then x :: y :: r else if x == y then y :: r else y :: insertAsc x r

/-- The numbers that follow on from `low` leave the list. -/
def closeUp (low : Nat) : List Nat → Nat × List Nat
  | [] => (low, [])
  | y :: r => if y == low then closeUp (low + 1) r else (low, y :: r)

/-- Workgroup `w` of the grid is placed, and with the last of its cohort the cohort. -/
def Grid.take (g : Grid) (w : Nat) : Grid :=
  let l := closeUp g.low (insertAsc (w / max 1 g.coh) g.ahead)
  { g with placed := g.placed + 1, low := l.1, ahead := l.2 }

/-- The next members of a bundle to be placed: R33 leaves the order of a bundle's workgroups or cohorts open, and `pick`, a free value drawn at each placement, names the member grid and the one of its workgroups or cohorts not placed yet (log 73). -/
def Bundle.nextMembers (b : Bundle) : List (Nat × Nat) :=
  match b.next with
  | m :: _ => [m]
  | [] =>
    if b.coplace then
      match b.grids with
      | g :: _ => if g.left == 0 then [] else (List.range b.grids.length).map fun i => (i, g.nth (b.pick % g.left))
      | [] => []
    else
      let open_ := (b.grids.zipIdx).filter fun g => g.1.left != 0
      match open_[b.pick % open_.length]? with
      | some (g, i) => (List.range (max 1 g.coh)).map fun j => (i, g.nth (b.pick / open_.length % g.left) * max 1 g.coh + j)
      | none => []

/-- The next unit of each launch of a queue that has started and has workgroups to place, in ring order. -/
def State.unitsOf (s : State) (q : Nat) (x : Queue) : List PUnit :=
  x.packets.filterMap fun p =>
    match p.bundle.bind fun n => (Tbl.find s.bundles n).map fun b => (n, b) with
    | none => none
    | some (n, b) =>
      let ms := b.nextMembers
      if !p.started || p.ending.isSome || !b.started || ms.isEmpty then none
      else some ⟨q, p, n, ms, ms.map b.needOf, b.coplace, !b.next.isEmpty⟩

/-- The next unit of a queue: that of its head packet among them. -/
def State.unitOf (s : State) (q : Nat) (x : Queue) : Option PUnit := (s.unitsOf q x).head?

def PUnit.cost (u : PUnit) : Nat := u.needs.foldl (fun n x => n + x.warps) 0
def PUnit.timed (u : PUnit) : Bool := pktKind u.pkt.bytes == 2

/-- The user cores of a die in the order tried from `c` on (R32). -/
def coresFrom (die c : Nat) : List Nat := (List.range 59).map fun i => coreKey die ((c + 58 + i) % 59 + 1)

/-- Where a unit goes on a die when the search begins at core `c`, with the records that `binds` gives. -/
def PUnit.fit (u : PUnit) (binds : Nat → List Bind) (die c : Nat) : Option (List (Nat × Bind)) :=
  let free (_ _ : Nat) : Bool := true
  if u.one then (coresFrom die c).findSome? fun k => fitAll binds free [k] u.needs [] []
  else fitAll binds free (coresFrom die c) u.needs [] []

/-- A standing bind in which no handler runs: it gives way to a placement (R387). -/
def Bind.idle : Bind → Bool | .standing _ _ none _ _ _ _ _ _ => true | _ => false

def State.bindsAt (s : State) (k : Nat) : List Bind := (s.core k).binds.filter fun b => !b.idle

/-- A record is written; idle standing binds in its room are removed. -/
def Core.bindIn (c : Core) (x : Bind) : Core := { c with binds := (c.binds.filter fun b => !(b.idle && b.overlaps x)) ++ [x] }

def State.unitFits (s : State) (u : PUnit) (die : Nat) : Bool := (u.fit s.bindsAt die 1).isSome

/-- The die that is offered a unit: its own, or the first after it with room (R308). -/
def State.offered (s : State) (u : PUnit) (own : Nat) : Option Nat :=
  ((List.range 4).map fun i => (own + i) % 4).find? (s.unitFits u)

/-! ## The members of a unit (R308, R311, R314) -/

/-- A workgroup of a bundle as its bind record is written. -/
def wgRecord (n order : Nat) (b : Bundle) (g : Grid) (m : Nat × Nat) (core : Nat) (x : Bind) (cscope : Nat) : Wg :=
  { Wg.blank with
    fn := b.fn
    proc := b.proc
    die := core / 60
    core := core % 60
    bundle := n
    grid := m.1
    wg := m.2
    nwg := g.nwg
    cohort := if g.coh == 0 then none else some (m.2 / g.coh)
    wgc := if g.coh == 0 then 0 else m.2 % g.coh
    warps := g.warps
    nreg := g.nreg
    lanes := g.lanes
    padSize := g.scratch
    padBase := x.pad.1 * 4096
    producer := if g.prod == 255 then none else some g.prod
    sbase := b.sbase
    slen := b.slen
    lbase := b.lbase
    llen := b.llen
    age := order
    order := order
    status := .placed
    cscope := cscope
    priv := b.priv }

/-- A record names its workgroup. -/
def Bind.named (g : Nat) : Bind → Bind
  | .workgroup _ m p n q l => .workgroup g m p n q l
  | x => x

/-- A member is placed on a core. -/
def State.placeMember (s : State) (u : PUnit) (m : Nat × Nat) (core : Nat) (x : Bind) : State :=
  match Tbl.find s.bundles u.bundle with
  | none => s
  | some b =>
    match b.grid m.1 with
    | none => s
    | some g =>
      let n := s.nextWg
      let s1 := (s.putWg n (wgRecord u.bundle n b g m core x u.pkt.cscope)).onCore core fun c => c.bindIn (x.named n)
      { (s1.drawn 1).putBundle u.bundle { b with
          next := b.next.filter (· != m)
          pick := s1.freeWord.toNat
          grids := if u.again then b.grids else b.grids.mapIdx fun i y => if i == m.1 then y.take m.2 else y } with
        nextWg := n + 1 }

/-- The first placement of a timed launch comes too late (R314). -/
def State.isLate (s : State) (u : PUnit) : Bool :=
  u.timed && (match Tbl.find s.bundles u.bundle with | some b => b.grids.all fun g => g.placed == 0 | none => false) &&
  (if u.pkt.past then u.pkt.ready + Config.usec 2 < s.cyc else pktWord u.pkt.bytes 2 + 2000 < s.ptp.now)

/-! ## `DISPATCH_WORKGROUP` (R311, R312) -/

/-- A warp as dispatch initialises it (R312). -/
def Warp.fresh (g : Wg) (i wslot pool : Nat) (pc garg dsbase : W64) : Warp where
  sc := { s := Vector.replicate 64 0, empty := 0, fill := [], pc := pc, loops := [], lsel := 0, wait := .none }
  rg := { pool := [], empty := 0, poison := 0, p := (Vector.replicate 16 0).set 0 0xFFFFFFFF#32, k := Vector.replicate 16 0, arrs := [], nreg := g.nreg, vb := g.nreg }
  larg := Vector.replicate 4 0
  x := Vector.replicate 8 0
  blocks := []
  running := false
  after := 0
  joined := 0
  slotA := Slot.idle
  slotB := Slot.idle
  turnB := false
  launch := LaneMask.mk fun l => decide (32 * i + l.val < g.lanes)
  dstack := []
  dsbase := dsbase
  rq := []
  flight := []
  fflags := 0
  trap := ⟨0, 0, 0, 0, 0, 0, 0, 0, 0⟩
  halt := .run
  handler := none
  deferred := []
  csr := ⟨0, 0, 0, 0, false, 0, 0, garg, Vector.replicate 9 0⟩
  sleep := 0
  yielded := false
  elig := none
  urgent := false
  parked := false
  exited := false
  halted := false
  triggered := false
  fabq := []
  msgs := []
  rings := []
  pooladdr := pool
  wslot := wslot

/-- The stack of a warp in a private area (R304). -/
def stackBase (priv die lcore slot : Nat) : W64 := BitVec.ofNat 64 (priv + 1024 * (1920 * die + 32 * lcore + slot))

/-- The warps of a workgroup are made, one in each slot of its record. -/
def State.makeWarps (s : State) (n : Nat) (g : Wg) (slots : List Nat) (poolb entry : Nat) (garg : W64) : State :=
  (slots.zipIdx).foldl (fun s x => s.putWarp (warpKey n x.2)
    (Warp.fresh g x.2 x.1 (poolb + x.2 * g.nreg) (g.sbase + BitVec.ofNat 64 entry) garg (stackBase g.priv g.die g.core x.1))) s

/-- The packet of a bundle waited for earlier ones, so its start acquires (R305, R237). -/
def State.startAcquires (s : State) (n : Nat) : Bool :=
  match Tbl.find s.bundles n with
  | some b => match Tbl.find s.cmdq b.queue with
    | some x => (x.packets.any fun p => p.index == b.index && p.dep)
    | none => false
  | none => false

/-- `DISPATCH_WORKGROUP`: record `idx` of a core's slot table starts its workgroup, or is refused where it overlaps an earlier one. -/
def execDispatchWorkgroup (core idx : Nat) (s : State) : Out :=
  let c := s.core core
  match c.binds[idx]? with
  | some (.workgroup n m p k q l) =>
    let g := s.wg n
    let x := Bind.workgroup n m p k q l
    if g.status ≠ .placed then .next s
    else if (c.binds.take idx).any fun y => y.overlaps x then
      let s1 := s.putCore core { c with binds := c.binds.eraseIdx idx }
      .next ({ s1 with
        wgs := Tbl.del s1.wgs n
        bundles := Tbl.adjust s1.bundles g.bundle fun b => { b with next := b.next ++ [(g.grid, g.wg)] } })
    else
      let grid := (Tbl.find s.bundles g.bundle).bind fun b => b.grid g.grid
      let s1 := s.makeWarps n g x.slots p (grid.elim 0 (·.entry)) (grid.elim 0 (·.garg))
      let s2 := if s.startAcquires g.bundle then s1.acquire core 1 else s1
      .next (s2.putWg n { g with status := .resident })
  | _ => .next s

/-! ## Timed launches and starvation (R314, R310) -/

/-- `TIMED_LAUNCH`: a started timed launch waits for its time. -/
def execTimedLaunch (q : Nat) (s : State) : Out :=
  match (Tbl.find s.cmdq q).bind fun x => x.pick fun p => pktKind p.bytes == 2 && p.timed == 0 with
  | some p => .next (s.onPacket q p.index fun p => { p with timed := 1 })
  | none => .next s

/-- The workgroups of a co-placed set that have not ended. -/
def State.setOf (s : State) (x : Wg) : List (Nat × Wg) :=
  s.wgs.filter fun y : Nat × Wg => y.2.bundle == x.bundle && y.2.wg == x.wg && decide (y.2.status ≠ .ended)

/-- The workgroups that leave and return together: a cohort, a co-placed set that claims banks, or one workgroup (R327, R328). -/
def State.gang (s : State) (g : Nat) : List Nat :=
  let x := s.wg g
  match x.cohort with
  | some c => (s.wgs.filter fun y : Nat × Wg => y.2.bundle == x.bundle && y.2.grid == x.grid && y.2.cohort == some c && decide (y.2.status ≠ .ended)).map (·.1)
  | none =>
    match Tbl.find s.bundles x.bundle with
    | some b =>
      if b.coplace && (s.setOf x).any (fun y => !y.2.claims.isEmpty) then (s.setOf x).map (·.1) else [g]
    | none => [g]

/-- The records of a core without those of some workgroups. -/
def State.bindsWithout (s : State) (gone : List Nat) (k : Nat) : List Bind :=
  (s.core k).binds.filter fun b => match b with | .workgroup g _ _ _ _ _ => !gone.contains g | .standing _ _ busy _ _ _ _ _ _ => match busy with | some g => !gone.contains g | none => false

/-- A workgroup put in its place in a list that runs newest first. -/
def insertNewest (x : Nat × Wg) : List (Nat × Wg) → List (Nat × Wg)
  | [] => [x]
  | y :: r => if y.2.order < x.2.order then x :: y :: r else y :: insertNewest x r

/-- Resident workgroups of a die that satisfy `p`, newest first. -/
def State.newest (s : State) (die : Nat) (p : Wg → Bool) : List Nat :=
  let l := s.wgs.filter fun y : Nat × Wg => decide (y.2.status = .resident) && y.2.die == die && y.2.leave == 0 && p y.2
  (l.foldr insertNewest []).map (·.1)

/-- The workgroups to switch out, newest first, until work fits once they are gone; none where it would not fit even so. -/
def State.makeRoom (s : State) (fits : List Nat → Bool) : List Nat → List Nat → List Nat
  | [], _ => []
  | g :: rest, gone =>
    let gone1 := (gone ++ s.gang g).eraseDups
    if fits gone1 then gone1 else s.makeRoom fits rest gone1

/-- Firmware decides to switch workgroups out at once (R308, R314). -/
def State.sendAway (s : State) (gs : List Nat) : State := gs.foldl (fun s g => s.onWg g fun x => { x with leave := 2 }) s

/-- Firmware is making room on the die: some workgroup that it sends away has not left yet. -/
def State.leaving (s : State) (die : Nat) : Bool :=
  s.wgs.any fun y : Nat × Wg => y.2.die == die && y.2.leave != 0 && decide (y.2.status = .resident)

/-- Workgroups of a launch's own function leave its die until its next workgroup fits there, where they can make it fit (R314). -/
def State.roomFor (s : State) (x : Queue) (u : PUnit) : State :=
  if (s.offered u x.die).isSome then s
  else s.sendAway (s.makeRoom (fun gone => (u.fit (s.bindsWithout gone) x.die 1).isSome) (s.newest x.die fun g => g.fn == x.fn) [])

/-- A timed launch whose time has come and none of whose workgroups is placed, with its next unit. -/
def State.overdue (s : State) (q : Nat) (x : Queue) : Option PUnit :=
  (s.unitsOf q x).find? fun u => u.timed && u.pkt.timed == 2 &&
    match Tbl.find s.bundles u.bundle with | some b => b.grids.all fun g => g.placed == 0 | none => false

/-- `TIMED_LAUNCH_ELIGIBLE`: `PTPNOW` has reached T, and room is made for the launch's first workgroup; where it still does not fit once what left has left, room is made again. -/
def execTimedLaunchEligible (q : Nat) (s : State) : Out :=
  match Tbl.find s.cmdq q with
  | some x =>
    match x.pick fun p => pktKind p.bytes == 2 && p.timed == 1 && pktWord p.bytes 2 ≤ s.ptp.now with
    | some p =>
      let s1 := s.onPacket q p.index fun p => { p with timed := 2, ready := s.cyc + 1, unsync := !s.ptp.sync }
      let s2 := match p.bundle with | some n => s1.startBundle n | none => s1
      match (Tbl.find s2.cmdq q).bind fun y => (s2.unitsOf q y).find? fun u => u.pkt.index == p.index with
      | some u => .next (s2.roomFor x u)
      | none => .next s2
    | none =>
      match s.overdue q x with
      | some u => if s.leaving x.die then .next s else .next (s.roomFor x u)
      | none => .next s
  | none => .next s

/-- `STARVE_PROMOTION`: the head packet has been eligible and unplaced for STARVE ms (R308). -/
def execStarvePromotion (q : Nat) (s : State) : Out :=
  match Tbl.find s.cmdq q with
  | some x =>
    match s.unitOf q x with
    | some u =>
      let none_ := match Tbl.find s.bundles u.bundle with | some b => b.grids.all fun g => g.placed == 0 | none => false
      if none_ && !x.starved && u.pkt.ready + Config.msec (s.fn x.fn).arb.lo ≤ s.cyc then .next (s.putCmdq q { x with starved := true }) else .next s
    | none => .next s
  | none => .next s

end Sys2Proof.Machine
end

