-- ==== Sys2Proof/Machine/Shake.lean ====
section
/-! DEFINITION. SHAKE256: a handle's check value (R383), and the digests of images and reports (R408, R410). -/

namespace Sys2Proof.Machine

/-- The rotation of lane (x, y), at x + 5 y. -/
def keccakRot : List Nat := [0, 1, 62, 28, 27, 36, 44, 6, 55, 20, 3, 10, 43, 25, 39, 41, 45, 15, 21, 8, 18, 2, 61, 56, 14]

/-- The constants of the 24 rounds. -/
def keccakConst : List Nat := [
  0x0000000000000001, 0x0000000000008082, 0x800000000000808A, 0x8000000080008000, 0x000000000000808B, 0x0000000080000001,
  0x8000000080008081, 0x8000000000008009, 0x000000000000008A, 0x0000000000000088, 0x0000000080008009, 0x000000008000000A,
  0x000000008000808B, 0x800000000000008B, 0x8000000000008089, 0x8000000000008003, 0x8000000000008002, 0x8000000000000080,
  0x000000000000800A, 0x800000008000000A, 0x8000000080008081, 0x8000000000008080, 0x0000000080000001, 0x8000000080008008]

/-- A lane rotated left. -/
def rotLane (v n : Nat) : Nat := (v * 2 ^ n + v / 2 ^ (64 - n)) % 2 ^ 64

/-- Lanes XORed with the parities of the columns beside theirs. -/
def keccakTheta (a : List Nat) : List Nat :=
  let col := (List.range 5).map fun x => (List.range 5).foldl (fun v y => v ^^^ a.getD (x + 5 * y) 0) 0
  let mix := (List.range 5).map fun x => col.getD ((x + 4) % 5) 0 ^^^ rotLane (col.getD ((x + 1) % 5) 0) 1
  (List.range 25).map fun i => a.getD i 0 ^^^ mix.getD (i % 5) 0

/-- Lanes rotated, and moved to their new places. -/
def keccakMove (a : List Nat) : List Nat :=
  (List.range 25).map fun i =>
    let j := (i % 5 + 3 * (i / 5)) % 5 + 5 * (i % 5)
    rotLane (a.getD j 0) (keccakRot.getD j 0)

/-- Each lane combined with the next two of its row. -/
def keccakChi (a : List Nat) : List Nat :=
  (List.range 25).map fun i =>
    let at_ (d : Nat) : Nat := a.getD (i / 5 * 5 + (i % 5 + d) % 5) 0
    at_ 0 ^^^ ((2 ^ 64 - 1 - at_ 1) &&& at_ 2)

/-- One round of the permutation. -/
def keccakRound (a : List Nat) (rc : Nat) : List Nat :=
  match keccakChi (keccakMove (keccakTheta a)) with
  | x :: r => (x ^^^ rc) :: r
  | [] => []

/-- A message padded to whole blocks of 136 bytes. -/
def shakePad (m : List Byte) : List Byte :=
  let n := 136 - m.length % 136
  m ++ (if n == 1 then [0x9F#8] else 0x1F#8 :: (List.replicate (n - 2) 0#8 ++ [0x80#8]))

/-- One block XORed into the lanes, and the permutation. -/
def shakeBlock (a : List Nat) (bs : List Byte) : List Nat :=
  keccakConst.foldl keccakRound ((List.range 25).map fun i => a.getD i 0 ^^^ leNat ((bs.drop (8 * i)).take 8))

/-- The first 136 bytes of SHAKE256 of a message. -/
def shake256 (m : List Byte) : List Byte :=
  let p := shakePad m
  (((List.range (p.length / 136)).foldl (fun a i => shakeBlock a ((p.drop (136 * i)).take 136)) []).take 17).flatMap (leBytes 8)

/-- A digest of 512 bits. -/
def digest (m : List Byte) : List Byte := (shake256 m).take 64

/-- CHK of a handle from KSTREAM and its bits [127:64] (R383), both as bytes in little-endian order (log 14). -/
def shakeChk (key : BitVec 256) (upper : Nat) : W64 :=
  BitVec.ofNat 64 (leNat ((shake256 (leBytes 32 key.toNat ++ leBytes 8 upper)).take 8))

end Sys2Proof.Machine
end

