-- ==== Sys2Proof/Machine/FabOps.lean ====
section
/-! DEFINITION. Streams and stream ends: handles, items, credits, the context store, and the steps of a move, as the device that takes part in them performs them (R379 to R394). -/

namespace Sys2Proof.Machine

/-! ## Handles (R356, R383, R384) -/

/-- The device number that no device has. -/
def noDev : Nat := 0xFFFFF
def State.own (s : State) : Nat := s.devid.toNat

/-- Handle bits [127:64]. -/
def handleUpper (k : EndKey) (gen : Nat) : Nat :=
  k.home % 2 ^ 20 * 2 ^ 44 + k.stream % 2 ^ 24 * 2 ^ 20 + (if k.cons then 2 ^ 19 else 0) + gen % 2 ^ 19
def handleBits (k : EndKey) (gen : Nat) (chk : W64) : Nat := handleUpper k gen * 2 ^ 64 + chk.toNat
/-- A null handle that carries a status. -/
def nullHandle (status : Nat) : Nat := noDev * 2 ^ 108 + (2 ^ 100 - 1) * 2 ^ 8 + status
def keyOfHandle (h : Nat) : EndKey := ⟨fieldOf h 127 108, fieldOf h 107 84, fieldOf h 83 83 == 1⟩
/-- CHK, which only the home computes. -/
def State.chkOf (s : State) (k : EndKey) (gen : Nat) : W64 := shakeChk s.kstream (handleUpper k gen)
def EndRec.handle (e : EndRec) : Nat := handleBits e.key e.gen e.chk

/-- The end record that a handle names, where all 128 bits are equal and the end is not frozen (R384, R375). -/
def State.endOf (s : State) (h : Nat) (cons : Bool) : Option EndRec :=
  match s.endRec (keyOfHandle h) with
  | some e => if e.handle == h && !e.frozen && e.key.cons == cons then some e else none
  | none => none

def State.onEnd (s : State) (k : EndKey) (f : EndRec → EndRec) : State :=
  { s with ends := s.ends.map fun e => if e.key == k then f e else e }
/-- A record goes, and with it the pieces of items that were gathered for it. -/
def State.dropEnd (s : State) (k : EndKey) : State :=
  { s with
    ends := s.ends.filter fun e => e.key != k
    fab := { s.fab with parts := if k.cons then s.fab.parts.filter fun y => !(y.home == k.home && y.stream == k.stream) else s.fab.parts } }

def otherEnd (k : EndKey) : EndKey := { k with cons := !k.cons }

/-! ## Status codes (R359) -/

def stFULL : Nat := 1
def stEMPTY : Nat := 2
def stBADH : Nat := 3
def stCLOSED : Nat := 4
def stORPHAN : Nat := 5
def stBUSY : Nat := 6
def stUNKNOWN : Nat := 7
def stNOTABLE : Nat := 8
def stRANGE : Nat := 9
def stREFUSED : Nat := 10
def stNORES : Nat := 11
def stXFER : Nat := 12
def stNOTXFER : Nat := 13
def stINVAL : Nat := 14
def stOVERSIZE : Nat := 15

/-! ## Packets -/

/-- Bytes as 32-byte flits. -/
def flitsOf : Nat → List Byte → List (BitVec 256)
  | 0, _ => []
  | _, [] => []
  | n + 1, bs => BitVec.ofNat 256 (leNat (bs.take 32)) :: flitsOf n (bs.drop 32)

/-- The first `n` bytes of a packet's flits. -/
def flitBytes (p : Packet) (n : Nat) : List Byte := (p.flits.flatMap fun f => bytesLE 32 f.toNat).take n

/-- Bits of OSA and OSB, numbered as in the header flit. -/
def osaField (p : Packet) (hi lo : Nat) : Nat := fieldOf p.osa.toNat (hi - 128) (lo - 128)
def osbField (p : Packet) (hi lo : Nat) : Nat := fieldOf p.osb.toNat hi lo

/-- A request packet that firmware or the home sends on its own account (R416). -/
def State.fwSend (s : State) (p : Packet) : State :=
  let r := { Req.blank s.nextId with
    kind := .packet
    cls := .firmware
    warp := noWarp
    core := fwCore 0
    source := fwCore 0
    fn := p.vf.toNat
    xl := true
    pkts := [p]
    scope := p.scope.toNat
    dev := some p.dst.toNat }
  ((s.putReq r).bump).launch r

/-- A request packet of a warp's fabric operation or message `parent`. -/
def State.warpSend (s : State) (k : Nat) (parent : Nat) (st : Stream) (mask : LaneMask) (pc : BitVec 20) (inst : W32) (p : Packet) : State :=
  let g := s.wg (wgOf k)
  let r := { Req.blank s.nextId with
    kind := .packet
    warp := k
    core := g.coreKey
    fn := g.fn
    space := g.proc
    stream := st
    mask := mask
    parent := parent
    xl := true
    pkts := [p]
    scope := p.scope.toNat
    dev := some p.dst.toNat
    pc := pc.setWidth 64
    inst := inst }
  ((s.putReq r).bump).launch r

/-- Pieces of 256 bytes; no bytes make one empty piece. -/
def pieces256 (bs : List Byte) : List (Nat × List Byte) :=
  (List.range (max 1 ((bs.length + 255) / 256))).map fun i => (i, (bs.drop (256 * i)).take 256)

/-- The SITEM packets of an item (R393). -/
def State.sitems (s : State) (dst : Nat) (c : EndKey) (gen vf : Nat) (it : Item) : List Packet :=
  (pieces256 it.bytes).map fun x =>
    s.header dst 0x06 0 0 vf it.scope 0 (c.stream * 2 ^ 26 + it.seq * 4 + it.kind)
      (c.home * 2 ^ 108 + gen % 2 ^ 19 * 2 ^ 89 + x.1 * 2 ^ 85 + it.bytes.length * 2 ^ 72) (flitsOf 8 x.2)

/-- An SMOVE packet (R393): phase, device, SEQ, credits, context KiB with the faulted bit above it, handler index, context offset, and in the header's SCOPE that of an item or of the end's last handler (log 23). -/
def State.smove (s : State) (dst : Nat) (k : EndKey) (gen phase dev seq credits kib hidx off vf scope : Nat) (bs : List Byte) : Packet :=
  s.header dst 0x07 0 0 vf scope 0 (k.stream * 2 ^ 26 + (if k.cons then 2 ^ 25 else 0) + gen % 2 ^ 19 * 2 ^ 6 + phase * 8)
    (dev % 2 ^ 20 * 2 ^ 108 + seq % 2 ^ 24 * 2 ^ 84 + credits % 128 * 2 ^ 77 + kib % 256 * 2 ^ 69 + hidx % 4096 * 2 ^ 57 + off % 256 * 2 ^ 49)
    (flitsOf 8 bs)

/-- SCRED, SLOC and SORPH (R393). -/
def State.scredPkt (s : State) (dst stream n : Nat) : Packet := s.header dst 0x1C 0 0 0 0 0 (stream * 2 ^ 26) (n % 128 * 2 ^ 121) []
def State.slocPkt (s : State) (dst : Nat) (k : EndKey) (dev : Nat) : Packet :=
  s.header dst 0x1D 0 0 0 0 0 (k.stream * 2 ^ 26 + if k.cons then 2 ^ 25 else 0) (dev * 2 ^ 108) []
/-- Where the last sequence number is not known, the scope field says so (log 23). -/
def State.sorphPkt (s : State) (dst : Nat) (k : EndKey) (last : Option Nat) : Packet :=
  s.header dst 0x1E 0 0 0 (if last.isSome then 0 else 1) 0 (k.stream * 2 ^ 26 + if k.cons then 2 ^ 25 else 0) (last.getD 0 % 2 ^ 24 * 2 ^ 104) []

/-! ## Sequence numbers and items (R380 to R382) -/

def seqAdd (a n : Nat) : Nat := (a + n) % 2 ^ 24
/-- How far `a` lies ahead of `b`. -/
def seqDist (a b : Nat) : Nat := (a + 2 ^ 24 - b % 2 ^ 24) % 2 ^ 24
def seqOld (seq next : Nat) : Bool := 2 ^ 23 ≤ seqDist seq next

/-- An item in its place, in sequence order from `next` on. -/
def insertItem (next : Nat) (it : Item) : List Item → List Item
  | [] => [it]
  | x :: r => if seqDist it.seq next < seqDist x.seq next then it :: x :: r else x :: insertItem next it r

/-- Items held, one more among them unless it was delivered or is held already (R382). -/
def addItem (next : Nat) (held : List Item) (it : Item) : List Item :=
  if seqOld it.seq next || held.any fun x => x.seq == it.seq then held else insertItem next it held

/-- The item to be delivered next. -/
def EndRec.head (e : EndRec) : Option Item := match e.items with | it :: _ => if it.seq == e.next then some it else none | [] => none

/-- A terminal item whose handler has started stays at the head for later takes: its kind is marked by 4 (R369; log 23). -/
def Item.started (it : Item) : Bool := 4 ≤ it.kind

/-- The item that is due to start a handler. -/
def EndRec.due (e : EndRec) : Option Item := match e.head with | some it => if it.started then none else some it | none => none

/-! ## The context store (R385, R386, R389) -/

/-- Granules of a die's store that contexts may use: while a change of its size is under way, no more than the smaller of the two (R20, R390). -/
def State.ctxCap (s : State) (die : Nat) : Nat := min ((s.die die).ways.getD s.ctxstore.lo) s.ctxstore.lo * 8192

def Binding.held (b : Binding) : Bool := decide (b.st ≠ .evicted)

/-- Runs of granules in ascending order. -/
def insertRun (x : Nat × Nat) : List (Nat × Nat) → List (Nat × Nat)
  | [] => [x]
  | y :: r => if x.1 < y.1 then x :: y :: r else y :: insertRun x r

/-- The runs of granules of a die's store that contexts occupy. -/
def State.ctxRuns (s : State) (die : Nat) : List (Nat × Nat) :=
  ((s.ends.filter fun e => e.die == die).flatMap fun e => match e.bind with | some b => if b.held then b.gran else [] | none => []).foldr insertRun []

/-- The free runs from granule `a` on, below `cap`. -/
def freeRuns (cap : Nat) : Nat → List (Nat × Nat) → List (Nat × Nat)
  | a, [] => if a < cap then [(a, cap - a)] else []
  | a, x :: r => (if a < min x.1 cap then [(a, min x.1 cap - a)] else []) ++ freeRuns cap (max a (x.1 + x.2)) r

def runSize (l : List (Nat × Nat)) : Nat := l.foldl (fun n x => n + x.2) 0

def State.ctxRoom (s : State) (die : Nat) : List (Nat × Nat) := freeRuns (s.ctxCap die) 0 (s.ctxRuns die)

/-- The first `n` granules of some runs. -/
def takeRuns : Nat → List (Nat × Nat) → List (Nat × Nat)
  | _, [] => []
  | n, x :: r => if n == 0 then [] else if n ≤ x.2 then [(x.1, n)] else x :: takeRuns (n - x.2) r

/-- The granules that a context of `n` KiB takes: the lowest free ones (log 83). -/
def State.granules (s : State) (die n : Nat) : List (Nat × Nat) := takeRuns n (s.ctxRoom die)

/-- The L2 slice in whose carved ways line `i` of a die's store lies (R385). -/
def ctxSlice (die i : Nat) : Nat := die * 64 + i % 64

/-- The context whose granules hold line `i` of the store, and the line's number in it: 8 lines to a granule. -/
def Binding.lineAt (b : Binding) (i : Nat) : Option Nat :=
  (b.gran.foldl (fun (x : Nat × Option Nat) r =>
    (x.1 + r.2, if r.1 ≤ i / 8 && i / 8 < r.1 + r.2 then some ((x.1 + (i / 8 - r.1)) * 8 + i % 8) else x.2)) (0, none)).2

/-- Some granule of the context lies at `cap` or above. -/
def Binding.beyond (b : Binding) (cap : Nat) : Bool := b.held && b.gran.any fun r => cap < r.1 + r.2

/-- Idle contexts of a die, the longest idle first. -/
def insertIdle (e : EndRec × Binding) : List (EndRec × Binding) → List (EndRec × Binding)
  | [] => [e]
  | x :: r => if e.2.since < x.2.since then e :: x :: r else x :: insertIdle e r

def State.idleContexts (s : State) (die : Nat) : List (EndRec × Binding) :=
  (s.ends.filterMap fun e => match e.bind with | some b => if e.die == die && decide (b.st = .idle) then some (e, b) else none | none => none).foldr insertIdle []

/-- Granules of a die's contexts that are being evicted. -/
def State.evictingSize (s : State) (die : Nat) : Nat :=
  s.ends.foldl (fun n e => match e.bind with | some b => if e.die == die && decide (b.st = .evicting) then n + b.kib else n | none => n) 0

/-- The eviction of one context begins. -/
def State.evictCtx (s : State) (k : EndKey) : State :=
  s.onEnd k fun e => { e with bind := e.bind.map fun b => { b with st := .evicting, since := s.cyc } }

/-- Room for `n` granules is claimed: idle contexts are evicted, the longest idle first, until enough is on its way out (R389). -/
def State.claimRoom (s : State) (die n : Nat) : State :=
  let need (s : State) : Bool := runSize (s.ctxRoom die) + s.evictingSize die < n
  (s.idleContexts die).foldl (fun s e => if need s then s.evictCtx e.1.key else s) s

def State.ctxFits (s : State) (die n : Nat) : Bool := n ≤ runSize (s.ctxRoom die)

/-- A bound end whose next item is present and whose context is evicted begins to reload, or claims room for it (R386, R389). -/
def State.wakeEnd (s : State) (k : EndKey) : State :=
  match s.endRec k with
  | some e =>
    match e.bind, e.due with
    | some b, some _ =>
      if e.faulted || e.frozen || e.pending || e.running.isSome || decide (b.st ≠ .evicted) then s
      else if s.ctxFits e.die b.kib then
        s.onEnd k fun e => { e with bind := some { b with st := .reloading, since := s.cyc, gran := s.granules e.die b.kib } }
      else s.claimRoom e.die b.kib
    | _, _ => s
  | none => s

/-! ## Standing handler binds (R387) -/

/-- Firmware writes a standing bind for a handler where the die has none and a core has room. -/
def State.ensureStanding (s : State) (die fn h : Nat) : State :=
  let has := (List.range 60).any fun c => (s.core (coreKey die c)).binds.any fun b => match b with | .standing f i _ stale _ _ _ _ _ => f == fn && i == h && !stale | _ => false
  match has, tableEnt (s.fn fn).table_ h with
  | false, some e =>
    match (coresFrom die 1).findSome? fun k => (fitBinds (s.core k).binds ⟨1, e.nreg, e.scratch / 4096, []⟩).map fun p => (k, p) with
    | some (k, p) => s.onCore k fun c => { c with binds := c.binds ++ [.standing fn h none false (p.1.headD 0) p.2.1 e.nreg p.2.2 (e.scratch / 4096)] }
    | none => s
  | _, _ => s

/-- Some end that is resident on the die is bound to the handler (R387). -/
def State.boundOn (s : State) (die fn h : Nat) : Bool :=
  s.ends.any fun e => e.die == die && e.fn == fn && match e.bind with | some b => b.hidx == h | none => false

/-- Idle standing binds go when no end of the die is bound to their handler. -/
def State.trimStanding (s : State) (die fn h : Nat) : State :=
  if s.boundOn die fn h then s
  else { s with cores := Tbl.mapVal (fun k c => if k / 60 == die then { c with binds := c.binds.filter fun b => match b with
      | .standing f i none _ _ _ _ _ _ => !(f == fn && i == h)
      | _ => true } else c) s.cores }

/-- A binding is released: its granules are free, and so is a standing bind that no bound end of the die needs any more (R387). -/
def State.unbind (s : State) (e : EndRec) : State :=
  let s1 := s.onEnd e.key fun x => { x with bind := none, faulted := false, pending := false }
  match e.bind with | some b => s1.trimStanding e.die e.fn b.hidx | none => s1

/-! ## The home (R379, R391, R392) -/

def State.stream (s : State) (n : Nat) : Option StreamHome := match Tbl.find s.streams n with | some x => if x.live then some x else none | none => none
def StreamHome.side (x : StreamHome) (cons : Bool) : HomeEnd := if cons then x.cons else x.prod
def StreamHome.put (x : StreamHome) (cons : Bool) (e : HomeEnd) : StreamHome := if cons then { x with cons := e } else { x with prod := e }

/-- The home's record of an end, at this device. -/
def State.homeEnd (s : State) (k : EndKey) : Option HomeEnd :=
  if k.home == s.own then (s.stream k.stream).map fun x => x.side k.cons else none
def State.onHome (s : State) (k : EndKey) (f : HomeEnd → HomeEnd) : State :=
  { s with streams := Tbl.adjust s.streams k.stream fun x => x.put k.cons (f (x.side k.cons)) }

/-- A stream whose ends are both lost or closed is freed; its next generation is one above the larger of the two (R373). -/
def State.tryFree (s : State) (n : Nat) : State :=
  match s.stream n with
  | some x =>
    let gone (e : HomeEnd) : Bool := match e.st with | .closed => true | .orphaned => true | _ => false
    if gone x.prod && gone x.cons then
      { s with
        streams := Tbl.put s.streams n { x with live := false, next := max x.prod.gen x.cons.gen + 1 }
        ends := s.ends.filter fun e => !(e.key.home == s.own && e.key.stream == n) }
    else s
  | none => s

/-- A holder learns where the other end is; with a device, the other end has been adopted there, so that a consumer's GEN has risen by one (R384, R391). -/
def EndRec.learn (e : EndRec) (dev : Nat) : EndRec := { e with peer := dev, base := if !e.key.cons && dev != noDev then e.base + 1 else e.base }

/-- The holder of an end is told where the other end is; 0xF_FFFF: at the home (R391). -/
def State.tellHolder (s : State) (moved : EndKey) (dev : Nat) : State :=
  match s.homeEnd (otherEnd moved) with
  | some h =>
    match h.st with
    | .resident d => if d == s.own then s.onEnd (otherEnd moved) fun e => e.learn dev else s.emit (s.slocPkt d moved dev)
    | _ => s
  | none => s

/-- A record with nothing moved yet. -/
def Moved.blank (gen : Nat) : Moved where
  next := 0
  credits := 0
  kib := 0
  hidx := 0
  faulted := false
  ctx := []
  bad := []
  chunks := []
  items := []
  gen := gen
  chk := none
  peer := noDev
  placed := false
  fn := 0
  die := 0
  cscope := 0
  base := 0
  told := false
  lost := none

/-- This device is adopting the end: a move step of its adoption is under way. -/
def State.adopting (s : State) (k : EndKey) : Bool := s.moves.any fun x => x.1 == k

/-- An adoption of the end is under way here, or its `STADOPT` has still to take the handle item. -/
def State.claimed (s : State) (k : EndKey) : Bool :=
  s.adopting k || s.warps.any fun x : Nat × Warp => x.2.fabq.any fun o => o.op == 12 && o.phase == 3 && o.key == some k

/-- An item joins what is held for a moving end: in sequence order once the end's record says which item is next, before that as it comes. -/
def Moved.hold (m : Moved) (it : Item) : Moved :=
  { m with items := if m.placed then addItem m.next m.items it else if m.items.any fun y => y.seq == it.seq then m.items else m.items ++ [it] }

def State.onMove (s : State) (k : EndKey) (f : Moved → Moved) : State :=
  { s with moves := s.moves.map fun x => if x.1 == k then (k, f x.2) else x }

/-- An item for a consumer end, at the home: stored while the end is in transit, else sent on; the status for its sender. -/
def State.homeItem (s : State) (c : EndKey) (it : Item) : State × Nat :=
  match s.homeEnd c with
  | some h =>
    match h.st with
    | .transit =>
      (s.onHome c fun h => { h with moved := h.moved.map fun m => m.hold it }, 0)
    | .resident d => if d == s.own then (s, stBADH) else ((s.sitems d c h.gen 0 it).foldl State.fwSend s, 0)
    | .closed => (s, stCLOSED)
    | .orphaned => (s, stORPHAN)
  | none => (s, stBADH)

/-- An item reaches this device (R382, R391 step 3): held, also while the end is being adopted here; stored at the home, or sent on to it. A frozen record counts the items it sent on in `next`; one that a close or a loss left behind answers with that status. -/
def State.itemIn (s : State) (c : EndKey) (gen : Nat) (it : Item) : State × Nat :=
  if s.adopting c then (s.onMove c fun m => m.hold it, 0)
  else
    match s.endRec c with
    | some e =>
      if !e.frozen then
        if gen < e.base then (s, stBADH)
        else ((s.onEnd c fun e => { e with items := addItem e.next e.items it }).wakeEnd c, 0)
      else if e.closed then (s, stCLOSED)
      else if e.orphan then (s, stORPHAN)
      else
        let s1 := s.onEnd c fun e => { e with next := if it.seq == e.next then seqAdd e.next 1 else e.next }
        if c.home == s.own then s1.homeItem c it else ((s1.sitems c.home c gen 0 it).foldl State.fwSend s1, 0)
    | none => if c.home == s.own then s.homeItem c it else (s, stBADH)

/-- Credits go back to the producer end (R381). -/
def State.creditIn (s : State) (p : EndKey) (n : Nat) : State :=
  let atHome (s : State) : State :=
    match s.homeEnd p with
    | some h =>
      match h.st with
      | .transit => s.onHome p fun h => { h with moved := h.moved.map fun m => { m with credits := min 64 (m.credits + n) } }
      | .resident d => if d == s.own then s else s.emit (s.scredPkt d p.stream n)
      | _ => s
    | none => s
  if s.adopting p then s.onMove p fun m => { m with credits := min 64 (m.credits + n) }
  else
    match s.endRec p with
    | some e =>
      if !e.frozen then s.onEnd p fun e => { e with credits := min 64 (e.credits + n) }
      else if p.home == s.own then atHome s
      else s.emit (s.scredPkt p.home p.stream n)
    | none => if p.home == s.own then atHome s else s

/-- The consumer end `e` releases `n` items (R381). -/
def State.release (s : State) (e : EndRec) (n : Nat) : State :=
  if n == 0 then s
  else
    let d := if e.peer == noDev then e.key.home else e.peer
    if d == s.own then s.creditIn (otherEnd e.key) n else s.emit (s.scredPkt d e.key.stream n)

/-- Items that carry a credit. -/
def countCredits (l : List Item) : Nat := (l.filter fun i => i.kind ≤ 1).length

/-! ## Lost ends (R394) -/

/-- The survivor of a lost end learns of it: a consumer holds a terminal ORPHAN item behind item `last`, a producer appends nothing more. -/
def State.orphanHere (s : State) (k : EndKey) (last : Nat) : State :=
  (s.onEnd k fun e => if k.cons then { e with items := addItem e.next e.items ⟨seqAdd last 1, 3, 0, [], none⟩ } else { e with orphan := true }).wakeEnd k

/-- The last sequence number that a consumer holds without a gap. -/
def lastHeld (next : Nat) (l : List Item) : Nat := l.foldl (fun n i => if i.seq == seqAdd n 1 then i.seq else n) (seqAdd next (2 ^ 24 - 1))

/-- A lost end's survivor learns of it: behind the last sequence number appended where that is known and not reached yet, else behind what it holds. A consumer end frozen here has moved away, or is itself gone: the terminal item is sent on like any other (R391 step 3). -/
def State.orphanBehind (s : State) (k : EndKey) (last : Option Nat) : State :=
  match s.endRec k with
  | some e =>
    let l := lastHeld e.next e.items
    let end_ := match last with | some n => if seqOld (seqAdd n 1) (seqAdd l 1) then l else n | none => l
    if e.frozen && k.cons then (s.itemIn k e.base ⟨seqAdd end_ 1, 3, 0, [], none⟩).1 else s.orphanHere k end_
  | none => s

/-- The home records an end as lost and tells the other; `last` is the last sequence number its producer appended, where known. -/
def State.loseEnd (s : State) (k : EndKey) (last : Option Nat) : State :=
  match s.homeEnd k with
  | some h =>
    if decide (h.st = .orphaned) || decide (h.st = .closed) then s
    else
      let s1 := s.onHome k fun h => { h with st := .orphaned, moved := none }
      let s2 := match s1.homeEnd (otherEnd k) with
        | some o =>
          match o.st with
          | .resident d =>
            if d != s.own then s1.emit (s1.sorphPkt d k last)
            else if s1.adopting (otherEnd k) then s1.onMove (otherEnd k) fun m => { m with lost := some last }
            else s1.orphanBehind (otherEnd k) last
          | .transit => s1.onHome (otherEnd k) fun o => { o with moved := o.moved.map fun (m : Moved) =>
              { m with items := if k.cons then m.items else addItem m.next m.items (Item.mk (seqAdd (last.getD (lastHeld m.next m.items)) 1) 3 0 [] none) } }
          | _ => s1
        | none => s1
      s2.tryFree k.stream
  | none => s

/-- A closed or lost end leaves its holder. A consumer end with its home elsewhere leaves a frozen record, which answers the items under way until the home has told the producer (R368, R373, R394). -/
def State.leaveEnd (s : State) (k : EndKey) (lost : Bool) : State :=
  if k.cons && k.home != s.own then
    s.onEnd k fun x => { x with frozen := true, frozenAt := s.cyc, closed := !lost, orphan := lost, bind := none, items := [], running := none, pending := false }
  else s.dropEnd k

/-- An end held here is lost: its record goes, and the home, or the other holder, learns of it. -/
def State.loseHere (s : State) (e : EndRec) : State :=
  let s1 := (s.unbind e).leaveEnd e.key true
  let last := if e.key.cons then none else some (seqAdd e.next (2 ^ 24 - 1))
  if e.key.home == s.own then s1.loseEnd e.key last else s1.emit (s1.sorphPkt e.key.home e.key last)

/-- An end that is not held here is given up: its home learns of it (R394). -/
def State.giveUp (s : State) (k : EndKey) : State := if k.home == s.own then s.loseEnd k none else s.emit (s.sorphPkt k.home k none)

/-- Items are discarded: an end that a handle item carries is lost unless its adoption is under way, and each item's credit returns (R381, R394). -/
def State.discard (s : State) (e : EndRec) (l : List Item) : State :=
  let s1 := l.foldl (fun s i => match i.carried with
    | some k => if s.claimed k then s else s.giveUp k
    | none => s) s
  s1.release e (countCredits l)

/-! ## Closing (R373) -/

/-- The home learns that an end is closed. A remote home learns it from an SLOC packet that names no device (log 23). -/
def State.closeAtHome (s : State) (k : EndKey) : State :=
  if k.home == s.own then
    let s1 := (s.onHome k fun h => { h with st := .closed, moved := none }).tellHolder k noDev
    (if k.cons then s1.onEnd (otherEnd k) fun e => { e with closed := true } else s1).tryFree k.stream
  else s.emit (s.slocPkt k.home k noDev)

/-! ## Moving an end (R391) -/

/-- What a holder's record puts into a MOVE. -/
def EndRec.moved (e : EndRec) : Moved :=
  { Moved.blank e.gen with
    next := e.next
    credits := e.credits
    kib := match e.bind with | some b => b.kib | none => 0
    hidx := match e.bind with | some b => b.hidx | none => 0
    faulted := e.faulted
    ctx := match e.bind with | some b => b.ctx | none => []
    bad := match e.bind with | some b => b.bad | none => []
    cscope := match e.bind with | some b => b.prev | none => 0
    chunks := match e.bind with | some b => List.range (4 * b.kib) | none => []
    items := e.items
    placed := true }

/-- Step 2: the home marks the end in transit and stores what came; context and items that came first are kept. -/
def State.homeMove (s : State) (k : EndKey) (gen : Nat) (m : Moved) : State :=
  match s.homeEnd k with
  | some h =>
    if h.gen != gen || h.steps.contains (gen, 0) then s
    else
      let old := h.moved.getD (Moved.blank gen)
      let ctx := old.chunks.foldl (fun c i => Memory.writeL c (256 * i) (Memory.readL old.ctx (256 * i) 256)) m.ctx
      let m1 := { m with
        ctx := ctx
        bad := (m.bad ++ old.bad).eraseDups
        chunks := (m.chunks ++ old.chunks).eraseDups
        items := old.items.foldl (addItem m.next) m.items }
      (s.onHome k fun h => { h with st := .transit, moved := some m1, steps := h.steps ++ [(gen, 0)] }).tellHolder k noDev
  | none => s

/-- The packets of a context and of items, for steps 1 and 5. -/
def State.movePackets (s : State) (dst : Nat) (k : EndKey) (gen : Nat) (m : Moved) : List Packet :=
  (m.chunks.map fun i => s.smove dst k gen 1 s.own m.next 0 m.kib m.hidx i 0 0 (Memory.readL m.ctx (256 * i) 256)) ++
  m.items.flatMap fun it => (pieces256 it.bytes).map fun x =>
    s.smove dst k gen 4 s.own it.seq (it.kind * 16 + x.1) 0 (it.bytes.length - 1) 0 0 it.scope x.2

/-- Step 1 at the old holder: the end is frozen, and MOVE goes to the home with all that it holds; what stays behind knows only the item that would come next. -/
def State.startMove (s : State) (e : EndRec) : State :=
  let m := e.moved
  let next := if e.key.cons then seqAdd (lastHeld e.next e.items) 1 else e.next
  let s1 := (s.unbind e).onEnd e.key fun x => { x with frozen := true, frozenAt := s.cyc, pending := false, items := [], next := next }
  if e.key.home == s.own then s1.homeMove e.key e.gen m
  else
    (s1.smove e.key.home e.key e.gen 0 s1.own m.next m.credits (m.kib + if m.faulted then 128 else 0) m.hidx 0 e.fn m.cscope [] ::
      s1.movePackets e.key.home e.key e.gen m).foldl State.fwSend s1

/-- A record is installed at its new holder once its MOVE or PLACE, its handle and its whole context are there, and the die's store has room for the context, which is claimed where it has not (step 6, R389). -/
def State.tryInstall (s : State) (k : EndKey) : State :=
  match s.moves.find? fun x => x.1 == k with
  | some (_, m) =>
    match m.chk with
    | some chk =>
      if !m.placed || m.chunks.length != 4 * m.kib then s
      else if m.kib != 0 && !s.ctxFits m.die m.kib then s.claimRoom m.die m.kib
      else
        let e : EndRec :=
          { key := k
            gen := m.gen
            chk := chk
            fn := m.fn
            die := m.die
            next := m.next
            credits := m.credits
            items := m.items
            bind := if m.kib == 0 then none else some ⟨m.hidx, m.kib, m.fn, m.ctx, m.bad, s.granules m.die m.kib, .idle, s.cyc, m.cscope⟩
            running := none
            faulted := m.faulted
            frozen := false
            pending := false
            closed := false
            orphan := false
            peer := m.peer
            frozenAt := 0
            base := m.base }
        let s1 := { s with moves := s.moves.filter fun x => x.1 != k }.putEnd e
        let s2 := match m.lost with | some last => s1.orphanBehind k last | none => s1
        (if m.kib == 0 then s2 else s2.ensureStanding m.die m.fn m.hidx).wakeEnd k
    | none => s
  | none => s

/-- A change of the store's size goes on: for a larger store the lines in the ways it takes leave the L2, for a smaller one the contexts that lie outside the new extent are evicted once no handler runs on them; when that is done, the change has taken effect (R390). -/
def State.settleStore (s : State) (die : Nat) : State :=
  match (s.die die).ways with
  | none => s
  | some old =>
    let outside (e : EndRec) : Bool := e.die == die && match e.bind with | some b => b.beyond (s.ctxstore.lo * 8192) | none => false
    let free (e : EndRec) : Bool := e.running.isNone && match e.bind with | some b => decide (b.st = .idle) || decide (b.st = .active) | none => false
    let s1 := if old < s.ctxstore.lo then s.trimL2 die
      else (s.ends.filter fun e => outside e && free e).foldl (fun s e => s.evictCtx e.key) s
    let done := if old < s.ctxstore.lo then s1.trimmed die else !s1.ends.any outside
    if done then s1.onDie die fun d => { d with ways := none } else s1

/-- Room may have come on a die: a change of its store goes on, and so does whoever waits for room, an end that is being adopted first. -/
def State.wakeDie (s : State) (die : Nat) : State :=
  let s1 := s.settleStore die
  let s2 := (s1.moves.filter fun x => x.2.die == die).foldl (fun s x => s.tryInstall x.1) s1
  (s2.ends.filter fun e => e.die == die).foldl (fun s e => s.wakeEnd e.key) s2

/-- `CTXSTORE` has been written: each die's store changes from its old size (R390). -/
def State.resizeStore (s : State) (old : Nat) : State :=
  if s.ctxstore.lo == old then s
  else (List.range 4).foldl (fun s d => (s.onDie d fun x => { x with ways := some (x.ways.getD old) }).wakeDie d) s

/-- What an adoption comes to: it waits for the end's MOVE, is refused with a status, or begins with what the home stored. -/
inductive Adoption where
  | waits
  | refused (status : Nat)
  | granted (m : Moved)
deriving DecidableEq, Repr

/-- Step 5 at the home: the generation rises and the adopter is recorded. An ADOPT that comes before the end's MOVE, or before the whole of its context, waits; a bound end needs a store on the adopter's die. -/
def State.homeAdopt (s : State) (k : EndKey) (gen dev : Nat) (store : Bool) : State × Adoption :=
  match s.homeEnd k with
  | none => (s, .refused stBADH)
  | some h =>
    if h.gen != gen || 0x7FFFF ≤ gen then (s, .refused stBADH)
    else
      match h.st, h.moved with
      | .resident _, _ => (s, .waits)
      | .transit, some m =>
        if !m.placed || m.chunks.length != 4 * m.kib then (s, .waits)
        else if m.kib != 0 && !store then (s, .refused stNORES)
        else
          let peer := match s.homeEnd (otherEnd k) with
            | some o => match o.st with | .resident d => d | _ => noDev
            | none => noDev
          let s1 := (s.onHome k fun h => { h with st := .resident dev, gen := gen + 1, moved := none, steps := h.steps ++ [(gen, 2)] }).tellHolder k dev
          let base := if k.cons then (match s.stream k.stream with | some x => x.base | none => 0) else match s.homeEnd (otherEnd k) with | some o => o.gen | none => 0
          (s1, .granted { m with gen := gen + 1, chk := some (s.chkOf k (gen + 1)), peer := peer, base := base })
      | _, _ => (s, .refused stBADH)

/-- Step 4 at the adopter, for a carried end and the generation its handle item names. -/
def State.adopt (s : State) (k : EndKey) (gen fn die : Nat) : State × Adoption :=
  let store := s.ctxCap die != 0
  let enter (s : State) (m : Moved) : State := { s with moves := s.moves.filter (fun x : EndKey × Moved => x.1 != k) ++ [(k, { m with fn := fn, die := die })] }
  if k.home == s.own then
    match s.homeAdopt k gen s.own store with
    | (s1, .granted m) => ((enter s1 m).tryInstall k, .granted m)
    | r => r
  else if s.fab.dead.contains k.home then (s, .refused stORPHAN)
  else ((enter s (Moved.blank gen)).fwSend (s.smove k.home k gen 2 s.own 0 0 (if store then 1 else 0) 0 0 fn 0 []), .granted (Moved.blank gen))

end Sys2Proof.Machine
end

