-- ==== Sys2Proof/Machine/FabInstr.lean ====
section
/-! DEFINITION. Fabric, stream and message instructions, group 0xC, and the progress of a warp's fabric queue (R348 to R378). -/

namespace Sys2Proof.Machine

/-! ## Issue (R355 to R360) -/

/-- An operand's memory: its extent, the alignment asked of it, whether it is written, and whether it is a scratchpad offset. -/
structure FabAddr where
  pad   : Bool
  addr  : W64
  len   : Nat
  align : Nat
  write : Bool
deriving DecidableEq, Repr

/-- The extent lies in the address space; an empty one has no byte outside it. -/
def FabAddr.inSpace (x : FabAddr) : Bool :=
  x.len == 0 || canonical x.addr && x.addr.toNat + x.len ≤ 2 ^ 64 && canonical (BitVec.ofNat 64 (x.addr.toNat + x.len - 1))

/-- The addresses of an extent at which its translation may change: its first byte, where entries of the TLBs begin and end, and where live private areas begin. -/
def State.xlatePoints (s : State) (core a n : Nat) : List Nat :=
  let ends_ (e : TlbEnt) : List Nat := [e.page.va, e.page.va + pageBytes e.page.size]
  a :: (((s.core core).tlb.flatMap ends_ ++ (s.die (core / 60)).tlb.flatMap ends_ ++
    (Tbl.values s.bundles).map (·.priv) ++ (Tbl.values s.wgs).map (·.priv)).filter fun v => a ≤ v && v < a + n)

/-- The checks of R205 over whole extents, in its order: 0 passes. -/
def State.fabCheck (s : State) (k : Nat) (as : List FabAddr) : Nat :=
  let g := s.wg (wgOf k)
  let refused (x : FabAddr) : Bool := x.len != 0 && (s.xlatePoints g.coreKey x.addr.toNat x.len).any fun v =>
    decide (s.xlate g.coreKey g.fn g.proc v x.write = .refused)
  if as.any fun x => x.addr.toNat % x.align != 0 then cALIGNF
  else if as.any fun x => !x.pad && !x.inSpace then cADDRF
  else if as.any fun x => x.pad && x.len != 0 && s.localFault (wgOf k) 1 x.addr x.len != 0 then cSPRANGE
  else if as.any fun x => !x.pad && refused x then cPROTF
  else 0

/-- The value of a handle operand (R356). -/
def State.handle (s : State) (k : Nat) (w : Warp) (st : Stream) (x : Slot) (o : Opnd) : Nat :=
  match o with
  | .x n => (w.x64 (.x n)).toNat + 2 ^ 64 * (w.x64 (.x (n + 1))).toNat
  | _ =>
    match x.mask.lanes with
    | i :: _ => laneValue (s.rds k w st o 4) i
    | [] => 0

/-- Registers read through a handle operand: a V quad, or none. -/
def handleRegs (o : Opnd) : Nat := if o.isV then 4 else 1

/-- What an instruction of the group gives to its operation. -/
structure FabArgs where
  a    : Nat
  b    : Nat
  c    : Nat
  hasC : Bool
  rel  : Bool
  mem  : List FabAddr
deriving DecidableEq, Repr

/-- The operation of an instruction as it enters the queue. -/
def fabOp (s : State) (k : Nat) (st : Stream) (x : Slot) (l : LaneReg) (code scope : Nat) (dregs : List Nat) (f : FabArgs) : FabOp where
  id := s.nextId
  op := code
  mod := BitVec.ofNat 14 (l.mod.toNat / 512 * 512 + scope * 64 + l.mod.toNat % 64)
  slot := st
  mask := x.mask
  rh := l.hdr.rh.toNat
  dregs := dregs
  a := BitVec.ofNat 128 f.a
  b := BitVec.ofNat 128 f.b
  c := BitVec.ofNat 128 f.c
  hasC := f.hasC
  pc := x.pc
  inst := s.laneInst (s.wg (wgOf k)) x.pc.toNat
  fence := if f.rel then s.nextId - 1 else 0
  phase := 0
  wait := []
  got := []
  status := 0
  word := 0
  key := none
  unknown := false

/-- Issue of an instruction of the group: it marks its destinations empty and enters the warp's fabric queue; a release part takes its place in the issue sequence (R358, R230). -/
def fabIssue (s : State) (l : LaneReg) (code : Nat) (us : List Use) (f : Nat → Warp → Stream → Slot → FabArgs) : Out :=
  laneIssue s l.hdr us fun k w st x act =>
    match s.scopePolicy (s.wg (wgOf k)).fn l.scope with
    | none => .trap cSCOPEF act.toNat
    | some (scope, down) =>
      let y := f k w st x
      match s.fabCheck k y.mem with
      | 0 =>
        if s.memBlocked k st x.mask w.after || w.qfenced 3 then .stay s
        else
          let dregs := (us.filter fun u => u.dst).flatMap (Use.entries w.rg)
          let s1 := s.putWarp k ((fun v : Warp => { v with rg := v.rg.marked dregs }) (w.downgraded down))
          let s2 := if y.rel then s1.fenceReq { s.laneReq k w st x l.hdr .fence 0 with parent := s.nextId + 1 } true false scope else s1
          .done (s2.onWarp k fun v => { v with fabq := v.fabq ++ [fabOp s2 k st x l code scope dregs y] }).bump
      | c => .trap c act.toNat

/-- `BPOST` (R361). -/
def execBpost (l : LaneReg) (s : State) : Out :=
  fabIssue s l 0 (LaneReg.uses1 l) fun _ w _ _ =>
    let b := (w.x64 l.b).toNat
    let n := fieldOf b 31 0
    { a := (w.x64 l.a).toNat
      b := b
      c := (w.x64 l.c).toNat
      hasC := true
      rel := false
      mem := if modBits l.mod 10 10 == 1 then [] else [⟨false, w.x64 l.a, n, 128, true⟩, ⟨false, w.x64 l.c, 16, 16, true⟩] }

/-- `BSEND` (R363). -/
def execBsend (l : LaneReg) (s : State) : Out :=
  fabIssue s l 1 (LaneReg.uses1 l) fun _ w _ _ =>
    let n := fieldOf (w.x64 l.b).toNat 31 0
    { a := (w.x64 l.a).toNat
      b := (w.x64 l.b).toNat
      c := (w.x64 l.c).toNat
      hasC := true
      rel := true
      mem := [⟨false, w.x64 l.a, n, 1, false⟩] }

/-- `AMSEND` (R364). -/
def execAmsend (l : LaneReg) (s : State) : Out :=
  fabIssue s l 2 (LaneReg.uses1 l) fun _ w _ _ =>
    let n := (w.x64 l.c).toNat
    { a := (w.x64 l.a).toNat
      b := (w.x64 l.b).toNat
      c := n
      hasC := true
      rel := true
      mem := [⟨false, w.x64 l.b, n, 1, false⟩] }

/-- `STOPEN` (R367). -/
def execStopen (l : LaneReg) (s : State) : Out :=
  fabIssue s l 8 [⟨l.d, 4, l.hdr.fe.getLsbD 4, true⟩, ⟨l.b, 4, l.hdr.fe.getLsbD 2, true⟩] fun _ _ _ _ =>
    { a := 0
      b := 0
      c := 0
      hasC := false
      rel := false
      mem := [] }

/-- `STSEND` (R368). -/
def execStsend (l : LaneReg) (s : State) : Out :=
  fabIssue s l 9 (LaneReg.uses l 1 (handleRegs l.a) 1 1 1) fun k w st x =>
    let n := (w.x64 l.c).toNat
    { a := s.handle k w st x l.a
      b := (w.x64 l.b).toNat
      c := n
      hasC := true
      rel := true
      mem := [⟨modBits l.mod 5 5 == 1, w.x64 l.b, n, 1, false⟩] }

/-- `STRECV` (R369). -/
def execStrecv (l : LaneReg) (s : State) : Out :=
  fabIssue s l 10 (LaneReg.uses l 2 (handleRegs l.a) 1 1 1) fun k w st x =>
    let n := if l.c.isNone then 4096 else (w.x64 l.c).toNat
    { a := s.handle k w st x l.a
      b := (w.x64 l.b).toNat
      c := n
      hasC := !l.c.isNone
      rel := false
      mem := [⟨modBits l.mod 5 5 == 1, w.x64 l.b, n, 1, true⟩] }

/-- `STXFER` (R370). -/
def execStxfer (l : LaneReg) (s : State) : Out :=
  fabIssue s l 11 (LaneReg.uses l 1 (handleRegs l.a) (handleRegs l.b) 1 1) fun k w st x =>
    { a := s.handle k w st x l.a
      b := s.handle k w st x l.b
      c := 0
      hasC := false
      rel := true
      mem := [] }

/-- `STADOPT` (R371). -/
def execStadopt (l : LaneReg) (s : State) : Out :=
  fabIssue s l 12 (LaneReg.uses l 4 (handleRegs l.a) 1 1 1) fun k w st x =>
    { a := s.handle k w st x l.a
      b := 0
      c := 0
      hasC := false
      rel := false
      mem := [] }

/-- `STBIND` (R372). -/
def execStbind (l : LaneReg) (s : State) : Out :=
  fabIssue s l 13 (LaneReg.uses l 1 (handleRegs l.a) 1 1 1) fun k w st x =>
    let a := s.handle k w st x l.a
    let b := (w.x64 l.b).toNat
    let kib := fieldOf b 22 16
    -- an unbind writes as many bytes as the end's context has
    let n := if kib == 0 then (match (s.endOf a true).bind fun e => e.bind with | some y => y.kib * 1024 | none => 0) else kib * 1024
    { a := a
      b := b
      c := (w.x64 l.c).toNat
      hasC := true
      rel := false
      mem := if w.x64 l.c == 0 then [] else [⟨false, w.x64 l.c, n, 1, kib == 0⟩] }

/-- `STCLOSE` (R373). -/
def execStclose (l : LaneReg) (s : State) : Out :=
  fabIssue s l 14 (LaneReg.uses l 1 (handleRegs l.a) 1 1 1) fun k w st x =>
    { a := s.handle k w st x l.a
      b := 0
      c := 0
      hasC := false
      rel := false
      mem := [] }

/-- `STQUERY` (R374): its SEL stands where the other forms have PAD. -/
def execStquery (l : LaneReg) (s : State) : Out :=
  fabIssue s l 15 (LaneReg.uses l 2 (handleRegs l.a) 1 1 1) fun k w st x =>
    { a := s.handle k w st x l.a
      b := 0
      c := 0
      hasC := false
      rel := false
      mem := [] }

/-! ## An operation's results and accesses (R358, R360) -/

def FabOp.nb (o : FabOp) : Bool := modBits o.mod 11 11 == 1
def FabOp.cancel (o : FabOp) : Bool := modBits o.mod 10 10 == 1
def FabOp.pad (o : FabOp) : Bool := modBits o.mod 5 5 == 1
def FabOp.prio (o : FabOp) : Nat := modBits o.mod 13 12
def FabOp.scope (o : FabOp) : Nat := modBits o.mod 8 6

def State.onOp (s : State) (k id : Nat) (f : FabOp → FabOp) : State :=
  s.onWarp k fun w => { w with fabq := w.fabq.map fun o => if o.id == id then f o else o }

/-- Words written to registers in the lanes of a mask; the registers become full. -/
def Regs.give (r : Regs) (m : LaneMask) (es vals : List Nat) : Regs :=
  ((es.zip vals).foldl (fun r p => r.merge m p.1 (Lanes.splat (BitVec.ofNat 32 p.2))) r).filled es

/-- The operation ends: its results are written and it leaves the queue. -/
def State.fabDone (s : State) (k : Nat) (o : FabOp) (vals : List Nat) : State :=
  (s.delReq o.fence).onWarp k fun w => { w with
    fabq := w.fabq.filter fun x => x.id != o.id
    rg := w.rg.give o.mask o.dregs vals }

/-- The operation ends with a status beside a field of the result word, from bit `lo` on, that the spec states only for a message opened or an item appended: it is free (log 81). -/
def State.failed (s : State) (k : Nat) (o : FabOp) (lo n st : Nat) : State :=
  (s.drawn 1).fabDone k o [st + s.freeWord.toNat % 2 ^ n * 2 ^ lo]

def handleWords (h : Nat) : List Nat := [h % 2 ^ 32, fieldOf h 63 32, fieldOf h 95 64, fieldOf h 127 96]

/-- The pieces of a run of bytes, cut at lines: offset, address and length. -/
def cutLines (a n : Nat) : List (Nat × Nat × Nat) :=
  if n == 0 then []
  else (List.range ((a + n - 1) / 128 - a / 128 + 1)).map fun i =>
    let lo := max a (128 * (a / 128 + i))
    (lo - a, lo, min (a + n) (128 * (a / 128 + i + 1)) - lo)

/-- A request that reads or writes for an operation or message `parent` of a warp. -/
def State.fabReq (s : State) (k parent : Nat) (st : Stream) (mask : LaneMask) (rh : Nat) (pc : BitVec 20) (inst : W32) (kind : ReqKind) : Req :=
  let g := s.wg (wgOf k)
  { Req.blank s.nextId with
    kind := kind
    warp := k
    core := g.coreKey
    fn := g.fn
    space := g.proc
    stream := st
    mask := mask
    rh := rh
    parent := parent
    pc := pc.setWidth 64
    inst := inst }

/-- A failure found while the operation works: it ends (R360). -/
def State.opFault (s : State) (k : Nat) (o : FabOp) (code : Nat) : State := s.fabFault (s.fabReq k o.id o.slot o.mask o.rh o.pc o.inst .load) code

/-- Bytes are read for the operation; when they are at hand it stands in phase 2. The prefix of a `BSEND` and the context of a `STBIND` are read past the L1 (R363, R372). -/
def State.fabRead (s : State) (k : Nat) (o : FabOp) (pad : Bool) (a n : Nat) : State :=
  if n == 0 then s.onOp k o.id fun o => { o with phase := 2, got := [] }
  else if pad then
    if s.padPoisoned (wgOf k) 1 (BitVec.ofNat 64 a) n then s.opFault k o cMEMERR
    else s.onOp k o.id fun o => { o with phase := 2, got := [(0, s.localN (wgOf k) 1 (BitVec.ofNat 64 a) n)] }
  else
    let s1 := s.request (s.fabReq k o.id o.slot o.mask (if o.op == 1 || o.op == 13 then 3 else o.rh) o.pc o.inst .load)
      ((cutLines a n).map fun p => (⟨p.1, p.2.1, 0, p.2.2, 0, 0, 0⟩ : Access))
    s1.onOp k o.id fun o => { o with phase := 1, got := [], wait := (s1.siblings s.nextId).map (·.id) }

/-- Bytes are written for the operation; when they are performed it stands in phase 2. The sync word of a `BPOST` is written at its home, where the device counts in it (R361, R362; log 83). -/
def State.fabStore (s : State) (k : Nat) (o : FabOp) (pad : Bool) (a : Nat) (bs : List Byte) : State :=
  if bs.isEmpty then s.onOp k o.id fun o => { o with phase := 2 }
  else if pad then
    ((s.localPutN (wgOf k) 1 (BitVec.ofNat 64 a) bs.length (leNat bs)).padHeal (wgOf k) 1 ((List.range bs.length).map (a + ·))).onOp k o.id
      fun o => { o with phase := 2 }
  else
    let s1 := s.request { s.fabReq k o.id o.slot o.mask o.rh o.pc o.inst .store with home := o.op == 0 }
      ((cutLines a bs.length).map fun p =>
        (⟨32, p.2.1, 0, p.2.2, leNat ((bs.drop p.1).take p.2.2), 0, 2 ^ p.2.2 - 1⟩ : Access))
    s1.onOp k o.id fun o => { o with phase := 1, wait := (s1.siblings s.nextId).map (·.id) }

/-- What was read, as bytes. -/
def gathered (n : Nat) (got : List (Nat × Nat)) : List Byte := bytesLE n (got.foldl (fun v p => v + p.2 * 2 ^ (8 * p.1)) 0)

/-- A reply to a request of an operation or message (R358, R363). -/
def State.fabReply (s : State) (r : Req) : State :=
  let got (old : List (Nat × Nat)) : List (Nat × Nat) := if r.kind == .load then old ++ r.reply else old
  s.onWarp r.warp fun w => { w with
    fabq := w.fabq.map fun o => if o.id != r.parent || !o.wait.contains r.id then o else
      let rest := o.wait.filter fun i => i != r.id
      { o with wait := rest, got := got o.got, phase := if o.phase == 1 && rest.isEmpty then 2 else if o.phase == 3 && rest.isEmpty then 4 else o.phase }
    msgs := w.msgs.map fun m => if m.id != r.parent || !m.wait.contains r.id then m else
      { m with wait := m.wait.filter fun i => i != r.id, got := got m.got } }

/-! ## Received messages (R348 to R351, R361, R362) -/

/-- A sync word. -/
def syncBits (src msgid state len count : Nat) : Nat :=
  src % 2 ^ 20 * 2 ^ 108 + msgid % 65536 * 2 ^ 92 + state * 2 ^ 64 + len % 2 ^ 32 * 2 ^ 32 + count % 2 ^ 32

/-- A sync word changed in one step at its home; a live private area takes no write (R304). -/
def State.onSync (s : State) (fn : Nat) (p : Posted) (f : Nat → Nat) : State :=
  if s.livePriv fn p.space p.sync then s else s.vwrite fn p.space p.sync (bytesLE 16 (f (s.vread fn p.space p.sync 16)))

def withState (st v : Nat) : Nat := v - fieldOf v 71 64 * 2 ^ 64 + st * 2 ^ 64

/-- A slot is freed, and its sync word shows why. -/
def State.freeSlot (s : State) (fn slot st : Nat) : State :=
  match Tbl.find (s.fn fn).slots slot with
  | some p => (s.onSync fn p (withState st)).onFn fn fun f => { f with slots := Tbl.del f.slots slot }
  | none => s

def State.onMsg (s : State) (src msgid : Nat) (f : RecvMsg → RecvMsg) : State :=
  { s with fab := { s.fab with msgs := s.fab.msgs.map fun m => if m.src == src && m.msgid == msgid then f m else m } }
def State.dropMsg (s : State) (src msgid : Nat) : State :=
  { s with fab := { s.fab with msgs := s.fab.msgs.filter fun m => !(m.src == src && m.msgid == msgid) } }
def State.msg (s : State) (src msgid : Nat) : Option RecvMsg := s.fab.msgs.find? fun m => m.src == src && m.msgid == msgid

/-- A message is refused or aborted here: the sender is told where `tell` says so, the slot is freed. -/
def State.abortMsg (s : State) (m : RecvMsg) (tell : Bool) : State :=
  let s1 := if tell then s.bstat m.src m.msgid m.fn 3 else s
  let s2 := s1.dropMsg m.src m.msgid
  if decide (m.state = .waitbuf) then s2 else s2.freeSlot m.fn m.slot 4

/-- The record that waits for a slot becomes ACTIVE now that its buffer is there; a message longer than the buffer is refused (R349, R361). -/
def State.activate (s : State) (m : RecvMsg) : State :=
  match Tbl.find (s.fn m.fn).slots m.slot with
  | none => s
  | some p =>
    if p.len < m.len then
      (((s.onSync m.fn p fun _ => syncBits m.src m.msgid 4 m.len 0).onFn m.fn fun f => { f with slots := Tbl.del f.slots m.slot }).dropMsg m.src m.msgid).bstat
        m.src m.msgid m.fn 3
    else
      (s.onSync m.fn p fun _ => syncBits m.src m.msgid 1 m.len 0).onMsg m.src m.msgid fun m => { m with state := .active }

/-- A slot belongs to the message whose record is active or paused there. -/
def State.slotTaken (s : State) (fn slot : Nat) : Bool := s.fab.msgs.any fun m => m.fn == fn && m.slot == slot && decide (m.state ≠ .waitbuf)

def State.oldestWaiting (s : State) (fn slot : Nat) : Option RecvMsg :=
  match s.fab.msgs.filter fun m => m.fn == fn && m.slot == slot && decide (m.state = .waitbuf) with
  | [] => none
  | m :: ms => some (ms.foldl (fun a b => if b.birth < a.birth then b else a) m)

/-- Byte ranges that are received or granted; those of a prefix are on their way for 80 µs (R344, R353; log 38). -/
def RecvMsg.covered (m : RecvMsg) (now : Nat) : List (Nat × Nat) :=
  m.got ++ m.tokens.map (fun t => (t.off, t.len)) ++ if now < m.birth + Config.usec 80 then [(0, m.pre)] else []

def skipCovered (cs : List (Nat × Nat)) : Nat → Nat → Nat
  | 0, a => a
  | n + 1, a => match cs.find? fun c => c.1 ≤ a && a < c.1 + c.2 with | some c => skipCovered cs n (c.1 + c.2) | none => a

/-- The first run of bytes neither received nor granted: offset and length, 0 where there is none. -/
def RecvMsg.gap (m : RecvMsg) (now : Nat) : Nat × Nat :=
  let cs := m.covered now
  let a := skipCovered cs cs.length 0
  if m.len ≤ a then (m.len, 0)
  else (a, cs.foldl (fun n c => if a < c.1 then min n (c.1 - a) else n) (m.len - a))

def RecvMsg.received (m : RecvMsg) : Nat := m.got.foldl (fun n c => n + c.2) 0

/-- Granted bytes that have not arrived, over all messages. -/
def State.grantedOut (s : State) : Nat := s.fab.msgs.foldl (fun n m => n + m.tokens.foldl (fun n t => n + (t.len - t.got)) 0) 0

/-- The message that is granted next (R350). -/
def State.grantee (s : State) : Option RecvMsg :=
  let left (m : RecvMsg) : Nat := m.len - m.received
  match s.fab.msgs.filter fun m => decide (m.state = .active) && m.tokens.length < 4 && (m.gap s.cyc).2 != 0 with
  | [] => none
  | m :: ms => some (ms.foldl (fun a b =>
      if a.eff < b.eff || (a.eff == b.eff && (left b < left a || (left b == left a && b.birth < a.birth))) then b else a) m)

/-- Tokens are granted while the window has room (R350, R353). -/
def State.grantTokens : Nat → State → State
  | 0, s => s
  | fuel + 1, s =>
    match s.grantee with
    | none => s
    | some m =>
      let gap := m.gap s.cyc
      let n := min 8192 gap.2
      if s.bulk.lo * 65536 < s.grantedOut + n then s
      else
        State.grantTokens fuel ((s.onMsg m.src m.msgid fun m => { m with tokens := m.tokens ++ [⟨gap.1, n, s.cyc, 0⟩], eff := m.prio, since := s.cyc }).emit
          (s.header m.src 0x18 0 0 m.fn 0 0 (m.msgid * 2 ^ 34 + gap.1 * 4) (n * 2 ^ 96) []))

/-- A window holds at most 512 tokens of 8 KiB. -/
def State.grants (s : State) : State := State.grantTokens 1024 s

/-! ## Active messages accepted here (R354) -/

/-- An active message reaches its function: the state and AMACK status; none where the queue is full. -/
def State.amAccept (s : State) (fn src hidx scope : Nat) (bs : List Byte) : Option (State × Nat) :=
  let f := s.fn fn
  if f.table_.isNone then some (s, 1)
  else if (tableEnt f.table_ hidx).isNone then some (s, 2)
  else if 1024 ≤ f.ams.length then none
  else some (s.onFn fn fun f => { f with ams := f.ams ++ [⟨src, hidx, scope, bs⟩] }, 0)

/-! ## The operations (R361 to R374) -/

/-- The device is addressed as a possible target. -/
def deviceOk (d : Nat) : Bool := d ≤ 786431

/-- The pages of an extent: 0 all homed here, host memory among them (R194), 1 some not mapped, 2 some homed elsewhere. -/
def State.homedHere (s : State) (fn space a n : Nat) : Nat :=
  let ps := pagesOf a n
  if ps.any fun v => match s.page fn space v with | some p => isRemote (pagePhys p v) | none => false then 2
  else if ps.all fun v => (s.page fn space v).isSome then 0 else 1

/-- `BPOST`, not begun, or with its sync word written. -/
def State.doBpost (s : State) (k : Nat) (o : FabOp) : State :=
  let g := s.wg (wgOf k)
  let b := o.b.toNat
  let n := fieldOf b 31 0
  let slot := fieldOf b 43 32
  let taken := (Tbl.find (s.fn g.fn).slots slot).isSome
  if b / 2 ^ 44 != 0 then s.fabDone k o [stINVAL]
  else if o.cancel then
    if !taken then s.fabDone k o [stINVAL]
    else
      match s.fab.msgs.find? fun m => m.fn == g.fn && m.slot == slot && decide (m.state ≠ .waitbuf) with
      | some m => (s.abortMsg m true).fabDone k o [0]
      | none => (s.freeSlot g.fn slot 5).fabDone k o [0]
  else if n == 0 then s.fabDone k o [stINVAL]
  else
    match max (s.homedHere g.fn g.proc o.a.toNat n) (s.homedHere g.fn g.proc o.c.toNat 16) with
    | 2 => s.fabDone k o [stINVAL]
    | 1 => (s.unmapped g.fn g.proc [] o.a.toNat n ++ s.unmapped g.fn g.proc [] o.c.toNat 16).foldl (fun s v => s.addWalk g.die g.fn g.proc v false) s
    | _ =>
      if taken then s.fabDone k o [stBUSY]
      else if o.phase == 0 then s.fabStore k o false o.c.toNat (List.replicate 16 0)
      else
        let s1 := s.onFn g.fn fun f => { f with slots := Tbl.put f.slots slot ⟨g.proc, o.a.toNat, n, o.c.toNat⟩ }
        let s2 := match s1.oldestWaiting g.fn slot with | some m => (s1.activate m).grants | none => s1
        s2.fabDone k o [0]

/-- A MSGID that no open message to the device carries. -/
def State.newMsgid (s : State) (dev : Nat) : Nat :=
  let used := s.warps.flatMap fun x : Nat × Warp => (x.2.msgs.filter fun m => m.dev == dev).map fun m => m.msgid
  (((List.range 65536).map fun i => (s.fab.nextMsg + i) % 65536).find? fun i => !used.contains i).getD 0

/-- BDATA and BREQ of a message. -/
def State.bulkPkt (s : State) (op fn dev msgid off len slot prio : Nat) (resume : Bool) (bs : List Byte) : Packet :=
  s.header dev op 0 0 fn 0 0 (msgid * 2 ^ 34 + off * 4) (len * 2 ^ 96 + slot * 2 ^ 84 + prio * 2 ^ 82 + if resume then 2 ^ 81 else 0) (flitsOf 8 bs)

/-- Bytes of a message, sent in BDATA packets. -/
def State.sendBulk (s : State) (k : Nat) (m : OpenMsg) (off : Nat) (bs : List Byte) : State :=
  (pieces256 bs).foldl (fun s x => s.warpSend k m.id m.stream m.mask m.pc m.inst
    (s.bulkPkt 4 (s.wg (wgOf k)).fn m.dev m.msgid (off + 256 * x.1) m.len m.slot m.prio false x.2)) s

/-- `BSEND` (R363, R348). -/
def State.doBsend (s : State) (k : Nat) (o : FabOp) : State :=
  let b := o.b.toNat
  let n := fieldOf b 31 0
  let dev := fieldOf b 51 32
  if n == 0 || b / 2 ^ 52 != 0 || 4096 ≤ o.c.toNat || dev == s.own || !deviceOk dev then s.failed k o 16 16 stINVAL
  else
    match Tbl.find s.warps k with
    | none => s
    | some w =>
      if 16 ≤ w.msgs.length then s
      else
        let pre := min n (s.bulk.hi * 256)
        if o.phase == 0 then s.fabRead k o false o.a.toNat pre
        else
          let id := s.newMsgid dev
          let m : OpenMsg :=
            { id := o.id
              msgid := id
              dev := dev
              slot := o.c.toNat
              prio := o.prio
              len := n
              src := o.a.toNat
              tokens := []
              rh := o.rh
              stream := o.slot
              dregs := o.dregs
              mask := o.mask
              pc := o.pc
              inst := o.inst
              wait := []
              got := []
              run := 0
              paused := false }
          let s1 := ((s.delReq o.fence).onWarp k fun w => { w with
            fabq := w.fabq.filter fun x => x.id != o.id
            msgs := w.msgs ++ [m] })
          let s2 := { s1 with fab := { s1.fab with nextMsg := (id + 1) % 65536 } }
          if pre == 0 then s2.warpSend k m.id m.stream m.mask m.pc m.inst (s2.bulkPkt 8 (s.wg (wgOf k)).fn dev id 0 n m.slot m.prio false [])
          else s2.sendBulk k m 0 (gathered pre o.got)

/-- An open message ends with a status (R363). -/
def State.endMsg (s : State) (k : Nat) (m : OpenMsg) (st : Nat) : State :=
  (s.cancelParent m.id).onWarp k fun w => { w with
    msgs := w.msgs.filter fun x => x.id != m.id
    rg := w.rg.give m.mask m.dregs [m.msgid * 65536 + st] }

/-- An open message goes on: what its tokens grant is read, in OFFSET order, and sent once it is at hand (R350, R363). Bytes that were read before a token for lower ones came are read again when it is their turn. -/
def State.pumpMsg (s : State) (k : Nat) (m : OpenMsg) : State :=
  if m.paused || !m.wait.isEmpty then s
  else
    match m.tokens with
    | [] => s
    | (off, n) :: rest =>
      let c := min 256 n
      let upd (f : OpenMsg → OpenMsg) (s : State) : State := s.onWarp k fun w => { w with msgs := w.msgs.map fun x => if x.id == m.id then f x else x }
      if m.got.isEmpty || m.run != off then
        let s1 := s.request (s.fabReq k m.id m.stream m.mask 3 m.pc m.inst .load)
          ((cutLines (m.src + off) c).map fun p => (⟨p.1, p.2.1, 0, p.2.2, 0, 0, 0⟩ : Access))
        upd (fun x => { x with wait := (s1.siblings s.nextId).map (·.id), got := [], run := off }) s1
      else
        upd (fun x => { x with got := [], tokens := if n ≤ c then rest else (off + c, n - c) :: rest }) (s.sendBulk k m off (gathered c m.got))

/-- AMSG: the layout of OSB is the model's (log 23): [11:0] handler index, [24:16] payload bytes. -/
def State.amsgPkt (s : State) (dev fn hidx scope : Nat) (bs : List Byte) : Packet :=
  s.header dev 5 0 0 fn scope 0 0 (hidx + bs.length * 65536) (flitsOf 8 bs)

/-- `AMSEND` (R364). -/
def State.doAmsend (s : State) (k : Nat) (o : FabOp) : State :=
  let a := o.a.toNat
  let dev := fieldOf a 19 0
  let hidx := fieldOf a 31 20
  let n := o.c.toNat
  let fn := (s.wg (wgOf k)).fn
  let give (st : Nat) : Nat := match st with | 0 => 0 | 1 => stNOTABLE | 2 => stRANGE | _ => stUNKNOWN
  match o.phase with
  | 0 => if 256 < n || !deviceOk dev || a / 2 ^ 32 != 0 then s.fabDone k o [stINVAL] else s.fabRead k o false o.b.toNat n
  | 4 => s.fabDone k o [give o.status]
  | 3 => s
  | 1 => s
  | _ =>
    if dev == s.own then
      -- a message that finds the queue full waits beside the fabric queue, which goes on (R358)
      match s.amAccept fn dev hidx o.scope (gathered n o.got) with
      | some (s1, st) => s1.fabDone k o [give st]
      | none => if o.phase == 5 then s else s.onOp k o.id fun o => { o with phase := 5 }
    else
      (s.warpSend k o.id o.slot o.mask o.pc o.inst (s.amsgPkt dev fn hidx o.scope (gathered n o.got))).onOp k o.id fun o => { o with phase := 3 }

/-- A stream index that is free, and the generation of its next use (R367, R373). -/
def State.freeStream (s : State) : Option (Nat × Nat) :=
  (List.range (min 4194304 (s.streams.length + 1))).findSome? fun n =>
    match Tbl.find s.streams n with
    | none => some (n, 0)
    | some x => if x.live || 0x7FFFF ≤ x.next then none else some (n, x.next)

/-- An end record of a new stream. -/
def newEnd (key : EndKey) (gen : Nat) (chk : W64) (fn die own : Nat) : EndRec where
  key := key
  gen := gen
  chk := chk
  fn := fn
  die := die
  next := 0
  credits := if key.cons then 0 else 64
  items := []
  bind := none
  running := none
  faulted := false
  frozen := false
  pending := false
  closed := false
  orphan := false
  peer := own
  frozenAt := 0
  base := gen

/-- `STOPEN` (R367). -/
def State.doStopen (s : State) (k : Nat) (o : FabOp) : State :=
  match s.freeStream with
  | none => s.fabDone k o (handleWords (nullHandle stNORES) ++ handleWords (nullHandle stNORES))
  | some (n, gen) =>
    let g := s.wg (wgOf k)
    let mk (cons : Bool) : EndRec := newEnd ⟨s.own, n, cons⟩ gen (s.chkOf ⟨s.own, n, cons⟩ gen) g.fn g.die s.own
    let side : HomeEnd := ⟨.resident s.own, gen, none, []⟩
    (({ s with streams := Tbl.put s.streams n ⟨true, side, side, 0, gen⟩ }.putEnd (mk false)).putEnd (mk true)).fabDone k o
      (handleWords (mk false).handle ++ handleWords (mk true).handle)

/-- An append ends without an item: the spec states a sequence number only for one appended (R368). -/
def State.notAppended (s : State) (k : Nat) (o : FabOp) (st : Nat) : State := s.failed k o 8 24 st

/-- What the other device answered to an append (R368). -/
def State.appended (s : State) (k : Nat) (o : FabOp) : State :=
  if o.status == 0 then s.fabDone k o [o.word] else s.notAppended k o o.status

/-- An item is appended at its producer end `e`: it goes to the consumer's holder, or to the home. `some n`: the request whose acknowledgement the instruction awaits (R368, R393). -/
def State.append (s : State) (k : Nat) (o : FabOp) (e : EndRec) (it : Item) : State :=
  let s1 := s.onEnd e.key fun e => { e with next := seqAdd e.next 1, credits := e.credits - 1 }
  let word := it.seq * 256
  let d := if e.peer == noDev then e.key.home else e.peer
  if d == s.own then
    let r := s1.itemIn (otherEnd e.key) e.base it
    r.1.appended k { o with word := word, status := r.2 }
  else
    let fn := (s.wg (wgOf k)).fn
    let s2 := (s1.sitems d (otherEnd e.key) e.base fn it).foldl (fun s p => s.warpSend k o.id o.slot o.mask o.pc o.inst p) s1
    let ids := (List.range (s2.nextId - s1.nextId)).map (s1.nextId + ·)
    s2.onOp k o.id fun o => { o with phase := 3, word := word, wait := ids }

/-- What keeps an append from the producer end of a handle: a status, or that it may go on, or waits (R368). -/
inductive Append where
  | status (n : Nat)
  | wait
  | go (e : EndRec)
deriving DecidableEq, Repr

def State.appendCheck (s : State) (h : Nat) (nb : Bool) : Append :=
  match s.endOf h false with
  | none => .status stBADH
  | some e =>
    if e.closed then .status stCLOSED
    else if e.orphan then .status stORPHAN
    else if e.credits == 0 then (if nb then .status stFULL else .wait)
    else .go e

/-- `STSEND` (R368). -/
def State.doStsend (s : State) (k : Nat) (o : FabOp) : State :=
  let n := o.c.toNat
  if o.phase == 4 then s.appended k o
  else if o.phase == 3 then s
  else if n == 0 || 4096 < n then s.notAppended k o stINVAL
  else
    match s.appendCheck o.a.toNat o.nb with
    | .status st => s.notAppended k o st
    | .wait => s
    | .go e =>
      if o.phase == 0 then s.fabRead k o o.pad o.b.toNat n
      else s.append k o e ⟨e.next, 0, o.scope, gathered n o.got, none⟩

/-- A `STRECV` that takes nothing: its status, with the item's number where there is an item; the spec states no length, and no number without an item (log 81). -/
def State.recvFails (s : State) (k : Nat) (o : FabOp) (st : Nat) (it : Option Item) : State :=
  (s.drawn 2).fabDone k o [st + s.freeWord.toNat % 65536 * 65536, match it with | some it => it.seq | none => (Config.freeBits (s.free + 1)).toNat % 2 ^ 32]

/-- `STRECV` (R369). -/
def State.doStrecv (s : State) (k : Nat) (o : FabOp) : State :=
  let g := s.wg (wgOf k)
  let n := o.c.toNat
  if o.phase == 2 then (s.acquire g.coreKey o.scope).fabDone k o [o.status * 65536 + (if o.unknown then stUNKNOWN else 0), o.word]
  else if n == 0 || 4096 < n then s.recvFails k o stINVAL none
  else
    match s.endOf o.a.toNat true with
    | none => s.recvFails k o stBADH none
    | some e =>
      if e.bind.isSome then s.recvFails k o stBUSY none
      else
        match e.head with
        | none => if o.nb then s.recvFails k o stEMPTY none else s
        | some it =>
          if it.kind == 1 then s.recvFails k o stXFER (some it)
          else if it.kind % 4 == 2 then s.fabDone k o [stCLOSED, it.seq]
          else if it.kind % 4 == 3 then s.fabDone k o [stORPHAN, it.seq]
          else if n < it.bytes.length then s.recvFails k o stOVERSIZE (some it)
          else
            let s1 := (s.onEnd e.key fun e => { e with items := e.items.drop 1, next := seqAdd e.next 1 }).release e 1
            -- the length stands in `status` until the bytes are performed
            (s1.onOp k o.id fun o => { o with status := it.bytes.length, word := it.seq }).fabStore k o o.pad o.b.toNat it.bytes

/-- A bind or unbind of the end has been received and is not complete; an unbind is writing the context out (R372, R375). -/
def State.binding (s : State) (e : EndRec) : Bool :=
  s.warps.any fun x : Nat × Warp => x.2.fabq.any fun o => o.op == 13 && o.phase != 0 && o.a.toNat == e.handle
def State.unbinding (s : State) (e : EndRec) : Bool :=
  s.warps.any fun x : Nat × Warp => x.2.fabq.any fun o => o.op == 13 && o.phase != 0 && o.a.toNat == e.handle && fieldOf o.b.toNat 22 16 == 0

/-- The handle item of an end that is frozen goes down its carrier, or waits for a place in the window; a carrier that takes nothing more leaves the end lost (R370, R394; log 83). -/
def State.appendHandle (s : State) (k : Nat) (o : FabOp) (key : EndKey) : State :=
  match s.appendCheck o.b.toNat false with
  | .go p => s.append k o p ⟨p.next, 1, o.scope, bytesLE 16 o.a.toNat, some key⟩
  | .wait => s.onOp k o.id fun o => { o with phase := 5, key := some key }
  | .status st => (s.giveUp key).notAppended k o st

/-- `STXFER` (R370): the status of what fails and changes nothing; the wait for a running handler; then the freeze, the MOVE and the handle item. -/
def State.doStxfer (s : State) (k : Nat) (o : FabOp) : State :=
  let find (h : Nat) (cons : Bool) : Option EndRec := s.endOf h cons
  let h := o.a.toNat
  let stays (e : EndRec) : State := s.onEnd e.key fun e => { e with pending := false }
  match o.phase, o.key with
  | 4, _ => s.appended k o
  | 3, _ => s
  | 5, some key => s.appendHandle k o key
  | _, _ =>
    match (find h true).orElse fun _ => find h false, find o.b.toNat false with
    | some e, some p =>
      if e.key.home == p.key.home && e.key.stream == p.key.stream then s.notAppended k o stBUSY
      else if e.gen == 0x7FFFF then s.notAppended k o stNORES
      else
        match s.appendCheck o.b.toNat o.nb with
        | .status st => (stays e).notAppended k o st
        | _ =>
          -- what the end record has received before the freeze completes first: a bind or unbind, and the `STADOPT` of a handle item at its head (R375)
          if e.running.isSome || s.binding e || (e.head.bind fun i => i.carried).any s.claimed then s.onEnd e.key fun e => { e with pending := true }
          else ((s.startMove e).wakeDie e.die).appendHandle k o e.key
    | some e, none => (stays e).notAppended k o stBADH
    | none, _ => s.notAppended k o stBADH

/-- The handle item that a `STADOPT` adopted from is taken, where its carrier still holds it, and its credit goes back. -/
def State.takeCarrier (s : State) (o : FabOp) : State :=
  match s.endOf o.a.toNat true with
  | some e =>
    if e.head.any fun it => it.kind == 1 && o.key == some (keyOfHandle (leNat it.bytes)) then
      (s.onEnd e.key fun e => { e with items := e.items.drop 1, next := seqAdd e.next 1 }).release e 1
    else s
  | none => s

/-- An adoption ends without success: the `STADOPT` returns the status; on a bound carrier the item holds it for the handler, and the carried end is lost (R371, R394). -/
def State.refuseAdopt (s : State) (k : EndKey) (st : Nat) : State :=
  let bound := s.ends.any fun e => e.bind.isSome && e.items.any fun i => i.carried == some k
  let spoil (i : Item) : Item := if i.carried == some k then { i with carried := none, bytes := bytesLE 16 (nullHandle st) } else i
  let waits (o : FabOp) : Bool := o.op == 12 && o.phase == 3 && o.key == some k
  let s1 : State := { s with
    moves := s.moves.filter fun x => x.1 != k
    ends := s.ends.map fun (e : EndRec) => if e.bind.isSome then { e with items := e.items.map spoil } else e }
  let s2 := if bound then s1.giveUp k else s1
  s2.warps.foldl (fun s (x : Nat × Warp) =>
    (x.2.fabq.filter waits).foldl (fun s o => s.onOp x.1 o.id fun o => { o with phase := 4, status := st }) s) s2

/-- `STADOPT` (R371). -/
def State.doStadopt (s : State) (k : Nat) (o : FabOp) : State :=
  let g := s.wg (wgOf k)
  let null (st : Nat) : State := s.fabDone k o (handleWords (nullHandle st))
  match o.phase with
  | 3 =>
    match o.key.bind s.endRec with
    | some e => if s.adopting e.key then s else ((s.takeCarrier o).acquire g.coreKey o.scope).fabDone k o (handleWords e.handle)
    | none => s
  | 4 => (if o.status == stNORES then s else s.takeCarrier o).fabDone k o (handleWords (nullHandle o.status))
  | _ =>
    match s.endOf o.a.toNat true with
    | none => null stBADH
    | some e =>
      if e.bind.isSome then null stBUSY
      else
        match e.head with
        | none => if o.nb then null stEMPTY else s
        | some it =>
          if it.kind == 0 then null stNOTXFER
          else if it.kind % 4 == 2 then null stCLOSED
          else if it.kind % 4 == 3 then null stORPHAN
          else
            let h := leNat it.bytes
            let key := keyOfHandle h
            if s.claimed key then s
            else
              match s.adopt key (fieldOf h 82 64) g.fn g.die with
              | (s1, .waits) => s1
              | (s1, .refused st) => s1.onOp k o.id fun o => { o with phase := 4, key := some key, status := st }
              | (s1, .granted _) => s1.onOp k o.id fun o => { o with phase := 3, key := some key }

/-- `STBIND` (R372). -/
def State.doStbind (s : State) (k : Nat) (o : FabOp) : State :=
  let g := s.wg (wgOf k)
  let b := o.b.toNat
  let hidx := fieldOf b 11 0
  let kib := fieldOf b 22 16
  if b / 2 ^ 23 != 0 || fieldOf b 15 12 != 0 || 64 < kib then s.fabDone k o [stINVAL]
  else
    match s.endOf o.a.toNat true with
    | none => s.fabDone k o [stBADH]
    | some e =>
      match e.bind with
      | some y =>
        if kib != 0 then s.fabDone k o [stBUSY]
        else if e.running.isSome then s
        else if o.phase == 0 && o.c != 0 then s.fabStore k o false o.c.toNat (Memory.readL y.ctx 0 (y.kib * 1024))
        else ((s.unbind e).wakeDie e.die).fabDone k o [if o.unknown then stUNKNOWN else 0]
      | none =>
        if kib == 0 then s.fabDone k o [0]
        else if s.ctxCap g.die == 0 then s.fabDone k o [stNORES]
        else if (s.fn g.fn).table_.isNone then s.fabDone k o [stNOTABLE]
        else if (tableEnt (s.fn g.fn).table_ hidx).isNone then s.fabDone k o [stRANGE]
        else if o.phase == 0 && o.c != 0 then s.fabRead k o false o.c.toNat (kib * 1024)
        else if !s.ctxFits g.die kib then s.claimRoom g.die kib
        else
          let ctx := if o.c == 0 then [] else Memory.writeL [] 0 (gathered (kib * 1024) o.got)
          let s1 := s.onEnd e.key fun e => { e with fn := g.fn, die := g.die, bind := some ⟨hidx, kib, g.fn, ctx, [], s.granules g.die kib, .idle, s.cyc, 0⟩ }
          (s1.ensureStanding g.die g.fn hidx).fabDone k o [0]

/-- `STCLOSE` (R373). -/
def State.doStclose (s : State) (k : Nat) (o : FabOp) : State :=
  match s.endOf o.a.toNat true, s.endOf o.a.toNat false with
  | some e, _ =>
    (((((s.discard e e.items).unbind e).leaveEnd e.key false).closeAtHome e.key).wakeDie e.die).fabDone k o [0]
  | none, some e =>
    let it : Item := ⟨e.next, 2, 0, [], none⟩
    let d := if e.peer == noDev then e.key.home else e.peer
    let s1 := if e.closed || e.orphan then s
      else if d == s.own then (s.itemIn (otherEnd e.key) e.base it).1
      else (s.sitems d (otherEnd e.key) e.base e.fn it).foldl State.fwSend s
    ((s1.dropEnd e.key).closeAtHome e.key).fabDone k o [0]
  | none, none => s.fabDone k o [stBADH]

/-- The counts of `STQUERY.state` (R374). -/
def EndRec.waiting (e : EndRec) : Nat := (e.items.filter fun i => !i.started).length
def EndRec.inFlight (e : EndRec) : Nat := if e.key.cons then e.waiting + (if e.running.isSome then 1 else 0) else 64 - e.credits
def EndRec.status (e : EndRec) : Nat :=
  if e.key.cons then (match e.head with | some it => if it.kind % 4 == 2 then stCLOSED else if it.kind % 4 == 3 then stORPHAN else 0 | none => 0)
  else if e.closed then stCLOSED else if e.orphan then stORPHAN else 0

def EndRec.stateWord (e : EndRec) : Nat :=
  e.status + (if e.bind.isSome then 256 else 0) +
  (match e.bind with | some b => if b.held then 0 else 512 | none => 0) +
  (if e.pending && e.running.isSome then 1024 else 0) + (if e.faulted then 2048 else 0) + e.inFlight * 65536

/-- `STQUERY.loc` at the home (R374). The spec states no second word beside a status other than OK: it is free (log 81). -/
def State.locate (s : State) (h : Nat) : List Nat :=
  let key := keyOfHandle h
  let other := s.freeWord.toNat % 2 ^ 32
  match s.homeEnd key with
  | some x =>
    if handleBits key x.gen (s.chkOf key x.gen) != h then [stBADH, other]
    else
      match x.st with
      | .resident d =>
        if d == s.own then [0, d + (match s.endRec key with | some e => e.die | none => 0) * 2 ^ 20]
        else [0, d + s.freeWord.toNat % 4 * 2 ^ 20]
      | .transit => [0, noDev]
      | .closed => [stCLOSED, other]
      | .orphaned => [stORPHAN, other]
  | none => [stBADH, other]

/-- What a remote home answers to `STQUERY.loc`, which no rule gives a packet for: one of the statuses of R374 with the word that goes with it, free otherwise (log 49). A handle that names no stream of a device is BADH (R379). -/
def State.remoteLoc (s : State) (h : Nat) : List Nat :=
  let key := keyOfHandle h
  let x := s.freeWord.toNat
  let y := (Config.freeBits (s.free + 1)).toNat
  if 4194304 ≤ key.stream || !deviceOk key.home then [stBADH, y % 2 ^ 32]
  else
    match x % 4 with
    | 0 => [0, if x / 4 % 2 == 0 then noDev else y % 786432 + x / 8 % 4 * 2 ^ 20]
    | 1 => [stBADH, y % 2 ^ 32]
    | 2 => [stCLOSED, y % 2 ^ 32]
    | _ => [stORPHAN, y % 2 ^ 32]

/-- `STQUERY` (R374); word 1 beside BADH is free (log 81). -/
def State.doStquery (s : State) (k : Nat) (o : FabOp) : State :=
  let h := o.a.toNat
  let e := (s.endOf h true).orElse fun _ => s.endOf h false
  match modBits o.mod 5 0, e with
  | 0, some e => s.fabDone k o [e.stateWord, if e.key.cons then e.waiting else 0]
  | 1, some e => s.fabDone k o [e.status, e.next]
  | 2, some e => s.fabDone k o [e.status, s.own + e.die * 2 ^ 20]
  | 2, none =>
    if (keyOfHandle h).home == s.own then (s.drawn 1).fabDone k o (s.locate h)
    else (s.drawn 2).fabDone k o (s.remoteLoc h)
  | _, _ => (s.drawn 1).fabDone k o [stBADH, s.freeWord.toNat % 2 ^ 32]

/-- The operation at the head of the queue goes on. -/
def State.advanceOp (s : State) (k : Nat) (o : FabOp) : State :=
  match o.op with
  | 0 => s.doBpost k o
  | 1 => s.doBsend k o
  | 2 => s.doAmsend k o
  | 8 => s.doStopen k o
  | 9 => s.doStsend k o
  | 10 => s.doStrecv k o
  | 11 => s.doStxfer k o
  | 12 => s.doStadopt k o
  | 13 => s.doStbind k o
  | 14 => s.doStclose k o
  | _ => s.doStquery k o

/-- The operation that may go on: an `AMSEND` whose payload has been read holds nothing back (R358). -/
def Warp.fabHead (w : Warp) : Option FabOp :=
  match w.fabq.find? fun o => o.op == 2 && o.phase == 4 with
  | some o => some o
  | none => w.fabq.find? fun o => !(o.op == 2 && (o.phase == 3 || o.phase == 5))

/-- The `AMSEND`s to the own device that wait for a place in its message queue. -/
def Warp.amWaiting (w : Warp) : List FabOp := w.fabq.filter fun o => o.op == 2 && o.phase == 5

/-- The release part of an operation has ended, or it has none (R230). -/
def State.fenceEnded (s : State) (o : FabOp) : Bool :=
  match Tbl.find s.reqs o.fence with | some r => r.relDone | none => true

/-- `FABRIC_OP_COMPLETE`: the warp's open messages go on, and the operation at the head of its fabric queue (R358, R363). -/
def execFabricOpComplete (k : Nat) (s : State) : Out :=
  match Tbl.find s.warps k with
  | none => .next s
  | some w =>
    if (s.wg (wgOf k)).status = .out then .next s else
    let s1 := w.amWaiting.foldl (fun s o => s.doAmsend k o) (w.msgs.foldl (fun s m => s.pumpMsg k m) s)
    match w.fabHead with
    | none => .next s1
    | some o => if !o.wait.isEmpty || !s.fenceEnded o then .next s1 else .next (s1.advanceOp k o)

end Sys2Proof.Machine
end

