-- ==== Sys2Proof/Machine/Time.lean ====
section
/-! DEFINITION. Device time (R315). -/

namespace Sys2Proof.Machine

/-- The physical function and the firmware cores have the device-wide registers (R414). -/
def deviceWide : Mgr → Bool | .vf _ => false | _ => true

/-- A write that disciplines the counter: SYNC and EVER are set, and the holdover starts again. -/
def State.discipline (s : State) (p : Ptp) : State := { s with ptp := { p with sync := true, ever := true, last := s.cyc } }

/-- Units of the counter's fraction in one ns: a core cycle is 10^12 of them. -/
def Ptp.unit : Nat := 1400000000000

/-- `PTPSET_WRITE`: at or above the counter it loads, below it becomes a slew. -/
def execPtpsetWrite (by_ : Mgr) (v : W64) (s : State) : Out :=
  if !deviceWide by_ then .next s
  else if s.ptp.now ≤ v.toNat then .next (s.discipline { s.ptp with now := v.toNat, owed := 0 })
  else .next (s.discipline { s.ptp with owed := (s.ptp.now - v.toNat) * Ptp.unit })

/-- `PTPADJ_WRITE`: a positive offset is added at once, a negative one becomes a slew. -/
def execPtpadjWrite (by_ : Mgr) (v : W64) (s : State) : Out :=
  if !deviceWide by_ then .next s
  else if v.toInt < 0 then .next (s.discipline { s.ptp with owed := s.ptp.owed + v.toInt.natAbs * Ptp.unit })
  else .next (s.discipline { s.ptp with now := (s.ptp.now + v.toNat) % 2 ^ 64 })

/-- A rate correction, clamped. -/
def clampRate (v : Int) : Int := max (-1000000000) (min 1000000000 v)

/-- `PTPRATE_WRITE`. -/
def execPtprateWrite (by_ : Mgr) (v : W64) (s : State) : Out :=
  if !deviceWide by_ then .next s
  else .next (s.discipline { s.ptp with rate := clampRate ((v.setWidth 32 : W32).toInt) })

/-- `PTPHOLD_WRITE`: 0 clears SYNC and keeps HOLD. -/
def execPtpholdWrite (by_ : Mgr) (v : W64) (s : State) : Out :=
  let h := v.toNat % 65536
  if !deviceWide by_ then .next s
  else if h = 0 then .next { s with ptp := { s.ptp with sync := false } }
  else .next { s with ptp := { s.ptp with hold := h } }

/-- `PTP_HOLDOVER_EXPIRY`: HOLD ms have passed without a discipline. -/
def execPtpHoldoverExpiry (s : State) : Out :=
  if s.ptp.sync && s.ptp.last + Config.msec s.ptp.hold ≤ s.cyc then .next { s with ptp := { s.ptp with sync := false } } else .next s

/-- `PTM_REQUEST`: the port answers with the time; nothing in the device changes (R315, R395). -/
def execPtmRequest (s : State) : Out := .next s

/-- The counter after one core cycle of 5/7 ns, which is 10^12 units and the rate correction; while a slew is owed, half of it is absorbed. -/
def Ptp.tick (p : Ptp) : Ptp :=
  let step : Nat := ((1000000000000 : Int) + p.rate).toNat
  let a := min p.owed (step / 2)
  let t := p.frac + (step - a)
  { p with now := (p.now + t / Ptp.unit) % 2 ^ 64, frac := t % Ptp.unit, owed := p.owed - a }

end Sys2Proof.Machine
end

