-- ==== Sys2Proof/Machine/Settings.lean ====
section
/-! DEFINITION. Settings and their two views, the expert unlock, and register writes (R10 to R12, R309, R412, R414, R415). -/

namespace Sys2Proof.Machine

/-! ## The settings -/

/-- The settings that have a `_B` and an `_X` view (R412). -/
inductive SetReg where
  | resid | replayq | rowguard | bulk | ctxstore | power | vfbud | vfscope | icoal | arbguard | park | stidle
deriving DecidableEq, Repr

/-- Its GROUP (R412). -/
def SetReg.group : SetReg → Nat
  | .resid => 1 | .replayq => 2 | .rowguard => 3 | .bulk => 4 | .ctxstore => 5 | .power => 6
  | .vfbud => 7 | .vfscope => 7 | .icoal => 8 | .arbguard => 9 | .park => 10 | .stidle => 11

/-- The two parameters that a preset code stands for; none where the map lists no such preset. A field that a preset gives no single value reads 0 (R10). -/
def SetReg.preset (r : SetReg) (code : Nat) : Option Setting :=
  let pick (l : List (Nat × Nat × Nat)) : Option Setting := (l.find? fun p => p.1 == code).map fun p => ⟨code, p.2.1, p.2.2⟩
  match r with
  | .resid => pick [(1, 0, 256), (2, 0, 512), (3, 0, 1024)]
  | .replayq => pick [(1, 128, 2), (2, 64, 4), (3, 8, 8)]
  | .rowguard => pick [(1, 10, 4096), (2, 20, 2048), (3, 40, 1024)]
  | .bulk => pick [(1, 32, 8), (2, 32, 16), (3, 32, 32)]
  | .ctxstore => pick [(0, 0, 0), (1, 0, 1), (2, 0, 2), (3, 0, 4)]
  | .power => pick [(1, 0, 240), (2, 0, 200), (3, 0, 160)]
  | .vfbud => pick [(1, 0, 0), (2, 64, 4000), (3, 16, 800)]
  | .vfscope => pick [(1, 0, 0), (2, 0, 1), (3, 0, 2)]
  | .icoal => pick [(1, 5, 8), (2, 20, 32), (3, 100, 256)]
  | .arbguard => pick [(1, 0, 2), (2, 0, 10), (3, 0, 100)]
  | .park => pick [(0, 0, 0), (1, 0, 0), (2, 0, 0)]
  | .stidle => pick [(1, 0, 100), (2, 0, 400), (3, 0, 2000)]

def clampN (lo hi n : Nat) : Nat := max lo (min hi n)

/-- The parameters of an `_X` value, clamped; a value to which the field gives a meaning is kept (R12). -/
def SetReg.expert (r : SetReg) (v : Nat) : Setting :=
  let f (hi lo : Nat) : Nat := fieldOf v hi lo
  match r with
  | .resid => ⟨15, 0, clampN 64 8191 (f 12 0)⟩
  | .replayq => let g := clampN 1 8 (f 7 0); ⟨15, clampN g 256 (f 16 8), g⟩
  | .rowguard => ⟨15, clampN 1 4095 (f 27 16), clampN 256 32768 (f 15 0)⟩
  | .bulk => ⟨15, clampN 0 64 (f 14 8), clampN 1 64 (f 7 0)⟩
  | .ctxstore => ⟨15, 0, clampN 0 4 (f 2 0)⟩
  | .power => ⟨15, 0, clampN 40 240 (f 7 0)⟩
  | .vfbud => ⟨15, clampN 1 255 (f 31 24), clampN 0 25600 (f 15 0)⟩
  | .vfscope => ⟨15, 0, clampN 0 2 (f 1 0)⟩
  | .icoal => ⟨15, clampN 1 1000 (f 21 12), clampN 1 4095 (f 11 0)⟩
  | .arbguard => ⟨15, 0, clampN 1 1000 (f 9 0)⟩
  | .park => ⟨15, 0, clampN 0 32 (f 5 0)⟩
  | .stidle => ⟨15, 0, clampN 1 65535 (f 15 0)⟩

/-- What an `_X` read returns for a setting: each parameter in the bits of its field, every other bit zero (R8, R10). -/
def SetReg.word (r : SetReg) (x : Setting) : W32 :=
  let at_ (p : Nat) : W32 := BitVec.ofNat 32 (x.hi * 2 ^ p + x.lo)
  match r with
  | .replayq => at_ 8
  | .rowguard => at_ 16
  | .bulk => at_ 8
  | .vfbud => at_ 24
  | .icoal => at_ 12
  | _ => BitVec.ofNat 32 x.lo

/-- The setting put in force; `fn` names the function of a per-function one. A core whose replay partitions hold more than a new CAP keeps the old limits until they do not (R252). -/
def State.setReg (s : State) (r : SetReg) (fn : Nat) (x : Setting) : State :=
  match r with
  | .resid => { s with resid := x }
  | .replayq =>
    let t := { s with replayq := x }
    { t with cores := Tbl.mapVal (fun k (c : Core) => { c with replay := t.replayHeld k (c.replay.getD (s.replayq.hi, s.replayq.lo)) }) s.cores }
  | .rowguard => { s with rowguard := x }
  | .bulk => { s with bulk := x }
  | .ctxstore => { s with ctxstore := x }
  | .power => { s with power := x }
  | .vfbud => s.onFn fn fun f => { f with vfbud := x, bucket := s.bucket fn, filledAt := s.cyc }
  | .vfscope => s.onFn fn fun f => { f with vfscope := x }
  | .icoal => s.onFn fn fun f => { f with icoal := x }
  | .arbguard => s.onFn fn fun f => { f with arb := x }
  | .park => s.onFn fn fun f => { f with park := x }
  | .stidle => s.onFn fn fun f => { f with stidle := x }

/-- The setting in force. -/
def State.getReg (s : State) (r : SetReg) (fn : Nat) : Setting :=
  match r with
  | .resid => s.resid
  | .replayq => s.replayq
  | .rowguard => s.rowguard
  | .bulk => s.bulk
  | .ctxstore => s.ctxstore
  | .power => s.power
  | .vfbud => (s.fn fn).vfbud
  | .vfscope => (s.fn fn).vfscope
  | .icoal => (s.fn fn).icoal
  | .arbguard => (s.fn fn).arb
  | .park => (s.fn fn).park
  | .stidle => (s.fn fn).stidle

/-- The writer's register space holds the register (R11, R414): device-wide registers and the budgets belong to the physical function and the firmware cores, per-function ones to the function itself and the physical function. -/
def SetReg.reachable (r : SetReg) (by_ : Mgr) (fn : Nat) : Bool :=
  if r.group ≤ 6 then deviceWide by_
  else if r.group = 7 then deviceWide by_ && 1 ≤ fn && fn ≤ 32
  else match by_ with | .pf => fn ≤ 32 | .vf n => n == fn && 1 ≤ n && n ≤ 32 | .fw => false

/-! ## `XUNLOCK` (R11, R412) -/

/-- The writer may unlock the group. -/
def mayUnlock (by_ : Mgr) (group : Nat) : Bool :=
  match by_ with
  | .pf => 1 ≤ group && group ≤ 11
  | .vf _ => 8 ≤ group && group ≤ 11
  | .fw => 1 ≤ group && group ≤ 7

def State.onUnlock (s : State) (by_ : Mgr) (f : Unlock → Unlock) : State := s.onFn (mgrFn by_) fun x => { x with unlock := f x.unlock }

/-- A write was discarded. -/
def State.reject (s : State) (by_ : Mgr) : State := s.onUnlock by_ fun u => { u with xrej := true }

/-- A write to `XUNLOCK`. -/
def State.writeUnlock (s : State) (by_ : Mgr) (v : W32) : State :=
  let g := fieldOf v.toNat 15 8
  if fieldOf v.toNat 31 16 != 0x5A6E || !(g == 255 || mayUnlock by_ g) then s.reject by_
  else s.onUnlock by_ fun u =>
    ⟨g, u.xrej && !v.getLsbD 2, u.xdone && !v.getLsbD 0, v.getLsbD 0⟩

/-- The group is open for the writer. -/
def State.openFor_ (s : State) (by_ : Mgr) (group : Nat) : Bool :=
  let u := (s.fn (mgrFn by_)).unlock
  u.opened && mayUnlock by_ group && (u.group == 255 || u.group == group)

/-- A write through a `_B` view (R10). -/
def State.writeB (s : State) (r : SetReg) (by_ : Mgr) (fn : Nat) (v : W32) : State :=
  if !r.reachable by_ fn then s
  else match r.preset (v.toNat % 16) with
    | some x => s.setReg r fn x
    | none => s.reject by_

/-- A write through an `_X` view (R11, R12). -/
def State.writeX (s : State) (r : SetReg) (by_ : Mgr) (fn : Nat) (v : W32) : State :=
  if !r.reachable by_ fn then s
  else if s.openFor_ by_ r.group then (s.setReg r fn (r.expert v.toNat)).onUnlock by_ fun u => { u with xdone := true }
  else s.reject by_

/-! ## The events -/

/-- `XUNLOCK_WRITE`. -/
def execXunlockWrite (by_ : Mgr) (v : W32) (s : State) : Out := .next (s.writeUnlock by_ v)

def execResidBWrite (by_ : Mgr) (v : W32) (s : State) : Out := .next (s.writeB .resid by_ 0 v)
def execResidXWrite (by_ : Mgr) (v : W32) (s : State) : Out := .next (s.writeX .resid by_ 0 v)
def execReplayqBWrite (by_ : Mgr) (v : W32) (s : State) : Out := .next (s.writeB .replayq by_ 0 v)
def execReplayqXWrite (by_ : Mgr) (v : W32) (s : State) : Out := .next (s.writeX .replayq by_ 0 v)
def execRowguardBWrite (by_ : Mgr) (v : W32) (s : State) : Out := .next (s.writeB .rowguard by_ 0 v)
def execRowguardXWrite (by_ : Mgr) (v : W32) (s : State) : Out := .next (s.writeX .rowguard by_ 0 v)
def execBulkBWrite (by_ : Mgr) (v : W32) (s : State) : Out := .next (s.writeB .bulk by_ 0 v)
def execBulkXWrite (by_ : Mgr) (v : W32) (s : State) : Out := .next (s.writeX .bulk by_ 0 v)
def execPowerBWrite (by_ : Mgr) (v : W32) (s : State) : Out := .next (s.writeB .power by_ 0 v)
def execPowerXWrite (by_ : Mgr) (v : W32) (s : State) : Out := .next (s.writeX .power by_ 0 v)
def execVfbudBWrite (by_ : Mgr) (vf : Nat) (v : W32) (s : State) : Out := .next (s.writeB .vfbud by_ vf v)
def execVfbudXWrite (by_ : Mgr) (vf : Nat) (v : W32) (s : State) : Out := .next (s.writeX .vfbud by_ vf v)
def execVfscopeBWrite (by_ : Mgr) (vf : Nat) (v : W32) (s : State) : Out := .next (s.writeB .vfscope by_ vf v)
def execVfscopeXWrite (by_ : Mgr) (vf : Nat) (v : W32) (s : State) : Out := .next (s.writeX .vfscope by_ vf v)
def execIcoalBWrite (by_ : Mgr) (fn : Nat) (v : W32) (s : State) : Out := .next (s.writeB .icoal by_ fn v)
def execIcoalXWrite (by_ : Mgr) (fn : Nat) (v : W32) (s : State) : Out := .next (s.writeX .icoal by_ fn v)
def execArbguardBWrite (by_ : Mgr) (fn : Nat) (v : W32) (s : State) : Out := .next (s.writeB .arbguard by_ fn v)
def execArbguardXWrite (by_ : Mgr) (fn : Nat) (v : W32) (s : State) : Out := .next (s.writeX .arbguard by_ fn v)
def execParkBWrite (by_ : Mgr) (fn : Nat) (v : W32) (s : State) : Out := .next (s.writeB .park by_ fn v)
def execParkXWrite (by_ : Mgr) (fn : Nat) (v : W32) (s : State) : Out := .next (s.writeX .park by_ fn v)
def execStidleBWrite (by_ : Mgr) (fn : Nat) (v : W32) (s : State) : Out := .next (s.writeB .stidle by_ fn v)
def execStidleXWrite (by_ : Mgr) (fn : Nat) (v : W32) (s : State) : Out := .next (s.writeX .stidle by_ fn v)

/-! ## `BUDGET_REFILL` (R398) -/

/-- A request bounced for its budget wakes once the bucket holds what it needs. -/
def State.refillWake (s : State) (vf : Nat) (r : Req) : Req :=
  if decide (r.stage = .replay 6 .budget) && r.fn == vf && s.affords vf (if r.dev.isSome then r.egressBytes else 128) then
    { r with stage := .replay 6 .ready }
  else r

/-- The bucket has refilled. -/
def execBudgetRefill (vf : Nat) (s : State) : Out := .next { s with reqs := Tbl.mapVal (fun _ r => s.refillWake vf r) s.reqs }

end Sys2Proof.Machine
end

