-- ==== Sys2Proof/Machine/HoldEvents.lean ====
section
/-! DEFINITION. The events of the no-hold rule, of translation, of the homes and of HBM4E (R187, R199 to R203, R212, R226, R230, R243, R246 to R262, R331 to R333, R344). -/

namespace Sys2Proof.Machine

/-! ## Walks and pages (R331 to R333) -/

/-- The request has an access in the page of an address. -/
def State.touchesPage (s : State) (r : Req) (fn space va : Nat) : Bool :=
  r.fn == fn && r.space == space && r.lspace == 0 && r.accs.any fun a => s.samePage fn space va a.va

/-- The request waits with this reason for this page in a die. -/
def State.awaits (s : State) (r : Req) (die : Option Nat) (reason : Nat) (wake : Wake) (fn space va : Nat) : Bool :=
  decide (r.stage = .replay reason wake) && (match die with | some d => r.core / 60 == d | none => true) && s.touchesPage r fn space va

/-- Every request that satisfies `p` goes through `f`, oldest first. -/
def State.eachReq (s : State) (p : Req → Bool) (f : State → Req → State) : State :=
  (s.reqList.filter p).foldl (fun s r => match Tbl.find s.reqs r.id with | some x => if p x then f s x else s | none => s) s

def State.dropWalk (s : State) (die : Nat) (x : Walk) : State := s.onDie die fun d => { d with walks := d.walks.filter fun y => y != x }

/-- A walk of a die ends (R331, R332). -/
def State.endWalk (s : State) (die : Nat) (x : Walk) : State :=
  match s.page x.fn x.space x.va with
  | some p =>
    ((s.dropWalk die x).installL2 die p).eachReq (fun r => s.awaits r (some die) 1 .walk x.fn x.space x.va) fun s r =>
      if r.writes && r.accs.any fun a => s.samePage x.fn x.space x.va a.va && s.livePriv x.fn x.space a.va then s.dropFault r cPROTF
      else if !pageAllows p r.writes then s.dropFault r cPAGEF
      else s.putReq { r with stage := .replay 1 .ready }
  | none =>
    if x.pref then s.dropWalk die x
    else
      let s1 := s.onDie die fun d => { d with walks := (d.walks.map fun y => if y == x then { y with asked := true } else y).eraseDups }
      s1.eachReq (fun r => s.awaits r (some die) 1 .walk x.fn x.space x.va) fun s r => s.noticed r 2 .mapped

/-- `WALK_COMPLETE`: one of the 64 walkers ends the oldest walk of the function for the page of `va` (R331). -/
def execWalkComplete (die fn va : Nat) (s : State) : Out :=
  match (s.die die).walking.find? fun x => x.fn == fn && x.va == va / 65536 * 65536 with
  | some x => .next (s.endWalk die x)
  | none => .next s

/-- Frames of 64 KiB in the 384 GiB of the package (R23). -/
def hbmFrames : Nat := 6291456

/-- An entry that firmware may write: aligned, within the address spaces and the installed memory, over no other entry, and on frames of its function (R23, R332, R397). -/
def State.pageOk (s : State) (p : PageEntry) : Bool :=
  let n := pageBytes p.size
  let lo := p.pa / 65536; let hi := (p.pa + n) / 65536
  let listed := s.frames.filter fun f : Nat × Frame => lo ≤ f.1 && f.1 < hi
  p.va % n == 0 && p.pa % n == 0 && p.va + n ≤ 2 ^ 64 && p.pa + n ≤ 2 ^ 57 &&
  !(s.pages.any fun q => q.fn == p.fn && q.space == p.space && q.va < p.va + n && p.va < q.va + pageBytes q.size) &&
  (match p.home with
   | .own => hi ≤ hbmFrames && listed.all (fun f => f.2.owner == p.fn) && (p.fn == 0 || listed.length == hi - lo)
   | _ => true)

/-- `PAGE_MAPPED`: firmware writes an entry and sends "page mapped". -/
def execPageMapped (p : PageEntry) (s : State) : Out :=
  if s.pageOk p then
    let inside (x : Walk) : Bool := x.asked && pageCovers p x.fn x.space x.va
    let s1 := { s with
      pages := s.pages ++ [p]
      dies := Tbl.mapVal (fun _ d => { d with walks := d.walks.filter fun x => !inside x }) s.dies }
    .next ({ s1 with reqs := Tbl.mapVal (fun _ r =>
      if decide (r.stage = .replay 2 .mapped) && r.accs.any (fun a => pageCovers p r.fn r.space a.va) then { r with stage := .replay 2 .ready } else r) s1.reqs } : State).endPackets
  else .next s

/-- A `BPOST` that waits for a page that firmware cannot map raises `PAGEF` (R360). -/
def State.refuseBpost (s : State) (fn pg : Nat) : State :=
  s.warps.foldl (fun s (x : Nat × Warp) =>
    let g := s.wg (wgOf x.1)
    match x.2.fabHead with
    | some o =>
      let touches (a n : Nat) : Bool := (s.unmapped fn g.proc [] a n).contains pg
      if g.fn == fn && o.op == 0 && o.phase == 0 && !o.cancel && (touches o.a.toNat (fieldOf o.b.toNat 31 0) || touches o.c.toNat 16) then
        s.opFault x.1 o cPAGEF
      else s
    | none => s) s

/-- `PAGE_MAP_REFUSED`: firmware cannot map a page it was asked for. -/
def execPageMapRefused (fn va : Nat) (s : State) : Out :=
  let pg := va / 65536 * 65536
  let asked (x : Walk) : Bool := x.asked && x.fn == fn && x.va == pg
  if (Tbl.values s.dies).any fun d => d.walks.any asked then
    let spaces := ((Tbl.values s.dies).flatMap fun d => (d.walks.filter asked).map fun x => x.space).eraseDups
    let s1 := s.refuseBpost fn pg
    let s2 := { s1 with
      dies := Tbl.mapVal (fun _ d => { d with walks := d.walks.filter fun x => !asked x }) s1.dies
      cmdq := Tbl.mapVal (fun _ q => if q.fn == fn && spaces.contains q.proc then { q with refused := q.refused ++ [pg] } else q) s1.cmdq }
    .next (spaces.foldl (fun s sp => s.eachReq (fun r => s.awaits r none 2 .mapped fn sp pg) fun s r => s.dropFault r cPAGEF) s2).endPackets
  else .next s

/-- `TLB_INVALIDATION`: firmware removes an entry; it leaves every TLB. -/
def execTlbInvalidation (fn : Nat) (x : SpaceAddr) (s : State) : Out :=
  match s.page fn x.space x.va with
  | some p =>
    .next { s with
      pages := s.pages.filter fun q => q != p
      inval := s.inval ++ [p]
      cores := Tbl.mapVal (fun _ c => { c with tlb := c.tlb.filter fun e => e.page != p }) s.cores
      dies := Tbl.mapVal (fun _ d => { d with tlb := d.tlb.filter fun e => e.page != p }) s.dies
      boot := s.boot.invalidated }
  | none => .next s

/-- It was translated from a virtual address: by its core, or for the copy of a packet; no write-back, and no request from outside. -/
def Req.translated (r : Req) : Bool := r.xl && (r.cls == .warp || (r.cls == .firmware && r.forEngine)) && r.kind != .wback && r.lspace == 0

/-- `INVALIDATION_COMPLETE`: every request translated through the old entry has been performed. -/
def execInvalidationComplete (fn : Nat) (x : SpaceAddr) (s : State) : Out :=
  match s.inval.find? fun p => pageCovers p fn x.space x.va with
  | some p =>
    if s.reqList.any fun r => r.translated && !r.isPerformed && r.accs.any fun a => pageCovers p r.fn r.space a.va then .next s
    else .next { s with inval := s.inval.filter fun q => q != p }
  | none => .next s

/-! ## Shared queues (R246, R250, R257, R258) -/

def Req.at_ (r : Req) : Option (Nat × Bool) := match r.stage with | .queued q b => some (q, b) | _ => none

/-- A packet that answers a request packet (R339). -/
def State.respPkt (s : State) (p : Packet) (op osa osb : Nat) (flits : List (BitVec 256)) : Packet :=
  s.header p.src.toNat op p.tag.toNat p.gen.toNat p.vf.toNat 0 0 osa osb flits

/-- A request that arrived over the fabric goes back to its source: each of its packets is answered by BOUNCE (R339, R416). -/
def State.bounceBack (s : State) (r : Req) (reason : Nat) : State :=
  (r.pkts.foldl (fun s p => s.emit (s.respPkt p 0x15 0 reason [])) s).delReq r.id

/-- `SHARED_QUEUE_ARRIVAL`: a request offers itself to its next queue. -/
def execSharedQueueArrival (n : Nat) (s : State) : Out :=
  match Tbl.find s.reqs n with
  | some r =>
    match r.stage with
    | .issued => .next (s.launch r)
    | .transit q => .next (s.arrive q r)
    | .replay _ .ready => if r.chainedUp then .next (s.launch r) else .next s
    | _ => .next s
  | none => .next s

/-- A cause of the request's own owner is found while it stands in its queue: it is bounced at once (R250, R201). A fabric ingress queue bounces to the source. -/
def State.turnedBack (s : State) (q : Nat) (r : Req) : Option State :=
  (s.ownerBounce q r).map fun x => if qKind q == 6 then (s.leaveQueue r).bounceBack r x.1 else (s.leaveQueue r).bounce q r x.1 x.2

/-- A request from the fabric leaves its ingress queue into the port's replay buffer, where it goes on, or joins its line's chain (R416). -/
def State.intoBuffer (s : State) (r : Req) : State :=
  if 256 ≤ s.bufferUse .ingress r.source then s
  else if s.heads r then s.moveOn r (qCode (.sliceIn (homeSlice r.pa))) false
  else (s.leaveQueue r).putReq { r with stage := .replay 0 .ready }

/-- A packet of another device leaves the port it stood in (R336). -/
def State.passOn (s : State) (n : Nat) : State :=
  match s.fab.transit.find? fun t => t.id == n with
  | some t => { s with fab := { s.fab with out := s.fab.out ++ [(t.port, t.pkt)], transit := s.fab.transit.filter fun t => t.id != n } }
  | none => s

/-- `QUEUE_DEPARTURE`: a request leaves its queue for the next one, or goes back where its owner's cause has come up; a packet of another device leaves its port. -/
def execQueueDeparture (n : Nat) (s : State) : Out :=
  match Tbl.find s.reqs n with
  | some r =>
    match r.at_ with
    | some (q, b) =>
      match s.turnedBack q r with
      | some t => .next t
      | none =>
        match qKind q with
        | 5 => .next ((s.leaveQueue r).putReq { r with stage := .sent } |>.sendTagged r)
        | 6 => .next (s.intoBuffer r)
        | _ => match s.nextQueue r q with | some q' => .next (s.moveOn r q' b) | none => .next s
    | none => .next s
  | none => .next (s.passOn n)

/-- `RESIDENCY_EXPIRED`: the request has stood in an ordinary entry for its bound (R246). -/
def execResidencyExpired (n : Nat) (s : State) : Out :=
  match Tbl.find s.reqs n with
  | some r =>
    match r.at_ with
    | some (q, false) =>
      if r.entered + r.bound ≤ s.cyc then
        let s1 := s.leaveQueue r
        if qKind q == 6 then .next (s1.bounceBack r 3) else .next (s1.bounce q r 3 (.cleared q (s.cyc + 4 * s.bound)))
      else .next s
    | _ => .next s
  | none => .next s

/-- `BOUNCE_NOTICE` (R251). -/
def execBounceNotice (n : Nat) (s : State) : Out :=
  match Tbl.find s.reqs n with
  | some r => match r.stage with | .bounced why wake => .next (s.noticed r why wake) | _ => .next s
  | none => .next s

/-- `CONGESTION_CLEARED` (R250). -/
def execCongestionCleared (q : QId) (s : State) : Out := .next (s.wakeCleared (qCode q))

/-- `BACKOFF_EXPIRY`: the timer of a bounced request runs out (R250). -/
def execBackoffExpiry (n : Nat) (s : State) : Out :=
  match Tbl.find s.reqs n with
  | some r =>
    match r.stage with
    | .replay why (.cleared _ t) => if t ≤ s.cyc then .next (s.putReq { r with stage := .replay why .ready }) else .next s
    | .replay why (.time t) => if t ≤ s.cyc then .next (s.putReq { r with stage := .replay why .ready }) else .next s
    | _ => .next s
  | none => .next s

/-! Replay stores reissue one entry in a cycle: an answer to a grant first, else the oldest eligible entry (R255). -/

/-- The replay store that holds a request: of its core, its port, the host port or a firmware core. -/
def Req.store (r : Req) : Nat × Nat := (clsCode r.cls, r.src)

def State.storeBusy (s : State) (r : Req) : Bool := s.reissued.contains r.store
def State.markReissue (s : State) (r : Req) : State := { s with reissued := s.reissued ++ [r.store] }

/-- The oldest request of a source that waits for the grant it holds in queue `q` (R257). -/
def State.grantAnswer (s : State) (q cls src : Nat) : Option Req :=
  s.reqList.find? fun r => clsCode r.cls == cls && r.src == src && decide (r.stage = .replay 7 (.grant q)) && s.heads r

/-- A grant waits for an answer of this store. -/
def State.answerDue (s : State) (r : Req) : Bool :=
  s.queues.any fun x : Nat × Shq => x.2.grants.any fun g => g.1 == clsCode r.cls && g.2.1 == r.src && (s.grantAnswer x.1 g.1 g.2.1).isSome

/-- An entry of an instruction on a Cinnabar page stands where it waits for its siblings: a local one that the L1 serves, or a remote one behind the local ones (R245). It takes no turn of its store. -/
def State.gangWaits (s : State) (r : Req) : Bool :=
  r.gang && r.xl && (if r.dev.isSome then !(s.gangOf r.iid).isEmpty else r.clear && s.l1Serves r)

/-- An entry that can leave its replay store now (R254, R255). A `CSTORE` whose lines have still to be checked waits for no release part (R216). -/
def State.eligible (s : State) (r : Req) : Bool :=
  (match r.stage with | .replay _ .ready => !r.chainedUp | _ => false) && s.heads r && (r.relDone || (r.kind == .cstore && !r.xl)) && !s.gangWaits r &&
  !(r.cls == .warp && decide ((s.wg (wgOf r.warp)).status = .out))

/-- A reissue that follows the eighth bounce or a later one carries a reservation, and is counted (R256, R266). -/
def State.countReissue (s : State) (r : Req) : State :=
  if 8 ≤ r.bounces && r.cls == .warp then s.onWarp r.warp fun w => { w with csr := { w.csr with bouncecnt := rescnt w.csr.bouncecnt } } else s

/-- The source has sent one request for its grant; another that waits for the same entry sets its bit again (R257, R259; log 83). -/
def State.waitsAgain (s : State) (q : Nat) (r : Req) : State :=
  let more := s.reqList.any fun y => y.id != r.id && y.cls == r.cls && y.src == r.src && decide (y.stage = .replay 7 (.grant q))
  let x := s.queue q
  if more && !x.mask.contains (clsCode r.cls, r.src) then s.putQueue q { x with mask := x.mask ++ [(clsCode r.cls, r.src)] } else s

/-- `RESERVATION_GRANTED`: the granted source sends its oldest request that waits for the grant (R257). -/
def execReservationGranted (q : QId) (cls : OwnerClass) (s : State) : Out :=
  match (s.queue (qCode q)).grants.find? fun g => g.1 == clsCode cls with
  | some g =>
    match s.grantAnswer (qCode q) (clsCode cls) g.2.1 with
    | some r =>
      if s.storeBusy r then .next s
      else
        let r1 := { r with stage := .replay 7 .ready }
        .next (((((s.markReissue r).waitsAgain (qCode q) r).countReissue r).putReq r1).launch r1)
    | none => .next s
  | none => .next s

/-- `GRANT_LAPSE`: no request came within 64 cycles (R257). -/
def execGrantLapse (q : QId) (cls : OwnerClass) (s : State) : Out :=
  let k := qCode q
  let x := s.queue k
  match x.grants.find? fun g => g.1 == clsCode cls && g.2.2 ≤ s.cyc with
  | some g =>
    .next ((s.putQueue k { x with
      grants := x.grants.filter fun y => y != g
      mask := if x.mask.contains (g.1, g.2.1) then x.mask else x.mask ++ [(g.1, g.2.1)] }).grantResv k g.1)
  | none => .next s

/-- `REPLAY_REISSUE` (R255). -/
def execReplayReissue (n : Nat) (s : State) : Out :=
  match Tbl.find s.reqs n with
  | some r =>
    if !s.eligible r || s.storeBusy r || s.answerDue r || s.reqList.any fun q => q.store == r.store && q.id < r.id && s.eligible q then .next s
    else .next (((s.markReissue r).countReissue r).launch r)
  | none => .next s

/-! ## Replies (R187, R207, R209, R212, R251, R339, R344) -/

/-- The reply cache keeps a performed request of a recorded kind (R344). -/
def State.recordReply (s : State) (p : Packet) (reply : List Packet) : State :=
  { s with fab := { s.fab with cache := s.fab.cache ++ [⟨p.src.toNat, p.tag.toNat, p.gen.toNat, reply, s.cyc + Config.usec 80⟩] } }

/-- The reply bound for a lane or byte. -/
def Req.boundAt (r : Req) (l : Nat) : Nat := match r.reply.find? fun x => x.1 == l with | some x => x.2 | none => 0

/-- RDR: the line's masked bytes. -/
def rdrFlits (r : Req) : List (BitVec 256) :=
  (List.range 4).map fun q => BitVec.ofNat 256 ((List.range 32).foldl (fun n i => n + r.boundAt (32 * q + i) * 2 ^ (8 * i)) 0)

/-- The lanes that an ATOM packet carries: from FIRST upward, at most 8 (R340). -/
def atomLanes (p : Packet) : List Nat :=
  let b := p.osb.toNat
  ((List.range 32).filter fun l => b / 2 ^ (96 + l) % 2 == 1 && fieldOf b 95 91 ≤ l).take 8

/-- Old values of an ATOM packet's lanes, 8 bytes each. -/
def atomrFlits (r : Req) (p : Packet) : List (BitVec 256) :=
  flitsOf 2 ((atomLanes p).flatMap fun l => bytesLE 8 (r.boundAt l))

/-- The answer to one packet of a request that arrived over the fabric; a read's carries the line's version in OSA (log 23). -/
def State.answer (s : State) (r : Req) (p : Packet) : Packet :=
  match p.op.toNat with
  | 0 => s.respPkt p 0x10 (r.boundAt versionLane) p.osb.toNat (rdrFlits r)
  | 1 => s.respPkt p 0x11 0 0 []
  | 2 => s.respPkt p 0x12 0 0 (atomrFlits r p)
  | _ => s.respPkt p 0x13 0 (if r.ok then 1 else 0) []

/-- A performed request from the fabric is answered; a refusal or a poisoned word goes back as a BOUNCE (log 24). -/
def State.respond (s : State) (r : Req) : State :=
  if r.fault != 0 then s.bounceBack r (if r.fault == cPAGEF then 0 else 15)
  else
    (r.pkts.foldl (fun s p =>
      let a := s.answer r p
      (if p.op == 0 then s else s.recordReply p [a]).emit a) s).delReq r.id

/-- The words that a load bound become open for its workgroup, unless it has released since or has ended (R242). So do, in the issuing core, those that the lanes of an `LDMC` read, which R242 leaves open: the model's choice (log 83). -/
def State.openBound (s : State) (r : Req) : State :=
  let g := s.wg r.wgKey
  if r.kind != .load || r.relEpoch != g.epoch || g.status = .ended then s
  else s.openWords r.core r.wgKey (r.wordsOf.filter fun w => !r.nofill.contains (r.core, w))

/-- What a target core of a multicast has still to install: the reply waits there for room in its L1, and only that fill waits (R211, R262). -/
def State.lateFill (s : State) (c : Nat) (r : Req) : State :=
  (s.putReq { Req.blank s.nextId with
    kind := .pref
    cls := .firmware
    warp := noWarp
    core := c
    source := noCore
    xl := true
    rh := r.rh
    epoch := r.epoch
    accs := r.accs
    targets := [c]
    snap := r.snap
    snapBad := r.snapBad
    nofill := r.nofill
    stage := .performed }).bump

/-- A line arrives in the L1s that fill it; a multicast in flight ends (R187, R211, R212). -/
def State.fillFrom (s : State) (r : Req) : State :=
  let s1 := s.putLine r.line (let x := s.line r.line; { x with mcast := x.mcast.filter fun m => m.1 != r.id })
  let s0 := if (s.line r.line).mcast.any fun m => m.1 == r.id then s1 else s
  if r.snap.isEmpty then s0
  else
    let multi := !r.targets.isEmpty
    let own := if r.bypass then s0 else (s0.fill r.core r multi).openBound r
    (r.targets.filter fun c => c != r.core).foldl (fun s c => if s.roomL1 c r.line then s.fill c r multi else s.lateFill c r) own

/-- A reply enters its result. -/
def Result.take (x : Result) (r : Req) : Result :=
  let put (i : Nat) (v : Lanes) : Lanes := Lanes.mk fun l => match r.reply.find? fun y => y.1 == l.val with | some y => BitVec.ofNat 32 (y.2 / 2 ^ (32 * i)) | none => v[l]
  { x with
    regs := x.regs.zipIdx.map fun y => (y.1.1, put y.2 y.1.2)
    preds := x.preds.map fun y => (y.1, if r.kind == .cstore then (if r.ok then 0xFFFFFFFF#32 else 0) else y.2)
    need := x.need - 1 }

/-- A reply reaches its instruction: registers, predicate or scalar register. -/
def State.deliver (s : State) (r : Req) : State :=
  s.onWarp r.warp fun w => { w with
    flight := w.flight.map fun x => if x.id == r.result && r.result != 0 then x.take r else x
    sc := match r.sd with | some d => w.sc.put d (BitVec.ofNat 64 (r.boundAt 32)) | none => w.sc }

/-- The shape records or the packet that a stream waits for have been read (R130, R281). -/
def State.recordRead (s : State) (r : Req) : State :=
  match r.stream with
  | .scalar =>
    match s.submit r.fn (r.boundAt 32) with
    | (s1, .status v) => (s1.onWarp r.warp fun w => match r.sd with | some d => { w with sc := w.sc.put d v } | none => w).delReq r.id
    | (s1, .wait die fn space vs) => vs.foldl (fun s v => s.addWalk die fn space v false) s1
    | (s1, .refused) => s1.dropFault r cPAGEF
  | st =>
    let s0 := r.want.foldl (fun s a => s.touchRecord r.core r.fn r.space a) s
    let s1 := (r.accs.foldl (fun s a => s.cacheRecord r.core r.fn r.space a.va (shapeOf (r.boundAt a.lane))) s0).delReq r.id
    if (s1.siblings r.iid).isEmpty then s1.onWarp r.warp fun w => w.dropHold st r.iid else s1

/-- A reply that names no fault. -/
def State.accept (s : State) (r : Req) : State :=
  let s1 := s.fillFrom r
  match r.cls with
  | .ingress => s1.respond r
  | .eviction =>
    if r.kind == .victim then (s1.delReq r.id).settleStore (homeSlice (r.line * 128) / 64)
    else (s1.onCore r.core fun c => { c with wbuf := c.wbuf.erase r.line }).delReq r.id
  | _ =>
    if r.kind == .wback then s1.delReq r.id
    else if r.parent != 0 then
      (if (s1.core r.core).copies.any fun c => c.id == r.parent then s1.copyReply r else s1.fabReply r).delReq r.id
    else if r.kind == .record then s1.recordRead r
    else
      let s2 := ((s1.deliver r).delReq r.id).endAcquire r
      if (s2.siblings r.iid).isEmpty then s2.releaseHeld r else s2

/-- The reply of request `r` is taken, where the L1 has room for its line. -/
def State.finish (s : State) (r : Req) : State :=
  if r.cls == .ingress then s.respond r
  else if r.fault != 0 then (s.fillFrom { r with snap := [] }).dropFault r r.fault
  else if !r.snap.isEmpty && !r.bypass && !s.roomL1 r.core r.line then s
  else s.accept r

/-- `REQUEST_REPLY`; a store whose registration is recorded is performed once the L1 has room for its line (R225, R262). -/
def execRequestReply (n : Nat) (s : State) : Out :=
  match Tbl.find s.reqs n with
  | some r =>
    match r.stage with
    | .performed => .next (s.finish r)
    | .granted => if s.roomL1 r.core r.line then .next (s.performStore r) else .next s
    | _ => .next s
  | none => .next s

/-! ## The release part (R230, R262) -/

/-- The oldest instruction of a warp whose release part has not ended. -/
def State.oldestRelease (s : State) (k : Nat) : Option Req := (s.reqsOf k).find? fun r => r.rel == 1 || r.rel == 2

/-- A request that a release waits for no more: performed, and with no entry in the warp's partition (R230, R262). -/
def Req.past (r : Req) : Bool := if r.kind == .fence then r.relDone else r.isPerformed && !r.holds

/-- Everything before the release has been performed: requests, engine operations and fabric sends of the warp; and no trap is pending for a remote write whose outcome was lost (R230, R262, R345). -/
def State.releaseReady (s : State) (k : Nat) (f : Req) : Bool :=
  let c := s.core f.core
  -- the two conditions of `CSLICEF` come before the release part (R216)
  !(f.kind == .cstore && !f.xl) &&
  (s.reqsOf k).all (fun r => f.iid ≤ r.id || r.kind == .wback || r.past) &&
  !(c.copies.any fun x => x.id < f.iid && x.warp == some k) &&
  !(c.matq.any fun x => x.id < f.iid && x.warp == k) &&
  (match Tbl.find s.warps k with
   | some w => !(w.fabq.any fun o => o.id < f.iid && [1, 2, 9, 11].contains o.op) && !(w.deferred.any fun d => d.code == cATOMUNK)
   | none => true)

/-- The release part of an instruction stands at `n`. -/
def State.setRel (s : State) (iid n : Nat) : State :=
  { s with reqs := Tbl.mapVal (fun _ r => if r.iid == iid && r.rel != 0 then { r with rel := n } else r) s.reqs }

/-- The write-backs of a workgroup's owned-dirty words, one request per line. -/
def State.releaseWrites (s : State) (k : Nat) (f : Req) : State :=
  let g := wgOf k
  let ws := (s.core f.core).wordsWhere fun _ x => x.owner == some g
  (ws.map fun w => w / 32).eraseDups.foldl (fun s l =>
    let r := { Req.blank s.nextId with
      kind := .wback
      warp := k
      core := f.core
      fn := f.fn
      space := f.space
      xl := true
      parent := f.iid
      accs := (ws.filter fun w => w / 32 == l).map fun w => ⟨32, 0, w * 4, 4, 0, g, 15⟩ }
    ((s.putReq r).bump).launch r) s

/-- No word is open for the workgroup any more: its release epoch rises past its loads (R242). -/
def State.closeWords (s : State) (g : Nat) : State :=
  { s with cores := Tbl.mapVal (fun _ c => { c with l1 := Tbl.mapVal (fun _ x => if x.open_.contains g then { x with open_ := x.open_.erase g } else x) c.l1 }) s.cores }

/-- A word of the workgroup still stands in the core's write-back buffer: its home has not acknowledged it (R230, R262). -/
def State.evicting (s : State) (k core : Nat) : Bool :=
  s.reqList.any fun r => r.kind == .wback && r.cls == .eviction && r.core == core && r.accs.any fun a => a.cmp == wgOf k

/-- The release epoch of a workgroup rises by one (R242). -/
def State.riseEpoch (s : State) (g : Nat) : State := (s.onWg g fun x => { x with epoch := x.epoch + 1 }).closeWords g

/-- The release part ends: the epoch rises at `DIE` scope or wider, and a ring slot is freed (R230, R242, R293). -/
def State.endRelease (s : State) (k : Nat) (f : Req) : State :=
  let s1 := s.setRel f.iid 3
  let s2 := if f.scope == 0 then s1 else s1.riseEpoch (wgOf k)
  match f.kind, f.want with
  | .fence, [h, i] => (s2.putSync (s2.ringWg (wgOf k)) h i { s2.sync (s2.ringWg (wgOf k)) h i with state := 0 }).delReq f.id
  | _, _ => s2.launchAll f.iid

/-- A write-back of the release is not acknowledged yet, or one of an eviction (R230, R262). -/
def State.writesBack (s : State) (k : Nat) (f : Req) : Bool :=
  s.evicting k f.core || s.reqList.any fun r => r.kind == .wback && r.cls == .warp && r.parent == f.iid

/-- `RELEASE_PART`. -/
def execReleasePart (k : Nat) (s : State) : Out :=
  match s.oldestRelease k with
  | none => .next s
  | some f =>
    if f.rel == 1 then
      if !s.releaseReady k f then .next s
      else if f.scope == 0 then .next (s.endRelease k f)
      else
        let s1 := (s.setRel f.iid 2).releaseWrites k f
        if s1.writesBack k f then .next s1 else .next (s1.endRelease k f)
    else if s.writesBack k f then .next s
    else .next (s.endRelease k f)

/-! ## Homes (R195, R201, R226, R243, R261, R397, R403) -/

/-- The home refuses a request whose function does not own the frame (R397). -/
def State.foreign (s : State) (r : Req) : Bool :=
  r.cls != .eviction && r.accs.any fun a => homeOf a.pa == 0 && (s.frame (paOf a.pa / 65536)).owner != r.fn

/-- A write whose frame epoch has passed is discarded (R403). -/
def State.lateWrite (s : State) (r : Req) : Bool :=
  r.writes && match r.accs with | a :: _ => homeOf a.pa == 0 && (s.frame (paOf a.pa / 65536)).epoch != r.epoch | [] => false

/-- A refused request: a local one is dropped with `PAGEF`, one from the fabric is answered so. -/
def State.refuse (s : State) (r : Req) : State :=
  let s1 := s.leaveQueue r
  if r.kind == .pref then s1.delReq r.id
  else if r.cls == .ingress then s1.putReq { r with stage := .performed, fault := cPAGEF } else s1.dropFault r cPAGEF

/-- The home performs a request whose lines its slice holds, after the checks. An access of an instruction that touches a Cinnabar page is checked first, its sharers are probed, and it waits for its siblings (R243, R245). -/
def State.homePerform (s : State) (r : Req) : State :=
  if s.foreign r then s.refuse r
  else if s.lateWrite r then (s.leaveQueue r).putReq { r with stage := .performed }
  else if !r.gang then (s.leaveQueue r).performAt r
  else if r.clear then s.tryGang r.iid
  else if (s.racesOf r []).isEmpty then
    if !s.checked r || !r.writes || (s.sharersOf r).isEmpty then s.markClear r
    else if r.probes.isNone then s.putReq { r with probes := some (s.sharersOf r) }
    else s
  else s.memRace r (s.races r.iid)

/-- A line comes into the slice, where its victim has room, and the request is performed there; one that needs the head of the input queue goes back to it. -/
def State.fetched (s : State) (r : Req) (l : Nat) (resv : Bool) : State :=
  match s.fetchLine l r.rh with
  | none => s
  | some s1 =>
    if r.headOnly || r.gang || (s1.missLine r).isSome then s1.moveOn r (qCode (.sliceIn (homeSlice r.pa))) resv
    else s1.homePerform r

/-- The key of "every bank" in a channel's table. -/
def allBanks : Nat := 2 ^ 32
def State.bankBusy (s : State) (ch bank : Nat) : Bool :=
  let c := s.chan ch
  s.cyc < Tbl.getD c.busy bank 0 || s.cyc < Tbl.getD c.busy allBanks 0

/-- An activation is counted for the function and row; a throttled one sets the next permitted activation (R201). -/
def Chan.activate (c : Chan) (fn bank row now gap : Nat) : Chan :=
  let hit (x : Nat × Nat × Nat × Nat) : Bool := x.1 == fn && x.2.1 == bank && x.2.2.1 == row
  { c with
    acts := if c.acts.any hit then c.acts.map (fun x => if hit x then (fn, bank, row, x.2.2.2 + 1) else x) else c.acts ++ [(fn, bank, row, 1)]
    gated := c.gated.map fun x => if hit x then (fn, bank, row, now + gap) else x }

/-- The throttle gap in cycles: GAP counts 100 ns (R202). -/
def State.gap (s : State) : Nat := 140 * s.rowguard.hi

/-- The 32 ms period and the 3.9 µs interval of a cycle (R199, R201). -/
def rowPeriod (now : Nat) : Nat := now / Config.msec 32
def refInterval (now : Nat) : Nat := now / 5460

/-- The counts of a past period are gone, and with them the throttles (R201). -/
def Chan.rolled (c : Chan) (now : Nat) : Chan :=
  if c.cleared < rowPeriod now then { c with acts := [], gated := [], cleared := rowPeriod now } else c

/-- A bank of a channel is in use: it is idle no more (R411). -/
def Chan.opened (c : Chan) (bank now : Nat) : Chan :=
  { c with lastUse := Tbl.put c.lastUse bank now }

/-- An access of the stack for a line (R198, R201, R398). -/
def State.openRow (s : State) (r : Req) (l : Nat) : State :=
  let pa := paOf (l * 128)
  let c := ((s.chan (Config.hbmChannel pa)).rolled s.cyc).opened (Config.hbmBank pa) s.cyc
  (s.putChan (Config.hbmChannel pa) (c.activate r.fn (Config.hbmBank pa) (Config.hbmRow pa) s.cyc s.gap)).charge r.fn 128

/-- A victim write at the memory-side cache or the stack (R195). -/
def State.serveVictim (s : State) (r : Req) (q : Nat) : State :=
  let l := r.line
  if qKind q == 3 then
    if (s.line l).cls == 1 then s else match s.insertMsc l with | some s1 => (s1.leaveQueue r).putReq { r with stage := .performed } | none => s
  else if qKind q == 4 then
    if s.bankBusy (qIndex q) (Config.hbmBank (paOf r.pa)) then s
    else (((s.openRow r l).putLine l { s.line l with place := .hbm, dirty := false }).leaveQueue r).putReq { r with stage := .performed }
  else s

/-- A request at the place that serves it: the context store, the slice, the memory-side cache, a stack or the host (R195, R226). -/
def State.serve (s : State) (r : Req) (q : Nat) (resv : Bool) : State :=
  if r.kind == .victim then s.serveVictim r q
  else
  match qKind q with
  | 8 => (s.leaveQueue r).performLocal r
  | 1 =>
    if (s.missLine r).isSome then s
    else if r.headOnly && !s.atHead r q resv then s
    else s.homePerform r
  | 3 => match s.missLine r with
    | some l => if (s.line l).place = .msc then s.fetched r l resv else s
    | none => s.fetched r r.line resv
  | 4 => match s.missLine r with
    | some l =>
      if s.bankBusy (qIndex q) (Config.hbmBank (paOf (l * 128))) then s
      else if (s.line l).place = .victim then s
      else if (s.line l).place = .hbm then (if (s.fetchLine l r.rh).isSome then (s.openRow r l).fetched r l resv else s)
      else s.fetched r l resv
    | none => s.fetched r r.line resv
  | 7 =>
    -- the host grants a read-own exclusively, and a read in the state it chooses (R396)
    let l := (s.missLine r).getD r.line
    if (s.fetchLine l r.rh).isNone then s
    else ({ s.drawn 1 with hostLines := Tbl.put s.hostLines l (r.takesOwn || s.freeWord.getLsbD 0) }).fetched r l resv
  | _ => s

/-- `HOME_ACCESS`. -/
def execHomeAccess (n : Nat) (s : State) : Out :=
  match Tbl.find s.reqs n with
  | some r =>
    match r.at_ with
    | some (q, b) => match s.turnedBack q r with | some t => .next t | none => .next (s.serve r q b)
    | none => .next s
  | none => .next s

/-- `HOME_PROBE`: a sharer core answers the home's probe (R243). -/
def execHomeProbe (n core : Nat) (s : State) : Out :=
  match Tbl.find s.reqs n with
  | some r =>
    match r.probes, r.at_ with
    | some ps, some _ =>
      if !ps.contains core then .next s
      else if !(s.racesOf r [core]).isEmpty then .next (s.memRace r (s.races r.iid))
      else
        let rest := ps.filter fun c => c != core
        let r1 := { r with probes := some rest }
        if rest.isEmpty then .next ((s.putReq r1).markClear r1) else .next (s.putReq r1)
    | _, _ => .next s
  | none => .next s

/-! ## HBM4E (R199, R201) -/

/-- Requests that stand in a channel queue for a bank. -/
def State.pendingAt (s : State) (ch bank : Nat) : List Req :=
  s.reqList.filter fun r => match r.at_ with
    | some (q, _) => q == qCode (.hbm ch) && Config.hbmBank (paOf ((s.missLine r).getD r.line * 128)) == bank
    | none => false

/-- A read of the stack: a request that does not write. -/
def Req.isRead (r : Req) : Bool := !r.writes && r.kind != .wback && r.kind != .victim

/-- The bank, or every bank, is busy for `n` cycles from now on; a longer wait stands. -/
def Chan.occupy (c : Chan) (bank now n : Nat) : Chan := { c with busy := Tbl.put c.busy bank (max (Tbl.getD c.busy bank 0) (now + n)) }

/-- The refresh of this interval has fallen due for a bank; none falls due in the first interval after reset (R199). -/
def Chan.refreshed (c : Chan) (bank now : Nat) : Bool := Tbl.getD c.due bank 0 == refInterval now

/-- `HBM_REFRESH_DUE`: a bank's refresh falls due once in each interval of 3.9 µs. -/
def execHbmRefreshDue (ch bank : Nat) (s : State) : Out :=
  let c0 := s.chan ch
  let c := { c0 with due := Tbl.put c0.due bank (refInterval s.cyc) }
  if c0.refreshed bank s.cyc then .next s
  else if 8 ≤ c.count then .next (s.putChan ch { c.occupy allBanks s.cyc 574 with count := 0, owing := [] })
  else if (s.pendingAt ch bank).any Req.isRead then
    .next (s.putChan ch { c with count := c.count + 1, owing := Tbl.put c.owing bank (Tbl.getD c.owing bank 0 + 1) })
  else .next (s.putChan ch (c.occupy bank s.cyc 224))

/-- `POSTPONED_REFRESH`. -/
def execPostponedRefresh (ch bank : Nat) (s : State) : Out :=
  let c := s.chan ch
  let n := Tbl.getD c.owing bank 0
  if n == 0 || !(s.pendingAt ch bank).isEmpty || s.bankBusy ch bank then .next s
  else .next (s.putChan ch { c.occupy bank s.cyc 224 with
    count := c.count - 1
    owing := if n == 1 then Tbl.del c.owing bank else Tbl.put c.owing bank (n - 1) })

/-- The record of a row disturbance that interrupts the physical function. -/
def rowRecord (vf ch bank row : Nat) : W64 := BitVec.ofNat 64 (vf * 2 ^ 56 + ch % 256 * 2 ^ 48 + bank % 65536 * 2 ^ 32 + row % 2 ^ 32)

/-- `ROW_THRESHOLD_REACHED`. -/
def execRowThresholdReached (vf ch bank row : Nat) (s : State) : Out :=
  let c := (s.chan ch).rolled s.cyc
  if 1 ≤ vf && vf ≤ 32 && c.acts.any (fun x => x.1 == vf && x.2.1 == bank && x.2.2.1 == row && s.rowguard.lo ≤ x.2.2.2) &&
      !(c.gated.any fun x => x.1 == vf && x.2.1 == bank && x.2.2.1 == row) then
    let s1 := s.putChan ch { c with
      busy := Tbl.put c.busy bank (max (Tbl.getD c.busy bank 0) s.cyc + 420)
      gated := c.gated ++ [(vf, bank, row, s.cyc + s.gap)] }
    .next { s1.charge vf 4096 with irqs := s.irqs ++ [⟨0, 3, rowRecord vf ch bank row, 0⟩] }
  else .next s

/-- `ROW_COUNT_CLEAR`: every 32 ms the controllers of an edge die clear their counts; the throttles end. -/
def execRowCountClear (edge : Nat) (s : State) : Out :=
  .next { s with chans := Tbl.mapVal (fun k c => if k / 128 == edge then c.rolled s.cyc else c) s.chans }

/-- `WEIGHT_REFRESH_WINDOW`: the calendar of R197 is a function of the cycle counter; the window's change alters nothing else. -/
def execWeightRefreshWindow (_die : Nat) (s : State) : Out := .next s

end Sys2Proof.Machine
end

