-- ==== Sys2Proof/Machine/FabEvents.lean ====
section
/-! DEFINITION. What arrives over the fabric, and the fabric's timers (R334 to R354, R364, R394). -/

namespace Sys2Proof.Machine

/-! ## Ingress (R334 to R338) -/

def opLegal (n : Nat) : Bool := !(9 ≤ n && n ≤ 15) && n != 31

/-- The packet is dropped at ingress (R338). -/
def badPacket (p : Packet) : Bool := p.rsv != 0 || 5 < p.hop.toNat || !opLegal p.op.toNat

/-- A packet for another device goes on, one level higher (R336): it stands at the egress port of its route until the port takes it. -/
def State.forward (s : State) (p : Packet) : State :=
  if p.hop.toNat == 5 then s.countBad
  else match s.hopOf p.dst.toNat with
  | some port => State.bump { s with fab := { s.fab with
      transit := s.fab.transit ++ [⟨s.nextId, port, { p with hop := p.hop + 1 }, s.cyc, false⟩]
      wrr := Tbl.put s.fab.wrr p.dst.toNat (Tbl.getD s.fab.wrr p.dst.toNat 0 + 1) } }
  | none => s.countBad

/-- A packet of operation `op` reaches its device: `f` acts on it. -/
def State.inbound (s : State) (p : Packet) (op : Nat) (f : State → State) : Out :=
  if s.dataOff then .next s
  else if badPacket p then .next s.countBad
  else if p.dst != s.devid then .next (s.forward p)
  else if p.op.toNat == op then .next (f s)
  else .next s

/-- `FABRIC_FORWARD`. -/
def execFabricForward (_port : Nat) (p : Packet) (s : State) : Out :=
  if s.dataOff then .next s
  else if badPacket p then .next s.countBad
  else if p.dst == s.devid then .next s
  else .next (s.forward p)

/-- The defined bits of a route table entry: V, WEIGHT and PORT of four next hops (R335). -/
def routeBits : W64 := 0xF87FF87FF87FF87F#64

/-- `FM_MANAGEMENT` (R334, R415, R29). -/
def execFmManagement (f : FmWrite) (s : State) : Out :=
  match f with
  | .route dev e => if deviceOk dev then .next { s with fab := { s.fab with route := Tbl.put s.fab.route dev (e &&& routeBits) } } else .next s
  | .tenmap dev e => if deviceOk dev then .next { s with fab := { s.fab with tenmap := Tbl.put s.fab.tenmap dev e } } else .next s
  | .devId n => if deviceOk n then .next { s with devid := BitVec.ofNat 20 n } else .next s

/-! ## Requests (R339 to R341, R344) -/

def sameKey (p q : Packet) : Bool := p.src == q.src && p.tag == q.tag && p.gen == q.gen

def bankOf (src tag : Nat) : Nat := (src % 128 + tag / 32) % 128

/-- The reply cache's entry for a packet. -/
def State.cachedReply (s : State) (p : Packet) : Option (List Packet) :=
  (s.fab.cache.find? fun c => c.src == p.src.toNat && c.tag == p.tag.toNat && c.gen == p.gen.toNat).map fun c => c.reply

/-- The packet's bank holds no free entry: what is recorded there, and what is here already and has still to be recorded, fill it. -/
def State.bankFull (s : State) (p : Packet) : Bool :=
  let bank := bankOf p.src.toNat p.tag.toNat
  let mine (q : Packet) : Bool := q.op != 0 && bankOf q.src.toNat q.tag.toNat == bank
  4096 ≤ (s.fab.cache.filter fun c => bankOf c.src c.tag == bank && s.cyc < c.until_).length +
    (((s.reqList.filter fun r => r.cls == .ingress).flatMap fun r => r.pkts.filter mine).length +
      (s.fab.groups.flatMap fun g => g.pkts.filter mine).length)

/-- The request of this packet is here already, not yet performed. -/
def State.underWay (s : State) (p : Packet) : Bool := s.reqList.any fun r => r.cls == .ingress && r.pkts.any (sameKey p)

def State.bouncePkt (s : State) (p : Packet) (reason : Nat) : State := s.emit (s.respPkt p 0x15 0 reason [])

/-- A request of a recorded kind: a cached reply is sent, a second copy is dropped, a full bank bounces it, else `f` acts (R344). -/
def State.recorded (s : State) (p : Packet) (f : State → State) : State :=
  match s.cachedReply p with
  | some rs => rs.foldl State.emit s
  | none => if s.underWay p then s else if s.bankFull p then s.bouncePkt p 3 else f s

/-- The line that a request names, and the request as the port's ingress queue takes it. -/
def State.ingressReq (s : State) (port : Nat) (p : Packet) (kind : ReqKind) : Req :=
  { Req.blank s.nextId with
    kind := kind
    cls := .ingress
    warp := noWarp
    core := noCore
    source := 1000 + port
    fn := p.vf.toNat
    rh := 3
    xl := true
    home := true
    scope := p.scope.toNat
    ord := p.order.toNat
    epoch := (s.frame (paOf (p.osa.toNat * 128) / 65536)).epoch
    pkts := [p] }

/-- The request enters the port's ingress queue, or is bounced to its source where that is full. -/
def State.ingress (s : State) (port : Nat) (r : Req) : State :=
  let q := qCode (.ingress port)
  if (s.queue q).ord.length < qOrdinary q then ((s.putReq r).bump).arriveAs q r false
  else r.pkts.foldl (fun s p => s.bouncePkt p 3) s

/-- Bytes of a MASK, ascending. -/
def maskBytes (m : Nat) : List Nat := (List.range 128).filter fun b => m / 2 ^ b % 2 == 1

/-- `FABRIC_RD`. -/
def execFabricRd (port : Nat) (p : Packet) (s : State) : Out :=
  s.inbound p 0 fun s => s.ingress port { s.ingressReq port p .load with
    accs := (maskBytes p.osb.toNat).map fun b => ⟨b, 0, p.osa.toNat * 128 + b, 1, 0, 0, 0⟩ }

/-- Byte `b` of the line in the flits of a WR packet, one for each quarter that holds a MASK bit. -/
def wrByte (p : Packet) (b : Nat) : Nat :=
  let qs := (List.range 4).filter fun q => p.osb.toNat / 2 ^ (32 * q) % 2 ^ 32 != 0
  match (p.flits.zip qs).find? fun x => x.2 == b / 32 with | some x => x.1.toNat / 2 ^ (8 * (b % 32)) % 256 | none => 0

/-- `FABRIC_WR`. -/
def execFabricWr (port : Nat) (p : Packet) (s : State) : Out :=
  s.inbound p 1 fun s => s.recorded p fun s => s.ingress port { s.ingressReq port p .store with
    accs := (maskBytes p.osb.toNat).map fun b => ⟨b, 0, p.osa.toNat * 128 + b, 1, wrByte p b, 0, 1⟩ }

/-- A packet joins its group; a group that is whole goes on through `f`, its packets in GPOS order (R341). -/
def State.gatherGroup (s : State) (p : Packet) (gpos glen : Nat) (f : State → List Packet → State) : State :=
  let tag0 := (p.tag.toNat + 4096 - gpos) % 4096
  let mine (g : Group) : Bool := g.src == p.src.toNat && g.tag == tag0 && g.gen == p.gen.toNat
  let whole (l : List Packet) : List Packet := (List.range glen).filterMap fun i => l.find? fun q => q.tag.toNat == (tag0 + i) % 4096
  let put (l : List Packet) (gs : List Group) : State :=
    if (whole l).length == glen then f { s with fab := { s.fab with groups := s.fab.groups.filter fun g => !mine g } } (whole l)
    else { s with fab := { s.fab with groups := gs } }
  match s.fab.groups.find? mine with
  | some g =>
    let l := if g.pkts.any (sameKey p) then g.pkts else g.pkts ++ [p]
    put l (s.fab.groups.map fun x => if mine x then { x with pkts := l } else x)
  | none =>
    if glen == 1 then f s [p]
    else if 256 ≤ s.fab.groups.length then s.bouncePkt p 3
    else put [p] (s.fab.groups ++ [⟨p.src.toNat, tag0, p.gen.toNat, [p], s.cyc⟩])

def amoOf : Nat → AmoOp
  | 0 => .add
  | 1 => .min
  | 2 => .max
  | 3 => .and
  | 4 => .or
  | 5 => .xor
  | 6 => .swap
  | _ => .cas

/-- The lanes of an ATOM packet as accesses (R340); the byte offset of a narrow one stands in c (log 23). -/
def atomAccs (p : Packet) : List Access :=
  let code := fieldOf p.osb.toNat 87 85
  let size := sizeBytes code
  ((atomLanes p).zip p.flits).map fun x =>
    let f := x.2.toNat
    ⟨x.1, 0, p.osa.toNat * 128 + 4 * fieldOf f 255 251 + (if code < 4 then fieldOf f 127 126 else 0), size, fieldOf f 63 0, fieldOf f 127 64, 2 ^ size - 1⟩

/-- What an ATOM packet's first lane carries beside its comparand (log 23): the sign of a 32-bit minimum or maximum, and RED, TYPE and RM of a reduction. -/
def atomSigned32 (p : Packet) : Bool := fieldOf p.osb.toNat 87 85 == 4 && match p.flits with | f :: _ => fieldOf f.toNat 124 124 == 1 | [] => false
def atomReduce (p : Packet) : Option (List Nat) :=
  match p.flits with
  | f :: _ =>
    if fieldOf f.toNat 125 125 == 1 && !(fieldOf p.osb.toNat 87 85 == 5 && fieldOf p.osb.toNat 90 88 == 7) then
      some [fieldOf f.toNat 119 112, fieldOf f.toNat 111 104, fieldOf f.toNat 103 96]
    else none
  | [] => none

/-- `FABRIC_ATOM_GROUP`. -/
def execFabricAtomGroup (port : Nat) (p : Packet) (s : State) : Out :=
  s.inbound p 2 fun s => s.recorded p fun s =>
    s.gatherGroup p (fieldOf p.osb.toNat 84 83) (fieldOf p.osb.toNat 82 81 + 1) fun s ps =>
      let r := { s.ingressReq port p .atom with
        pkts := ps
        op := some (amoOf (fieldOf p.osb.toNat 90 88))
        ext := if atomSigned32 p then 5 else fieldOf p.osb.toNat 87 85
        accs := ps.flatMap atomAccs }
      s.ingress port (match atomReduce p with | some w => { r with kind := .reduce, want := w, accs := r.accs.flatMap Access.parts } | none => r)

/-- A CST packet as an access: the line's bytes and the mask of the active lanes' words. -/
def cstAcc (i : Nat) (p : Packet) : Access :=
  let wm := fieldOf p.osb.toNat 127 96
  ⟨i, 0, p.osa.toNat * 128, 128, leNat (flitBytes p 128), 0,
    (List.range 32).foldl (fun m l => if wm / 2 ^ l % 2 == 1 then m ||| 15 * 2 ^ (4 * l) else m) 0⟩

/-- `FABRIC_CST_GROUP`. -/
def execFabricCstGroup (port : Nat) (p : Packet) (s : State) : Out :=
  s.inbound p 3 fun s => s.recorded p fun s =>
    s.gatherGroup p (fieldOf p.osb.toNat 79 78) (fieldOf p.osb.toNat 77 76 + 1) fun s ps =>
      s.ingress port { s.ingressReq port p .cstore with
        pkts := ps
        want := ps.map fun q => fieldOf q.osb.toNat 95 80
        accs := ps.zipIdx.map fun x => cstAcc x.2 x.1 }

/-- `GROUP_TIMEOUT` (R341). -/
def execGroupTimeout (src tag gen : Nat) (s : State) : Out :=
  .next { s with fab := { s.fab with groups := s.fab.groups.filter fun g =>
    !(g.src == src && g.tag == tag && g.gen == gen && g.since + Config.usec 40 ≤ s.cyc) } }

/-! ## Messages at the receiver (R348 to R352) -/

def msgidOf (p : Packet) : Nat := osaField p 177 162
def offsetOf (p : Packet) : Nat := osaField p 161 130
def bulkLen (p : Packet) : Nat := osbField p 127 96

/-- A new record for a message; it becomes ACTIVE at once where its buffer is there and free. -/
def State.openRecord (s : State) (p : Packet) : State :=
  match s.msg p.src.toNat (msgidOf p) with
  | some _ => s
  | none =>
    let m : RecvMsg :=
      { src := p.src.toNat
        msgid := msgidOf p
        fn := p.vf.toNat
        slot := osbField p 95 84
        prio := osbField p 83 82
        eff := osbField p 83 82
        len := bulkLen p
        state := .waitbuf
        got := []
        tokens := []
        fails := 0
        since := s.cyc
        birth := s.cyc
        -- this device takes the sender's prefix to be as long as its own would be
        pre := if p.op == 4 then min (bulkLen p) (s.bulk.hi * 256) else 0 }
    let s1 := { s with fab := { s.fab with msgs := s.fab.msgs ++ [m] } }
    if s.slotTaken m.fn m.slot || (Tbl.find (s.fn m.fn).slots m.slot).isNone then s1.onMsg m.src m.msgid fun m => { m with pre := 0 } else s1.activate m

/-- The performed bytes of a token. -/
def Token.reached (t : Token) (new : List Nat) : Token := { t with got := t.got + (new.filter fun b => t.off ≤ b && b < t.off + t.len).length }

/-- Bytes of a message arrive: those not received before are performed into the buffer and counted (R349, R362). Bytes for a live private area are refused, and the message with them (R304, log 82). -/
def State.bulkBytes (s : State) (m : RecvMsg) (off : Nat) (bs : List Byte) : State :=
  match Tbl.find (s.fn m.fn).slots m.slot with
  | none => s
  | some b =>
    let had (a : Nat) : Bool := m.got.any fun c => c.1 ≤ a && a < c.1 + c.2
    let new := (bs.zipIdx.map fun x => (off + x.2, x.1)).filter fun x => !had x.1
    if new.any fun x => s.livePriv m.fn b.space (b.addr + x.1) then s.abortMsg m true else
    let s1 := new.foldl (fun s x => s.vwrite m.fn b.space (b.addr + x.1) [x.2]) s
    let n := new.length
    let s2 := if n == 0 then s1 else s1.onSync m.fn b fun v => v / 2 ^ 32 * 2 ^ 32 + (v + n) % 2 ^ 32
    let toks := (m.tokens.map fun t => t.reached (new.map (·.1))).filter fun t => t.got < t.len
    let m1 := { m with
      got := m.got ++ new.map fun x => (x.1, 1)
      tokens := toks
      fails := if n == 0 then m.fails else 0
      since := if toks.isEmpty && !m.tokens.isEmpty then s.cyc else m.since }
    if m1.received < m.len then s2.onMsg m.src m.msgid fun _ => m1
    else ((s2.bstat m.src m.msgid m.fn 1).dropMsg m.src m.msgid).freeSlot m.fn m.slot 2

/-- A bulk request is performed: it is recorded and acknowledged (R344). -/
def State.ackBulk (s : State) (p : Packet) : State :=
  let a := s.respPkt p 0x11 0 0 []
  (s.recordReply p [a]).emit a

/-- `FABRIC_BDATA`. -/
def execFabricBdata (_port : Nat) (p : Packet) (s : State) : Out :=
  s.inbound p 4 fun s => s.recorded p fun s =>
    let s1 := s.openRecord p
    let n := min (32 * p.flits.length) (bulkLen p - offsetOf p)
    let s2 := match s1.msg p.src.toNat (msgidOf p) with
      | some m => if m.state = MsgState.waitbuf then s1 else s1.bulkBytes m (offsetOf p) (flitBytes p n)
      | none => s1
    (s2.ackBulk p).grants

/-- `FABRIC_BREQ`: a message is announced, or goes on after a switch, which may be the first that its receiver hears of it (R352). -/
def execFabricBreq (_port : Nat) (p : Packet) (s : State) : Out :=
  s.inbound p 8 fun s => s.recorded p fun s =>
    let s1 :=
      if osbField p 81 81 == 1 then
        (s.openRecord p).onMsg p.src.toNat (msgidOf p) fun m => if m.state = .paused then { m with state := .active } else m
      else s.openRecord p
    (s1.ackBulk p).grants

/-- `FABRIC_AMSG` (R354); OSB holds handler index and length (log 23). -/
def execFabricAmsg (_port : Nat) (p : Packet) (s : State) : Out :=
  s.inbound p 5 fun s => s.recorded p fun s =>
    match s.amAccept p.vf.toNat p.src.toNat (osbField p 11 0) p.scope.toNat (flitBytes p (osbField p 24 16)) with
    | some (s1, st) =>
      let a := s.respPkt p 0x14 0 st []
      (s1.recordReply p [a]).emit a
    | none => s.bouncePkt p 3

/-- What is left of a token whose bytes from `off` on are handed back: the bytes before them have been sent (R350, R352). -/
def Token.cut (off : Nat) (t : Token) : Option Token :=
  if off < t.off || t.off + t.len ≤ off then some t
  else if off - t.off ≤ t.got then none
  else some { t with len := off - t.off }

/-- `FABRIC_RETURN`: tokens are handed back, and the record pauses (R352). -/
def execFabricReturn (_port : Nat) (p : Packet) (s : State) : Out :=
  s.inbound p 0x19 fun s =>
    (s.onMsg p.src.toNat (msgidOf p) fun m =>
      if m.state = MsgState.waitbuf then m else { m with state := MsgState.paused, tokens := m.tokens.filterMap (Token.cut (offsetOf p)) }).grants

/-- `TOKEN_EXPIRY` (R351). -/
def execTokenExpiry (src msg off : Nat) (s : State) : Out :=
  match s.msg src msg with
  | some m =>
    match m.tokens.find? fun t => t.off == off && t.at_ + Config.usec 25 ≤ s.cyc with
    | some t =>
      if m.state ≠ .active then .next s
      else
        let fails := if t.got == 0 then m.fails + 1 else m.fails
        if 8 ≤ fails then .next (((((s.bstat src msg m.fn 2).dropMsg src msg).freeSlot m.fn m.slot 3)).grants)
        else
          let toks := m.tokens.filter fun y => y.off != off
          .next ((s.onMsg src msg fun m => { m with tokens := toks, fails := fails, since := if toks.isEmpty then s.cyc else m.since }).grants)
    | none => .next s
  | none => .next s

/-- `PRIO_AGING`: a message that has held no token for 100 µs while it had bytes ungranted, in whatever state, rises (R350); bytes of a prefix that have not come are granted in the end (log 38). -/
def execPrioAging (src msg : Nat) (s : State) : Out :=
  match s.msg src msg with
  | some m =>
    if m.tokens.isEmpty && (m.gap s.cyc).2 != 0 && m.eff < 3 && m.since + Config.usec 100 ≤ s.cyc then
      .next ((s.onMsg src msg fun m => { m with eff := m.eff + 1, since := s.cyc }).grants)
    else .next s.grants
  | none => .next s

/-! ## Messages at the sender (R350, R352, R363) -/

/-- The warp and open message of a device and MSGID. -/
def State.openMsg (s : State) (dev msgid : Nat) : Option (Nat × OpenMsg) :=
  s.warps.findSome? fun x : Nat × Warp => (x.2.msgs.find? fun m => m.dev == dev && m.msgid == msgid).map fun m => (x.1, m)

/-- RETURN of a token. -/
def State.giveBack (s : State) (m : OpenMsg) (fn off n : Nat) : State :=
  s.emit (s.header m.dev 0x19 0 0 fn 0 0 (m.msgid * 2 ^ 34 + off * 4) (n * 2 ^ 96) [])

/-- A token in its place: granted bytes are sent in OFFSET order (R350). -/
def insertToken (t : Nat × Nat) : List (Nat × Nat) → List (Nat × Nat)
  | [] => [t]
  | x :: r => if t.1 < x.1 then t :: x :: r else x :: insertToken t r

/-- A token joins those of a message. -/
def OpenMsg.grant (m : OpenMsg) (t : Nat × Nat) : OpenMsg := { m with tokens := insertToken t m.tokens }

/-- `FABRIC_GRANT`: the token joins those of its message; a paused message hands it back (R350, R352). -/
def execFabricGrant (_port : Nat) (p : Packet) (s : State) : Out :=
  s.inbound p 0x18 fun s =>
    match s.openMsg p.src.toNat (msgidOf p) with
    | some (k, m) =>
      if m.paused then s.giveBack m (s.wg (wgOf k)).fn (offsetOf p) (bulkLen p)
      else s.onWarp k fun w => { w with msgs := w.msgs.map fun x => if x.id == m.id then x.grant (offsetOf p, bulkLen p) else x }
    | none => s

/-- `FABRIC_BSTAT`: an open message ends; an abort of a message received here aborts its record (R349, R363). -/
def execFabricBstat (_port : Nat) (p : Packet) (s : State) : Out :=
  s.inbound p 0x1A fun s =>
    let st := osbField p 7 0
    match s.openMsg p.src.toNat (msgidOf p) with
    | some (k, m) => s.endMsg k m (match st with | 1 => 0 | 2 => stORPHAN | _ => stREFUSED)
    | none =>
      match s.msg p.src.toNat (msgidOf p), st with
      | some m, 3 => (s.abortMsg m false).grants
      | _, _ => s

/-! ## Responses (R339, R343, R345) -/

/-- The tag that a response answers; a stale one is dropped and counted in LATE. -/
def State.answered (s : State) (p : Packet) (f : State → TagRec → Req → State) : State :=
  match s.fab.tags.find? fun t => t.dev == p.src.toNat && t.tag == p.tag.toNat && t.gen == p.gen.toNat with
  | none => s.countLate
  | some t =>
    let s1 := s.freeTags fun x => x.dev == t.dev && x.tag == t.tag
    match Tbl.find s.reqs t.req with
    | some r => f s1 t r
    | none => s1

/-- Some packet of the request is still unanswered. -/
def State.stillTagged (s : State) (r : Req) : Bool := s.fab.tags.any fun t => t.req == r.id

/-- An access performed on another device leaves no filled copy of its words in the core's L1, whose fill may be older; a multicast's reply fills them (R187, R189; log 84). -/
def State.dropRemote (s : State) (r : Req) : State :=
  if r.cls == .warp && r.targets.isEmpty then s.dropWords r.core r.wordsOf else s

/-- One more packet of the request is answered; with the last it is performed. -/
def State.answerIn (s : State) (r : Req) : State :=
  if s.stillTagged r then s.putReq r else (s.dropRemote r).putReq { r with stage := .performed }

/-- `FABRIC_RDR`. -/
def execFabricRdr (_port : Nat) (p : Packet) (s : State) : Out :=
  s.inbound p 0x10 fun s => s.answered p fun s _ r =>
    let n := leNat (flitBytes p 128)
    let vals :=
      if r.kind == .cread then (List.range 32).map fun l => (l, n / 2 ^ (32 * l) % 2 ^ 32 + p.osa.toNat % 65536 * 2 ^ 32)
      else r.accs.map fun a => (a.lane, r.extend (n / 2 ^ (8 * (a.pa % 128)) % 2 ^ (8 * a.size)))
    -- a multicast's line goes to the L1s of its targets, whatever filled them since it was read (R211)
    let line := if r.targets.isEmpty || r.bypass then [] else flitBytes p 128
    s.answerIn { r with reply := vals, snap := line }

/-- `FABRIC_WACK`. -/
def execFabricWack (_port : Nat) (p : Packet) (s : State) : Out :=
  s.inbound p 0x11 fun s => s.answered p fun s _ r => s.answerIn r

/-- `FABRIC_ATOMR`. -/
def execFabricAtomr (_port : Nat) (p : Packet) (s : State) : Out :=
  s.inbound p 0x12 fun s => s.answered p fun s t r =>
    let lanes := t.pkts.flatMap atomLanes
    let n := leNat (flitBytes p 64)
    let size := match r.accs with | a :: _ => (if r.kind == .reduce then r.wholeSize else a.size) | [] => 8
    let vals := lanes.zipIdx.map fun x => (if r.sd.isSome then 32 else x.1, r.extend (n / 2 ^ (64 * x.2) % 2 ^ (8 * size)))
    let out := match r.kind, r.want, r.accs with
      | .reduce, [red, ty, rm], _ :: _ => [(0, (reduceElem red ty rm (n % 2 ^ (8 * size)) r.wholeData).2.toNat)]
      | _, _, _ => r.reply ++ vals
    s.answerIn { r with reply := out }

/-- `FABRIC_CSTR`. -/
def execFabricCstr (_port : Nat) (p : Packet) (s : State) : Out :=
  s.inbound p 0x13 fun s => s.answered p fun s _ r => s.answerIn { r with ok := osbField p 0 0 == 1 }

/-- The outcome of an `AMSEND` reaches its operation. -/
def State.amOutcome (s : State) (r : Req) (st : Nat) : State :=
  s.onOp r.warp r.parent fun o => { o with phase := 4, status := st }

/-- `FABRIC_AMACK` (R354, R364). -/
def execFabricAmack (_port : Nat) (p : Packet) (s : State) : Out :=
  s.inbound p 0x14 fun s => s.answered p fun s _ r => (s.answerIn r).amOutcome r (osbField p 7 0)

/-- `FABRIC_BOUNCE`: the request returns to its replay entry, or learns that it cannot be performed (R251, R339). -/
def execFabricBounce (_port : Nat) (p : Packet) (s : State) : Out :=
  s.inbound p 0x15 fun s => s.answered p fun s _ r =>
    let s1 := s.freeTags fun t => t.req == r.id
    match osbField p 3 0 with
    | 0 => s1.dropFault r cPAGEF
    | 15 => s1.dropFault r cMEMERR
    | n => s1.noticed { r with reply := [] } n
        (match n with
         | 3 => .cleared (9 * 65536) (s.cyc + 4 * s.bound)
         | 4 => if s.fab.cong.any fun c => c.dev == p.src.toNat then .uncongested p.src.toNat else .ready
         | 6 => .budget
         | _ => .ready)

/-- `RESEND_TIMER`: unanswered packets are sent again 20 µs and 40 µs after the first send (R344). -/
def execResendTimer (n : Nat) (s : State) : Out :=
  let due (t : TagRec) : Bool := t.req == n && ((t.sends == 1 && t.sentAt + Config.usec 20 ≤ s.cyc) || (t.sends == 2 && t.sentAt + Config.usec 40 ≤ s.cyc))
  let ps := (s.fab.tags.filter due).flatMap fun t => t.pkts
  .next (ps.foldl State.emit { s with fab := { s.fab with tags := s.fab.tags.map fun t => if due t then { t with sends := t.sends + 1 } else t } })

/-- `REPLY_CACHE_EXPIRY`. -/
def execReplyCacheExpiry (src tag gen : Nat) (s : State) : Out :=
  .next { s with fab := { s.fab with cache := s.fab.cache.filter fun c => !(c.src == src && c.tag == tag && c.gen == gen && c.until_ ≤ s.cyc) } }

/-- Reads: an RD is sent for them. -/
def Req.isRd (r : Req) : Bool := match r.kind with | .load => true | .record => true | .cread => true | _ => false

/-- A message or operation whose packet has no outcome ends so (R345, R363, R364). -/
def State.unknownPacket (s : State) (r : Req) : State :=
  match r.pkts with
  | [] => s.delReq r.id
  | p :: _ =>
    if p.op == 5 then (s.delReq r.id).amOutcome r 255
    else
      match (Tbl.find s.warps r.warp).bind fun w => w.msgs.find? fun m => m.id == r.parent with
      | some m => s.endMsg r.warp m stUNKNOWN
      | none => (s.delReq r.id).onOp r.warp r.parent fun o => { o with phase := 4, status := stUNKNOWN, word := 0 }

/-- The request completes as for a destination declared unreachable (R345). -/
def State.unreachable (s : State) (r : Req) : State :=
  let s1 := (s.leaveQueue r).freeTags fun t => t.req == r.id
  if r.kind == .packet then (if r.cls == .warp then s1.unknownPacket r else s1.delReq r.id)
  else s1.dropFault r (if r.isRd then cMEMERR else cATOMUNK)

/-- A packet that may be sent again as a new request: a read, or a stream packet, which its receiver deduplicates (R345, R393). -/
def Req.mayRepeat (r : Req) : Bool := r.isRd || (r.kind == .packet && r.pkts.any fun p => p.op == 6 || p.op == 7)

/-- `REQUEST_UNANSWERED` (R345). -/
def execRequestUnanswered (n : Nat) (s : State) : Out :=
  match Tbl.find s.reqs n with
  | some r =>
    if !(s.fab.tags.any fun t => t.req == n && t.sends != 0 && t.sentAt + Config.usec 120 ≤ s.cyc) || r.stage ≠ .sent then .next s
    else if s.fab.dead.contains (r.dev.getD noDev) then .next (s.unreachable r)
    else
      let s1 := s.freeTags fun t => t.req == n
      if r.mayRepeat then .next ((s1.putReq { r with stage := .transit (qCode (.egress (s.routePort (r.dev.getD noDev)))), reply := [] }))
      else if r.kind == .packet then .next (s1.unknownPacket r)
      else .next ((s1.dropRemote r).dropFault r cATOMUNK)
  | none => .next s

/-! ## Unreachable devices (R345, R394) -/

/-- The ends that a device held are lost, where this device is their home. -/
def State.loseHeldBy (s : State) (dev : Nat) : State :=
  s.streams.foldl (fun s (x : Nat × StreamHome) =>
    let lose (cons : Bool) (s : State) : State :=
      let k : EndKey := ⟨s.own, x.1, cons⟩
      match s.homeEnd k with
      | some h => if h.st = .resident dev then s.loseEnd k none else s
      | none => s
    lose true (lose false s)) s

/-- The ends here whose home is lost: one whose MOVE the home has not acknowledged, among `moving`, is lost, and its other end learns of it from here; of one frozen here and acknowledged nothing is known, since it may have been adopted; one whose other end the lost device held, or could not be reached but through it, survives alone (R394). -/
def State.homeLost (s : State) (dev : Nat) (moving : List EndKey) : State :=
  (s.ends.filter fun e => e.key.home == dev).foldl (fun s e =>
    if e.frozen then
      let s1 := s.dropEnd e.key
      if !moving.contains e.key || e.closed || e.orphan || e.peer == noDev || e.peer == dev then s1
      else s1.emit (s1.sorphPkt e.peer e.key (if e.key.cons then none else some (seqAdd e.next (2 ^ 24 - 1))))
    else if e.peer == dev || e.peer == noDev then s.orphanBehind e.key none
    else s) s

/-- The ends whose MOVE to the device has not been acknowledged: they are in transit for certain. -/
def State.movingTo (s : State) (dev : Nat) : List EndKey :=
  (s.ends.filter fun e => e.frozen && e.key.home == dev && s.reqList.any fun r => r.pkts.any fun p =>
    p.op == 7 && p.dst.toNat == dev && osaField p 133 131 == 0 && osaField p 177 154 == e.key.stream && (osaField p 153 153 == 1) == e.key.cons).map (·.key)

/-- `DEST_UNREACHABLE`. -/
def execDestUnreachable (dev : Nat) (s : State) : Out :=
  if dev == s.own then .next s
  else
    let s0 := { s with fab := { s.fab with dead := if s.fab.dead.contains dev then s.fab.dead else s.fab.dead ++ [dev] } }
    -- adoptions whose home is lost end
    let s1 := (s.moves.filter fun x => x.1.home == dev).foldl (fun s x => s.refuseAdopt x.1 stORPHAN) s0
    let s2 := s1.eachReq (fun r => r.dev == some dev && r.cls != .ingress && !r.isPerformed) State.unreachable
    let s3 := s2.warps.foldl (fun s (x : Nat × Warp) =>
      (x.2.msgs.filter fun m => m.dev == dev).foldl (fun s m => s.endMsg x.1 m stUNKNOWN) s) s2
    .next ((s3.loseHeldBy dev).homeLost dev (s.movingTo dev))

/-! ## Congestion (R347) -/

/-- Requests for a device that stand in a port's egress queue. -/
def State.standingAt (s : State) (port dev : Nat) : List Req :=
  s.reqList.filter fun r => r.dev == some dev && match r.at_ with | some (q, _) => q == qCode (.egress port) | none => false

/-- A port flags a destination; requests that stand there for it are bounced. -/
def State.flag (s : State) (port dev : Nat) : State :=
  let mine (c : Cong) : Bool := c.port == port && c.dev == dev
  let cong : List Cong :=
    if s.fab.cong.any mine then s.fab.cong.map (fun c => if mine c then { c with last := s.cyc } else c)
    else s.fab.cong ++ [⟨port, dev, s.cyc, s.cyc⟩]
  let s1 := { s with fab := { s.fab with cong := cong } }
  (s1.standingAt port dev).foldl (fun s r => (s.leaveQueue r).bounce (qCode (.egress port)) r 4 (.uncongested dev)) s1

/-- Packets of other devices for the destination that have stood in the port for more than half the bound. -/
def State.latePassing (s : State) (port dev : Nat) : List Transit :=
  s.fab.transit.filter fun t => t.port == port && t.pkt.dst.toNat == dev && t.since + s.bound / 2 < s.cyc

/-- CONG, naming the destination (log 23). -/
def State.congPkt (s : State) (src dev : Nat) : Packet := s.header src 0x1B 0 0 0 0 0 0 (dev * 2 ^ 108) []

/-- The sources of such packets are sent CONG, once for each packet (R347; log 23). -/
def State.tellSources (s : State) (port dev : Nat) : State :=
  let ts := (s.latePassing port dev).filter fun t => !t.told
  let s1 := { s with fab := { s.fab with transit := s.fab.transit.map fun t => if ts.any fun x => x.id == t.id then { t with told := true } else t } }
  ((ts.map fun t => t.pkt.src.toNat).eraseDups).foldl (fun s d => s.emit (s.congPkt d dev)) s1

/-- `DESTINATION_CONGESTED`: packets for the destination, own or passing, have stood for more than half the bound; a transit device tells their sources (R347). -/
def execDestinationCongested (port dev : Nat) (s : State) : Out :=
  if (s.standingAt port dev).any (fun r => r.entered + s.bound / 2 < s.cyc) || !(s.latePassing port dev).isEmpty then .next ((s.flag port dev).tellSources port dev) else .next s

/-- `FABRIC_CONG`: OSB [127:108] names the destination (log 23); the ports that lead to it flag it. -/
def execFabricCong (_port : Nat) (p : Packet) (s : State) : Out :=
  s.inbound p 0x1B fun s =>
    let dev := osbField p 127 108
    ((hops (Tbl.getD s.fab.route dev 0)).map (·.1)).foldl (fun s port => s.flag port dev) s

/-- `CONGESTION_WITHDRAW`. -/
def execCongestionWithdraw (port dev : Nat) (s : State) : Out :=
  match s.fab.cong.find? fun c => c.port == port && c.dev == dev with
  | some c =>
    if s.cyc < c.last + Config.usec 10 || (s.standingAt port dev).any (fun r => r.entered + s.bound / 4 < s.cyc) ||
        s.fab.transit.any (fun t => t.port == port && t.pkt.dst.toNat == dev && t.since + s.bound / 4 < s.cyc) then .next s
    else
      .next { s with
        fab := { s.fab with cong := s.fab.cong.filter fun c => !(c.port == port && c.dev == dev) }
        reqs := Tbl.mapVal (fun _ r => { r with stage := r.stage.rewake fun _ w => if w = .uncongested dev then some .ready else none }) s.reqs }
  | none => .next s

/-! ## Handlers (R354, R366) -/

/-- The bundle number that stands for no bundle: a handler's. -/
def handlerBundle : Nat := 2 ^ 32

/-- The scope in force for firmware's work for a function: `SYS` is `TENANT` where the policy says so (R400). -/
def State.downScope (s : State) (fn scope : Nat) : Nat := match s.scopePolicy fn scope with | some (x, _) => x | none => 3

/-- A handler's workgroup, resident at once: its payload at scratchpad offset 0 and its scalar registers (R366). -/
def State.startHandler (s : State) (fn core : Nat) (e : HandlerEnt) (place : List Nat × Nat × Nat) (payload : List Byte) (regs : List Nat) (garg : W64)
    (why : HandlerFor) (ctx : Option EndKey) (scope : Nat) : State :=
  let n := s.nextWg
  let g : Wg := { Wg.blank with
    fn := fn
    proc := (s.fn fn).tproc
    die := core / 60
    core := core % 60
    bundle := handlerBundle
    nwg := 1
    warps := 1
    nreg := e.nreg
    lanes := e.lanes
    padSize := e.scratch
    padBase := place.2.2 * 4096
    pad := Memory.writeL [] 0 payload
    producer := if e.prod == 255 then none else some e.prod
    sbase := e.sbase
    slen := e.slen
    lbase := e.lbase
    llen := e.llen
    age := n
    order := n
    status := .resident
    cscope := s.downScope fn e.cscope
    priv := e.priv
    handler := why
    ctx := ctx }
  let s1 := { s.putWg n g with nextWg := n + 1 }
  let s2 := s1.makeWarps n g place.1 place.2.1 e.entry garg
  let s3 := s2.onWarp (warpKey n 0) fun w => { w with sc := regs.zipIdx.foldl (fun c x => c.put (BitVec.ofNat 6 (x.2 + 1)) (BitVec.ofNat 64 x.1)) w.sc }
  s3.acquire core (s.downScope fn scope)

/-- A handler placed as a one-workgroup grid writes a bind record of its own. -/
def State.bindHandler (s : State) (core : Nat) (e : HandlerEnt) (p : List Nat × Nat × Nat) : State :=
  s.onCore core fun c => c.bindIn (bindOf s.nextWg ⟨1, e.nreg, e.scratch / 4096, []⟩ p)

end Sys2Proof.Machine
end

