-- ==== Sys2Proof/Machine/StreamEvents.lean ====
section
/-! DEFINITION. Stream packets, contexts and handler starts (R379 to R394). -/

namespace Sys2Proof.Machine

/-! ## Items (R382, R391 step 3, R393) -/

/-- Pieces of 256 bytes that an item of this length travels in. -/
def pieceCount (len : Nat) : Nat := max 1 ((len + 255) / 256)

/-- A piece arrives; the item, once every piece of it is here. -/
def State.piece (s : State) (x : ItemPart) : State × Option Item :=
  let mine (y : ItemPart) : Bool := y.home == x.home && y.stream == x.stream && y.gen == x.gen && y.seq == x.seq && y.kind == x.kind
  let had := s.fab.parts.filter mine
  let all := if had.any fun y => y.frag == x.frag then had else had ++ [x]
  let ordered := (List.range (pieceCount x.len)).filterMap fun i => all.find? fun y => y.frag == i
  let rest := s.fab.parts.filter fun y => !mine y
  if ordered.length == pieceCount x.len then
    let bs := (ordered.flatMap fun y => y.bytes).take x.len
    ({ s with fab := { s.fab with parts := rest } },
     some ⟨x.seq, x.kind, x.scope, bs, if x.kind == 1 then some (keyOfHandle (leNat bs)) else none⟩)
  else ({ s with fab := { s.fab with parts := rest ++ all } }, none)

/-- The item has been delivered, or is held: a piece of it that comes again is dropped (R382). -/
def State.hasItem (s : State) (c : EndKey) (gen seq : Nat) : Bool :=
  let held (m : Moved) : Bool := (m.items.any fun i => i.seq == seq) || m.placed && seqOld seq m.next
  match s.moves.find? fun x => x.1 == c with
  | some x => held x.2
  | none =>
    match s.endRec c with
    | some e => !e.frozen && e.base ≤ gen && (seqOld seq e.next || e.items.any fun i => i.seq == seq)
    | none => match (s.homeEnd c).bind fun h => h.moved with | some m => held m | none => false

/-- A piece that is not dropped joins those gathered. -/
def State.freshPiece (s : State) (c : EndKey) (x : ItemPart) : State × Option Item := if s.hasItem c x.gen x.seq then (s, none) else s.piece x

/-- `SITEM`: a piece of an item; every piece is answered by SACK. -/
def execSitem (_port : Nat) (p : Packet) (s : State) : Out :=
  s.inbound p 6 fun s =>
    let c : EndKey := ⟨osbField p 127 108, osaField p 177 154, true⟩
    let len := osbField p 84 72
    let frag := osbField p 88 85
    let r := s.freshPiece c ⟨c.home, c.stream, osbField p 107 89, osaField p 153 130, osaField p 129 128, p.scope.toNat, frag, len, flitBytes p (min 256 (len - 256 * frag))⟩
    let x := match r.2 with | some it => r.1.itemIn c (osbField p 107 89) it | none => (r.1, 0)
    x.1.emit (x.1.respPkt p 0x16 p.osa.toNat x.2 [])

/-- `SACK`: the acknowledgement of a piece; CLOSED and ORPHAN tell the producer of its consumer (R368). -/
def execSack (_port : Nat) (p : Packet) (s : State) : Out :=
  s.inbound p 0x16 fun s => s.answered p fun s _ r =>
    let st := osbField p 7 0
    let home := match r.pkts with | q :: _ => osbField q 127 108 | [] => noDev
    let k : EndKey := ⟨home, osaField p 177 154, false⟩
    let s1 := s.onEnd k fun e => { e with closed := e.closed || st == stCLOSED, orphan := e.orphan || st == stORPHAN }
    let s2 := if st == 0 then s1 else s1.onOp r.warp r.parent fun o => { o with status := st }
    s2.answerIn r

/-- `SCRED`: credits for a producer end. The packet names no home: the end is the one whose other end, or home, sent it; else that of the own stream of this number, where its consumer is held by the sender; else one whose consumer may have moved to the sender without this device having heard of it yet (R381; log 23). -/
def execScred (_port : Nat) (p : Packet) (s : State) : Out :=
  s.inbound p 0x1C fun s =>
    let n := osaField p 177 154
    let src := p.src.toNat
    let mine : List EndKey := (s.ends.filter fun e => !e.key.cons && e.key.stream == n).map (·.key) ++ (s.moves.filter fun x => !x.1.cons && x.1.stream == n).map (·.1)
    let heard : Option EndKey := ((s.ends.find? fun e => !e.key.cons && e.key.stream == n && (e.peer == src || e.key.home == src)).map (·.key)).orElse fun _ =>
      (s.moves.find? fun x => !x.1.cons && x.1.stream == n && (x.1.home == src || x.2.peer == src)).map (·.1)
    let ours : Bool := match s.homeEnd ⟨s.own, n, true⟩ with | some h => decide (h.st = .resident src) | none => false
    let k : EndKey := heard.getD (if ours then ⟨s.own, n, false⟩ else (mine.find? fun k => k.home != s.own).getD ⟨s.own, n, false⟩)
    s.creditIn k (osbField p 127 121)

/-- `SLOC`: the other end's location (R391, R392); from a holder, with no device, that its end is closed (log 23). -/
def execSloc (_port : Nat) (p : Packet) (s : State) : Out :=
  s.inbound p 0x1D fun s =>
    let n := osaField p 177 154
    let cons := osaField p 153 153 == 1
    let src := p.src.toNat
    let here : EndKey := ⟨src, n, !cons⟩
    let dev := osbField p 127 108
    if s.adopting here then s.onMove here fun m => { m with peer := dev, told := true, base := m.base + if !here.cons && dev != noDev then 1 else 0 }
    else match s.endRec here with
    | some _ => s.onEnd here fun e => e.learn dev
    | none =>
      let k : EndKey := ⟨s.own, n, cons⟩
      match s.homeEnd k with
      | some h => if dev == noDev && h.st = .resident src then s.closeAtHome k else s
      | none => s

/-- `SORPH`: an end is lost (R394); an end that is being adopted here learns of it when it is installed. -/
def execSorph (_port : Nat) (p : Packet) (s : State) : Out :=
  s.inbound p 0x1E fun s =>
    let n := osaField p 177 154
    let cons := osaField p 153 153 == 1
    let src := p.src.toNat
    let last := if p.scope == 0 then some (osbField p 127 104) else none
    match s.moves.find? fun x => x.1.stream == n && x.1.cons != cons && x.1.home == src with
    | some x => s.onMove x.1 fun m => { m with lost := some last }
    | none =>
    match s.ends.find? fun e => e.key.stream == n && e.key.cons != cons && (e.key.home == src || (e.key.home != s.own && e.peer == src)) with
    | some e => s.orphanBehind e.key last
    | none => s.loseEnd ⟨s.own, n, cons⟩ (if cons then none else last)

/-! ## Moves (R391 to R393) -/

def smEnd (p : Packet) (home : Nat) : EndKey := ⟨home, osaField p 177 154, osaField p 153 153 == 1⟩
def smGen (p : Packet) : Nat := osaField p 152 134
def smPhase (p : Packet) : Nat := osaField p 133 131

/-- SMACK. -/
def State.smack (s : State) (p : Packet) (osb : Nat) : State := s.emit (s.respPkt p 0x17 p.osa.toNat osb [])

/-- An SMOVE packet of phase `ph` reaches its device. -/
def State.onSmove (s : State) (p : Packet) (ph : Nat) (f : State → State) : Out :=
  s.inbound p 7 fun s => if smPhase p == ph then f s else s

/-- What MOVE and PLACE say of an end. -/
def smRecord (p : Packet) (m : Moved) : Moved :=
  { m with
    next := osbField p 107 84
    credits := osbField p 83 77
    kib := osbField p 76 69 % 128
    faulted := osbField p 76 69 / 128 == 1
    hidx := osbField p 68 57
    cscope := p.scope.toNat
    placed := true }

/-- `SMOVE_MOVE`: step 2, at the home. -/
def execSmoveMove (_port : Nat) (p : Packet) (s : State) : Out :=
  s.onSmove p 0 fun s => (s.homeMove (smEnd p s.own) (smGen p) (smRecord p (Moved.blank (smGen p)))).smack p 0

/-- A 256-byte piece of a context joins what has arrived. -/
def Moved.chunk (m : Moved) (i : Nat) (bs : List Byte) : Moved :=
  if m.chunks.contains i then m else { m with ctx := Memory.writeL m.ctx (256 * i) bs, chunks := m.chunks ++ [i] }

/-- `SMOVE_CTX`: a piece of the context, at the home or at the adopter. -/
def execSmoveCtx (_port : Nat) (p : Packet) (s : State) : Out :=
  s.onSmove p 1 fun s =>
    let i := osbField p 56 49
    let bs := flitBytes p 256
    let there := smEnd p p.src.toNat
    if s.adopting there then ((s.onMove there fun m => m.chunk i bs).tryInstall there).smack p 0
    else
      (s.onHome (smEnd p s.own) fun h =>
        if h.gen == smGen p then { h with moved := some ((h.moved.getD (Moved.blank h.gen)).chunk i bs) } else h).smack p 0

/-- The home has handled this ADOPT. -/
def State.adoptDone (s : State) (k : EndKey) (gen : Nat) : Bool := match s.homeEnd k with | some h => h.steps.contains (gen, 2) | none => false

/-- `SMOVE_ADOPT`: step 5, at the home. PLACE carries in a data flit the new handle, with the GEN that the end's record keeps of its other end behind it (log 23), or a null handle with the status of a refusal; an ADOPT that has to wait is not answered, so that it is sent again (log 80). -/
def execSmoveAdopt (_port : Nat) (p : Packet) (s : State) : Out :=
  s.onSmove p 2 fun s =>
    let k := smEnd p s.own
    let dev := p.src.toNat
    let gen := smGen p
    if s.adoptDone k gen then s.smack p 0
    else
      match s.homeAdopt k gen dev (osbField p 76 69 != 0) with
      | (s1, .waits) => s1
      | (s1, .refused st) => ((s1.smack p 0).fwSend (s1.smove dev k gen 3 noDev 0 0 0 0 0 p.vf.toNat 0 (bytesLE 16 (nullHandle st))))
      | (s1, .granted m) =>
        let s2 := s1.smack p 0
        (s2.smove dev k m.gen 3 m.peer m.next m.credits (m.kib + if m.faulted then 128 else 0) m.hidx 0 p.vf.toNat m.cscope
            (bytesLE 16 (handleBits k m.gen (s2.chkOf k m.gen)) ++ bytesLE 3 m.base) ::
          s2.movePackets dev k m.gen m).foldl State.fwSend s2

/-- `SMOVE_PLACE`: step 6, at the adopter; a null handle refuses the adoption. The acknowledgement carries the handle back (R393). -/
def execSmovePlace (_port : Nat) (p : Packet) (s : State) : Out :=
  s.onSmove p 3 fun s =>
    let k := smEnd p p.src.toNat
    let h := leNat (flitBytes p 16)
    let s1 :=
      if !s.adopting k then s
      else if (keyOfHandle h).home == noDev then s.refuseAdopt k (h % 256)
      else (s.onMove k fun m => if m.placed then m else
        { smRecord p m with
          gen := smGen p
          chk := some (BitVec.ofNat 64 h)
          peer := if m.told then m.peer else osbField p 127 108
          base := m.base + leNat ((flitBytes p 19).drop 16)
          credits := min 64 (osbField p 83 77 + m.credits)
          items := m.items.foldl (addItem (osbField p 107 84)) []
          ctx := m.ctx
          chunks := m.chunks }).tryInstall k
    s1.smack p h

/-- `SMOVE_ITEMS`: a piece of an item held for the end, at the home or at the adopter; the layout is the model's (log 23). -/
def execSmoveItems (_port : Nat) (p : Packet) (s : State) : Out :=
  s.onSmove p 4 fun s =>
    let there := smEnd p p.src.toNat
    let kind := osbField p 83 77 / 16
    let len := if 2 ≤ kind then 0 else osbField p 68 57 + 1
    let frag := osbField p 83 77 % 16
    let away := s.adopting there || (s.endRec there).isSome
    let k := if away then there else smEnd p s.own
    let r := s.freshPiece k ⟨k.home, k.stream, smGen p, osbField p 107 84, kind, p.scope.toNat, frag, len, flitBytes p (min 256 (len - 256 * frag))⟩
    let s1 := match r.2 with
      | none => r.1
      | some it =>
        if r.1.adopting there then r.1.onMove there fun m => m.hold it
        else if away then (r.1.itemIn there (smGen p) it).1
        else if r.1.adoptDone k (smGen p) then (r.1.homeItem k it).1
        else r.1.onHome k fun h =>
          { h with moved := some ((h.moved.getD (Moved.blank h.gen)).hold it) }
    s1.smack p 0

/-- `SMACK`: a move step is acknowledged. -/
def execSmack (_port : Nat) (p : Packet) (s : State) : Out :=
  s.inbound p 0x17 fun s => s.answered p fun s _ r =>
    let k := smEnd p p.src.toNat
    let s1 := match smPhase p with
      | 0 => s.onEnd k fun e => if e.frozen then { e with frozenAt := s.cyc } else e
      | _ => s
    s1.answerIn r

/-- `FROZEN_RECORD_RELEASE`: the old holder's record goes 120 µs after the home acknowledged the MOVE, with no forwarded packet outstanding (R391 step 3). -/
def execFrozenRecordRelease (k : EndKey) (s : State) : Out :=
  match s.endRec k with
  | some e =>
    let about (p : Packet) : Bool := (p.op == 6 || p.op == 7) && osaField p 177 154 == k.stream
    if e.frozen && e.frozenAt + Config.usec 120 ≤ s.cyc && !(s.reqList.any fun r => r.pkts.any about) then .next (s.dropEnd k) else .next s
  | none => .next s

/-! ## Contexts (R386, R389, R390) -/

/-- `CONTEXT_IDLE_TIMEOUT`. -/
def execContextIdleTimeout (k : EndKey) (s : State) : Out :=
  match s.endRec k with
  | some e =>
    match e.bind with
    | some b => if b.st = .idle && b.since + Config.msec (s.fn b.fn).stidle.lo ≤ s.cyc then .next (s.evictCtx k) else .next s
    | none => .next s
  | none => .next s

/-- `CONTEXT_EVICTION_DONE`: the granules are free; whoever waits for room goes on. -/
def execContextEvictionDone (k : EndKey) (s : State) : Out :=
  match s.endRec k with
  | some e =>
    match e.bind with
    | some b =>
      if b.st = .evicting then
        .next ((s.onEnd k fun e => { e with bind := some { b with st := .evicted, since := s.cyc, gran := [] } }).wakeDie e.die)
      else .next s
    | none => .next s
  | none => .next s

/-- `CONTEXT_RELOAD_DONE`. -/
def execContextReloadDone (k : EndKey) (s : State) : Out :=
  match s.endRec k with
  | some e =>
    match e.bind with
    | some b => if b.st = .reloading then .next ((s.onEnd k fun e => { e with bind := some { b with st := .active, since := s.cyc } }).settleStore e.die) else .next s
    | none => .next s
  | none => .next s

/-- `CTXSTORE_B_WRITE`. -/
def execCtxstoreBWrite (by_ : Mgr) (v : W32) (s : State) : Out := .next ((s.writeB .ctxstore by_ 0 v).resizeStore s.ctxstore.lo)
/-- `CTXSTORE_X_WRITE`. -/
def execCtxstoreXWrite (by_ : Mgr) (v : W32) (s : State) : Out := .next ((s.writeX .ctxstore by_ 0 v).resizeStore s.ctxstore.lo)

/-! ## Handler starts (R366, R371, R372, R387, R388) -/

/-- A fault record in a function's log. -/
def State.logRec (s : State) (fn : Nat) (x : LogRec) : State := s.onFn fn fun f => { f with log := f.log ++ [x] }

/-- The end becomes faulted, and a fault record names it by its handle bits [63:0] (R388). -/
def State.faultEnd (s : State) (e : EndRec) : State :=
  (s.onEnd e.key fun e => { e with faulted := true }).logRec e.fn ⟨1, 0, 0, 0, 0, 0, e.chk.toNat⟩

/-- An idle standing bind of the handler on a core: its index and place. -/
def Core.standingFor (c : Core) (fn h : Nat) : Option (Nat × Bind) :=
  (c.binds.zipIdx.find? fun x => match x.1 with | .standing f i none _ _ _ _ _ _ => f == fn && i == h | _ => false).map fun x => (x.2, x.1)

/-- The handle that a kind 3 handler finds at offset 0, and its status: none while the adoption is under way. An item whose adoption was refused holds the null handle itself. -/
def State.adopted (s : State) (it : Item) (fn die : Nat) : State × Option (Nat × Nat) :=
  let h := leNat it.bytes
  let here (s : State) (k : EndKey) : Option (Nat × Nat) :=
    if s.adopting k then none
    else ((s.endRec k).filter fun x => !x.frozen && x.gen == fieldOf h 82 64 + 1).map fun x => (x.handle, 0)
  match it.carried with
  | none => (s, some (if (keyOfHandle h).home == noDev then (h, h % 256) else (nullHandle stBADH, stBADH)))
  | some k =>
    if s.claimed k then (s, none)
    else
      match here s k with
      | some x => (s, some x)
      | none =>
        match s.adopt k (fieldOf h 82 64) fn die with
        | (s1, .waits) => (s1, none)
        | (s1, .refused st) => (s1, some (nullHandle st, st))
        | (s1, .granted _) => (s1, here s1 k)

/-- The carried end of a failed adoption is lost (R371, R394). -/
def State.loseCarried (s : State) (it : Item) (status : Nat) : State :=
  if status == 0 then s
  else match it.carried with
    | some k => s.giveUp k
    | none => s

/-- A bound end's handler may start: an item is next, the context is resident, in no way that is leaving the carve-out, and no handler of the end runs (R372, R386, R390). -/
def State.startable (s : State) (e : EndRec) (b : Binding) : Bool :=
  !(e.running.isSome || e.faulted || e.frozen || e.pending) && (decide (b.st = .idle) || decide (b.st = .active)) && !s.unbinding e && !b.beyond (s.ctxCap e.die)

/-- The item's handler is started in its place. A terminal item stays at the head for later takes (R369). -/
def State.startItem (s : State) (e : EndRec) (b : Binding) (it : Item) (h : HandlerEnt) (core : Nat) (p : Option Nat × List Nat × Nat × Nat) (bytes : List Byte) (status : Nat) : State :=
  let kind := match it.kind with | 0 => 0 | 1 => 3 | 2 => 1 | _ => 2
  let n := s.nextWg
  let s1 := match p.1 with
    | some i => s.onCore core fun c => { c with binds := c.binds.modify i fun x => match x with | .standing f y _ st w pb nr sb l => .standing f y (some n) st w pb nr sb l | x => x }
    | none => s.bindHandler core h p.2
  let s2 := s1.startHandler e.fn core h p.2 bytes [bytes.length, it.seq, b.kib * 1024, kind, status] e.chk (.item e.key it.seq it.kind) (some e.key) (max it.scope b.prev)
  let s3 := s2.onEnd e.key fun x => { x with
    items := if 2 ≤ it.kind then { it with kind := it.kind + 4 } :: x.items.drop 1 else x.items.drop 1
    next := if 2 ≤ it.kind then x.next else seqAdd x.next 1
    running := some n
    bind := x.bind.map fun y => { y with st := .active, since := s.cyc, prev := h.cscope } }
  -- a handle item is released by its adoption; any other when its handler retires (R381)
  if it.kind == 1 then s3.release e 1 else s3

end Sys2Proof.Machine
end

