-- ==== Sys2Proof/Machine/Switch.lean ====
section
/-! DEFINITION. The end of workgroups, traps that firmware handles, starvation, parking and context switches (R34, R54, R265, R308, R319 to R329, R352, R388). -/

namespace Sys2Proof.Machine

/-! ## Starvation (R54) -/

/-- `STARVATION_PRECEDENCE`: the warp has stayed eligible for 128 cycles without issuing. -/
def execStarvationPrecedence (k : Nat) (s : State) : Out :=
  .next (s.onWarp k fun w => match w.elig with
    | some t => if t + 128 ≤ s.cyc then { w with urgent := true } else w
    | none => w)

/-! ## What a workgroup still owes -/

/-- Requests of a workgroup's warps, those of their engines and fabric operations among them. -/
def State.wgReqs (s : State) (g : Nat) : List Req := s.reqList.filter fun r => r.cls == .warp && wgOf r.warp == g

def Req.isSent (r : Req) : Bool := decide (r.stage = .sent)

/-- The open messages of a workgroup. -/
def State.msgIds (s : State) (g : Nat) : List Nat := (s.warpsOf g).flatMap fun x => x.2.msgs.map (·.id)

/-- Some request, engine operation or fabric operation has still to be performed; what an open message has not sent yet is not among them, nor a copy behind one that a fault has stopped, which never starts (R34, R288, R352). -/
def State.owes (s : State) (g : Nat) : Bool :=
  let c := s.core (s.wg g).coreKey
  let ms := s.msgIds g
  ((s.wgReqs g).any fun r => !ms.contains r.parent || r.isSent) ||
  (c.matq.any fun m => wgOf m.warp == g) || !((c.copies.filter fun x => x.laneKey == g).takeWhile fun x => !x.stopped).isEmpty ||
  (s.warpsOf g).any fun x => !x.2.fabq.isEmpty

/-- Every open message of the workgroup is aborted toward its receiver (R352). -/
def State.abortMsgs (s : State) (g : Nat) : State :=
  let ms := s.msgIds g
  let s1 := ((s.wgReqs g).filter fun r => ms.contains r.parent && !r.isSent).foldl State.dropReq s
  (s1.warpsOf g).foldl (fun s x =>
    (x.2.msgs.foldl (fun s m => s.bstat m.dev m.msgid (s.wg g).fn 3) s).onWarp x.1 fun w => { w with msgs := [] }) s1

/-! ## The room and the banks of a workgroup (R34, R267, R311, R387) -/

/-- A bind record as its workgroup leaves it: cleared, or, of a standing bind, idle; one whose entry has changed since, or that no bound end of the die needs any more, is removed. -/
def State.vacate (s : State) (g : Nat) (b : Bind) : Option Bind :=
  match b with
  | .workgroup h _ _ _ _ _ => if h == g then none else some b
  | .standing f i busy stale w pb n q l =>
    if busy == some g then
      if !stale && s.boundOn ((s.wg g).coreKey / 60) f i then some (.standing f i none false w pb n q l) else none
    else some b

/-- Dispatch clears the record of a workgroup. -/
def State.freeRoom (s : State) (g : Nat) : State := s.onCore (s.wg g).coreKey fun c => { c with binds := c.binds.filterMap (s.vacate g) }

/-- A co-placed set claims as one workgroup: its claim passes to a member that has not ended, and ends with its tile when the last one has (R267). -/
def State.passClaim (s : State) (g b : Nat) : State :=
  let core := (s.wg g).coreKey
  if ((s.core core).bank b).claim != some g then s
  else
    match (s.coplaced g).find? fun o => o != g && decide ((s.wg o).status ≠ .ended) with
    | some o => (s.onCore core fun c => c.putBank b { c.bank b with claim := some o }).onWg o fun x => { x with claims := addOnce x.claims b }
    | none => s.onCore core fun c => c.putBank b Bank.none

/-- The workgroup leaves its core: messages, record, claims and warps. -/
def State.endWg (s : State) (g : Nat) : State :=
  let s0 := (((s.abortMsgs g).freeRoom g).passClaim g 0).passClaim g 1
  let s1 := s0.onCore (s0.wg g).coreKey fun c => { c with copies := c.copies.filter fun x => x.laneKey != g }
  { s1 with
    warps := s1.warps.filter fun x : Nat × Warp => wgOf x.1 != g
    wgs := Tbl.adjust s1.wgs g fun x => { x with status := .ended, pad := [], padPoison := [], claims := [], banks := [], matq := [], copies := [], leave := 0 } }

/-- Every owned-dirty word of the workgroup is written back and no longer owned: a release of the whole workgroup (R34, R329). -/
def State.releaseWg (s : State) (g : Nat) : State :=
  let k := (s.wg g).coreKey
  (((s.core k).wordsWhere fun _ x => x.owner == some g).map fun w => w / 32).eraseDups.foldl (fun s l => (s.fetchNow l 0).flushLine k g l) s

/-- An eviction still writes words of one of these workgroups back. -/
def State.evictingAny (s : State) (gs : List Nat) : Bool :=
  s.reqList.any fun r => r.cls == .eviction && !r.isPerformed && r.accs.any fun a => gs.contains a.cmp

/-- The workgroups of a member grid. -/
def State.gridOf (s : State) (x : Wg) : List Nat := (s.wgs.filter fun y : Nat × Wg => y.2.bundle == x.bundle && y.2.grid == x.grid).map (·.1)

/-- The grid's retirement, when this is its last workgroup, waits for the write-backs under way. -/
def State.lastBlocked (s : State) (g : Nat) : Bool :=
  let x := s.wg g
  match (Tbl.find s.bundles x.bundle).bind fun b => b.grid x.grid with
  | some r => r.retired + 1 == r.nwg && s.evictingAny (s.gridOf x)
  | none => s.evictingAny [g]

/-- A workgroup of a grid is gone: the last one retires the grid with a release, and the last grid the bundle (R34). -/
def State.retireInGrid (s : State) (g : Nat) (err : Bool) : State :=
  let x := s.wg g
  match Tbl.find s.bundles x.bundle with
  | none => (s.releaseWg g).riseEpoch g
  | some b =>
    match b.grid x.grid with
    | none => s
    | some r =>
      let last := r.retired + 1 == r.nwg
      -- the grid's retirement release, which raises the release epoch and closes the words of its workgroups (R34, R242)
      let s1 := if last then (s.gridOf x).foldl (fun s n => (s.releaseWg n).riseEpoch n) s else s
      let s2 := (s1.putBundle x.bundle { b with
        err := b.err || err
        grids := b.grids.mapIdx fun i y => if i == x.grid then { y with retired := y.retired + 1, done := last } else y }).tryRetireBundle x.bundle
      if (Tbl.find s2.bundles x.bundle).isSome then s2 else { s2 with wgs := s2.wgs.filter fun y : Nat × Wg => y.2.bundle != x.bundle }

/-- A handler's workgroup is gone: its end's context is idle, and its data item is released (R381, R386, R388). -/
def State.retireHandler (s : State) (g : Nat) (fault : Bool) : State :=
  match (s.wg g).handler with
  | .item key _ kind =>
    match s.endRec key with
    | some e =>
      let s1 := s.onEnd key fun e => { e with
        running := none
        faulted := e.faulted || fault
        bind := e.bind.map fun b => { b with st := .idle, since := s.cyc } }
      (if kind == 0 then s1.release e 1 else s1).wakeDie e.die
    | none => s
  | _ => s

/-- `WORKGROUP_RETIRE`: every warp has exited, nothing is left to be performed and no trap is left to be taken. -/
def execWorkgroupRetire (g : Nat) (s : State) : Out :=
  match Tbl.find s.wgs g with
  | some x =>
    if decide (x.status ≠ .resident) || !((s.warpsOf g).all fun w => w.2.exited && w.2.handler.isNone && w.2.deferred.isEmpty) || s.owes g || s.lastBlocked g then .next s
    else .next (((s.endWg g).retireHandler g false).retireInGrid g false)
  | none => .next s

/-! ## Traps (R319 to R323) -/

/-- Results whose requests were dropped: their registers are full with the old contents, and the counter counts (R332). -/
def Warp.landKept (w : Warp) : Warp := (w.flight.filter fun x => x.keep && x.need == 0).foldl Warp.land w

/-- `DEFERRED_TRAP`: the oldest deferred cause is taken; INFO carries the KIND of `PIX`. -/
def execDeferredTrap (k : Nat) (s : State) : Out :=
  match Tbl.find s.warps k with
  | none => .next s
  | some w0 =>
    let w := w0.landKept
    match w.deferred with
    | [] => .next s
    | d :: rest =>
      if decide (w.halt = .stopped) || decide ((s.wg (wgOf k)).status ≠ .resident) then .next s
      else .next ((s.putWarp k { w with deferred := rest }).raise k 3 d.code (w.csr.pix.toNat / 2 ^ 60) d.pc d.inst)

/-- The sibling stops by itself: its cycle has come, or both counts are full (R322). -/
def Warp.skidOver (w : Warp) (now : Nat) : Bool :=
  match w.halt with
  | .skid t stop => t < now && (stop ≤ now || (w.trap.skids == 8 && w.trap.skidl == 8))
  | _ => false

/-- `SKID_STOP`: a halted sibling stops, in any cycle after the halt's (R3). -/
def execSkidStop (k : Nat) (s : State) : Out :=
  match Tbl.find s.warps k with
  | none => .next s
  | some w =>
    match w.halt with
    | .skid t _ =>
      if t < s.cyc then
        .next (s.putWarp k (w.stop (causeWord 0 0 false 0) w.sc.pc (s.scalarInst (s.wg (wgOf k)) w)))
      else .next s
    | _ => .next s

/-- The fabric operation has been sent: it completes under R345. -/
def FabOp.isSent (o : FabOp) : Bool := o.phase == 3 || o.phase == 4

/-- What a warp of an ended workgroup discards: queued blocks, waits for events outside, and fabric operations not sent yet (R323). -/
def Warp.discard (w : Warp) : Warp :=
  let slot (x : Slot) : Slot := match x.wait with | .held _ => x | _ => { x with wait := .none }
  { w with
    blocks := []
    sleep := 0
    slotA := slot w.slotA
    slotB := slot w.slotB
    sc := { w.sc with wait := match w.sc.wait with | .held n => .held n | _ => .none }
    fabq := w.fabq.filter FabOp.isSent }

/-- The discards of R323 for a whole workgroup: its fences and releases hold nothing back any more, its messages are aborted, and context accesses not performed by the halt are not made (R388). -/
def State.discardWg (s : State) (g : Nat) : State :=
  let s1 := s.abortMsgs g
  let s2 := ((s1.wgReqs g).filter fun r => r.kind == .fence || (r.lspace == 3 && !r.isPerformed)).foldl State.dropReq s1
  -- a transfer that is given up holds no handler start back any more; where its end is frozen already, the end is lost (R394)
  let s3 := ((s.warpsOf g).flatMap fun x => x.2.fabq.filter fun o => o.op == 11 && !o.isSent).foldl
    (fun s o => match o.phase, o.key with
      | 5, some key => s.giveUp key
      | _, _ => s.onEnd (keyOfHandle o.a.toNat) fun e => { e with pending := false }) s2
  { s3 with warps := Tbl.mapVal (fun k w => if wgOf k == g then w.discard else w) s3.warps }

/-- The warp whose trap firmware handles. -/
def State.trapper (s : State) (g : Nat) : Option Warp := (s.wg g).trapper.bind fun k => Tbl.find s.warps k

/-- A sibling is still inside its skid window (R322). -/
def State.skidding (s : State) (g : Nat) : Bool := (s.warpsOf g).any fun x => match x.2.halt with | .skid _ _ => true | _ => false

/-- The fault record of an ended workgroup; a handler of a stream end is named by its handle (R323, R388). -/
def State.faultRecord (s : State) (g : Nat) : State :=
  let x := s.wg g
  match s.trapper g with
  | none => s
  | some w =>
    let who : Nat × Nat := match x.handler with
      | .item key _ _ => (1, ((s.endRec key).map fun e => e.chk.toNat).getD 0)
      | _ => (0, x.wg)
    s.logRec x.fn
      { kind := who.1
        code := trapCode w.trap.cause
        pc := w.trap.pc
        inst := w.trap.inst.setWidth 32
        info := BitVec.ofNat 32 (w.trap.cause.toNat / 2 ^ 32)
        core := x.coreKey
        who := who.2 }

/-- Warps that have neither exited nor triggered count as exited toward the grid's trigger (R53). -/
def State.countExits (s : State) (g : Nat) : State :=
  ((s.warpsOf g).filter fun x => !(x.2.exited || x.2.triggered)).foldl (fun s x => s.countTrigger x.1) s

/-- `FIRMWARE_END_WORKGROUP`: once every sibling has stopped (R322), firmware discards at once what R323 names, and ends the workgroup with error when what had issued has been performed. -/
def execFirmwareEndWorkgroup (g : Nat) (s : State) : Out :=
  if decide ((s.wg g).status ≠ .halted) || s.skidding g then .next s
  else
    let s1 := s.discardWg g
    if s1.owes g || s1.lastBlocked g then .next s1
    else
      let s2 := (((s1.faultRecord g).countExits g).onWg g fun x => { x with failed := true }).endWg g
      .next (((s2.retireHandler g true).tryBarrier g 16).retireInGrid g true)

/-! ## Parking (R326, R327) -/

/-- Resident warps of a function on a core. -/
def State.residentWarps (s : State) (core fn : Nat) : List (Nat × Warp) :=
  s.warps.filter fun x : Nat × Warp => let g := s.wg (wgOf x.1)
    g.coreKey == core && g.fn == fn && decide (g.status = .resident) && g.leave == 0

def parkedIn (l : List (Nat × Warp)) : Nat := (l.filter fun x => x.2.parked).length

/-- The threshold in warps; none where parking is off. -/
def parkLimit (x : Setting) (resident : Nat) : Option Nat :=
  match x.code with
  | 1 => some (max 1 ((resident + 1) / 2))
  | 2 => some (max 1 ((3 * resident + 3) / 4))
  | _ => if x.lo == 0 then none else some x.lo

/-- The parked warps of the function stand at the threshold. -/
def State.atThreshold (s : State) (core fn : Nat) : Bool :=
  let l := s.residentWarps core fn
  match parkLimit (s.fn fn).park l.length with | some t => t ≤ parkedIn l | none => false

/-- A workgroup with what R327 ranks it by: whether all its warps are parked, how many are, and its start order. -/
structure Ranked where
  g    : Nat
  all  : Bool
  n    : Nat
  order : Nat
deriving DecidableEq, Repr

def Ranked.before (a b : Ranked) : Bool :=
  if a.all != b.all then a.all else if a.n != b.n then b.n < a.n else b.order < a.order

def insertRanked (x : Ranked) : List Ranked → List Ranked
  | [] => [x]
  | y :: r => if x.before y then x :: y :: r else y :: insertRanked x r

/-- The function's workgroups on a core in the order in which they are taken. -/
def State.ranked (s : State) (core fn : Nat) : List Ranked :=
  ((((s.residentWarps core fn).map fun x => wgOf x.1).eraseDups.map fun g =>
    let ws := s.warpsOf g
    (⟨g, ws.all fun x => x.2.parked, parkedIn ws, (s.wg g).order⟩ : Ranked)).filter fun x => x.n != 0).foldr insertRanked []

/-- The workgroups taken until the count falls below the threshold. -/
def State.takeParked (s : State) (core fn limit : Nat) : List Ranked → List Nat → List Nat
  | [], gone => gone
  | x :: rest, gone =>
    if parkedIn ((s.residentWarps core fn).filter fun y => !gone.contains (wgOf y.1)) < limit then gone
    else s.takeParked core fn limit rest (gone ++ s.gang x.g).eraseDups

/-! ## `CONTEXT_SWITCH_OUT` (R329, R265, R352) -/

/-- Nothing of the workgroup is between issue and its end but what is saved: no result in flight but of a memory instruction or of a `FUSE` between two operations, no request performed or sent whose reply is under way (R329). -/
def State.quiet (s : State) (g : Nat) : Bool :=
  ((s.warpsOf g).all fun x => x.2.flight.all (fun y => y.mem || y.fuse.isSome) && x.2.sc.fill.isEmpty) &&
  (s.wgReqs g).all fun r => !(r.isPerformed || r.isSent)

/-- A request's bit in the reservation mask of a queue is cleared, unless another of its source waits there (R265, R257). -/
def State.clearMask (s : State) (r : Req) : State :=
  match r.stage with
  | .replay _ (.grant q) =>
    let x := s.queue q
    if s.reqList.any fun y => y.id != r.id && y.cls == r.cls && y.src == r.src && (match y.stage with | .replay _ (.grant p) => p == q | .bounced _ (.grant p) => p == q | _ => false) then s
    else s.putQueue q { x with mask := x.mask.filter fun m => m != (clsCode r.cls, r.src) }
  | _ => s

/-- A request saved as not yet performed. -/
def Req.saved (r : Req) : Req :=
  { r with
    xl := r.xl && (r.lspace != 0 || r.kind == .packet)
    dev := if r.kind == .packet then r.dev else none
    clear := false
    probes := none
    resv := 8 ≤ r.bounces
    stage := match r.stage with
      | .transit _ => .replay 0 .ready
      | .queued _ _ => .replay 0 .ready
      | .granted => .replay 0 .ready
      | .replay why (.grant _) => .replay why .ready
      | x => x }

/-- The request leaves the queues, and its entry is saved; a notice under way has arrived, and a registration whose store has not been performed is withdrawn. -/
def State.saveReq (s : State) (r : Req) : State :=
  let s0 := match r.stage with
    | .bounced why wake => s.noticed r why wake
    | .granted => (r.wordsOf.filter fun w => !(s.ownedOf r.core [w]).any fun y => y.2.2 == r.wgKey).foldl (fun s w => s.deregister w r.wgKey) s
    | _ => s
  let r1 := (Tbl.find s0.reqs r.id).getD r
  let s1 := ((s0.clearMask r1).leaveQueue r1).freeTags fun t => t.req == r1.id
  if r1.kind == .wback then s1.delReq r1.id else s1.putReq r1.saved

/-- `PIX` of a warp whose operation the switch interrupts: its KIND and how far it has come (R294). -/
def State.pixOf (s : State) (k : Nat) (w : Warp) : W64 :=
  let c := s.core (s.wg (wgOf k)).coreKey
  let pix (kind done : Nat) : W64 := BitVec.ofNat 64 (kind * 2 ^ 60 + done % 2 ^ 32)
  match c.matq.find? fun m => m.warp == k && (m.started || m.done != 0) && (decide (m.kind = .mma) || decide (m.kind = .wload)) with
  | some m => pix (if m.kind = .mma then 1 else 4) m.done
  | none =>
    match w.flight.findSome? fun x => x.fuse with
    | some f => pix 2 f.next
    | none =>
      match c.copies.find? fun x => x.warp == some k && x.started && !x.stopped with
      | some x => pix 3 x.done
      | none => w.csr.pix

/-- Tokens go back, and the messages pause: reads for them end, and packets that have not left are saved (R352, R376). -/
def State.pauseMsgs (s : State) (g : Nat) : State :=
  (s.warpsOf g).foldl (fun s x =>
    let s1 := x.2.msgs.foldl (fun s m => m.tokens.foldl (fun s t => s.giveBack m (s.wg g).fn t.1 t.2)
      ((s.reqList.filter fun r => r.parent == m.id && r.kind == .load).foldl State.dropReq s)) s
    s1.onWarp x.1 fun w => { w with msgs := w.msgs.map fun m => { m with tokens := [], got := [], wait := [], paused := true } }) s

/-- The workgroup is saved and its core left. -/
def State.switchOut (s : State) (g : Nat) : State :=
  let x := s.wg g
  let s1 := (s.releaseWg g).pauseMsgs g
  let s2 := { s1 with warps := Tbl.mapVal (fun k w =>
    if wgOf k == g then { w with csr := { w.csr with pix := s.pixOf k w }, sleep := w.sleep - s.cyc, elig := none, urgent := false, parked := false } else w) s1.warps }
  let s3 := (s2.wgReqs g).foldl State.saveReq s2
  let c := s3.core x.coreKey
  let held := ([0, 1].filter fun b => (c.bank b).claim == some g).map fun b => (b, c.bank b)
  let s4 := s3.onCore x.coreKey fun c =>
    let d := { c with
      matq := c.matq.filter fun m => wgOf m.warp != g
      copies := c.copies.filter fun y => y.laneKey != g }
    held.foldl (fun d b => d.putBank b.1 Bank.none) d
  (s4.freeRoom g).onWg g fun y => { y with
    status := .out
    banks := held
    matq := (c.matq.filter fun m => wgOf m.warp == g).map fun m => { m with started := false }
    copies := c.copies.filter fun z => z.laneKey == g }

/-- `CONTEXT_SWITCH_OUT`: the workgroup that firmware takes, with its cohort or co-placed set, once what must complete has. -/
def execContextSwitchOut (g : Nat) (s : State) : Out :=
  let gs := s.gang g
  if gs.all fun j => decide ((s.wg j).status = .resident) && (s.wg j).leave != 0 && s.quiet j then
    .next (gs.foldl State.switchOut s)
  else .next s

/-! ## `CONTEXT_SWITCH_IN` (R328, R265, R352) -/

/-- Warps take the slots and pool run of their new record. -/
def State.seatWarps (s : State) (g : Nat) (b : Bind) : State :=
  { s with warps := Tbl.mapVal (fun k w =>
      if wgOf k == g then
        { w with
          wslot := b.slots.getD (k % 16) 0
          pooladdr := b.pool.1 + k % 16 * (s.wg g).nreg
          sleep := if w.sleep == 0 then 0 else s.cyc + w.sleep }
      else w) s.warps }

/-- Paused messages ask for their grants again. -/
def State.resumeMsgs (s : State) (g : Nat) : State :=
  (s.warpsOf g).foldl (fun s x =>
    x.2.msgs.foldl (fun s m =>
      (s.onWarp x.1 fun w => { w with msgs := w.msgs.map fun y => if y.id == m.id then { y with paused := false } else y }).warpSend x.1 m.id m.stream m.mask m.pc m.inst
        (s.bulkPkt 8 (s.wg g).fn m.dev m.msgid 0 m.len m.slot m.prio true [])) s) s

/-- A saved matrix operation goes back into the queue before the first one that its co-placed set issued later (R232, R271). -/
def requeue (set : List Nat) : List MatOp → MatOp → List MatOp
  | [], m => [m]
  | x :: xs, m => if set.contains (wgOf x.warp) && m.id < x.id then m :: x :: xs else x :: requeue set xs m

/-- A workgroup is restored on a core. A filled word there may be older than what its warps have read, so none is kept (R189). -/
def State.switchIn (s : State) (g core : Nat) (b : Bind) : State :=
  let x := s.wg g
  let s1 := (s.onCore core fun c =>
    let d := c.bindIn (b.named g)
    let e := { d with matq := x.matq.foldl (requeue (s.coplaced g)) d.matq, copies := d.copies ++ x.copies }
    x.banks.foldl (fun e y => e.putBank y.1 y.2) e).acquire core 1
  let s2 := s1.onWg g fun y => { y with
    die := core / 60
    core := core % 60
    padBase := b.pad.1 * 4096
    status := .resident
    leave := 0
    banks := []
    matq := []
    copies := [] }
  let s3 := { s2 with reqs := Tbl.mapVal (fun _ (r : Req) => if decide (r.cls = OwnerClass.warp) && wgOf r.warp == g then { r with core := core } else r) s2.reqs }
  (s3.seatWarps g b).resumeMsgs g

end Sys2Proof.Machine
end

