-- ==== Sys2Proof/Machine/Arbiter.lean ====
section
/-! DEFINITION. Arbitration: which work of a die is placed next, and the events that place it: workgroups of launches, handlers, and switched-out workgroups; the switch-outs that make room for it (R308 to R310, R314, R327, R328, R354, R366, R387). -/

namespace Sys2Proof.Machine

/-! ## Switched-out workgroups (R328) -/

/-- What a workgroup needs to come back; the members of a co-placed set share their banks on the one core they return to. -/
def Wg.need (x : Wg) (one : Bool) : Need := ⟨x.warps, x.nreg, x.padSize / 4096, if one then [] else x.claims⟩

/-- The set comes back to one core: it is co-placed and claims banks (R328). -/
def State.oneCore (s : State) (g : Nat) : Bool := (s.wg g).cohort.isNone && 1 < (s.gang g).length

/-- A bank of a core is free once the workgroups `gone` have left it. -/
def State.bankFree (s : State) (gone : List Nat) (core b : Nat) : Bool :=
  match ((s.core core).bank b).claim with | some o => gone.contains o | none => true

/-- The banks that the set claims are free on a core, once the workgroups `gone` have left it. -/
def State.banksFree (s : State) (gone gs : List Nat) (core : Nat) : Bool :=
  gs.all fun g => (s.wg g).claims.all (s.bankFree gone core)

/-- A place for a switched-out set on its die once the workgroups `gone` have left, the search beginning at core `c`; each member goes to a core where the banks that it claims are free (R328). -/
def State.fitOut (s : State) (gs gone : List Nat) (binds : Nat → List Bind) (die c : Nat) : Option (List (Nat × Bind)) :=
  match gs with
  | g :: _ =>
    if s.oneCore g then
      ((coresFrom die c).filter (s.banksFree gone gs)).findSome? fun k => fitAll binds (s.bankFree gone) [k] (gs.map fun g => (s.wg g).need true) [] []
    else fitAll binds (s.bankFree gone) (coresFrom die c) (gs.map fun g => (s.wg g).need false) [] []
  | [] => none

/-- A workgroup is eligible again: every entry that parked it has its wake condition, or it was switched out for a slice or a timed launch (R328). -/
def State.outReady (s : State) (g : Nat) : Bool :=
  decide ((s.wg g).status = .out) &&
  ((s.wg g).leave == 2 || (s.wgReqs g).all fun r => match r.stage with
    | .replay why wake => !([1, 2, 4].contains why) || decide (wake = .ready)
    | _ => true)

/-- Switched-out sets of a die that are eligible again, each under its first workgroup, the oldest first. -/
def State.outSets (s : State) (die : Nat) : List (Nat × List Nat) :=
  let l := s.wgs.filter fun y : Nat × Wg => y.2.die == die && decide (y.2.status = .out)
  (((l.foldr insertNewest []).reverse.map fun y => (y.1, s.gang y.1)).filter fun y => y.2.head? == some y.1 && y.2.all s.outReady)

/-! ## Handlers that wait for room (R354, R366, R387) -/

def HandlerEnt.need (e : HandlerEnt) : Need := ⟨1, e.nreg, e.scratch / 4096, []⟩

/-- A handler's place on a core; idle standing binds give way (R387). -/
def State.handlerPlace (s : State) (core : Nat) (e : HandlerEnt) : Option (List Nat × Nat × Nat) := fitBinds (s.bindsAt core) e.need

/-- No standing bind of the die is free for the handler. -/
def State.noStanding (s : State) (die fn h : Nat) : Bool := !((List.range 60).any fun c => ((s.core (coreKey die c)).standingFor fn h).isSome)

/-- Handlers that firmware has to place on a die, with their functions: those of the messages of each function on any die, and the next item of a bound end whose standing binds are all busy. -/
def State.waiting (s : State) (die : Nat) : List (Nat × HandlerEnt) :=
  (s.fns.flatMap fun x : Nat × Fn =>
    if x.2.resetStep == 0 then x.2.ams.filterMap fun m => (tableEnt x.2.table_ m.hidx).map fun h => (x.1, h) else []) ++
  s.ends.filterMap fun e => match e.bind, e.due with
    | some b, some _ =>
      if e.die == die && s.startable e b && s.noStanding die e.fn b.hidx then (tableEnt (s.fn e.fn).table_ b.hidx).map fun h => (e.fn, h) else none
    | _, _ => none

/-! ## The choice (R308 to R310, R314) -/

/-- Work that competes: the next unit of a launch, or a set that returns. -/
inductive Work where
  | unit (u : PUnit)
  | back (gs : List Nat)
deriving DecidableEq, Repr

/-- A candidate as the three levels see it. -/
structure Cand where
  work  : Work
  fn    : Nat
  proc  : Nat
  prio  : Nat        -- 8 for a starved queue
  ready : Nat        -- since when its packet is eligible
  cost  : Nat
  timed : Bool
deriving DecidableEq, Repr

def Queue.prioNow (x : Queue) : Nat := if x.starved then 8 else x.prio

/-- The units of a queue that compete: the head one of its untimed launches, and every timed launch whose time has come (R314). -/
def State.competing (s : State) (q : Nat) (x : Queue) : List PUnit :=
  let us := s.unitsOf q x
  (us.filter PUnit.timed) ++ (us.filter fun u => !u.timed).take 1

/-- Units that a die may place now: its own, and those that another die offers it, which take their turn under its own levels 1 and 2 even where their launch is timed (R308, R314). -/
def State.unitCands (s : State) (die : Nat) : List Cand :=
  s.cmdq.flatMap fun x : Nat × Queue => (s.competing x.1 x.2).filterMap fun u =>
    if s.offered u x.2.die == some die then some ⟨.unit u, x.2.fn, x.2.proc, x.2.prioNow, u.pkt.ready, u.cost, u.timed && x.2.die == die⟩ else none

/-- The packet that placed a workgroup, with its queue; none of a handler. -/
def State.packetOf (s : State) (g : Nat) : Option (Queue × QPacket) :=
  (Tbl.find s.bundles (s.wg g).bundle).bind fun b => (Tbl.find s.cmdq b.queue).bind fun x => (x.packets.find? fun p => p.index == b.index).map fun p => (x, p)

/-- A set that returns competes with its queue's priority and its packet's age; it is no launch, so it takes part untimed (log 77). -/
def State.backCand (s : State) (gs : List Nat) : Option Cand :=
  match gs with
  | g :: _ => (s.packetOf g).map fun y =>
    ⟨.back gs, (s.wg g).fn, (s.wg g).proc, y.1.prioNow, y.2.ready, gs.foldl (fun n i => n + (s.wg i).warps) 0, false⟩
  | [] => none

/-- Sets that fit and may return; none while the die's firmware is making room (log 77). -/
def State.backSets (s : State) (die : Nat) : List (Nat × List Nat) :=
  if s.leaving die then [] else (s.outSets die).filter fun y => (s.fitOut y.2 [] s.bindsAt die 1).isSome

/-- A workgroup of a handler. -/
def State.isHandler (s : State) (g : Nat) : Bool := decide ((s.wg g).handler ≠ .none)

/-- Candidates in order: returning sets first, the oldest first, then the queues in ascending number; a later one of equal rank gives way. -/
def State.candidates (s : State) (die : Nat) : List Cand :=
  ((s.backSets die).filterMap fun y => s.backCand y.2) ++ s.unitCands die

/-- Functions with a handler to place on the die, new or returning, that fits. -/
def State.handlerFns (s : State) (die : Nat) : List Nat :=
  ((s.waiting die).filter fun h => (coresFrom die 1).any fun k => (s.handlerPlace k h.2).isSome).map (·.1) ++
  ((s.backSets die).filter fun y => s.isHandler y.1).map fun y => (s.wg y.1).fn

/-- Entries of the slice table, up to the first with LEN 0 (R309). -/
def State.sliceList (s : State) : List (Nat × Nat × Bool) :=
  (s.slices.toList.takeWhile fun e => e.toNat % 65536 != 0).map fun e => (e.toNat / 65536 % 256, e.toNat % 65536, e.getLsbD 24)

/-- Functions in the order of level 1, from the die's current entry on. -/
def State.fnOrder (s : State) (die : Nat) : List Nat :=
  let l := s.sliceList.map (·.1)
  let i := (s.die die).slice % max 1 l.length
  ((l.drop i ++ l.take i).filter (· != 255) ++ List.range 33).eraseDups

def deficitKey (die fn proc : Nat) : Nat := (die * 64 + fn) * 65536 + proc
def State.weight (s : State) (fn proc : Nat) : Nat := max 1 (Tbl.getD s.weights (fn * 65536 + proc) 1)

/-- Level 2: rounds of deficit until some process can pay for its unit. `l` lists processes and the cost of the unit each would place. -/
def drr (key weight : Nat → Nat) (l : List (Nat × Nat)) : Nat → Tbl Nat → Option (Nat × Tbl Nat)
  | 0, _ => none
  | fuel + 1, d =>
    match l.find? fun p => p.2 ≤ Tbl.getD d (key p.1) 0 with
    | some p => some (p.1, Tbl.put d (key p.1) (Tbl.getD d (key p.1) 0 - p.2))
    | none => drr key weight l fuel (l.foldl (fun d p => Tbl.put d (key p.1) (Tbl.getD d (key p.1) 0 + 32 * weight p.1)) d)

/-- Level 3: highest PRIO, then the oldest packet, then the first listed. -/
def bestOf : List Cand → Option Cand
  | [] => none
  | c :: cs => some (cs.foldl (fun a b => if a.prio < b.prio || (a.prio == b.prio && b.ready < a.ready) then b else a) c)

/-- A process has eligible work that the die may come to place, whether or not it fits now. -/
def State.hasWork (s : State) (die fn proc : Nat) : Bool :=
  (s.cmdq.any fun x : Nat × Queue => x.2.fn == fn && x.2.proc == proc && !(s.unitsOf x.1 x.2).isEmpty) ||
  (s.outSets die).any fun y => (s.wg y.1).fn == fn && (s.wg y.1).proc == proc

/-- What a die places next: a handler of a function, which goes ahead of that function's launches (R366), or a candidate, with the deficits it leaves. -/
inductive Turn where
  | handlers (fn : Nat)
  | work (w : Work) (deficit : Tbl Nat)
deriving DecidableEq, Repr

/-- Room is being made on the die for a timed launch of its own: nothing untimed takes it (R314). -/
def State.timedRoom (s : State) (die : Nat) : Bool :=
  s.leaving die && s.cmdq.any fun x : Nat × Queue => x.2.die == die && (s.overdue x.1 x.2).isSome

/-- The deficits that stand: a process with nothing eligible keeps a deficit of 0 (R308). -/
def State.standingDeficit (s : State) : Tbl Nat :=
  s.deficit.filter fun e : Nat × Nat => s.hasWork (e.1 / 65536 / 64) (e.1 / 65536 % 64) (e.1 % 65536)

/-- The die's next placement: a timed launch whose time has come before any other work (R314), then by function, process and queue (R308). -/
def State.choose (s : State) (die : Nat) : Option Turn :=
  let all := s.candidates die
  let due := all.any Cand.timed || s.timedRoom die
  let cs := if due then all.filter Cand.timed else all
  let hs := if due then [] else s.handlerFns die
  match (s.fnOrder die).find? fun f => hs.contains f || cs.any fun c => c.fn == f with
  | none => none
  | some f =>
    if hs.contains f then some (.handlers f)
    else
      let mine := cs.filter fun c => c.fn == f
      let heads := ((mine.map Cand.proc).eraseDups).filterMap fun p => (bestOf (mine.filter fun c => c.proc == p)).map fun c => (p, c)
      match drr (deficitKey die f) (s.weight f) (heads.map fun h => (h.1, h.2.cost)) 256 s.standingDeficit with
      | some (p, d) => (heads.find? fun h => h.1 == p).map fun h => .work h.2.work d
      | none => none

/-- The die's next placement is a handler of the function. -/
def State.handlersTurn (s : State) (die fn : Nat) : Bool := s.choose die == some (.handlers fn)

/-! ## `PLACEMENT` (R308, R311) -/

/-- `PLACEMENT`: the die's next unit is placed, its first member on the core named (R3 leaves the core open). -/
def execPlacement (die core : Nat) (s : State) : Out :=
  match s.choose die with
  | some (.work (.unit u) d) =>
    match u.fit s.bindsAt die core with
    | some ((k, b) :: rest) =>
      if s.off || k != coreKey die core then .next s
      else
        let s1 := (u.members.zip ((k, b) :: rest)).foldl (fun s x => s.placeMember u x.1 x.2.1 x.2.2) { s with deficit := d }
        let s2 := if s.isLate u then s1.onPacket u.queue u.pkt.index fun p => { p with late := true } else s1
        .next { s2 with cmdq := Tbl.adjust s2.cmdq u.queue fun x => { x with starved := false } }
    | _ => .next s
  | _ => .next s

/-! ## Handler starts (R366, R371, R372, R387, R388) -/

/-- The accepted messages of a function whose handlers have room on a core: each with its position, its handler and its place. -/
def State.amReady (s : State) (fn core : Nat) : List (Nat × AmMsg × HandlerEnt × List Nat × Nat × Nat) :=
  ((s.fn fn).ams.zipIdx).filterMap fun m =>
    (tableEnt (s.fn fn).table_ m.1.hidx).bind fun e => (s.handlerPlace core e).map fun p => (m.2, m.1, e, p)

/-- `AM_HANDLER_START`: an accepted message of the function starts its handler on a core with room, where the core's die places a handler of that function next. Which one it is, among those with room there, is a free member of R354's set of orders (R3). -/
def execAmHandlerStart (fn core : Nat) (s : State) : Out :=
  let l := s.amReady fn core
  match l[s.freeWord.toNat % l.length]? with
  | none => .next s
  | some (i, m, e, p) =>
    if s.off || core % 60 == 0 || 240 ≤ core || (s.fn fn).resetStep != 0 || !s.handlersTurn (core / 60) fn then .next s
    else
      let s1 := ((s.drawn 1).bindHandler core e p).startHandler fn core e p m.bytes [m.bytes.length, m.src, 0, 0, 0] 0 .message none m.scope
      .next (s1.onFn fn fun f => { f with ams := f.ams.eraseIdx i })

/-- Where the handler of an end may start on a core: in a standing bind there, or, where its die has none free and places a handler of the function next, in room for a grid of its own. -/
def State.startPlace (s : State) (e : EndRec) (h : HandlerEnt) (hidx core : Nat) : Option (Option Nat × List Nat × Nat × Nat) :=
  match (s.core core).standingFor e.fn hidx with
  | some (i, b) => some (some i, b.slots, b.pool.1, b.pad.1)
  | none =>
    if !s.noStanding e.die e.fn hidx || !s.handlersTurn e.die e.fn then none
    else (s.handlerPlace core h).map fun p => (none, p)

/-- `STREAM_HANDLER_START`: the next item of a bound end starts its handler on a core. -/
def execStreamHandlerStart (k : EndKey) (core : Nat) (s : State) : Out :=
  match s.endRec k with
  | none => .next s
  | some e =>
    match e.bind, e.due with
    | some b, some it =>
      if !s.startable e b || s.off || core % 60 == 0 || core / 60 != e.die then .next s
      else
        match tableEnt (s.fn e.fn).table_ b.hidx with
        | none => .next (s.faultEnd e)
        | some h =>
          match s.startPlace e h b.hidx core with
          | none => .next s
          | some p =>
            if it.kind == 1 then
              match s.adopted it e.fn e.die with
              | (s1, none) => .next s1
              | (s1, some (hd, st)) => .next ((s1.startItem e b it h core p (bytesLE 16 hd) st).loseCarried it st)
            else .next (s.startItem e b it h core p it.bytes 0)
    | _, _ => .next s

/-! ## `CONTEXT_SWITCH_IN` (R328, R265, R352) -/

/-- The die places this set next: its turn has come, or, for a handler, one of its function's. -/
def State.backTurn (s : State) (die g : Nat) (gs : List Nat) : Option (Tbl Nat) :=
  match s.choose die with
  | some (.work (.back l) d) => if l == gs then some d else none
  | some (.handlers f) => if s.isHandler g && (s.wg g).fn == f then some s.deficit else none
  | _ => none

/-- `CONTEXT_SWITCH_IN`: a set that is eligible again returns in its turn, its first workgroup to the core named (R3 leaves the core open). -/
def execContextSwitchIn (g core : Nat) (s : State) : Out :=
  let gs := g :: (s.gang g).filter fun j => j != g
  if s.off || core % 60 == 0 || core / 60 != (s.wg g).die || !(gs.all s.outReady) then .next s
  else
    match s.backTurn (core / 60) g gs with
    | none => .next s
    | some d =>
      match s.fitOut gs [] s.bindsAt (core / 60) (core % 60) with
      | some ((k, b) :: rest) =>
        if k != core then .next s
        else .next ((gs.zip ((k, b) :: rest)).foldl (fun s y => s.switchIn y.1 y.2.1 y.2.2) { s with deficit := d })
      | _ => .next s

/-! ## `PARK_THRESHOLD_HOLD` (R327) -/

/-- Some eligible work of the core's die would take room on it once the workgroups `gone` have left. -/
def State.workFits (s : State) (core : Nat) (gone : List Nat) : Bool :=
  let binds := s.bindsWithout gone
  let here (l : Option (List (Nat × Bind))) : Bool := l.any fun l => l.any fun x => x.1 == core
  ((s.outSets (core / 60)).any fun y => here (s.fitOut y.2 gone binds (core / 60) (core % 60))) ||
  ((s.waiting (core / 60)).any fun h => (fitBinds (binds core) h.2.need).isSome) ||
  s.cmdq.any fun x : Nat × Queue => x.2.die == core / 60 && (s.competing x.1 x.2).any fun u => here (u.fit binds (core / 60) (core % 60))

/-- `PARK_THRESHOLD_HOLD`: the threshold has been held for 2 µs, and eligible work would fit in the room freed on the core. -/
def execParkThresholdHold (core fn : Nat) (s : State) : Out :=
  match Tbl.find (s.core core).parkSince fn with
  | some t =>
    if s.cyc < t + Config.usec 2 || !s.atThreshold core fn then .next s
    else
      match parkLimit (s.fn fn).park (s.residentWarps core fn).length with
      | some limit =>
        let gone := s.takeParked core fn limit (s.ranked core fn) []
        if s.workFits core gone then
          .next (gone.foldl (fun s g => s.onWg g fun x => { x with leave := 1 }) s)
        else .next s
      | none => .next s
  | none => .next s

/-! ## `SLICE_ADVANCE` (R308) -/

/-- The oldest eligible work of a function on a die fits once the workgroups `gone` have left; so does no work at all. -/
def State.oldestFits (s : State) (die fn : Nat) (gone : List Nat) : Bool :=
  let binds := s.bindsWithout gone
  match (s.outSets die).find? fun y => (s.wg y.1).fn == fn with
  | some y => (s.fitOut y.2 gone binds die 1).isSome
  | none =>
    match (s.waiting die).find? fun h => h.1 == fn with
    | some h => (coresFrom die 1).any fun k => (fitBinds (binds k) h.2.need).isSome
    | none =>
      match s.cmdq.flatMap fun x : Nat × Queue => if x.2.die == die && x.2.fn == fn then s.competing x.1 x.2 else [] with
      | [] => true
      | u :: us => ((us.foldl (fun a b => if b.pkt.ready < a.pkt.ready then b else a) u).fit binds die 1).isSome

/-- Entry `i` of the table begins on a die; with PREEMPT set, workgroups of other functions leave until the oldest eligible work of its function fits. -/
def State.beginSlice (s : State) (die i fn : Nat) (preempt : Bool) : State :=
  let s1 := s.onDie die fun d => { d with slice := i, sliceAt := s.cyc }
  if preempt && !s1.oldestFits die fn [] then s1.sendAway (s1.makeRoom (s1.oldestFits die fn) (s1.newest die fun g => g.fn != fn) []) else s1

/-- `SLICE_ADVANCE`: the current entry has run for its LEN. -/
def execSliceAdvance (die : Nat) (s : State) : Out :=
  let l := s.sliceList
  let d := s.die die
  match l[d.slice % max 1 l.length]? with
  | some e =>
    if s.cyc < d.sliceAt + Config.usec e.2.1 then .next s
    else
      let i := (d.slice % max 1 l.length + 1) % max 1 l.length
      match l[i]? with
      | some n => .next (s.beginSlice die i n.1 n.2.2)
      | none => .next s
  | none => .next s

end Sys2Proof.Machine
end

