-- ==== Sys2Proof/Machine/LaneCtl.lean ====
section
/-! DEFINITION. Lane control, group 0x0 (R41 to R45, R180 to R183). -/

namespace Sys2Proof.Machine

def execLnop (l : LaneReg) (s : State) : Out := laneIssue s l.hdr (LaneReg.uses1 l) fun _ _ _ _ _ => .done s

/-- A stack entry as memory at `DSBASE` holds it (R43). -/
def DivEnt.bits (e : DivEnt) : Nat := (if e.rcv then 2 ^ 80 else 0) + e.join.toNat * 2 ^ 56 + e.pc.toNat * 2 ^ 32 + e.mask.toNat

/-- The entries of the stack written to the warp-private memory at `DSBASE` by the hardware, where it is mapped (R43); entry 0 is the oldest. -/
def State.mirrorStack (s : State) (k : Nat) : State :=
  match Tbl.find s.warps k with
  | none => s
  | some w =>
    let g := s.wg (wgOf k)
    (w.dstack.reverse.zipIdx).foldl (fun s x =>
      match s.phys g.fn g.proc (w.dsbase.toNat / 1024 * 1024 + 16 * x.2) with
      | some pa => { s with mem := Memory.writeN s.mem pa 16 x.1.bits }
      | none => s) s

/-- The slot's PC moves to `pc`, inside the lane section or at the slot's join; out of the section that is `FETCHF` (R76). -/
def State.moveLane (s : State) (k : Nat) (w : Warp) (st : Stream) (h : LaneHdr) (pc : Nat) : LOut :=
  if (s.wg (wgOf k)).inLane pc then
    .final ((s.putWarp k w).onWarp k fun w => w.passLane st h s.cyc (BitVec.ofNat 20 pc))
  else .trap cFETCHF 0

/-- The split of `LBR` (R41): `t` are the taken lanes. -/
def Warp.split (w : Warp) (st : Stream) (t : LaneMask) (target join : BitVec 20) : Option Warp :=
  let x := w.slot st
  let f := x.mask &&& ~~~t
  let free := decide (st = .slotA) && decide (w.slotB.st = .idle)
  let need := if free then 1 else 2
  if 64 < w.dstack.length + need then none
  else
    let j : BitVec 24 := join.setWidth 24
    let rcv : DivEnt := ⟨true, x.join, j, x.mask⟩
    let w1 := w.putSlot st { x with mask := f, join := j }
    if free then some { w1 with dstack := rcv :: w.dstack, slotB := w.slotB.begins target t j }
    else some { w1 with dstack := ⟨false, j, target.setWidth 24, t⟩ :: rcv :: w.dstack }

/-- `LBR` (R41, R181). Of the causes of check 4 that can hold together, the model raises `FETCHF` before `DIVOVF` (log 31). -/
def execLbr (l : LaneBr) (s : State) : Out :=
  laneIssue s l.hdr [] fun k w st x t =>
    let g := s.wg (wgOf k)
    if !g.inLane l.target.toNat || !g.inLane l.join.toNat then .trap cFETCHF t.toNat
    else if t = 0 then .done s
    else if x.mask &&& ~~~t = 0 then s.moveLane k w st l.hdr l.target.toNat
    else
      match w.split st t l.target l.join with
      | none => .trap cDIVOVF t.toNat
      | some w1 =>
        -- the fall-through side needs its next PC inside the section; the other slot parks where its target is its join (R42)
        if g.inLane (x.pc.toNat + 1) then
          .final ((s.putWarp k (w1.passLane st l.hdr s.cyc (x.pc + 1))).mirrorStack k)
        else .trap cFETCHF t.toNat

/-- `LJOIN` (R182). -/
def execLjoin (l : LaneReg) (s : State) : Out :=
  laneIssue s l.hdr (LaneReg.uses1 l) fun k w st x t =>
    if t = 0 then .done s
    else if x.join = 0xFFFFFF#24 then .trap cLJOINF t.toNat
    else if t = x.mask then s.moveLane k w st l.hdr x.join.toNat
    else .done (s.putWarp k (w.putSlot st { x with mask := x.mask &&& ~~~t }))

/-- `LSTOP` (R44, R183): the block ends only when converged; the slot keeps its issue spacing (R85). -/
def execLstop (l : LaneReg) (s : State) : Out :=
  laneIssue s l.hdr (LaneReg.uses1 l) fun k w _ x act =>
    if decide (w.slotB.st = .idle) && w.dstack.isEmpty && decide (w.slotA.mask = w.launch) && decide (x.mask = w.launch) then
      .final (s.putWarp k { w with
        running := false
        slotA := { w.slotA.cleared with until_ := s.cyc + 1 + l.hdr.spc.toNat }
        yielded := w.yielded || l.hdr.yld
        csr := bumpPerf w.csr 2 })
    else .trap cLSTOPDIV act.toNat

end Sys2Proof.Machine
end

