-- ==== Sys2Proof/Machine/Cross.lean ====
section
/-! DEFINITION. Cross-lane and fused instructions, groups 0x6 and 0x7 (R167 to R179). -/

namespace Sys2Proof.Machine

/-- Lane number `n` of a register. -/
def Lanes.at (v : Lanes) (n : Nat) : W32 := v.toList.getD n 0

/-- Both slots hold lanes (R39). -/
def Warp.bothHold (w : Warp) : Bool := decide (w.slotA.st ≠ .idle) && decide (w.slotB.st ≠ .idle)

/-- The return queue has no entry left for another push (R39). The model counts a push in flight as an entry, so that it finds room when it lands (log 70). -/
def Warp.rqFull (w : Warp) : Bool := 16 ≤ w.rq.length + (w.flight.filter fun x => x.push.isSome).length

/-! ## Shuffle (R170) -/

/-- The source lane of lane `i`, if the move stays in its segment. -/
def shflLane (mode s i b : Nat) : Option Nat :=
  let base := i / s * s
  let o := i - base
  match mode with
  | 0 => some (base + b % s)
  | 1 => if b ≤ o then some (i - b) else none
  | 2 => if o + b < s then some (i + b) else none
  | _ => some (base + (o ^^^ b) % s)

def execShfl (l : LaneReg) (s : State) : Out :=
  laneIssue s l.hdr (LaneReg.uses1 l) fun k w st x act =>
    let va := s.rd k w st l.a 0; let vb := s.rd k w st l.b 0
    let seg := 2 ^ modBits l.mod 4 2
    .done (s.fly k (laneResult s w st act l.d fun i =>
      match shflLane (modBits l.mod 1 0) seg i.val (vb[i].toNat % 32) with
      | some j => plain (if x.mask.getLsbD j then Lanes.at va j else va[i])
      | none => plain va[i]))

/-! ## Vote (R171) -/

/-- The value of a vote: `n` the active lanes, `y` those whose condition holds. -/
def voteValue (op : Nat) (n y : LaneMask) : W32 :=
  let bit (b : Bool) : W32 := if b then 1 else 0
  match op with
  | 0 => bit (y == n)
  | 1 => bit (y != 0)
  | 2 => y
  | _ => bit (y == 0 || y == n)

/-- Where a vote or reduction goes: a V register in the active lanes, a predicate, or the return queue. With both slots holding lanes and the queue full at once, the model raises `RQDIV` and does not wait first (log 70). -/
def scalarDest (s : State) (k : Nat) (w : Warp) (st : Stream) (act : LaneMask) (l : LaneReg) (r : W32) (wide : W64) (f : Flags) : LOut :=
  if l.d.isNone then
    if w.bothHold then .trap cRQDIV act.toNat
    else if w.rqFull then .stay s
    else .done (s.fly k { s.blankResult st act with flags := f, push := some wide })
  else if l.d.isP then .done (s.fly k { predResult s st act l.d (fun _ => r != 0) with flags := f })
  else .done (s.fly k { laneResult s w st act l.d (fun _ => plain r) with flags := f })

def execVote (l : LaneReg) (s : State) : Out :=
  laneIssue s l.hdr (LaneReg.uses1 l) fun k w st _ act =>
    let va := s.rd k w st l.a 0
    let y := LaneMask.mk fun i => act.has i && va[i] != 0
    let r := voteValue (modBits l.mod 1 0) act y
    scalarDest s k w st act l r (r.setWidth 64) 0

/-! ## Reductions and scans (R172 to R174) -/

/-- comb of R172 on present values; an f32 value is its bits. -/
def redComb (t op rm : Nat) (a b : Int) : Int × Flags :=
  if t == 0 then
    let x := a.toNat; let y := b.toNat
    match op with
    | 0 => let r := fAdd 0 rm false x y; (r.1, r.2)
    | 1 => ((fMinMax 0 false x y : Nat), 0)
    | _ => ((fMinMax 0 true x y : Nat), 0)
  else
    let u (v : Int) : Nat := wrapN 32 v
    match op with
    | 0 => (a + b, 0)
    | 1 => (min a b, 0)
    | 2 => (max a b, 0)
    | 3 => (intVal t (u a &&& u b), 0)
    | 4 => (intVal t (u a ||| u b), 0)
    | _ => (intVal t (u a ^^^ u b), 0)

/-- EMPTY (R173). -/
def redEmpty (t op : Nat) : Int :=
  match op with
  | 0 => 0
  | 1 => if t == 0 then 0x7F800000 else intMax t
  | 2 => if t == 0 then 0xFF800000 else intMin t
  | 3 => intVal t 0xFFFFFFFF
  | _ => 0

def redIn (t : Nat) (v : W32) : Int := if t == 0 then (v.toNat : Int) else intVal t v.toNat
def redOut (t : Nat) (sat : Bool) (v : Int) : W32 := if t == 0 then BitVec.ofInt 32 v else BitVec.ofNat 32 (fitTy t sat v)

/-- One level of the tree: neighbours combined. A value with no neighbour passes as it is, a non-canonical NaN too: the pseudocode of R172 does so, its prose on NaN operands would make it canonical, and the choice is the model's (log 83). -/
def redLevel (t op rm : Nat) : List (Option Int) → List (Option Int) × Flags
  | a :: b :: r =>
    let q := redLevel t op rm r
    match a, b with
    | none, y => (y :: q.1, q.2)
    | x, none => (x :: q.1, q.2)
    | some x, some y => let c := redComb t op rm x y; (some c.1 :: q.1, c.2 ||| q.2)
  | l => (l, 0)

def redTree (t op rm : Nat) : Nat → List (Option Int) → Flags → Option Int × Flags
  | 0, l, f => (l.headD none, f)
  | n + 1, l, f => let q := redLevel t op rm l; redTree t op rm n q.1 (f ||| q.2)

/-- The 64-bit value pushed for a reduction (R172). -/
def redWide (t : Nat) (r : W32) : W64 := if t == 7 then r.signExtend 64 else r.setWidth 64

def execRed (l : LaneReg) (s : State) : Out :=
  laneIssue s l.hdr (LaneReg.uses1 l) fun k w st _ act =>
    let va := s.rd k w st l.a 0
    let op := modBits l.mod 2 0
    let leaf := (List.finRange 32).map fun i => if act.has i then some (redIn l.ty va[i]) else none
    let q := redTree l.ty op l.rm 5 leaf 0
    let r := redOut l.ty l.sat (q.1.getD (redEmpty l.ty op))
    scalarDest s k w st act l r (redWide l.ty r) q.2

/-- The running values of a scan over the active lanes, in ascending order (R174). -/
def scanLanes (t op rm : Nat) (excl : Bool) : List (Nat × Int) → Int → Flags → List (Nat × Int) × Flags
  | [], _, f => ([], f)
  | (i, a) :: r, acc, f =>
    let c := redComb t op rm acc a
    let q := scanLanes t op rm excl r c.1 (f ||| c.2)
    ((i, if excl then acc else c.1) :: q.1, q.2)

def execScan (l : LaneReg) (s : State) : Out :=
  laneIssue s l.hdr (LaneReg.uses1 l) fun k w st _ act =>
    let va := s.rd k w st l.a 0
    let op := modBits l.mod 2 0
    let q := scanLanes l.ty op l.rm (modBits l.mod 3 3 == 1) (act.lanes.map fun i => (i.val, redIn l.ty va[i])) (redEmpty l.ty op) 0
    .done (s.fly k { laneResult s w st act l.d (fun i => plain (redOut l.ty l.sat (Tbl.getD q.1 i.val 0))) with flags := q.2 })

/-! ## Compress and expand (R175) -/

/-- B is the count register, a destination. -/
def countUses (l : LaneReg) : List Use :=
  (LaneReg.uses1 l).map fun u => if u.o = l.b then { u with dst := true } else u

def crossWhole (l : LaneReg) (s : State) (f : Lanes → List Nat → Fin 32 → Option W32) : Out :=
  laneIssue s l.hdr (countUses l) fun k w st _ act =>
    if decide (w.slotB.st ≠ .idle) || !w.dstack.isEmpty then .trap cXLDIV act.toNat
    else
      let va := s.rd k w st l.a 0
      let ns := act.lanes.map (·.val)
      let old := match w.rg.entry l.d 0 with | some e => w.rg.get e | none => Lanes.splat 0
      let z := modBits l.mod 0 0 == 1
      let d := Lanes.mk fun q => match f va ns q with | some v => v | none => if z then 0 else old[q]
      let regs := (match w.rg.entry l.d 0 with | some e => [(e, d)] | none => []) ++
        (match w.rg.entry l.b 0 with | some e => [(e, Lanes.splat (BitVec.ofNat 32 ns.length))] | none => [])
      .done (s.fly k { s.blankResult st 0xFFFFFFFF#32 with regs := regs })

def execCompress (l : LaneReg) (s : State) : Out :=
  crossWhole l s fun va ns q => (ns[q.val]?).map fun n => Lanes.at va n

def execExpand (l : LaneReg) (s : State) : Out :=
  crossWhole l s fun va ns q => (ns.findIdx? fun n => n == q.val).map fun i => Lanes.at va i

/-! ## Fused micro-programs (R176 to R179) -/

/-- One operation of a chain body: its operands, its immediate in place of B, and its function on a lane. -/
structure ChainOp where
  d : Opnd
  a : Opnd
  b : Opnd
  c : Opnd
  e : Opnd
  imm : Option W32
  hdr : LaneHdr
  f : LaneSrc → W32 × Flags

def chainReg (l : LaneReg) (f : LaneSrc → W32 × Flags) : Option ChainOp := some ⟨l.d, l.a, l.b, l.c, l.e, none, l.hdr, f⟩
def chainImm (l : LaneImm) (f : LaneSrc → W32 × Flags) : Option ChainOp := some ⟨l.d, l.a, .none, .none, .none, some l.imm, l.hdr, f⟩

/-- The operations a body may hold: groups 0x1 to 0x4 without `BFPQ`, `MOV` and `MOVI` (R178). -/
def chainOp (i : Instr) : Option ChainOp :=
  match i with
  | .iadd l => chainReg l (laneIadd l)
  | .iaddImm l => chainImm l laneIaddImm
  | .isub l => chainReg l (laneIsub l)
  | .imul l => chainReg l (laneImul l)
  | .imulImm l => chainImm l laneImulImm
  | .imulh l => chainReg l (laneImulh l)
  | .imad l => chainReg l (laneImad l)
  | .imin l => chainReg l (laneImin l)
  | .iminImm l => chainImm l laneIminImm
  | .imax l => chainReg l (laneImax l)
  | .imaxImm l => chainImm l laneImaxImm
  | .iabs l => chainReg l (laneIabs l)
  | .icmp l => chainReg l (laneIcmp l)
  | .land l => chainReg l laneLand
  | .landImm l => chainImm l laneLand
  | .lor l => chainReg l laneLor
  | .lorImm l => chainImm l laneLor
  | .lxor l => chainReg l laneLxor
  | .lxorImm l => chainImm l laneLxor
  | .lshl l => chainReg l (laneShl l.ty)
  | .lshlImm l => chainImm l (laneShl 10)
  | .lshr l => chainReg l (laneShr l.ty)
  | .lshrImm l => chainImm l (laneShr 10)
  | .lsra l => chainReg l (laneSra l.ty)
  | .lsraImm l => chainImm l (laneSra 10)
  | .popc l => chainReg l (laneBits popcN l.ty)
  | .clz l => chainReg l (laneBits clzN l.ty)
  | .brev l => chainReg l (laneBits brevN l.ty)
  | .bfe l => chainReg l (laneBfe l)
  | .bfi l => chainReg l laneBfi
  | .fadd l => chainReg l (laneFadd l.ty l.rm l.sat)
  | .faddImm l => chainImm l (laneFadd 0 0 false)
  | .fsub l => chainReg l (laneFsub l.ty l.rm l.sat)
  | .fmul l => chainReg l (laneFmul l.ty l.rm l.sat)
  | .fmulImm l => chainImm l (laneFmul 0 0 false)
  | .ffma l => chainReg l (laneFfma l.ty l.rm l.sat)
  | .fmin l => chainReg l (laneFminmax false l.ty)
  | .fminImm l => chainImm l (laneFminmax false 0)
  | .fmax l => chainReg l (laneFminmax true l.ty)
  | .fmaxImm l => chainImm l (laneFminmax true 0)
  | .fcmp l => chainReg l (laneFcmp l)
  | .fclass l => chainReg l (laneFclass l.ty)
  | .frnd l => chainReg l (laneFrnd l.ty l.rm)
  | .rcp l => chainReg l (laneSpecial .rcp l.ty 0)
  | .rsq l => chainReg l (laneSpecial .rsq l.ty 0)
  | .sqrt l => chainReg l (laneSpecial .sqrt l.ty l.rm)
  | .exp2 l => chainReg l (laneSpecial .exp2 l.ty 0)
  | .log2 l => chainReg l (laneSpecial .log2 l.ty 0)
  | .sin l => chainReg l (laneSpecial .sin l.ty 0)
  | .cos l => chainReg l (laneSpecial .cos l.ty 0)
  | .tanh l => chainReg l (laneSpecial .tanh l.ty 0)
  | .cvt l => chainReg l (laneCvt l)
  | .pack l => chainReg l (lanePack l)
  | .unpack l => chainReg l (laneUnpack l)
  | .bfpd l => chainReg l (laneBfpd l)
  | .mov l => chainReg l laneMov
  | .movi l => chainImm l fun x => plain x.b
  | _ => none

def chainDst (o : Opnd) : Bool := match o with | .v n => n.toNat == 4 || (8 ≤ n.toNat && n.toNat ≤ 15) | _ => false
def chainSrc (o : Opnd) : Bool :=
  match o with | .v n => n.toNat ≤ 4 || (8 ≤ n.toNat && n.toNat ≤ 15) | .x _ => true | .sp _ => true | .none => true | _ => false

/-- The body check of R178. -/
def ChainOp.ok (o : ChainOp) : Bool :=
  decide (o.hdr = ⟨⟨false, 0⟩, ⟨false, 0⟩, false, 0, false, 0, 0⟩) &&
  chainDst o.d && chainSrc o.a && chainSrc o.b && chainSrc o.c && chainSrc o.e

/-- The body operation at a lane PC, if it is one. -/
def State.bodyOp (s : State) (g : Wg) (pc : Nat) : Option ChainOp :=
  match decodeLaneBytes (s.laneBytes g pc) with
  | some i => match chainOp i with | some o => if o.ok then some o else none | none => none
  | none => none

/-- The first PC of a body that fails its check. -/
def State.badBody (s : State) (g : Wg) (p : Nat) : Nat → Nat → Option Nat
  | 0, _ => none
  | n + 1, i => if (s.bodyOp g (p + i)).isSome then s.badBody g p n (i + 1) else some (p + i)

/-- `FUSEDEF` (R177). -/
def execFusedef (l : LaneReg) (s : State) : Out :=
  laneIssue s l.hdr (LaneReg.uses1 l) fun k w st x act =>
    let g := s.wg (wgOf k)
    let n := modBits l.mod 9 6 + 1
    let p := x.pc.toNat
    if !g.inLane (p + n) then .trap cFETCHF act.toNat
    else
      match s.badBody g p n 1 with
      | some q => .final (s.raise k (streamSrc st) cILLOP act.toNat (BitVec.ofNat 64 q) (s.laneInst g q))
      | none => (s.onWg (wgOf k) fun g => { g with chains := Tbl.put g.chains (modBits l.mod 5 0) p }).moveLane k w st l.hdr (p + n + 1)

/-- The registers of one lane during a chain: entries 0 to 3 inputs, 4 output, 8 to 15 temporaries. -/
abbrev ChainEnv := List W32

def ChainEnv.read (s : State) (k : Nat) (w : Warp) (st : Stream) (i : Fin 32) (v : ChainEnv) (o : Opnd) : W32 :=
  match o with
  | .v n => v.getD n.toNat 0
  | _ => (s.rd k w st o 0)[i]

/-- One operation of the body in one lane. -/
def ChainOp.run (s : State) (k : Nat) (w : Warp) (st : Stream) (i : Fin 32) (cand : W64) (o : ChainOp) (v : ChainEnv) : ChainEnv × Flags :=
  let rd := ChainEnv.read s k w st i v
  let r := o.f ⟨rd o.a, o.imm.getD (rd o.b), rd o.c, rd o.e, cand⟩
  (match o.d with | .v n => v.set n.toNat r.1 | _ => v, r.2)

/-- A whole chain in one lane; operation number `j` draws its own free bits. -/
def runChain (s : State) (k : Nat) (w : Warp) (st : Stream) (i : Fin 32) : List ChainOp → Nat → ChainEnv → Flags → ChainEnv × Flags
  | [], _, v, f => (v, f)
  | o :: r, j, v, f =>
    let q := o.run s k w st i (Config.freeBits (s.free + 32 * j + i.val)) v
    runChain s k w st i r (j + 1) q.1 (f ||| q.2)

/-- Output and temporaries of one lane after its first `j` operations: O, then T0 to T7. -/
def chainAfter (s : State) (k : Nat) (w : Warp) (st : Stream) (i : Fin 32) (body : List ChainOp) (v : ChainEnv) (j : Nat) : List W32 :=
  let e := (runChain s k w st i (body.take j) 0 v 0).1
  e.getD 4 0 :: e.drop 8

/-- A `FUSE` as it begins: what each operation will leave in the active lanes (R179). A switch-out may stop it behind any of them (R329). -/
def fuseRun (s : State) (k : Nat) (w : Warp) (st : Stream) (act : LaneMask) (body : List ChainOp) (env : Fin 32 → ChainEnv) : FuseRun :=
  ⟨0, (List.range body.length).map fun j => act.lanes.map fun i => chainAfter s k w st i body (env i) (j + 1)⟩

/-- `FUSE` (R179): inputs, special registers and `x` registers are those of its issue, so that a run that is interrupted ends as one that is not. -/
def execFuse (l : LaneReg) (s : State) : Out :=
  laneIssue s l.hdr (LaneReg.uses1 l) fun k w st _ act =>
    let g := s.wg (wgOf k)
    match Tbl.find g.chains (modBits l.mod 5 0) with
    | none => .trap cFUSEUND act.toNat
    | some p =>
      let n := match decodeLaneBytes (s.laneBytes g p) with | some (.fusedef d) => modBits d.mod 9 6 + 1 | _ => 0
      let body := (List.range n).filterMap fun i => s.bodyOp g (p + 1 + i)
      let src (o : Opnd) := s.rd k w st o 0
      let env (i : Fin 32) : ChainEnv := [(src l.a)[i], (src l.b)[i], (src l.c)[i], (src l.e)[i], (src l.d)[i]] ++ List.replicate 11 0
      let out (i : Fin 32) : W32 × Flags :=
        let q := runChain s k w st i body 0 (env i) 0
        (q.1.getD 4 0, q.2)
      .done ((s.fly k { laneResult s w st act l.d out with fuse := some (fuseRun s k w st act body env) }).drawn (32 * n))

end Sys2Proof.Machine
end

