-- ==== Sys2Proof/Machine/Host.lean ====
section
/-! DEFINITION. The host port, function reset, scrubbing, bring-up, the mailbox, spares and the register space (R19, R27, R28, R201, R203, R395 to R415). -/

namespace Sys2Proof.Machine

/-! ## The host port (R395, R396, R416) -/

/-- `HOST_SNOOP`: the host takes a line of its memory back, or down to a shared one. -/
def execHostSnoop (line : Nat) (inval : Bool) (s : State) : Out :=
  if homeOf (line * 128) != 1 || (Tbl.find s.hostLines line).isNone then .next s
  else
    let owners := (s.cores.flatMap fun c : Nat × Core => c.2.l1.filterMap fun x : Nat × L1Word =>
      if x.1 / 32 == line then x.2.owner.map fun g => (c.1, g) else none).eraseDups
    let s1 := owners.foldl (fun s x => s.flushLine x.1 x.2 line) s
    let s2 := (s1.line line).sharers.foldl (fun s c => s.dropFilled c line) s1
    let s3 := { s2 with reqs := Tbl.mapVal (fun _ (r : Req) => if r.snap.isEmpty || r.line != line then r else { r with snap := [] }) s2.reqs }
    let x := s3.line line
    .next { s3.putLine line { x with sharers := [], dirty := false, place := if inval then .hbm else x.place } with
      hostLines := if inval then Tbl.del s3.hostLines line else Tbl.put s3.hostLines line false }

/-- Entries of the host port's replay buffer (R416). -/
def hostEntries : Nat := 256

/-- A request of the host: it goes to the home of its line as a bypass access (R189, R396). -/
def State.hostReq (s : State) (fn : Nat) (kind : ReqKind) (as : List Access) : State :=
  let r := { Req.blank s.nextId with
    kind := kind
    cls := .host
    warp := noWarp
    core := noCore
    fn := fn
    accs := as
    xl := true
    rh := 3
    home := true
    epoch := match as with | a :: _ => (s.frame (paOf a.pa / 65536)).epoch | [] => 0 }
  ((s.putReq r).bump).launch r

/-- The addresses of a run lie in the function's HDM range: frames of the device that it owns, all of them (log 85). -/
def State.inHdm (s : State) (fn pa n : Nat) : Bool :=
  pa + n ≤ 2 ^ 57 && (List.range ((pa + n + 65535) / 65536 - pa / 65536)).all fun i => (s.frame (pa / 65536 + i)).owner == fn

/-- One request for each line of a run, where the buffer has room for them; else the host waits. -/
def State.hostAccess (s : State) (fn pa n : Nat) (kind : ReqKind) (f : Nat → Nat → Access) : Out :=
  let ps := cutLines pa n
  if !s.inHdm fn pa n || hostEntries < s.bufferUse .host 0 + ps.length then .next s
  else .next (ps.foldl (fun s p => s.hostReq fn kind [f p.2.1 p.2.2]) s)

/-- `HOST_MEM_WRITE` (R396). -/
def execHostMemWrite (fn pa : Nat) (bytes : List Byte) (s : State) : Out :=
  s.hostAccess fn pa bytes.length .store fun a n => ⟨32, a, a, n, leNat ((bytes.drop (a - pa)).take n), 0, 2 ^ n - 1⟩

/-- `HOST_MEM_READ` (R395): what the host reads is bound in the request's reply. -/
def execHostMemRead (fn pa n : Nat) (s : State) : Out :=
  s.hostAccess fn pa n .load fun a n => ⟨32, a, a, n, 0, 0, 0⟩

/-! ## Partitions (R236, R397, R415) -/

/-- A device belongs to the partition of a virtual function: this device, or one whose `TENMAP` entry says so (R415). -/
def State.inPartition (s : State) (vf dev : Nat) : Bool :=
  dev == s.devid.toNat || (Tbl.getD s.fab.tenmap dev 0).getLsbD (vf - 1)

/-- An operation of a warp of function `fn` at scope PKG or wider covers the warps of a device (R236). -/
def State.covers (s : State) (fn scope dev : Nat) : Bool :=
  if scope == 4 || (scope == 3 && fn == 0) then true
  else if scope == 3 then s.inPartition fn dev
  else dev == s.devid.toNat

/-! ## Function reset (R402) -/

/-- A workgroup ends without a fault record; what it has not performed is discarded. -/
def State.killWg (s : State) (g : Nat) : State :=
  let s1 := s.abortMsgs g
  let s2 := ((s1.wgReqs g).filter fun r => !r.isSent).foldl State.dropReq s1
  let s3 := s2.onCore (s.wg g).coreKey fun c => { c with
    matq := c.matq.filter fun m => wgOf m.warp != g
    copies := c.copies.filter fun x => x.laneKey != g }
  s3.endWg g

/-- Frames that the function owns. -/
def State.ownsFrame (s : State) (fn pa : Nat) : Bool := homeOf pa == 0 && (s.frame (paOf pa / 65536)).owner == fn

/-- Step 1: the queues close and the workgroups end. -/
def State.resetWork (s : State) (fn : Nat) : State :=
  let live := (s.wgs.filter fun y : Nat × Wg => y.2.fn == fn && decide (y.2.status ≠ .ended)).map (·.1)
  let s1 := live.foldl State.killWg s
  let gone := (s1.bundles.filter fun b : Nat × Bundle => b.2.fn == fn).map (·.1)
  { s1 with
    cmdq := s1.cmdq.filter fun q : Nat × Queue => q.2.fn != fn
    bundles := s1.bundles.filter fun b : Nat × Bundle => b.2.fn != fn
    cohorts := s1.cohorts.filter fun c : Nat × Barrier => !gone.contains (c.1 / 65536 / 4)
    wgs := s1.wgs.filter fun y : Nat × Wg => y.2.fn != fn
    cores := Tbl.mapVal (fun _ (c : Core) => { c with
      copies := c.copies.filter fun x => !(x.fn == fn && x.warp.isNone)
      binds := c.binds.filter fun b => match b with | .standing f _ _ _ _ _ _ _ _ => f != fn | _ => true }) s1.cores }

/-- Step 2: the words of its frames leave every L1 without write-back, and its translations every TLB (log 25). -/
def State.resetMemory (s : State) (fn : Nat) : State :=
  { s with
    pages := s.pages.filter fun p => p.fn != fn
    inval := s.inval.filter fun p => p.fn != fn
    cores := Tbl.mapVal (fun _ (c : Core) => { c with
      l1 := c.l1.filter fun x : Nat × L1Word => !s.ownsFrame fn (x.1 * 4)
      tlb := c.tlb.filter fun e => e.page.fn != fn
      records := c.records.filter fun r => r.1 != fn }) s.cores
    dies := Tbl.mapVal (fun _ (d : Die) => { d with
      tlb := d.tlb.filter fun e => e.page.fn != fn
      walks := d.walks.filter fun x => x.fn != fn }) s.dies
    lines := Tbl.mapVal (fun l (x : HomeLine) => if s.ownsFrame fn (l * 128) then { x with owners := [], sharers := [], mcast := [] } else x) s.lines }

/-- Step 3: ends lost, posted buffers cancelled, open messages aborted. -/
def State.resetFabric (s : State) (fn : Nat) : State :=
  let s1 := (s.ends.filter fun e => e.fn == fn && !e.frozen).foldl (fun s e => s.loseHere e) s
  let s2 := (s1.fab.msgs.filter fun m => m.fn == fn).foldl (fun s m => s.abortMsg m true) s1
  s2.onFn fn fun f => { f with slots := [] }

/-- `FUNCTION_RESET`: steps 1 to 3; step 4 waits. -/
def execFunctionReset (vf : Nat) (s : State) : Out :=
  if vf == 0 || 32 < vf || (s.fn vf).resetStep != 0 then .next s
  else .next ((((s.resetWork vf).resetMemory vf).resetFabric vf).onFn vf fun f => { f with resetStep := 4 })

/-- Some request of the function, or some write-back of its frames, has still to be performed (R402 step 4). -/
def State.resetWaits (s : State) (fn : Nat) : Bool :=
  s.reqList.any fun r => !r.isPerformed && ((r.cls != .eviction && r.fn == fn) || (r.cls == .eviction && r.accs.any fun a => s.ownsFrame fn a.pa))

/-- `FUNCTION_RESET_COMPLETE`: steps 5 and 6. -/
def execFunctionResetComplete (vf : Nat) (s : State) : Out :=
  if (s.fn vf).resetStep == 0 || s.resetWaits vf then .next s
  else
    let s1 := { s with frames := Tbl.mapVal (fun _ (f : Frame) =>
      if f.owner == vf then { f with epoch := f.epoch + 1, scrub := true, rises := if f.scrub then f.rises + 1 else 0 } else f) s.frames }
    .next (s1.onFn vf fun f => { f with
      resetStep := 0
      unlock := Unlock.reset
      icoal := Fn.reset.icoal
      arb := Fn.reset.arb
      park := Fn.reset.park
      stidle := Fn.reset.stidle
      vfbud := Fn.reset.vfbud
      vfscope := Fn.reset.vfscope
      bucket := 0
      filledAt := s.cyc })

/-- Every line of a frame has been passed. -/
def State.frameClean (s : State) (f : Nat) : Bool := (List.range 512).all fun i => !s.stale ((f * 512 + i) * 128)

/-- `SCRUB_LINE` (R403, R404): a stale line becomes zeros of version 0 with the frame's epoch; a frame whose lines are all passed leaves scrub-pending. -/
def execScrubLine (line : Nat) (s : State) : Out :=
  if 2 ^ 50 ≤ line then .next s
  else
    let f := line / 512
    let s1 :=
      if s.stale (line * 128) then
        { s.putLine line { s.line line with version := 0, epoch := (s.frame f).epoch, owners := [], sharers := [], dirty := true } with
          mem := Memory.clear s.mem (line * 128) 128
          poison := s.poison.filter fun w => w / 16 != line }
      else s
    if (s1.frame f).scrub && s1.frameClean f then .next (s1.putFrame f { s1.frame f with scrub := false, rises := 0 }) else .next s1

/-! ## Spares (R19, R28, R411) -/

/-- The stock that a part's spare comes from, and how many it held; `none`: what R28 gives no number for. Parts are numbered by core, slice and way, bank and row, channel, bank and row, pool register, TLB entry, port and lane (log 26). -/
def spareStock (k : SpareKind) (part : Nat) : Nat × Option Nat :=
  match k with
  | .core => (part / 60, some 4)
  | .l2way => (part / 16, some 1)
  | .edramRow => (part / 65536, some 64)
  | .hbmRow => (part / 2 ^ 32, none)
  | .lane => (part / 128, some 8)
  | .poolRow => (part / 8192, some 16)
  | .tlb => if part < 2 ^ 20 then (part / 512, some 16) else (2 ^ 20 + (part - 2 ^ 20) / 32768, some 256)
  | .hostPort => (0, some 1)

/-- Spares of the part's stock in service or waiting. -/
def Boot.spent (b : Boot) (k : SpareKind) (part : Nat) : Nat :=
  (b.spares.filter fun x => decide (x.1 = k) && (spareStock k x.2.1).1 == (spareStock k part).1).length +
  (b.pending.filter fun x => decide (x.1 = k) && (spareStock k x.2).1 == (spareStock k part).1).length

/-- A spare of the kind is left. R28 leaves the number of HBM4E repairs to the stack's repair resources: that they never run out is the model's choice (log 76). -/
def Boot.spareLeft (b : Boot) (k : SpareKind) (part : Nat) : Bool :=
  match (spareStock k part).2 with | some n => b.spent k part < n | none => true

/-- The physical spares of a stock: tiles 60 to 63 of a die for its cores, `E1` for the host port, else as many as the stock held, from 0 on (log 26). -/
def spareNumber (k : SpareKind) (part phys : Nat) : Bool :=
  match k with
  | .core => 60 ≤ phys && phys < 64
  | .hostPort => phys == 1
  | _ => match (spareStock k part).2 with | some n => phys < n | none => true

/-- `phys` is a spare of the part's stock, and serves no other part. -/
def Boot.spareFree (b : Boot) (k : SpareKind) (part phys : Nat) : Bool :=
  spareNumber k part phys &&
  !(b.spares.any fun x => decide (x.1 = k) && (spareStock k x.2.1).1 == (spareStock k part).1 && x.2.2 == phys)

/-- The core whose workgroups must leave first. -/
def spareCore (k : SpareKind) (part : Nat) : Option Nat := match k with | .core => some part | .poolRow => some (part / 8192) | _ => none

/-- The lines that a way of a slice holds: of each set, the one in its place (log 26). -/
def State.wayLines (s : State) (part : Nat) : List Nat :=
  (s.lines.filter fun y : Nat × HomeLine => decide (y.2.place = .l2) && homeSlice (y.1 * 128) == part / 16 &&
    (s.l2SetOf y.1)[part % 16]?.any fun z => z.1 == y.1).map (·.1)

/-- A way is taken out of use: its dirty lines are written back at once (R411). -/
def State.emptyWay (s : State) (part : Nat) : State :=
  (s.wayLines part).foldl (fun s l => { s.putLine l { s.line l with place := .hbm, dirty := false } with hostLines := Tbl.del s.hostLines l }) s

/-- The part waits for its quiescent point; firmware switches the workgroups of a core out, and a way of the L2 is emptied (R411). -/
def State.awaitSpare (s : State) (k : SpareKind) (part : Nat) : State :=
  let s1 := { s with boot := { s.boot with pending := if s.boot.pending.contains (k, part) then s.boot.pending else s.boot.pending ++ [(k, part)] } }
  match spareCore k part with
  | some c => s1.sendAway ((s1.wgs.filter fun y : Nat × Wg => y.2.coreKey == c && decide (y.2.status = .resident) && y.2.leave == 0).flatMap fun y => s1.gang y.1).eraseDups
  | none => if decide (k = .l2way) then s1.emptyWay part else s1

/-- A management interrupt of the physical function with its record (R411). -/
def State.management (s : State) (part : Nat) : State :=
  let s1 := s.logRec 0 ⟨2, 0, 0, 0, 0, 0, part⟩
  { s1 with irqs := s1.irqs ++ [⟨0, 2, 0, 0⟩] }

/-- What a substitution changes beside the map: a core's tile, with the L1 it leaves written back and empty; a lane's training; the bank of a row that is copied first, whose requests wait for a time the specification leaves open (R411, log 26). -/
def State.putSpare (s : State) (k : SpareKind) (part phys : Nat) : State :=
  match k with
  | .core =>
    let owners := ((s.core part).l1.filterMap fun x : Nat × L1Word => x.2.owner).eraseDups
    let words (s : State) (g : Nat) : List Nat := ((s.core part).wordsWhere fun _ x => x.owner == some g).map fun w => w / 32
    let s1 := owners.foldl (fun s g => ((words s g).eraseDups).foldl (fun s l => s.flushLine part g l) s) s
    s1.onCore part fun c => { c with row := phys / 8 % 8, col := phys % 8, l1 := [], lines := [], tlb := [], records := [] }
  | .lane => { s with boot := { s.boot with lanes := s.boot.lanes ++ [(part / 2, part % 2)] } }
  | .hostPort => { s with boot := { s.boot with hostPort := 1 } }
  | .hbmRow => (s.drawn 1).putChan (part / 2 ^ 32) ((s.chan (part / 2 ^ 32)).occupy (part / 65536 % 65536) s.cyc (s.freeWord.toNat % 65536))
  | _ => s

/-! ## Bring-up (R27, R405, R406, R408) -/

/-- A field of the header (R408). -/
def headerField (i : Image) (off n : Nat) : Nat := leNat ((i.header.drop off).take n)
def imageRollback (i : Image) : Nat := headerField i 6 2

/-- The boot ROM accepts an image (R408). -/
def Image.accepted (i : Image) (fuse : Nat) : Bool :=
  i.header.length == 256 && headerField i 0 4 == 0x56584F53 && headerField i 4 2 == 1 && headerField i 32 46 == 0 && decide (headerField i 24 8 < headerField i 16 8) &&
  i.signed && (i.header.drop 78).take 64 == i.body && i.fits && decide (fuse ≤ imageRollback i)

/-- The bank that boots: the active one first, then the other. -/
def Boot.pick (b : Boot) : Option (Nat × Image) :=
  [b.active, 1 - b.active].findSome? fun n =>
    match b.banks.getD n none with
    | some i => if Image.accepted i b.fuse then some (n, i) else none
    | none => none

/-- An accepted boot advances the fuse counter to the image's rollback index, 64 times in the device's life at most (R408; log 15). -/
def Boot.burn (b : Boot) (i : Image) : Boot :=
  if b.fuse < imageRollback i && b.steps < 64 then { b with fuse := imageRollback i, steps := b.steps + 1 } else b

/-- What survives a device reset: image banks, fuses, spares in service and error counts. Without an accepted image stage 1 fails (R405, R408). -/
def Boot.afterReset (b : Boot) : Boot :=
  let c := { Boot.reset with
    banks := b.banks
    active := b.active
    fuse := b.fuse
    steps := b.steps
    spares := b.spares
    errors := b.errors
    strikes := b.strikes
    hostPort := b.hostPort }
  match b.pick with
  | some (n, i) => { c.burn i with running := true, booted := some n }
  | none => { c with safe := true, report := [(1, .image)] }

/-- `DEVICE_RESET`: everything stands at its reset value, firmware boots and self-test begins; KSTREAM is drawn anew (R383). -/
def execDeviceReset (s : State) : Out :=
  .next { State.reset with
    agenda := s.agenda
    cur := s.cur
    free := s.free + 1
    kstream := Config.freeKey s.free
    cores := Tbl.mapVal (fun k (c : Core) => { Core.reset (k % 60) with row := c.row, col := c.col }) s.cores
    boot := s.boot.afterReset }

/-- A spare takes the place of a part: the map, what changes with it, and the record and interrupt of R411. -/
def State.substitute (s : State) (k : SpareKind) (part phys : Nat) : State :=
  let s1 := { s with boot := { s.boot with
    pending := s.boot.pending.erase (k, part)
    due := s.boot.due.erase part
    strikes := s.boot.strikes.filter fun x => !(decide (x.1 = k) && x.2.1 == part)
    spares := s.boot.spares ++ [(k, part, phys)] } }
  (s1.putSpare k part phys).management part

/-- `SELF_TEST_STAGE_DONE`: `part` names the failing part and the spare that firmware takes for it. Where its kind has spares and that one is free it is put in place, and the stage is repeated once (R405). -/
def execSelfTestStageDone (pass : Bool) (part : FailPart × Nat) (s : State) : Out :=
  let b := s.boot
  let failed : State := { s with boot := { b with running := false, safe := true, report := b.report ++ [(b.stage + 1, part.1)] } }
  if !b.running then .next s
  else if pass then .next { s with boot := { b with stage := b.stage + 1, repeat_ := false, running := decide (b.stage + 1 < 6) } }
  else
    match part with
    | (.part k p, phys) =>
      if !b.repeat_ && b.spareLeft k p && b.spareFree k p phys then .next { s.substitute k p phys with boot := { (s.substitute k p phys).boot with repeat_ := true } }
      else .next failed
    | _ => .next failed

/-- The safe state (R406). -/
def State.enterSafe (s : State) : State := { s with boot := { s.boot with safe := true } }

/-- `COOLANT_FAULT` (R27). -/
def execCoolantFault (s : State) : Out := .next s.enterSafe

/-! ## The mailbox (R407; layouts: log 15) -/

/-- The settings of the register space in its order (R414). -/
def perFunctionRegs : List SetReg := [.icoal, .arbguard, .park, .stidle]
def vfRegs : List SetReg := [.vfbud, .vfscope]
def deviceRegs : List SetReg := [.resid, .replayq, .rowguard, .bulk, .ctxstore, .power]

/-- The response of a command is complete: byte 0 is its status. A response longer than its 64 bytes shows the first of them (log 15). -/
def State.respondTo (s : State) (by_ : Mgr) (code status : Nat) (rest : List Byte) : State :=
  s.onFn (mgrFn by_) fun f => { f with response := BitVec.ofNat 8 status :: rest, doorbell := BitVec.ofNat 32 code }

def isFunction (by_ : Mgr) : Bool := match by_ with | .pf => true | .vf n => 1 ≤ n && n ≤ 32 | .fw => false
def isPf (by_ : Mgr) : Bool := match by_ with | .pf => true | _ => false

/-- Whether a command is open to the writer; none of a code that the table does not list. -/
def commandOpen (by_ : Mgr) (code : Nat) : Option Bool :=
  if 1 ≤ code && code ≤ 4 then some (isFunction by_) else if 0x10 ≤ code && code ≤ 0x16 then some (isPf by_) else none

/-- The doorbell word while a command is under way: its code, and bit 31. -/
def busyWord (code : Nat) : W32 := BitVec.ofNat 32 (2 ^ 31 + code)

/-- A command of the writer has been started and its response is not complete. -/
def State.started (s : State) (by_ : Mgr) (code : Nat) : Bool := (s.fn (mgrFn by_)).doorbell == busyWord code

/-- A write of the doorbell starts a command. While one is under way it answers 3, a command not open to the writer answers 1, and a code that the table does not list 2 (log 15). -/
def State.startCommand (s : State) (by_ : Mgr) (code : Nat) : State :=
  if (s.fn (mgrFn by_)).doorbell.getLsbD 31 then s.onFn (mgrFn by_) fun f => { f with response := 3#8 :: f.response.drop 1 }
  else
    match commandOpen by_ code with
    | none => s.respondTo by_ code 2 []
    | some false => s.respondTo by_ code 1 []
    | some true => s.onFn (mgrFn by_) fun f => { f with doorbell := busyWord code }

/-- Bytes of the writer's request as a number. -/
def State.requestN (s : State) (by_ : Mgr) (off n : Nat) : Nat := leNat (((s.fn (mgrFn by_)).request.drop off).take n)

/-- Firmware carries a started command out, `same` saying that its operands are those of the request. -/
def mailbox (s : State) (by_ : Mgr) (code : Nat) (same : Bool) (f : State → State × Nat × List Byte) : Out :=
  if !s.started by_ code || !same then .next s
  else
    let r := f s
    .next (r.1.respondTo by_ code r.2.1 r.2.2)

/-- The queue record of a request (R297). -/
def State.requestRec (s : State) (by_ : Mgr) : QueueRec where
  ring := s.requestN by_ 0 8
  comp := s.requestN by_ 8 8
  logn := s.requestN by_ 16 1
  die := s.requestN by_ 17 1
  prio := s.requestN by_ 18 1
  flags := s.requestN by_ 19 1
  proc := s.requestN by_ 20 2
  weight := s.requestN by_ 22 1
  pad := ((s.fn (mgrFn by_)).request.drop 23).take 41

/-- The part that a request names: its kind in byte 0, its number in bytes 8 to 15 (log 15). -/
def SpareKind.code : SpareKind → Nat | .core => 0 | .l2way => 1 | .edramRow => 2 | .hbmRow => 3 | .lane => 4 | .poolRow => 5 | .tlb => 6 | .hostPort => 7

/-- The queue record obeys R297. -/
def recOk (r : QueueRec) : Bool :=
  r.ring % 64 == 0 && r.comp % 16 == 0 && 4 ≤ r.logn && r.logn ≤ 16 && r.die ≤ 3 && r.prio ≤ 7 && r.flags ≤ 1 &&
  r.proc ≤ 65535 && 1 ≤ r.weight && r.weight ≤ 255 && r.pad.all (· == 0)

/-- Every page of the ring is mapped to the device's own HBM4E, as a DEVSUB queue needs (R297); a page without an entry is not (log 15). -/
def State.ringLocal (s : State) (fn : Nat) (r : QueueRec) : Bool :=
  (List.range ((r.ring + 64 * 2 ^ r.logn + 65535) / 65536 - r.ring / 65536)).all fun i =>
    match s.page fn r.proc ((r.ring / 65536 + i) * 65536) with | some p => decide (p.home = .own) | none => false

/-- The smallest queue number free. -/
def State.freeQueue (s : State) : Option Nat :=
  (List.range 4096).find? fun q => match Tbl.find s.cmdq q with | none => true | some x => x.state == 0 && x.packets.isEmpty

/-- `OPENQ` (R296, R297). -/
def execOpenq (by_ : Mgr) (rec_ : QueueRec) (s : State) : Out :=
  mailbox s by_ 1 (s.requestRec by_ == rec_) fun s =>
    let fn := mgrFn by_
    if !recOk rec_ || (rec_.flags == 1 && !s.ringLocal fn rec_) then (s, 2, [])
    else if (s.fn fn).resetStep != 0 then (s, 3, [])
    else
      match s.freeQueue with
      | none => (s, 1, [])
      | some q =>
        let x : Queue :=
          { fn := fn
            ring := rec_.ring
            comp := rec_.comp
            logn := rec_.logn
            die := rec_.die
            prio := rec_.prio
            devsub := rec_.flags == 1
            proc := rec_.proc
            state := 1
            ecode := 0
            eidx := 0
            head := 0
            tail := 0
            packets := []
            starved := false
            refused := [] }
        ({ s.putCmdq q x with weights := Tbl.put s.weights (fn * 65536 + rec_.proc) rec_.weight }, 0, bytesLE 3 0 ++ bytesLE 4 q)

/-- `CLOSEQ`: the owner's queue closes; packets already validated run to completion. -/
def execCloseq (by_ : Mgr) (q : Nat) (s : State) : Out :=
  mailbox s by_ 2 (s.requestN by_ 0 4 == q) fun s =>
    match Tbl.find s.cmdq q with
    | some x => if x.fn == mgrFn by_ && x.state != 0 then (s.putCmdq q { x with state := 0, tail := x.head, refused := [] }, 0, []) else (s, 1, [])
    | none => (s, 1, [])

/-- A fault record as the mailbox shows it. -/
def LogRec.bytes (r : LogRec) : List Byte :=
  bytesLE 1 1 ++ bytesLE 1 r.kind ++ bytesLE 1 r.code ++ bytesLE 4 r.info.toNat ++ bytesLE 8 r.pc.toNat ++ bytesLE 4 r.inst.toNat ++ bytesLE 4 r.core ++ bytesLE 8 r.who

/-- `FAULTLOG`: the function's next fault record. -/
def execFaultlog (by_ : Mgr) (s : State) : Out :=
  mailbox s by_ 3 true fun s =>
    match (s.fn (mgrFn by_)).log with
    | r :: rest => (s.onFn (mgrFn by_) fun f => { f with log := rest }, 0, r.bytes)
    | [] => (s, 0, [])

/-- Every `_X` value in force, the slice table, and the function's `VFBUD` and `VFSCOPE` (R410). -/
def State.configBytes (s : State) (fn : Nat) : List Byte :=
  let word (r : SetReg) (f : Nat) : List Byte := bytesLE 4 (r.word (s.getReg r f)).toNat
  (deviceRegs.flatMap fun r => word r 0) ++
  ((List.range 33).flatMap fun f => ((if f == 0 then [] else vfRegs) ++ perFunctionRegs).flatMap fun r => word r f) ++
  (s.slices.toList.flatMap fun v => bytesLE 4 v.toNat) ++ vfRegs.flatMap fun r => word r fn

/-- The fields of an attestation report (R410; their layout: log 15). -/
def State.attestFields (s : State) (fn : Nat) (nonce : BitVec 256) : List Byte :=
  let b := s.boot
  let bank (n : Nat) : List Byte := match b.banks.getD n none with | some i => (i.header.drop 78).take 64 | none => List.replicate 64 0#8
  bytesLE 32 nonce.toNat ++ bytesLE 4 1 ++ bytesLE 4 s.devid.toNat ++ digest Config.identityKey ++
  bank 0 ++ bank 1 ++ bytesLE 1 b.active ++ bytesLE 2 b.fuse ++ digest (s.configBytes fn) ++
  b.spares.flatMap fun x => bytesLE 1 (SpareKind.code x.1) ++ bytesLE 8 x.2.1 ++ bytesLE 8 x.2.2

/-- `ATTEST`: the report, and the identity key's signature over its digest (R410). -/
def execAttest (by_ : Mgr) (nonce : BitVec 256) (s : State) : Out :=
  mailbox s by_ 4 (s.requestN by_ 0 32 == nonce.toNat) fun s =>
    let fields := s.attestFields (mgrFn by_) nonce
    (s, 0, fields ++ Config.sign (digest fields))

/-- The self-test report: for each failed stage its number, and the failing part. -/
def Boot.reportBytes (b : Boot) : List Byte :=
  b.report.flatMap fun x => bytesLE 1 x.1 ++ match x.2 with
    | .part k n => bytesLE 1 (SpareKind.code k) ++ bytesLE 8 n
    | .other n => bytesLE 1 0xFE ++ bytesLE 8 n
    | .image => bytesLE 1 0xFF ++ bytesLE 8 0

/-- `POSTREPORT`: page 0 is the certificate, the later ones the self-test report (R407, R409). -/
def execPostreport (by_ : Mgr) (page : Nat) (s : State) : Out :=
  mailbox s by_ 0x10 (s.requestN by_ 0 4 == page) fun s =>
    (s, 0, if page == 0 then Config.certificate else (s.boot.reportBytes.drop (64 * (page - 1))).take 64)

/-- `RETEST` (R406): a successful one leaves the safe state, unless the device is retired. -/
def execRetest (by_ : Mgr) (pass : Bool) (s : State) : Out :=
  mailbox s by_ 0x11 true fun s =>
    if !s.boot.safe || s.boot.retired then (s, 1, [])
    else if pass then ({ s with boot := { s.boot with safe := false, running := false, stage := 6 } }, 0, [])
    else (s, 0, [])

/-- `RETIRE`. -/
def execRetire (by_ : Mgr) (s : State) : Out :=
  mailbox s by_ 0x13 true fun s => ({ s with boot := { s.boot with safe := true, retired := true } }, 0, [])

/-- `FWUPDATE` (R408). -/
def execFwupdate (by_ : Mgr) (img : Image) (s : State) : Out :=
  mailbox s by_ 0x14 true fun s =>
    let n := 1 - s.boot.active
    ({ s with boot := { s.boot with banks := s.boot.banks.set n (some img), active := n } }, 0, [])

/-- Frames of 64 KiB in eight stacks of 48 GiB (R15). -/
def frameCount : Nat := 6291456

/-- `FRAMEINFO` (R404). -/
def execFrameinfo (by_ : Mgr) (frame : Nat) (s : State) : Out :=
  mailbox s by_ 0x15 (s.requestN by_ 0 8 == frame) fun s =>
    if frameCount ≤ frame then (s, 2, [])
    else
      let f := s.frame frame
      (s, 0, bytesLE 1 (if f.scrub then 1 else 0) ++ bytesLE 2 0 ++ bytesLE 4 f.owner ++ bytesLE 8 f.epoch)

/-- `ASSIGN` (R397, R402, R404): a frame goes to a function; not while its owner is being reset, while a page of another function still names it, or after 255 rises without a scrub (log 25). -/
def execAssign (by_ : Mgr) (frame owner : Nat) (s : State) : Out :=
  mailbox s by_ 0x16 (s.requestN by_ 0 8 == frame && s.requestN by_ 8 4 == owner) fun s =>
    let f := s.frame frame
    let named : Bool := s.pages.any fun p => p.fn != owner && decide (p.home = .own) && p.pa / 65536 ≤ frame && frame * 65536 < p.pa + pageBytes p.size
    if frameCount ≤ frame || 32 < owner then (s, 2, [])
    else if (s.fn f.owner).resetStep != 0 then (s, 3, [])
    else if named || (f.scrub && 255 ≤ f.rises) then (s, 1, [])
    else (s.putFrame frame { f with owner := owner }, 0, [])

/-! ## Bringing a spare in (R28, R411) -/

/-- A part is to be replaced: with no spare of the kind left, the failure is reported and the device goes to the safe state (R28). -/
def State.trigger (s : State) (kind : SpareKind) (part : Nat) : State :=
  if s.boot.spareLeft kind part || s.boot.pending.contains (kind, part) then s.awaitSpare kind part else (s.management part).enterSafe

/-- `SPARE_TRIGGER`: the aging monitor of a part, or an error that no event here tells, calls for a spare (log 26). -/
def execSpareTrigger (kind : SpareKind) (part : Nat) (s : State) : Out := .next (s.trigger kind part)

/-- `SUBSTITUTE` (R411). -/
def execSubstitute (by_ : Mgr) (kind : SpareKind) (part : Nat) (s : State) : Out :=
  mailbox s by_ 0x12 (s.requestN by_ 0 1 == SpareKind.code kind && s.requestN by_ 8 8 == part) fun s => if s.boot.spareLeft kind part then (s.awaitSpare kind part, 0, []) else (s, 1, [])

/-- The weight-store row's region is read-locked by some started bundle (R198, R411). -/
def State.rowLocked (s : State) (part : Nat) : Bool :=
  let bank := part / 65536
  let die := bank / 64
  (Tbl.values s.bundles).any fun b => b.started && !b.done && b.locks.any fun l => l.2.2 != 0 && l.1 == die && (tileBanks l.2.1 l.2.2).contains (bank % 64)

/-- The part's quiescent point (R411). -/
def State.quiescent (s : State) (k : SpareKind) (part : Nat) : Bool :=
  match k with
  | .core => ((s.core part).binds.all Bind.idle)
  | .poolRow => ((s.core (part / 8192)).binds.all Bind.idle)
  | .edramRow => !s.rowLocked part
  | .hbmRow =>
    (s.pendingAt (part / 2 ^ 32) (part / 65536 % 65536)).isEmpty &&
    (match Tbl.find (s.chan (part / 2 ^ 32)).lastUse (part / 65536 % 65536) with | some t => t + Config.msec 1 ≤ s.cyc | none => true)
  | .tlb => s.boot.due.contains part
  | _ => true

/-- `SPARE_SUBSTITUTION`: at its quiescent point the free spare `phys` takes the place of `part`. -/
def execSpareSubstitution (kind : SpareKind) (part phys : Nat) (s : State) : Out :=
  if !s.boot.pending.contains (kind, part) || !s.quiescent kind part || !s.boot.spareFree kind part phys then .next s
  else .next (s.substitute kind part phys)

/-- `HOST_PORT_FAILOVER`: the active link has been down for 10 ms, which nothing in the device's own state tells (log 26). The standby takes over; the host's outstanding requests complete with an error; the device's own CXL.cache requests still stand in their queue and go out again. -/
def execHostPortFailover (s : State) : Out :=
  let s1 := (s.reqList.filter fun r => decide (r.cls = .host)).foldl State.dropReq s
  if s1.boot.hostPort == 0 then
    .next ({ s1 with boot := { s1.boot with hostPort := 1, spares := s1.boot.spares ++ [(SpareKind.hostPort, 0, 1)] } }.management 0)
  else .next (s1.management 0).enterSafe

/-- `LINK_TRAINING_COMPLETE` (R337). -/
def execLinkTrainingComplete (port lane : Nat) (s : State) : Out :=
  .next { s with boot := { s.boot with lanes := s.boot.lanes.filter fun x => x != (port, lane) } }

/-! ## `SOFT_ERROR` (R203, R411) -/

/-- The counter of a structure: its kind and which one of that kind it is. -/
def counterKey (kind n : Nat) : Nat := kind * 2 ^ 32 + n

/-- The error counter of the protected structure that an upset strikes: an HBM4E channel, a register pool, a scratchpad, a weight store, an L1 or an L2 slice (R203, R411). -/
def State.siteCounter (s : State) : UpsetSite → Nat
  | .memory pa => if (s.line (pa / 128)).place = .l2 then counterKey 5 (homeSlice pa) else counterKey 0 (Config.hbmChannel (paOf pa))
  | .register k _ => counterKey 1 (s.wg (wgOf k)).coreKey
  | .scratchpad g _ => counterKey 2 (s.wg g).coreKey
  | .weightStore off => counterKey 3 (off / 2 ^ 29 % 4)
  | .l1 core _ => counterKey 4 core
  | .context die off => counterKey 5 (64 * die + off / 128 % 64)

/-- The word at a site is poisoned. -/
def State.poisonAt (s : State) (x : UpsetSite) : State :=
  match x with
  | .memory pa => { s with poison := addOnce s.poison (pa / 8) }
  | .l1 core w => s.onCore core fun c => { c with
      l1 := [w / 2 * 2, w / 2 * 2 + 1].foldl (fun t w => Tbl.adjust t w fun x => { x with poison := true }) c.l1 }
  | .register k e => s.onWarp k fun w => { w with rg := w.rg.setPoison e true }
  | .scratchpad g off => s.onWg g fun y => { y with padPoison := addOnce y.padPoison (off / 8) }
  | .weightStore off => s.onDie (off / 2 ^ 29 % 4) fun d => { d with wpoison := addOnce d.wpoison (off % 2 ^ 29 / 8) }
  | .context die off => { s with ends := s.ends.map fun e => match e.bind with
      | some b =>
        if e.die == die && b.held then match b.lineAt (off / 128) with
          | some i => { e with bind := some { b with bad := addOnce b.bad (16 * i + off % 128 / 8) } }
          | none => e
        else e
      | none => e }

/-- Where the pool registers of a workgroup begin on its core. -/
def State.poolBase (s : State) (g : Nat) : Nat :=
  ((s.core (s.wg g).coreKey).binds.findSome? fun b => match b with
    | .workgroup i _ p _ _ _ => if i == g then some p else none
    | .standing _ _ (some i) _ _ p _ _ _ => if i == g then some p else none
    | _ => none).getD 0

/-- The part that a spare of R28 would replace where an upset strikes; none in the memory-side cache, which has no spares (log 26). -/
def State.sitePart (s : State) : UpsetSite → Option (SpareKind × Nat)
  | .memory pa =>
    let l := pa / 128
    match (s.line l).place with
    | .l2 => some (.l2way, 16 * homeSlice pa + (s.l2SetOf l).findIdx fun z => z.1 == l)
    | .hbm => some (.hbmRow, Config.hbmChannel (paOf pa) * 2 ^ 32 + Config.hbmBank (paOf pa) % 65536 * 65536 + Config.hbmRow (paOf pa) % 65536)
    | _ => none
  | .register k e => some (.poolRow, 8192 * (s.wg (wgOf k)).coreKey + s.poolBase (wgOf k) + k % 16 * (s.wg (wgOf k)).nreg + e)
  | .scratchpad g _ => some (.core, (s.wg g).coreKey)
  | .weightStore off => some (.edramRow, 65536 * (64 * (off / 2 ^ 29 % 4) + off / 4096 % 64) + off % 2 ^ 29 / 2 ^ 18)
  | .l1 core _ => some (.core, core)
  | .context die off => some (.l2way, 16 * (64 * die + off / 128 % 64) + off / 8192 / 1024)

/-- A corrected error of a part is noted, and those of more than 24 hours ago forgotten; the 64th of a part calls for a spare (R411). -/
def State.strike (s : State) (p : SpareKind × Nat) : State :=
  let l := s.boot.strikes.filter (fun x => s.cyc < x.2.2 + 24 * 3600 * Config.msec 1000) ++ [(p.1, p.2, s.cyc)]
  let s1 := { s with boot := { s.boot with strikes := l } }
  if 64 ≤ (l.filter fun x => decide (x.1 = p.1) && x.2.1 == p.2).length then s1.trigger p.1 p.2 else s1

/-- `SOFT_ERROR`: a corrected error changes no value, raises its counter, and counts toward a spare; an uncorrectable one poisons the word and calls for a spare (R203, R411). -/
def execSoftError (site : UpsetSite) (correctable : Bool) (s : State) : Out :=
  let p := s.sitePart site
  if correctable then
    let c := s.siteCounter site
    let s1 := { s with boot := { s.boot with errors := Tbl.put s.boot.errors c (Tbl.getD s.boot.errors c 0 + 1) } }
    .next (match p with | some p => s1.strike p | none => s1)
  else .next (match p with | some p => (s.poisonAt site).trigger p.1 p.2 | none => s.poisonAt site)

/-- The command that firmware has to carry out for a function, from its doorbell and its request; how a RETEST ends and what image an FWUPDATE brings, nothing here tells (log 15). -/
def State.mailCommand (s : State) (by_ : Mgr) : Option (State → Out) :=
  let d := (s.fn (mgrFn by_)).doorbell
  if !d.getLsbD 31 then none
  else match d.toNat % 256 with
    | 1 => some (execOpenq by_ (s.requestRec by_))
    | 2 => some (execCloseq by_ (s.requestN by_ 0 4))
    | 3 => some (execFaultlog by_)
    | 4 => some (execAttest by_ (BitVec.ofNat 256 (s.requestN by_ 0 32)))
    | 0x10 => some (execPostreport by_ (s.requestN by_ 0 4))
    | 0x12 => match [SpareKind.core, .l2way, .edramRow, .hbmRow, .lane, .poolRow, .tlb, .hostPort][s.requestN by_ 0 1]? with
      | some k => some (execSubstitute by_ k (s.requestN by_ 8 8))
      | none => some fun s => .next (s.respondTo by_ 0x12 2 [])
    | 0x13 => some (execRetire by_)
    | 0x15 => some (execFrameinfo by_ (s.requestN by_ 0 8))
    | 0x16 => some (execAssign by_ (s.requestN by_ 0 8) (s.requestN by_ 8 4))
    | _ => none

/-! ## `REGISTER_WRITE` (R414) -/

/-- Bytes of the mailbox request replaced. -/
def putRequest (old : List Byte) (off width : Nat) (v : W64) : List Byte :=
  let base := old ++ List.replicate (64 - old.length) 0
  base.take off ++ bytesLE width v.toNat ++ base.drop (off + width)

/-- A per-function register by its offset; `by_` writes those of `fn`. -/
def State.perFunction (s : State) (by_ : Mgr) (fn off : Nat) (v : W32) : State :=
  match off with
  | 0x00 => s.writeB .icoal by_ fn v
  | 0x04 => s.writeX .icoal by_ fn v
  | 0x08 => s.writeB .arbguard by_ fn v
  | 0x0C => s.writeX .arbguard by_ fn v
  | 0x10 => s.writeB .park by_ fn v
  | 0x14 => s.writeX .park by_ fn v
  | 0x18 => s.writeB .stidle by_ fn v
  | 0x1C => s.writeX .stidle by_ fn v
  | _ => s

/-- A device-wide register of 4 bytes by its offset. -/
def State.deviceReg (s : State) (by_ : Mgr) (off : Nat) (v : W32) : State :=
  match off with
  | 0x00 => s.writeB .resid by_ 0 v
  | 0x04 => s.writeX .resid by_ 0 v
  | 0x08 => s.writeB .replayq by_ 0 v
  | 0x0C => s.writeX .replayq by_ 0 v
  | 0x10 => s.writeB .rowguard by_ 0 v
  | 0x14 => s.writeX .rowguard by_ 0 v
  | 0x18 => s.writeB .bulk by_ 0 v
  | 0x1C => s.writeX .bulk by_ 0 v
  | 0x20 => (s.writeB .ctxstore by_ 0 v).resizeStore s.ctxstore.lo
  | 0x24 => (s.writeX .ctxstore by_ 0 v).resizeStore s.ctxstore.lo
  | 0x28 => s.writeB .power by_ 0 v
  | 0x2C => s.writeX .power by_ 0 v
  | _ => s

/-- The registers of virtual function `v` in the physical function's space. -/
def State.vfReg (s : State) (by_ : Mgr) (v off : Nat) (x : W32) : State :=
  match off with
  | 0x00 => s.writeB .vfbud by_ v x
  | 0x04 => s.writeX .vfbud by_ v x
  | 0x08 => s.writeB .vfscope by_ v x
  | 0x0C => s.writeX .vfscope by_ v x
  | n => if 0x10 ≤ n then s.perFunction by_ v (n - 0x10) x else s

/-- A write of the slice table keeps the defined bits (R309). -/
def State.writeSlice (s : State) (k : Nat) (v : W32) : State := { s with slices := s.slices.setIfInBounds k (v &&& 0x01FFFFFF#32) }

/-- The 4-byte registers that only the physical function's region has. -/
def State.pfReg4 (s : State) (by_ : Mgr) (off : Nat) (v : W32) : State :=
  if 0x200000 ≤ off && off < 0x200030 then s.deviceReg by_ (off - 0x200000) v
  else if 0x201000 ≤ off && off < 0x201800 then s.vfReg by_ ((off - 0x201000) / 64 + 1) ((off - 0x201000) % 64) v
  else if 0x202000 ≤ off && off < 0x202100 then s.writeSlice ((off - 0x202000) / 4) v
  else if 0x400000 ≤ off && off < 0x700000 then { s with fab := { s.fab with tenmap := Tbl.put s.fab.tenmap ((off - 0x400000) / 4) v } }
  else s

/-- The 8-byte ones. -/
def pfReg8 (s : State) (by_ : Mgr) (off : Nat) (v : W64) : Out :=
  match off with
  | 0x200100 => execPtpsetWrite by_ v s
  | 0x200108 => execPtpadjWrite by_ v s
  | 0x200110 => execPtprateWrite by_ v s
  | 0x200118 => execPtpholdWrite by_ v s
  | n => if 0x800000 ≤ n && n < 0xE00000 then .next { s with fab := { s.fab with route := Tbl.put s.fab.route ((n - 0x800000) / 8) (v &&& routeBits) } } else .next s

/-- `REGISTER_WRITE`: a write of `width` bytes at `off` of the writer's register space; what the map does not list is ignored. -/
def execRegisterWrite (by_ : Mgr) (off width : Nat) (v : W64) (s : State) : Out :=
  let v4 : W32 := v.setWidth 32
  let fn := mgrFn by_
  if width == 0 || off % width != 0 then .next s
  else if off + width ≤ 64 && (width == 1 || width == 2 || width == 4 || width == 8) then
    .next (s.onFn fn fun f => { f with request := putRequest f.request off width v })
  else if off == 0x80 && width == 4 then .next (s.startCommand by_ (v.toNat % 256))
  else if off == 0x1000 && width == 4 then execXunlockWrite by_ v4 s
  else if 0x1100 ≤ off && off < 0x1120 && width == 4 then .next (s.perFunction by_ fn (off - 0x1100) v4)
  else if 0x10000 ≤ off && off < 0x20000 && width == 8 then
    let q := (off - 0x10000) / 16
    if off % 16 == 0 then execQdoorWrite by_ q v4 s
    else if off % 16 == 8 && v.getLsbD 61 then execQstatReset by_ q s
    else .next s
  else if !deviceWide by_ then .next s
  else if width == 4 then .next (s.pfReg4 by_ off v4)
  else if width == 8 then pfReg8 s by_ off v
  else .next s

/-! ## Reads of the register space (R7, R8, R10, R414)

A read changes nothing, so it is a function of the state and no event. A field that is write-only or reserved reads zero. -/

/-- `XUNLOCK` as read: KEY is write-only (R11). -/
def Unlock.word (u : Unlock) : W32 :=
  BitVec.ofNat 32 (u.group % 256 * 256 + (if u.xrej then 4 else 0) + (if u.xdone then 2 else 0) + (if u.opened then 1 else 0))

/-- A `_B` and an `_X` read of a setting (R10). -/
def State.readB (s : State) (r : SetReg) (fn : Nat) : W64 := BitVec.ofNat 64 (s.getReg r fn).code
def State.readX (s : State) (r : SetReg) (fn : Nat) : W64 := (r.word (s.getReg r fn)).setWidth 64

/-- A pair of views at offset 8·n of a list of settings: the `_B` view, then the `_X` view. -/
def State.readPair (s : State) (l : List SetReg) (fn off : Nat) : W64 :=
  match l[off / 8]? with
  | some r => if off % 8 == 0 then s.readB r fn else if off % 8 == 4 then s.readX r fn else 0
  | none => 0


/-- `QSTAT` of a queue that the function owns (R298). -/
def Queue.stat (x : Queue) : W64 := BitVec.ofNat 64 (x.state * 2 ^ 62 + x.ecode % 256 * 2 ^ 48 + x.eidx % 65536 * 2 ^ 32 + x.head)

/-- `PTPSTAT` (R315). -/
def Ptp.stat (p : Ptp) : W64 := BitVec.ofNat 64 ((if p.ever then 2 else 0) + if p.sync then 1 else 0)

/-- A 4-byte and an 8-byte register that only the physical function's region has. -/
def State.pfRead4 (s : State) (off : Nat) : W64 :=
  if 0x200000 ≤ off && off < 0x200030 then s.readPair deviceRegs 0 (off - 0x200000)
  else if 0x201000 ≤ off && off < 0x201800 then s.readPair (vfRegs ++ perFunctionRegs) ((off - 0x201000) / 64 + 1) ((off - 0x201000) % 64)
  else if 0x202000 ≤ off && off < 0x202100 then ((s.slices[(off - 0x202000) / 4]?).getD 0).setWidth 64
  else if 0x400000 ≤ off && off < 0x700000 then (Tbl.getD s.fab.tenmap ((off - 0x400000) / 4) 0).setWidth 64
  else 0
def State.pfRead8 (s : State) (off : Nat) : W64 :=
  match off with
  | 0x200110 => (BitVec.ofInt 32 s.ptp.rate).setWidth 64
  | 0x200118 => BitVec.ofNat 64 s.ptp.hold
  | 0x200120 => s.ptp.stat
  | n => if 0x800000 ≤ n && n < 0xE00000 then Tbl.getD s.fab.route ((n - 0x800000) / 8) 0 else 0

/-- What a read of `width` bytes at `off` of the reader's register space returns; what the map does not list, and what is not the reader's, reads zero (R414). -/
def State.readReg (s : State) (by_ : Mgr) (off width : Nat) : W64 :=
  let fn := mgrFn by_
  let f := s.fn fn
  let bytes (l : List Byte) (n : Nat) : W64 := BitVec.ofNat 64 (leNat ((l.drop n).take width))
  if width == 0 || off % width != 0 then 0
  else if off + width ≤ 128 && (width == 1 || width == 2 || width == 4 || width == 8) then
    if off < 64 then bytes f.request off else bytes f.response (off - 64)
  else if off == 0x80 && width == 4 then f.doorbell.setWidth 64
  else if off == 0x1000 && width == 4 then f.unlock.word.setWidth 64
  else if 0x1100 ≤ off && off < 0x1120 && width == 4 then s.readPair perFunctionRegs fn (off - 0x1100)
  else if 0x10000 ≤ off && off < 0x20000 && width == 8 && off % 16 == 8 then
    match Tbl.find s.cmdq ((off - 0x10000) / 16) with | some x => if x.fn == fn then x.stat else 0 | none => 0
  else if !deviceWide by_ then 0
  else if width == 4 then s.pfRead4 off
  else if width == 8 then s.pfRead8 off
  else 0

end Sys2Proof.Machine
end

