-- ==== Sys2Proof/Machine/Dispatch.lean ====
section
/-! DEFINITION. One arm for each constructor of `Instr`: the meaning it calls. -/

namespace Sys2Proof.Machine

/-- What an instruction or an event does. -/
def exec (i : Instr) (s : State) : Host.Outcome State Fault Refusal :=
  match i with
  | .sadd d a b => Sys2Proof.Machine.execSadd d a b s
  | .ssub d a b => Sys2Proof.Machine.execSsub d a b s
  | .smul d a b => Sys2Proof.Machine.execSmul d a b s
  | .smulh d a b => Sys2Proof.Machine.execSmulh d a b s
  | .sdiv d a b => Sys2Proof.Machine.execSdiv d a b s
  | .srem d a b => Sys2Proof.Machine.execSrem d a b s
  | .sand d a b => Sys2Proof.Machine.execSand d a b s
  | .sor d a b => Sys2Proof.Machine.execSor d a b s
  | .sxor d a b => Sys2Proof.Machine.execSxor d a b s
  | .sshl d a b => Sys2Proof.Machine.execSshl d a b s
  | .sshr d a b => Sys2Proof.Machine.execSshr d a b s
  | .ssra d a b => Sys2Proof.Machine.execSsra d a b s
  | .smin d a b => Sys2Proof.Machine.execSmin d a b s
  | .smax d a b => Sys2Proof.Machine.execSmax d a b s
  | .smulhU d a b => Sys2Proof.Machine.execSmulhU d a b s
  | .sdivU d a b => Sys2Proof.Machine.execSdivU d a b s
  | .sremU d a b => Sys2Proof.Machine.execSremU d a b s
  | .sminU d a b => Sys2Proof.Machine.execSminU d a b s
  | .smaxU d a b => Sys2Proof.Machine.execSmaxU d a b s
  | .scmp cc d a b => Sys2Proof.Machine.execScmp cc d a b s
  | .saddi d a imm => Sys2Proof.Machine.execSaddi d a imm s
  | .smuli d a imm => Sys2Proof.Machine.execSmuli d a imm s
  | .sandi d a imm => Sys2Proof.Machine.execSandi d a imm s
  | .sori d a imm => Sys2Proof.Machine.execSori d a imm s
  | .sxori d a imm => Sys2Proof.Machine.execSxori d a imm s
  | .sshli d a n => Sys2Proof.Machine.execSshli d a n s
  | .sshri d a n => Sys2Proof.Machine.execSshri d a n s
  | .ssrai d a n => Sys2Proof.Machine.execSsrai d a n s
  | .smini d a imm => Sys2Proof.Machine.execSmini d a imm s
  | .smaxi d a imm => Sys2Proof.Machine.execSmaxi d a imm s
  | .scmpi cc d a imm => Sys2Proof.Machine.execScmpi cc d a imm s
  | .slui d imm => Sys2Proof.Machine.execSlui d imm s
  | .sld sz d a off => Sys2Proof.Machine.execSld sz d a off s
  | .sldPad sz d a off => Sys2Proof.Machine.execSldPad sz d a off s
  | .sst sz d a off => Sys2Proof.Machine.execSst sz d a off s
  | .sstPad sz d a off => Sys2Proof.Machine.execSstPad sz d a off s
  | .samo op wide ord sys d a b => Sys2Proof.Machine.execSamo op wide ord sys d a b s
  | .sbr cc a b off => Sys2Proof.Machine.execSbr cc a b off s
  | .sj off => Sys2Proof.Machine.execSj off s
  | .sjal d off => Sys2Proof.Machine.execSjal d off s
  | .sjr d a imm => Sys2Proof.Machine.execSjr d a imm s
  | .loop a c64 off => Sys2Proof.Machine.execLoop a c64 off s
  | .lgo a pc => Sys2Proof.Machine.execLgo a pc s
  | .larg k a => Sys2Proof.Machine.execLarg k a s
  | .lwait => Sys2Proof.Machine.execLwait s
  | .spop d => Sys2Proof.Machine.execSpop d s
  | .sbar b => Sys2Proof.Machine.execSbar b s
  | .sbarC => Sys2Proof.Machine.execSbarC s
  | .slaunch d a => Sys2Proof.Machine.execSlaunch d a s
  | .strig => Sys2Proof.Machine.execStrig s
  | .snop => Sys2Proof.Machine.execSnop s
  | .scsrr csr d => Sys2Proof.Machine.execScsrr csr d s
  | .scsrw csr a => Sys2Proof.Machine.execScsrw csr a s
  | .strap code => Sys2Proof.Machine.execStrap code s
  | .seret => Sys2Proof.Machine.execSeret s
  | .syield => Sys2Proof.Machine.execSyield s
  | .ssleep a => Sys2Proof.Machine.execSsleep a s
  | .shalt => Sys2Proof.Machine.execShalt s
  | .sperf sel d => Sys2Proof.Machine.execSperf sel d s
  | .stime d => Sys2Proof.Machine.execStime d s
  | .lbrk => Sys2Proof.Machine.execLbrk s
  | .lnop l => Sys2Proof.Machine.execLnop l s
  | .lbr l => Sys2Proof.Machine.execLbr l s
  | .ljoin l => Sys2Proof.Machine.execLjoin l s
  | .lstop l => Sys2Proof.Machine.execLstop l s
  | .iadd l => Sys2Proof.Machine.execIadd l s
  | .iaddImm l => Sys2Proof.Machine.execIaddImm l s
  | .isub l => Sys2Proof.Machine.execIsub l s
  | .imul l => Sys2Proof.Machine.execImul l s
  | .imulImm l => Sys2Proof.Machine.execImulImm l s
  | .imulh l => Sys2Proof.Machine.execImulh l s
  | .imad l => Sys2Proof.Machine.execImad l s
  | .imin l => Sys2Proof.Machine.execImin l s
  | .iminImm l => Sys2Proof.Machine.execIminImm l s
  | .imax l => Sys2Proof.Machine.execImax l s
  | .imaxImm l => Sys2Proof.Machine.execImaxImm l s
  | .iabs l => Sys2Proof.Machine.execIabs l s
  | .icmp l => Sys2Proof.Machine.execIcmp l s
  | .land l => Sys2Proof.Machine.execLand l s
  | .landImm l => Sys2Proof.Machine.execLandImm l s
  | .lor l => Sys2Proof.Machine.execLor l s
  | .lorImm l => Sys2Proof.Machine.execLorImm l s
  | .lxor l => Sys2Proof.Machine.execLxor l s
  | .lxorImm l => Sys2Proof.Machine.execLxorImm l s
  | .lshl l => Sys2Proof.Machine.execLshl l s
  | .lshlImm l => Sys2Proof.Machine.execLshlImm l s
  | .lshr l => Sys2Proof.Machine.execLshr l s
  | .lshrImm l => Sys2Proof.Machine.execLshrImm l s
  | .lsra l => Sys2Proof.Machine.execLsra l s
  | .lsraImm l => Sys2Proof.Machine.execLsraImm l s
  | .popc l => Sys2Proof.Machine.execPopc l s
  | .clz l => Sys2Proof.Machine.execClz l s
  | .brev l => Sys2Proof.Machine.execBrev l s
  | .bfe l => Sys2Proof.Machine.execBfe l s
  | .bfi l => Sys2Proof.Machine.execBfi l s
  | .fadd l => Sys2Proof.Machine.execFadd l s
  | .faddImm l => Sys2Proof.Machine.execFaddImm l s
  | .fsub l => Sys2Proof.Machine.execFsub l s
  | .fmul l => Sys2Proof.Machine.execFmul l s
  | .fmulImm l => Sys2Proof.Machine.execFmulImm l s
  | .ffma l => Sys2Proof.Machine.execFfma l s
  | .fmin l => Sys2Proof.Machine.execFmin l s
  | .fminImm l => Sys2Proof.Machine.execFminImm l s
  | .fmax l => Sys2Proof.Machine.execFmax l s
  | .fmaxImm l => Sys2Proof.Machine.execFmaxImm l s
  | .fcmp l => Sys2Proof.Machine.execFcmp l s
  | .fclass l => Sys2Proof.Machine.execFclass l s
  | .frnd l => Sys2Proof.Machine.execFrnd l s
  | .rcp l => Sys2Proof.Machine.execRcp l s
  | .rsq l => Sys2Proof.Machine.execRsq l s
  | .sqrt l => Sys2Proof.Machine.execSqrt l s
  | .exp2 l => Sys2Proof.Machine.execExp2 l s
  | .log2 l => Sys2Proof.Machine.execLog2 l s
  | .sin l => Sys2Proof.Machine.execSin l s
  | .cos l => Sys2Proof.Machine.execCos l s
  | .tanh l => Sys2Proof.Machine.execTanh l s
  | .cvt l => Sys2Proof.Machine.execCvt l s
  | .pack l => Sys2Proof.Machine.execPack l s
  | .unpack l => Sys2Proof.Machine.execUnpack l s
  | .bfpq l => Sys2Proof.Machine.execBfpq l s
  | .bfpd l => Sys2Proof.Machine.execBfpd l s
  | .mov l => Sys2Proof.Machine.execMov l s
  | .movi l => Sys2Proof.Machine.execMovi l s
  | .sel l => Sys2Proof.Machine.execSel l s
  | .plop l => Sys2Proof.Machine.execPlop l s
  | .setvb l => Sys2Proof.Machine.execSetvb l s
  | .sprd l => Sys2Proof.Machine.execSprd l s
  | .shfl l => Sys2Proof.Machine.execShfl l s
  | .vote l => Sys2Proof.Machine.execVote l s
  | .red l => Sys2Proof.Machine.execRed l s
  | .scan l => Sys2Proof.Machine.execScan l s
  | .compress l => Sys2Proof.Machine.execCompress l s
  | .expand l => Sys2Proof.Machine.execExpand l s
  | .fusedef l => Sys2Proof.Machine.execFusedef l s
  | .fuse l => Sys2Proof.Machine.execFuse l s
  | .ld l => Sys2Proof.Machine.execLd l s
  | .st l => Sys2Proof.Machine.execSt l s
  | .lda l => Sys2Proof.Machine.execLda l s
  | .waitk l => Sys2Proof.Machine.execWaitk l s
  | .ldmc l => Sys2Proof.Machine.execLdmc l s
  | .pref l => Sys2Proof.Machine.execPref l s
  | .cread l => Sys2Proof.Machine.execCread l s
  | .cstore l => Sys2Proof.Machine.execCstore l s
  | .atom op l => Sys2Proof.Machine.execAtom op l s
  | .fence l => Sys2Proof.Machine.execFence l s
  | .qfence l => Sys2Proof.Machine.execQfence l s
  | .wload l => Sys2Proof.Machine.execWload l s
  | .mma l => Sys2Proof.Machine.execMma l s
  | .azero l => Sys2Proof.Machine.execAzero l s
  | .aread l => Sys2Proof.Machine.execAread l s
  | .awrite l => Sys2Proof.Machine.execAwrite l s
  | .cpy l => Sys2Proof.Machine.execCpy l s
  | .cpym l => Sys2Proof.Machine.execCpym l s
  | .rcf l => Sys2Proof.Machine.execRcf l s
  | .rinit l => Sys2Proof.Machine.execRinit l s
  | .rwaitFree l => Sys2Proof.Machine.execRwaitFree l s
  | .rwaitFilled l => Sys2Proof.Machine.execRwaitFilled l s
  | .rrel l => Sys2Proof.Machine.execRrel l s
  | .bpost l => Sys2Proof.Machine.execBpost l s
  | .bsend l => Sys2Proof.Machine.execBsend l s
  | .amsend l => Sys2Proof.Machine.execAmsend l s
  | .stopen l => Sys2Proof.Machine.execStopen l s
  | .stsend l => Sys2Proof.Machine.execStsend l s
  | .strecv l => Sys2Proof.Machine.execStrecv l s
  | .stxfer l => Sys2Proof.Machine.execStxfer l s
  | .stadopt l => Sys2Proof.Machine.execStadopt l s
  | .stbind l => Sys2Proof.Machine.execStbind l s
  | .stclose l => Sys2Proof.Machine.execStclose l s
  | .stquery l => Sys2Proof.Machine.execStquery l s
  | .fabricOpComplete w => Sys2Proof.Machine.execFabricOpComplete w s
  | .laneBlockStart w => Sys2Proof.Machine.execLaneBlockStart w s
  | .lgoUnstall w => Sys2Proof.Machine.execLgoUnstall w s
  | .laneResultWrite w n => Sys2Proof.Machine.execLaneResultWrite w n s
  | .scalarResultFill w d => Sys2Proof.Machine.execScalarResultFill w d s
  | .spopDone w => Sys2Proof.Machine.execSpopDone w s
  | .lwaitDone w => Sys2Proof.Machine.execLwaitDone w s
  | .waitkDone w st => Sys2Proof.Machine.execWaitkDone w st s
  | .setvbDone w st => Sys2Proof.Machine.execSetvbDone w st s
  | .fenceDone w st => Sys2Proof.Machine.execFenceDone w st s
  | .qfenceDone w st => Sys2Proof.Machine.execQfenceDone w st s
  | .rwaitFreeDone w st => Sys2Proof.Machine.execRwaitFreeDone w st s
  | .rwaitFilledDone w st => Sys2Proof.Machine.execRwaitFilledDone w st s
  | .sleepExpiry w => Sys2Proof.Machine.execSleepExpiry w s
  | .starvationPrecedence w => Sys2Proof.Machine.execStarvationPrecedence w s
  | .workgroupRetire g => Sys2Proof.Machine.execWorkgroupRetire g s
  | .dispatchWorkgroup core idx => Sys2Proof.Machine.execDispatchWorkgroup core idx s
  | .deferredTrap w => Sys2Proof.Machine.execDeferredTrap w s
  | .skidStop w => Sys2Proof.Machine.execSkidStop w s
  | .firmwareEndWorkgroup g => Sys2Proof.Machine.execFirmwareEndWorkgroup g s
  | .parkThresholdHold core fn => Sys2Proof.Machine.execParkThresholdHold core fn s
  | .contextSwitchOut g => Sys2Proof.Machine.execContextSwitchOut g s
  | .contextSwitchIn g core => Sys2Proof.Machine.execContextSwitchIn g core s
  | .walkComplete die fn va => Sys2Proof.Machine.execWalkComplete die fn va s
  | .pageMapped p => Sys2Proof.Machine.execPageMapped p s
  | .pageMapRefused fn va => Sys2Proof.Machine.execPageMapRefused fn va s
  | .tlbInvalidation fn va => Sys2Proof.Machine.execTlbInvalidation fn va s
  | .invalidationComplete fn va => Sys2Proof.Machine.execInvalidationComplete fn va s
  | .sharedQueueArrival r => Sys2Proof.Machine.execSharedQueueArrival r s
  | .queueDeparture r => Sys2Proof.Machine.execQueueDeparture r s
  | .residencyExpired r => Sys2Proof.Machine.execResidencyExpired r s
  | .bounceNotice r => Sys2Proof.Machine.execBounceNotice r s
  | .congestionCleared q => Sys2Proof.Machine.execCongestionCleared q s
  | .backoffExpiry r => Sys2Proof.Machine.execBackoffExpiry r s
  | .reservationGranted q cls => Sys2Proof.Machine.execReservationGranted q cls s
  | .grantLapse q cls => Sys2Proof.Machine.execGrantLapse q cls s
  | .budgetRefill vf => Sys2Proof.Machine.execBudgetRefill vf s
  | .replayReissue r => Sys2Proof.Machine.execReplayReissue r s
  | .requestReply r => Sys2Proof.Machine.execRequestReply r s
  | .releasePart w => Sys2Proof.Machine.execReleasePart w s
  | .homeAccess r => Sys2Proof.Machine.execHomeAccess r s
  | .homeProbe r core => Sys2Proof.Machine.execHomeProbe r core s
  | .hbmRefreshDue ch bank => Sys2Proof.Machine.execHbmRefreshDue ch bank s
  | .postponedRefresh ch bank => Sys2Proof.Machine.execPostponedRefresh ch bank s
  | .rowThresholdReached vf ch bank row => Sys2Proof.Machine.execRowThresholdReached vf ch bank row s
  | .rowCountClear edge => Sys2Proof.Machine.execRowCountClear edge s
  | .weightRefreshWindow die => Sys2Proof.Machine.execWeightRefreshWindow die s
  | .wloadStart core n => Sys2Proof.Machine.execWloadStart core n s
  | .wloadDone core n => Sys2Proof.Machine.execWloadDone core n s
  | .mmaStart core n => Sys2Proof.Machine.execMmaStart core n s
  | .mmaDone core n => Sys2Proof.Machine.execMmaDone core n s
  | .accumMoveDone core n => Sys2Proof.Machine.execAccumMoveDone core n s
  | .copyStart core g => Sys2Proof.Machine.execCopyStart core g s
  | .copyBytesPerformed core g => Sys2Proof.Machine.execCopyBytesPerformed core g s
  | .copyDone core g => Sys2Proof.Machine.execCopyDone core g s
  | .qdoorWrite by_ q tail => Sys2Proof.Machine.execQdoorWrite by_ q tail s
  | .qstatReset by_ q => Sys2Proof.Machine.execQstatReset by_ q s
  | .batchCommit q => Sys2Proof.Machine.execBatchCommit q s
  | .packetStart q => Sys2Proof.Machine.execPacketStart q s
  | .launchBundle q => Sys2Proof.Machine.execLaunchBundle q s
  | .timedLaunch q => Sys2Proof.Machine.execTimedLaunch q s
  | .timedLaunchEligible q => Sys2Proof.Machine.execTimedLaunchEligible q s
  | .copyPacket q => Sys2Proof.Machine.execCopyPacket q s
  | .wsWritePacket q => Sys2Proof.Machine.execWsWritePacket q s
  | .barrierAndSignal q => Sys2Proof.Machine.execBarrierAndSignal q s
  | .barrierSignalWake q => Sys2Proof.Machine.execBarrierSignalWake q s
  | .interruptPacket q => Sys2Proof.Machine.execInterruptPacket q s
  | .registerHandlerTable q => Sys2Proof.Machine.execRegisterHandlerTable q s
  | .placement die core => Sys2Proof.Machine.execPlacement die core s
  | .sliceAdvance die => Sys2Proof.Machine.execSliceAdvance die s
  | .starvePromotion q => Sys2Proof.Machine.execStarvePromotion q s
  | .completionInterruptCount fn => Sys2Proof.Machine.execCompletionInterruptCount fn s
  | .completionInterruptTimeout fn => Sys2Proof.Machine.execCompletionInterruptTimeout fn s
  | .ptpsetWrite by_ v => Sys2Proof.Machine.execPtpsetWrite by_ v s
  | .ptpadjWrite by_ v => Sys2Proof.Machine.execPtpadjWrite by_ v s
  | .ptprateWrite by_ v => Sys2Proof.Machine.execPtprateWrite by_ v s
  | .ptpholdWrite by_ v => Sys2Proof.Machine.execPtpholdWrite by_ v s
  | .ptpHoldoverExpiry => Sys2Proof.Machine.execPtpHoldoverExpiry s
  | .fabricForward port p => Sys2Proof.Machine.execFabricForward port p s
  | .fmManagement f => Sys2Proof.Machine.execFmManagement f s
  | .fabricRd port p => Sys2Proof.Machine.execFabricRd port p s
  | .fabricWr port p => Sys2Proof.Machine.execFabricWr port p s
  | .fabricAtomGroup port p => Sys2Proof.Machine.execFabricAtomGroup port p s
  | .fabricCstGroup port p => Sys2Proof.Machine.execFabricCstGroup port p s
  | .fabricBdata port p => Sys2Proof.Machine.execFabricBdata port p s
  | .fabricBreq port p => Sys2Proof.Machine.execFabricBreq port p s
  | .fabricAmsg port p => Sys2Proof.Machine.execFabricAmsg port p s
  | .fabricRdr port p => Sys2Proof.Machine.execFabricRdr port p s
  | .fabricWack port p => Sys2Proof.Machine.execFabricWack port p s
  | .fabricAtomr port p => Sys2Proof.Machine.execFabricAtomr port p s
  | .fabricCstr port p => Sys2Proof.Machine.execFabricCstr port p s
  | .fabricAmack port p => Sys2Proof.Machine.execFabricAmack port p s
  | .fabricBounce port p => Sys2Proof.Machine.execFabricBounce port p s
  | .fabricGrant port p => Sys2Proof.Machine.execFabricGrant port p s
  | .fabricReturn port p => Sys2Proof.Machine.execFabricReturn port p s
  | .fabricBstat port p => Sys2Proof.Machine.execFabricBstat port p s
  | .fabricCong port p => Sys2Proof.Machine.execFabricCong port p s
  | .groupTimeout src tag gen => Sys2Proof.Machine.execGroupTimeout src tag gen s
  | .resendTimer r => Sys2Proof.Machine.execResendTimer r s
  | .replyCacheExpiry src tag gen => Sys2Proof.Machine.execReplyCacheExpiry src tag gen s
  | .requestUnanswered r => Sys2Proof.Machine.execRequestUnanswered r s
  | .destUnreachable dev => Sys2Proof.Machine.execDestUnreachable dev s
  | .congestionWithdraw port dev => Sys2Proof.Machine.execCongestionWithdraw port dev s
  | .tokenExpiry src msg off => Sys2Proof.Machine.execTokenExpiry src msg off s
  | .prioAging src msg => Sys2Proof.Machine.execPrioAging src msg s
  | .amHandlerStart fn core => Sys2Proof.Machine.execAmHandlerStart fn core s
  | .streamHandlerStart k core => Sys2Proof.Machine.execStreamHandlerStart k core s
  | .sitem port p => Sys2Proof.Machine.execSitem port p s
  | .smoveMove port p => Sys2Proof.Machine.execSmoveMove port p s
  | .smoveCtx port p => Sys2Proof.Machine.execSmoveCtx port p s
  | .smoveAdopt port p => Sys2Proof.Machine.execSmoveAdopt port p s
  | .smovePlace port p => Sys2Proof.Machine.execSmovePlace port p s
  | .smoveItems port p => Sys2Proof.Machine.execSmoveItems port p s
  | .sack port p => Sys2Proof.Machine.execSack port p s
  | .smack port p => Sys2Proof.Machine.execSmack port p s
  | .scred port p => Sys2Proof.Machine.execScred port p s
  | .sloc port p => Sys2Proof.Machine.execSloc port p s
  | .sorph port p => Sys2Proof.Machine.execSorph port p s
  | .contextIdleTimeout k => Sys2Proof.Machine.execContextIdleTimeout k s
  | .contextEvictionDone k => Sys2Proof.Machine.execContextEvictionDone k s
  | .contextReloadDone k => Sys2Proof.Machine.execContextReloadDone k s
  | .hostSnoop line inval => Sys2Proof.Machine.execHostSnoop line inval s
  | .hostMemWrite fn pa bytes => Sys2Proof.Machine.execHostMemWrite fn pa bytes s
  | .hostMemRead fn pa n => Sys2Proof.Machine.execHostMemRead fn pa n s
  | .functionReset vf => Sys2Proof.Machine.execFunctionReset vf s
  | .functionResetComplete vf => Sys2Proof.Machine.execFunctionResetComplete vf s
  | .scrubLine line => Sys2Proof.Machine.execScrubLine line s
  | .deviceReset => Sys2Proof.Machine.execDeviceReset s
  | .selfTestStageDone pass spare => Sys2Proof.Machine.execSelfTestStageDone pass spare s
  | .coolantFault => Sys2Proof.Machine.execCoolantFault s
  | .openq by_ rec_ => Sys2Proof.Machine.execOpenq by_ rec_ s
  | .closeq by_ q => Sys2Proof.Machine.execCloseq by_ q s
  | .faultlog by_ => Sys2Proof.Machine.execFaultlog by_ s
  | .attest by_ nonce => Sys2Proof.Machine.execAttest by_ nonce s
  | .postreport by_ page => Sys2Proof.Machine.execPostreport by_ page s
  | .retest by_ pass => Sys2Proof.Machine.execRetest by_ pass s
  | .substitute by_ kind part => Sys2Proof.Machine.execSubstitute by_ kind part s
  | .retire by_ => Sys2Proof.Machine.execRetire by_ s
  | .fwupdate by_ img => Sys2Proof.Machine.execFwupdate by_ img s
  | .frameinfo by_ frame => Sys2Proof.Machine.execFrameinfo by_ frame s
  | .assign by_ frame owner => Sys2Proof.Machine.execAssign by_ frame owner s
  | .spareTrigger kind part => Sys2Proof.Machine.execSpareTrigger kind part s
  | .spareSubstitution kind part phys => Sys2Proof.Machine.execSpareSubstitution kind part phys s
  | .hostPortFailover => Sys2Proof.Machine.execHostPortFailover s
  | .xunlockWrite by_ v => Sys2Proof.Machine.execXunlockWrite by_ v s
  | .residBWrite by_ v => Sys2Proof.Machine.execResidBWrite by_ v s
  | .residXWrite by_ v => Sys2Proof.Machine.execResidXWrite by_ v s
  | .replayqBWrite by_ v => Sys2Proof.Machine.execReplayqBWrite by_ v s
  | .replayqXWrite by_ v => Sys2Proof.Machine.execReplayqXWrite by_ v s
  | .rowguardBWrite by_ v => Sys2Proof.Machine.execRowguardBWrite by_ v s
  | .rowguardXWrite by_ v => Sys2Proof.Machine.execRowguardXWrite by_ v s
  | .bulkBWrite by_ v => Sys2Proof.Machine.execBulkBWrite by_ v s
  | .bulkXWrite by_ v => Sys2Proof.Machine.execBulkXWrite by_ v s
  | .ctxstoreBWrite by_ v => Sys2Proof.Machine.execCtxstoreBWrite by_ v s
  | .ctxstoreXWrite by_ v => Sys2Proof.Machine.execCtxstoreXWrite by_ v s
  | .powerBWrite by_ v => Sys2Proof.Machine.execPowerBWrite by_ v s
  | .powerXWrite by_ v => Sys2Proof.Machine.execPowerXWrite by_ v s
  | .vfbudBWrite by_ vf v => Sys2Proof.Machine.execVfbudBWrite by_ vf v s
  | .vfbudXWrite by_ vf v => Sys2Proof.Machine.execVfbudXWrite by_ vf v s
  | .vfscopeBWrite by_ vf v => Sys2Proof.Machine.execVfscopeBWrite by_ vf v s
  | .vfscopeXWrite by_ vf v => Sys2Proof.Machine.execVfscopeXWrite by_ vf v s
  | .icoalBWrite by_ fn v => Sys2Proof.Machine.execIcoalBWrite by_ fn v s
  | .icoalXWrite by_ fn v => Sys2Proof.Machine.execIcoalXWrite by_ fn v s
  | .arbguardBWrite by_ fn v => Sys2Proof.Machine.execArbguardBWrite by_ fn v s
  | .arbguardXWrite by_ fn v => Sys2Proof.Machine.execArbguardXWrite by_ fn v s
  | .parkBWrite by_ fn v => Sys2Proof.Machine.execParkBWrite by_ fn v s
  | .parkXWrite by_ fn v => Sys2Proof.Machine.execParkXWrite by_ fn v s
  | .stidleBWrite by_ fn v => Sys2Proof.Machine.execStidleBWrite by_ fn v s
  | .stidleXWrite by_ fn v => Sys2Proof.Machine.execStidleXWrite by_ fn v s
  | .registerWrite by_ off width v => Sys2Proof.Machine.execRegisterWrite by_ off width v s
  | .ptmRequest => Sys2Proof.Machine.execPtmRequest s
  | .softError site correctable => Sys2Proof.Machine.execSoftError site correctable s
  | .linkTrainingComplete port lane => Sys2Proof.Machine.execLinkTrainingComplete port lane s
  | .destinationCongested port dev => Sys2Proof.Machine.execDestinationCongested port dev s
  | .frozenRecordRelease k => Sys2Proof.Machine.execFrozenRecordRelease k s

end Sys2Proof.Machine
end

