-- ==== Sys2Proof/Machine/Sched.lean ====
section
/-! DEFINITION. Which instruction or event comes next: the fetch, the choice among warps (R45, R54, R313), the events of the device's own agents (log 1), and the passing of a cycle (R35, R135, R200, R315, R326, R347). -/

namespace Sys2Proof.Machine

/-! ## The fetch (R75, R94) -/

/-- The place of a stream lies in its section (R76). -/
def State.inSection (s : State) (k : Nat) (w : Warp) : Stream → Bool
  | .scalar => (s.wg (wgOf k)).inScalar w.sc.pc
  | st => (s.wg (wgOf k)).inLane (w.slot st).pc.toNat

/-- The instruction at which a stream stands; none outside its section, or where no rule gives its word a meaning. -/
def State.instrAt (s : State) (k : Nat) (w : Warp) (st : Stream) : Option Instr :=
  if s.inSection k w st then
    match st with
    | .scalar => decodeScalarBytes (s.scalarBytes (s.wg (wgOf k)) w)
    | st => decodeLaneBytes (s.laneBytes (s.wg (wgOf k)) (w.slot st).pc.toNat)
  else none

/-- `ILLOP` of a word that decodes to nothing (R94, R115), `FETCHF` outside the section (R76); INFO of a lane instruction names its active lanes. A launch whose ENTRY is no multiple of 4 has no branch that produced the address: the table of R76 names no trap point for it, nor for a TRAPVEC.ADDR outside the scalar section, and the model raises `FETCHF` at that address itself (log 71). -/
def State.illegal (s : State) (k : Nat) (w : Warp) (st : Stream) : State :=
  let c := if s.inSection k w st then cILLOP else cFETCHF
  match st with
  | .scalar => s.raiseScalar k w c 0
  | st =>
    let x := w.slot st
    let h := hdrAt (leNat (s.laneBytes (s.wg (wgOf k)) x.pc.toNat))
    s.raiseLane k w st c (x.mask &&& guardMask w.rg h).toNat

/-- One instruction of stream `st` of warp `k`, fetched and executed. -/
def State.issueOne (s : State) (k : Nat) (st : Stream) : Out :=
  match Tbl.find s.warps k with
  | none => .next s
  | some w =>
    let s1 := { s with cur := some (k, st) }
    match s.instrAt k w st with
    | some i => exec i s1
    | none => .next (s1.illegal k w st)

/-! ## Who can issue (R45, R54, R85, R313, R321, R322) -/

def isLane : Stream → Bool | .scalar => false | _ => true

/-- The halt of the workgroup lets the warp issue: there is none, it comes in this very cycle, or the skid window is open and its counts are not full (R322). -/
def Warp.unhalted (w : Warp) (st : Stream) (now : Nat) : Bool :=
  match w.halt with
  | .run => true
  | .skid t stop => now == t || (now < stop && (if isLane st then w.trap.skidl < 8 else w.trap.skids < 8))
  | .stopped => false

/-- The workgroup's warps may issue: it is resident, or firmware has it and this warp is still inside its skid window (R322, R323). -/
def State.admits (s : State) (k : Nat) (w : Warp) : Bool :=
  match (s.wg (wgOf k)).status with
  | .resident => true
  | .halted => match w.halt with | .skid _ _ => true | _ => false
  | _ => false

/-- The stream itself holds nothing back: no wait, no spacing, no empty slot (R40, R41, R85, R324). -/
def Warp.open_ (w : Warp) (st : Stream) (now : Nat) : Bool :=
  match st with
  | .scalar => decide (w.sc.wait = .none)
  | _ => w.handler.isNone && decide ((w.slot st).st = .running) && decide ((w.slot st).wait = .none) && (w.slot st).until_ ≤ now

/-- Nothing outside the instruction holds the stream: R54 without the operands. A sleeping warp's lane blocks keep running (R134), and an exited warp runs only its handler, where a cause of its last requests has entered one. -/
def State.canBegin (s : State) (k : Nat) (w : Warp) (st : Stream) : Bool :=
  (!w.exited || w.handler.isSome) && s.admits k w && (s.wg (wgOf k)).leave == 0 && !s.off && w.deferred.isEmpty && (isLane st || w.sleep ≤ s.cyc) &&
  w.unhalted st s.cyc && w.open_ st s.cyc

/-- The instruction at hand does something: its operands are available and no interlock holds it. -/
def State.tries (s : State) (k : Nat) (st : Stream) : Bool :=
  match s.issueOne k st with | .next t => decide (t ≠ { s with cur := some (k, st) }) | _ => false

/-- The stream could issue in this cycle (R54). -/
def State.could (s : State) (k : Nat) (w : Warp) (st : Stream) : Bool := s.canBegin k w st && s.tries k st

/-- The other slot's turn comes first (R45). -/
def State.outOfTurn (s : State) (k : Nat) (w : Warp) (st : Stream) : Bool :=
  match st with
  | .scalar => false
  | .slotA => w.turnB && s.could k w .slotB
  | .slotB => !w.turnB && s.could k w .slotA

/-- The limits of a cycle: one lane and one scalar instruction of a warp, four and two of a core (R313). -/
def State.inLimits (s : State) (k : Nat) (st : Stream) : Bool :=
  let core (j : Nat) : Nat := (s.wg (wgOf j)).coreKey
  !s.used.contains (k, isLane st) &&
  (s.used.filter fun u => u.2 == isLane st && core u.1 == core k).length < (if isLane st then 4 else 2)

/-- The stream may issue now. -/
def State.mayIssue (s : State) (k : Nat) (st : Stream) : Bool :=
  match Tbl.find s.warps k with
  | none => false
  | some w => s.canBegin k w st && s.inLimits k st && s.tries k st && !s.outOfTurn k w st

/-- A skid instruction is counted once it has issued; one that traps has stopped the warp and is not (R322). Nor is one of the halt's own cycle. -/
def Warp.countSkid (w : Warp) (st : Stream) (now : Nat) : Warp :=
  match w.halt with
  | .skid t _ =>
    if now == t then w else
    { w with trap := if isLane st then { w.trap with skidl := w.trap.skidl + 1 } else { w.trap with skids := w.trap.skids + 1 } }
  | _ => w

/-- The selection is made: its marks are gone, and the cycle's limits are charged. -/
def State.selected (s : State) (k : Nat) (st : Stream) : State :=
  { s.onWarp k (fun w => { w with urgent := false, yielded := false, elig := none }) with
    used := s.used ++ [(k, isLane st)] }

/-- The issue of a selected stream, and its skid count. -/
def State.issueSelected (s : State) (k : Nat) (st : Stream) : Out :=
  match (s.selected k st).issueOne k st with
  | .next t => .next (t.onWarp k fun w => w.countSkid st s.cyc)
  | o => o

/-! ## The selection (R54, R313) -/

/-- What a core ranks a candidate by: precedence, yield, placement order, warp slot, then the stream. -/
structure Rank where
  late  : Bool
  yields : Bool
  age   : Nat
  slot  : Nat
  st    : Nat
deriving DecidableEq, Repr

def Rank.before (a b : Rank) : Bool :=
  if a.late != b.late then b.late
  else if a.yields != b.yields then b.yields
  else if a.age != b.age then a.age < b.age
  else if a.slot != b.slot then a.slot < b.slot
  else a.st < b.st

/-- The warp has stayed eligible for 128 cycles without issuing (R54). -/
def Warp.starved (w : Warp) (now : Nat) : Bool := w.urgent || w.elig.any fun t => t + 128 ≤ now

def State.rank (s : State) (k : Nat) (w : Warp) (st : Stream) : Rank := ⟨!w.starved s.cyc, w.yielded, (s.wg (wgOf k)).age, w.wslot, streamSrc st⟩

/-- Every stream that may issue now, with its rank. -/
def State.issuable (s : State) : List (Rank × Nat × Stream) :=
  s.warps.flatMap fun x : Nat × Warp =>
    ([Stream.scalar, .slotA, .slotB].filter (s.mayIssue x.1)).map fun st => (s.rank x.1 x.2 st, x.1, st)

def firstRank : List (Rank × Nat × Stream) → Option (Nat × Stream)
  | [] => none
  | c :: cs => some (cs.foldl (fun a b => if b.1.before a.1 then b else a) c).2

/-- The next issue of the cycle, over all cores: each core chooses among its own warps, and the order among cores is open. -/
def State.selection (s : State) : Option (Nat × Stream) := firstRank s.issuable

/-- The choice of one core (R54, R313). -/
def State.coreSelection (s : State) (core : Nat) : Option (Nat × Stream) :=
  firstRank (s.issuable.filter fun c => (s.wg (wgOf c.2.1)).coreKey == core)

/-- The core of the warp chooses this stream next. -/
def State.isChosen (s : State) (k : Nat) (st : Stream) : Bool := s.coreSelection (s.wg (wgOf k)).coreKey == some (k, st)

/-! ## The events of the device's own agents (log 1) -/

/-- The queue of a key. -/
def qOf (q : Nat) : QId :=
  match qKind q with
  | 0 => .coreOut (qIndex q) | 1 => .sliceIn (qIndex q) | 2 => .sliceMiss (qIndex q) | 3 => .msc (qIndex q) | 4 => .hbm (qIndex q)
  | 5 => .egress (qIndex q) | 6 => .ingress (qIndex q) | 7 => .hostReq | _ => .ctxStore (qIndex q)

def userCores : List Nat := (List.range 4).flatMap fun d => (List.range 59).map fun c => coreKey d (c + 1)

def trapEvents (s : State) : List (State → Out) :=
  s.warps.flatMap (fun x : Nat × Warp => (if x.2.skidOver s.cyc then [execSkidStop x.1] else []) ++ [execDeferredTrap x.1]) ++ s.wgs.map fun y : Nat × Wg => execFirmwareEndWorkgroup y.1

def warpEvents (s : State) : List (State → Out) :=
  s.warps.flatMap fun x : Nat × Warp =>
    ((List.range x.2.flight.length).map fun n => execLaneResultWrite x.1 n) ++ (x.2.sc.fill.map fun f => execScalarResultFill x.1 f.1) ++
    (if x.2.sc.wait = .none then [] else [execLwaitDone x.1, execSpopDone x.1, execSetvbDone x.1 .scalar, execLgoUnstall x.1]) ++
    ([Stream.slotA, .slotB].flatMap fun st =>
      if (x.2.slot st).wait = .none then [] else
        [execWaitkDone x.1 st, execSetvbDone x.1 st, execFenceDone x.1 st, execQfenceDone x.1 st, execRwaitFreeDone x.1 st, execRwaitFilledDone x.1 st]) ++
    (if x.2.blocks.isEmpty then [] else [execLaneBlockStart x.1]) ++
    (if x.2.sleep == 0 then [] else [execSleepExpiry x.1]) ++
    (if x.2.fabq.isEmpty && x.2.msgs.isEmpty then [] else [execFabricOpComplete x.1]) ++ [execReleasePart x.1, execStarvationPrecedence x.1]

def requestEvents (s : State) : List (State → Out) :=
  s.reqs.flatMap fun x : Nat × Req =>
    match x.2.stage with
    | .issued => [execSharedQueueArrival x.1]
    | .transit _ => [execSharedQueueArrival x.1]
    | .queued _ _ => (x.2.probes.getD []).map (fun c => execHomeProbe x.1 c) ++ [execHomeAccess x.1, execQueueDeparture x.1, execResidencyExpired x.1]
    | .bounced _ _ => [execBounceNotice x.1]
    | .replay why .ready => if why == 0 then [execSharedQueueArrival x.1] else [execReplayReissue x.1]
    | .replay _ .budget => [execBudgetRefill x.2.fn]
    | .replay _ _ => [execBackoffExpiry x.1]
    | .sent => [execResendTimer x.1, execRequestUnanswered x.1]
    | .granted => [execRequestReply x.1]
    | .performed => [execRequestReply x.1]

/-- The refreshes due now, of every bank of the 256 channels (R199). -/
def refreshEvents (s : State) : List (State → Out) :=
  if refInterval s.cyc == 0 then []
  else (List.range 256).flatMap fun ch => ((List.range Config.hbmBanks).filter fun b => !(s.chan ch).refreshed b s.cyc).map fun b => execHbmRefreshDue ch b

def holdEvents (s : State) : List (State → Out) :=
  (s.dies.flatMap fun x : Nat × Die => x.2.walks.map fun y => execWalkComplete x.1 y.fn y.va) ++
  (s.queues.flatMap fun x : Nat × Shq =>
    (if x.2.cleared.isEmpty then [] else [execCongestionCleared (qOf x.1)]) ++
    x.2.grants.flatMap fun g => [OwnerClass.warp, .eviction, .ingress, .host, .firmware].flatMap fun c =>
      if clsCode c == g.1 then [execReservationGranted (qOf x.1) c, execGrantLapse (qOf x.1) c] else []) ++
  refreshEvents s ++
  (s.chans.flatMap fun x : Nat × Chan =>
    (if x.2.cleared < rowPeriod s.cyc && !x.2.acts.isEmpty then [execRowCountClear (x.1 / 128)] else []) ++
    (x.2.owing.map fun b : Nat × Nat => execPostponedRefresh x.1 b.1) ++ x.2.acts.map fun a => execRowThresholdReached a.1 x.1 a.2.1 a.2.2.1) ++
  s.inval.map fun p => execInvalidationComplete p.fn ⟨p.space, p.va⟩

def engineEvents (s : State) : List (State → Out) :=
  s.cores.flatMap fun x : Nat × Core =>
    (x.2.matq.flatMap fun m => [execWloadStart x.1 m.id, execWloadDone x.1 m.id, execMmaStart x.1 m.id, execMmaDone x.1 m.id, execAccumMoveDone x.1 m.id]) ++
    (x.2.copies.map Copy.laneKey).eraseDups.flatMap fun g => [execCopyStart x.1 g, execCopyBytesPerformed x.1 g, execCopyDone x.1 g]

def queueEvents (s : State) : List (State → Out) :=
  s.cmdq.flatMap fun x : Nat × Queue =>
    [execTimedLaunchEligible x.1, execBatchCommit x.1, execPacketStart x.1, execLaunchBundle x.1, execTimedLaunch x.1, execCopyPacket x.1, execWsWritePacket x.1,
     execBarrierAndSignal x.1, execBarrierSignalWake x.1, execInterruptPacket x.1, execRegisterHandlerTable x.1, execStarvePromotion x.1]

/-- The event that carries out a die's next placement, on any of its cores (R3, R308). -/
def turnEvents (s : State) (d : Nat) : List (State → Out) :=
  let each (f : Nat → State → Out) : List (State → Out) := (List.range 59).map fun c => f (coreKey d (c + 1))
  match s.choose d with
  | some (.work (.unit _) _) => (List.range 59).map fun c => execPlacement d (c + 1)
  | some (.work (.back (g :: _)) _) => each (execContextSwitchIn g)
  | some (.handlers f) => ((s.outSets d).filter fun y => s.isHandler y.1 && (s.wg y.1).fn == f).flatMap fun y => each (execContextSwitchIn y.1)
  | _ => []

def placeEvents (s : State) : List (State → Out) :=
  (s.wgs.map fun y : Nat × Wg => execWorkgroupRetire y.1) ++
  (s.cores.flatMap fun x : Nat × Core => (List.range x.2.binds.length).map fun i => execDispatchWorkgroup x.1 i) ++
  (s.wgs.flatMap fun y : Nat × Wg => if y.2.leave == 0 then [] else [execContextSwitchOut y.1]) ++
  (s.cores.flatMap fun x : Nat × Core => x.2.parkSince.map fun f : Nat × Nat => execParkThresholdHold x.1 f.1) ++
  (if s.cmdq.isEmpty && s.wgs.isEmpty then [] else (List.range 4).flatMap (turnEvents s))

def handlerEvents (s : State) : List (State → Out) :=
  (s.fns.flatMap fun x : Nat × Fn => if x.2.ams.isEmpty then [] else userCores.map fun c => execAmHandlerStart x.1 c) ++
  s.ends.flatMap fun e =>
    (if e.frozen then [execFrozenRecordRelease e.key] else []) ++
    (if e.bind.isNone then [] else [execContextIdleTimeout e.key, execContextEvictionDone e.key, execContextReloadDone e.key] ++
      if e.items.isEmpty then [] else (List.range 59).map fun c => execStreamHandlerStart e.key (coreKey e.die (c + 1)))

def fabricEvents (s : State) : List (State → Out) :=
  (s.fab.groups.map fun g => execGroupTimeout g.src g.tag g.gen) ++
  (s.fab.cache.map fun c => execReplyCacheExpiry c.src c.tag c.gen) ++
  (s.fab.cong.map fun c => execCongestionWithdraw c.port c.dev) ++
  (s.fab.msgs.flatMap fun m => (m.tokens.map fun t => execTokenExpiry m.src m.msgid t.off) ++ [execPrioAging m.src m.msgid]) ++
  (s.reqList.flatMap fun r => match r.dev with | some d => [execDestinationCongested (s.routePort d) d] | none => []) ++
  s.fab.transit.flatMap fun t => [execDestinationCongested t.port t.pkt.dst.toNat, execQueueDeparture t.id]

/-- A stale line of a frame that waits to be scrubbed, the first one, or its last line. -/
def scrubEvents (s : State) : List (State → Out) :=
  s.frames.flatMap fun x : Nat × Frame =>
    if x.2.scrub then [execScrubLine (x.1 * 512 + ((List.range 512).find? fun i => s.stale ((x.1 * 512 + i) * 128)).getD 511)] else []

def deviceEvents (s : State) : List (State → Out) :=
  ((List.range 4).map fun d => execSliceAdvance d) ++
  (s.fns.flatMap fun x : Nat × Fn => [execCompletionInterruptCount x.1, execCompletionInterruptTimeout x.1] ++
    if x.2.resetStep == 0 then [] else [execFunctionResetComplete x.1]) ++
  (s.fns.filterMap fun x : Nat × Fn => if x.1 ≤ 32 then s.mailCommand (if x.1 == 0 then .pf else .vf x.1) else none) ++
  [execPtpHoldoverExpiry] ++ scrubEvents s

/-- The meanings of the events that the device's agents may bring about, in the order tried. -/
def agents (s : State) : List (State → Out) :=
  trapEvents s ++ warpEvents s ++ holdEvents s ++ requestEvents s ++ engineEvents s ++ queueEvents s ++ placeEvents s ++ handlerEvents s ++
    fabricEvents s ++ deviceEvents s

/-- An event had something to do: it changed something besides the drawn handle key, which only a reset draws (log 14). -/
def State.differs (s t : State) : Bool := decide (({ t with kstream := 0 } : State) ≠ { s with kstream := 0 })

/-- The state after the first event that has something to do. -/
def State.internal (s : State) : Option State :=
  (agents s).findSome? fun f => match f s with | .next t => if s.differs t then some t else none | _ => none

/-! ## Parked warps (R326) -/

/-- A request in the replay partition with reason 0x1, 0x2 or 0x4. -/
def Req.parks (r : Req) : Bool := match r.stage with | .replay why _ => [1, 2, 4].contains why | _ => false

/-- Those of a warp, the ones behind them in their line chains, and those whose release part waits for one of them (R230). -/
def State.heldReqs (s : State) (k : Nat) : List Req :=
  let l := (s.reqsOf k).filter fun r => r.parks || (s.aheadInChain r).any Req.parks
  l ++ (s.reqsOf k).filter fun r => !(l.any fun q => q.id == r.id) && (r.rel == 1 || r.rel == 2) && l.any fun q => q.id < r.iid

def slotPast (l : List Req) (ks : List Nat) (fills : Bool) (x : Slot) : Slot :=
  let past := match x.wait with
    | .held n => l.any fun r => r.iid == n
    | .fence n => l.any fun r => r.id < n
    | .qfence _ n => l.any fun r => r.id < n
    | .waitk c _ => ks.contains c
    | .setvb _ => fills
    | _ => false
  if past then { x with wait := .none } else x

/-- Results in flight that depend on these requests. -/
def Warp.heldResults (w : Warp) (l : List Req) : List Result := w.flight.filter fun x => l.any fun r => r.result == x.id && r.result != 0

/-- Pool entries that depend on them: those of their results, of the fabric operations from the first that waits for one, of open messages, and of the warp's own follow-on `MMA`s, those of copies queued behind a held copy among them (R326, R264). -/
def State.heldRegs (s : State) (k : Nat) (w : Warp) (l : List Req) : List Nat :=
  let on (id : Nat) : Bool := l.any fun r => r.parent == id && r.parent != 0
  ((w.heldResults l).flatMap fun x => x.regs.map (·.1)) ++
  ((w.fabq.dropWhile fun o => !on o.id).flatMap (·.dregs)) ++
  ((w.msgs.filter fun m => on m.id).flatMap (·.dregs)) ++
  let cs := (s.core (s.wg (wgOf k)).coreKey).copies
  (cs.filter fun c => (cs.takeWhile fun x => x.id != c.id).any (fun x => x.laneKey == c.laneKey && on x.id) || on c.id).flatMap fun c => match c.follow with
    | some m => if m.warp == k then m.accs else []
    | none => []

/-- The scalar registers that they fill. -/
def heldScalars (l : List Req) : W64 := l.foldl (fun e r => match r.sd with | some d => e ||| (1#64 <<< d.toNat) | none => e) 0

/-- The warp as it would stand if nothing but these requests were outstanding. -/
def State.onlyHeld (s : State) (k : Nat) (w : Warp) (l : List Req) : Warp :=
  { w with
    rg := { w.rg with empty := w.rg.empty &&& (s.heldRegs k w l).foldl (fun m e => m ||| (1#512 <<< e)) 0 }
    flight := w.heldResults l
    sc := { w.sc with empty := w.sc.empty &&& heldScalars l, fill := [] } }

/-- And as it would stand had these been answered too. -/
def Warp.past (w : Warp) (l : List Req) : Warp :=
  let fs := w.heldResults l
  let fills := fs.any (·.fills)
  let slot := slotPast l (fs.filterMap (·.kctr)) fills
  let past := match w.sc.wait with
    | .held n => l.any fun r => r.iid == n
    | .release n _ => l.any fun r => r.id < n
    | .setvb _ => fills
    | .spop _ => fs.any (·.push.isSome)
    | _ => false
  { w with
    rg := { w.rg with empty := 0 }
    flight := []
    slotA := slot w.slotA
    slotB := slot w.slotB
    sc := { w.sc with empty := 0, fill := [], wait := if past then .none else w.sc.wait } }

def inBarrier (w : Warp) : Bool := match w.sc.wait with | .barrier _ _ => true | _ => false

/-- Parked: nothing can issue, and some stream waits on what depends on a held request, whatever else it waits on: with all else at hand it could issue once these were answered, and not before (R326). -/
def State.isParked (s : State) (k : Nat) (w : Warp) : Bool :=
  let l := s.heldReqs k
  if l.isEmpty || w.exited || s.cyc < w.sleep || inBarrier w || decide (w.halt ≠ .run) || decide ((s.wg (wgOf k)).status ≠ .resident) then false
  else
    let all := [Stream.scalar, .slotA, .slotB]
    if all.any (s.could k w) then false
    else
      let w0 := s.onlyHeld k w l
      let s0 := s.putWarp k w0
      let w1 := w0.past l
      -- a fence that waits for a held request holds nothing back either once that is answered
      let s1 := { s.putWarp k w1 with reqs := s.reqs.filter fun x : Nat × Req => !l.any fun r => r.id == x.1 || (x.2.warp == k && x.2.orders && r.id < x.1) }
      all.any fun st => s1.could k w1 st && !s0.could k w0 st

/-! ## A cycle passes -/

/-- A `SETVB`, or an `SCSRW` of `VB`, waits in the stream for the registers of the partition (R47). -/
def Warp.boundaryWaits (w : Warp) (st : Stream) : Bool :=
  !w.rg.allFull && match st with
    | .scalar => (match w.sc.wait with | .setvb _ => true | _ => false)
    | st => (match (w.slot st).wait with | .setvb _ => true | _ => false)

/-- An instruction of the stream waits on an empty register (R135), whatever else it waits on: with no result in flight and no earlier release, acquire or fence it still would, and with every register full it would not. -/
def State.waitsEmpty (s : State) (k : Nat) (w : Warp) (st : Stream) : Bool :=
  if w.sc.empty == 0 && w.rg.empty == 0 then false
  else if w.boundaryWaits st then true
  else if !s.canBegin k w st || s.tries k st then false
  else
    let free (w : Warp) : State := { s.putWarp k { w with flight := [] } with reqs := s.reqs.filter fun x : Nat × Req => !(x.2.warp == k && x.2.orders) }
    !(free w).tries k st && (free { w with sc := { w.sc with empty := 0 }, rg := { w.rg with empty := 0 } }).tries k st

/-- The owner of a request: a warp, a slice or cache, a port, the host port or a firmware core (R14). -/
def Req.owner (r : Req) : Nat × Nat := (clsCode r.cls, match r.cls with | .warp => r.warp | _ => r.src)

/-- Requests that came into a queue before this one, in ordinary and in reserved entries. -/
def State.aheadAt (s : State) (r : Req) (q : Nat) (resv : Bool) : List Req :=
  let ord := (s.queue q).ord.filterMap fun i => Tbl.find s.reqs i
  let old := ((s.queue q).resv.filterMap fun i => Tbl.find s.reqs i.2).filter fun x => x.entered < r.entered
  old ++ if resv then ord.filter fun x => x.entered < r.entered else ord.takeWhile fun x => x.id != r.id

/-- A queued request waits for a refresh, or behind a request of another owner (R200, R253). -/
def State.stalled (s : State) (r : Req) : Bool :=
  match r.stage with
  | .queued q resv =>
    (qKind q == 4 && s.bankBusy (qIndex q) (Config.hbmBank (paOf ((s.missLine r).getD r.line * 128)))) ||
    (s.aheadAt r q resv).any fun x => x.owner != r.owner
  | _ => false

/-- A warp's marks and counters after the cycle (R54, R135, R200, R326). -/
def State.tickWarp (s : State) (k : Nat) (w : Warp) : Warp :=
  let all := [Stream.scalar, .slotA, .slotB]
  let st := (s.wg (wgOf k)).status
  let w := { w with rg := { w.rg with arrs := [] } }
  if st = .resident || st = .halted then
    let issued := s.used.any fun u => u.1 == k
    let parked := s.isParked k w
    let c0 := bumpPerf w.csr 0
    let c1 := if all.any (s.waitsEmpty k w) then bumpPerf c0 3 else c0
    let c2 := if parked then bumpPerf c1 5 else c1
    { w with
      elig := if !issued && all.any (s.could k w) then some (w.elig.getD s.cyc) else none
      yielded := w.yielded && issued
      parked := parked
      csr := { c2 with latcnt := c2.latcnt + BitVec.ofNat 64 ((s.reqsOf k).filter s.stalled).length } }
  else w

/-- Functions with workgroups on a core. -/
def State.fnsOn (s : State) (core : Nat) : List Nat := ((s.wgs.filter fun y : Nat × Wg => y.2.coreKey == core).map fun y => y.2.fn).eraseDups

/-- The marks of a core: since when each function's parked warps have stood at the threshold, and whether a change of REPLAYQ takes effect (R252, R327). -/
def State.tickPark (s : State) : State :=
  { s with cores := Tbl.mapVal (fun k c => { c with
      parkSince := (s.fnsOn k).foldl (fun t f => if s.atThreshold k f then Tbl.put t f (Tbl.getD c.parkSince f s.cyc) else t) []
      replay := c.replay.bind (s.replayHeld k) }) s.cores }

/-- The congestion flags whose cause still stands (R347). -/
def State.tickCong (s : State) : Fabric :=
  { s.fab with cong := s.fab.cong.map fun c =>
      if (s.standingAt c.port c.dev).any (fun r => r.entered + s.bound / 4 < s.cyc) ||
          s.fab.transit.any (fun t => t.port == c.port && t.pkt.dst.toNat == c.dev && t.since + s.bound / 4 < s.cyc) then { c with last := s.cyc } else c }

/-- A core cycle passes; the wait of the next agenda entry is one cycle shorter. -/
def State.tick (s : State) : State :=
  let s1 := State.tickPark { s with
    warps := Tbl.mapVal s.tickWarp s.warps
    fab := s.tickCong }
  { s1 with
    cyc := s.cyc + 1
    deficit := s.standingDeficit
    ptp := s.ptp.tick
    used := []
    reissued := []
    agenda := match s.agenda with | (d + 1, m) :: rest => (d, m) :: rest | l => l }

/-! ## What happens next -/

/-- A move of the agenda: an event, or the issue that a core makes next, which does nothing where the core chooses another (R54, log 1). -/
def State.move (s : State) : Move → Out
  | .event i => exec i s
  | .issue k st => if s.isChosen k st then s.issueSelected k st else .next s

/-- The device by itself: its agents' next event, else the next issue, else the cycle ends. -/
def State.run (s : State) : Out :=
  match s.internal with
  | some t => .next t
  | none =>
    match s.selection with
    | some (k, st) => s.issueSelected k st
    | none => .next s.tick

/-- The next state: an agenda entry whose time has come, else what the device does by itself. -/
def State.advance (s : State) : Out :=
  match s.agenda with
  | (0, m) :: rest => State.move { s with agenda := rest } m
  | _ => s.run

end Sys2Proof.Machine
end

