-- ==== Sys2Proof/Machine/Step.lean ====
section
/-! DEFINITION. One step of the machine, and the state in which it fetches a given instruction next. -/

namespace Sys2Proof.Machine

/-- One step: `Machine/Sched.lean` says what comes next. -/
def step (s : State) : Host.Outcome State Fault Refusal := s.advance

/-- The workgroup of one warp that a load from outside places (log 3): the physical function's process 0, a core of die 0, both sections from address 0 on. -/
def loadedWg (age core : Nat) : Wg :=
  { Wg.blank with
    core := core
    nwg := 1
    warps := 1
    nreg := 512
    lanes := 32
    padSize := 65536
    slen := 1024
    llen := 1536
    age := age
    order := age }

/-- Its warp: the scalar PC at 0; for a lane instruction, slot A running at lane PC 0 with every lane, while the scalar stream waits behind it at the join of an `SHALT`. -/
def loadedWarp (g : Wg) (lane : Bool) : Warp :=
  let w := Warp.fresh g 0 0 0 0 0 0
  let w1 := { w with rg := { w.rg with vb := 256 } }
  if lane then { w1.holdS (.join .shalt) with running := true, slotA := ⟨.running, 0, 0xFFFFFFFF#32, 0xFFFFFF#24, .none, 0, 0⟩ } else w1

/-- The first core of die 0 on which no workgroup stands, so that no other warp is chosen there first. -/
def State.emptyCore (s : State) : Nat := ((List.range 59).find? fun c => !s.wgs.any fun y : Nat × Wg => y.2.coreKey == c + 1).getD 0 + 1

/-- The page that holds the code. -/
def loadedPage : PageEntry := ⟨0, 0, 0, .k64, 0, .own, true, true, false⟩

/-- `s` with an instruction placed and selected, so that the very next step runs it (log 3): data and compute on, a resident warp, the page of its code, the bytes, and the agenda. -/
def State.withFetchWord (s : State) (nbits w : Nat) : State :=
  let lane := decide (32 < nbits)
  let n := s.nextWg
  let g := loadedWg n s.emptyCore
  let s1 := if s.stale 0 then s.putLine 0 { s.line 0 with epoch := (s.frame 0).epoch } else s
  { s1 with
    agenda := (0, .issue (warpKey n 0) (if lane then .slotA else .scalar)) :: s1.agenda
    used := []
    nextWg := n + 1
    wgs := Tbl.put s1.wgs n g
    warps := Tbl.put s1.warps (warpKey n 0) (loadedWarp g lane)
    pages := loadedPage :: s1.pages
    mem := Memory.writeL s1.mem 0 (leBytes (if lane then 12 else 4) w)
    boot := { s1.boot with stage := 6, safe := false, retired := false } }

end Sys2Proof.Machine
end

