-- ==== Sys2Proof/Safety.lean ====
section
/-! DEFINITION. What the claims speak of: the invariant of memory, when an instruction is ready to run, and the states its completion leaves. -/

namespace Sys2Proof.Machine

/-- The invariant of the memory: its canonical form, so that equal memories are equal data. -/
abbrev State.Inv (s : State) : Prop := Memory.wf s.mem = true

/-- Warp `k`, now `w`, stands at the issuing position with its stream `st` (log 1). -/
abbrev State.issues (s : State) (k : Nat) (w : Warp) (st : Stream) : Prop :=
  s.cur = some (k, st) ∧ Tbl.find s.warps k = some w

/-- A scalar instruction with the registers `us` can run: they are full (R114), and the fall-through stays in the scalar section (R76). -/
abbrev State.scalarReady (s : State) (k : Nat) (w : Warp) (us : List SReg) : Prop :=
  s.issues k w .scalar ∧ w.sc.ready us = true ∧ (s.wg (wgOf k)).inScalar w.sc.fall.pc = true

/-- An operand of a lane instruction is available: its registers lie in the warp's range and are full, and what it reads is not poisoned (R50, R94, R203). -/
def Use.ready (r : Regs) (u : Use) : Bool :=
  u.inRange r && (u.entries r).all fun e => !r.isEmpty e && (u.dst || !r.isPoison e)

/-- A lane instruction with the operands `us` can run: every operand is available, no result in flight holds it back (R141), and the next lane PC stays in the lane section (R76). -/
abbrev State.laneReady (s : State) (k : Nat) (w : Warp) (st : Stream) (h : LaneHdr) (us : List Use) : Prop :=
  s.issues k w st ∧ us.all (Use.ready w.rg) = true ∧ w.interlocked st (w.slot st).mask h us = false ∧
  (s.wg (wgOf k)).inLane ((w.slot st).pc.toNat + 1) = true

/-- The active lanes of the instruction at a slot (R95). -/
def Warp.active (w : Warp) (st : Stream) (h : LaneHdr) : LaneMask := (w.slot st).mask &&& guardMask w.rg h

/-- Warp `k` after a scalar instruction that completed by falling through (R123). -/
def State.fellThrough (s : State) (k : Nat) (w : Warp) : State := s.putWarp k w.fallS

/-- Warp `k` after a scalar instruction that went on at `pc`. -/
def State.jumped (s : State) (k : Nat) (w : Warp) (pc : W64) : State := s.putWarp k (w.jumpS pc)

/-- Warp `k` after the issue of a lane instruction of slot `st` (R42, R45, R85). -/
def State.passed (s : State) (k : Nat) (st : Stream) (h : LaneHdr) (pc : BitVec 20) (now : Nat) : State :=
  s.onWarp k fun w => w.passLane st h now (pc + 1)

/-- The whole of a lane instruction that leaves the result `r` in flight. -/
def State.flew (s : State) (k : Nat) (w : Warp) (st : Stream) (h : LaneHdr) (r : Result) (drawn : Nat) : State :=
  ((s.fly k r).drawn drawn).passed k st h (w.slot st).pc s.cyc

end Sys2Proof.Machine
end

