-- ==== Sys2Proof/Certificates/Slice0/Obligations.lean ====
section
/-! DEFINITION. The statements for the provers: what the numbered rules say an instruction or the machine does. -/

open Sys2Proof Sys2Proof.Machine

/-! ## Encoding -/

/-- The header of an unguarded lane instruction whose other fields are zero. -/
def plainHdr : LaneHdr := ⟨⟨false, 0⟩, ⟨false, 0⟩, false, 0, false, 0, 0⟩

/-- Words written out bit by bit from the encodings of R77 to R92 decode to the instructions they stand for: the worked encodings of R118 to R121, R125, R132, of the assembler example, and of each lane chapter; the all-zero and all-ones lane values decode to nothing. -/
def Obligations.DecodeWorkedWords : Prop :=
  decodeTableWord 32 0x0490C424 = some (.scmp .ltu 9 3 4) ∧
  decodeTableWord 32 0x4032A810 = some (.sld .i32 3 10 16) ∧
  decodeTableWord 32 0x50720916 = some (.samo .add true .acqrel false 7 8 9) ∧
  decodeTableWord 32 0x610A37FC = some (.sbr .lt 5 6 0x7FC) ∧
  decodeTableWord 32 0x70400003 = some (.loop 4 false 3) ∧
  decodeTableWord 32 0x08514001 = some (.saddi 5 5 1) ∧
  decodeTableWord 32 0x80800000 = some (.lgo 8 0) ∧
  decodeTableWord 32 0x84000001 = some .lwait ∧
  decodeTableWord 32 0xFC000007 = some .shalt ∧
  decodeTableWord 32 0xFC054401 = some (.scsrr 0x015 4) ∧
  decodeTableWord 96 0 = none ∧ decodeTableWord 96 (2 ^ 96 - 1) = none ∧
  decodeTableWord 96 0x00000000FFFFFFFFFFFFC000 = some (.lnop ⟨plainHdr, .none, .none, .none, .none, .none, 0⟩) ∧
  decodeTableWord 96 0x00420000000060000DFFC000 = some (.lbr ⟨{ plainHdr with ga := ⟨false, 1⟩ }, 6, 13⟩) ∧
  decodeTableWord 96 0x1000000000800007FFFFDC00 = some (.iadd ⟨plainHdr, .v 2, .v 0, .v 1, .none, .none, 0x1C00⟩) ∧
  decodeTableWord 96 0x12000000C1402807FFFFDC02 = some (.icmp ⟨plainHdr, .p 5, .v 2, .x 1, .none, .none, 0x1C02⟩) ∧
  decodeTableWord 96 0x30C7400401C080240AFFC280 =
    some (.ffma ⟨{ plainHdr with ga := ⟨false, 3⟩, gb := ⟨true, 4⟩, fe := 4 }, .v 7, .v 8, .v 9, .v 10, .none, 0x0280⟩) ∧
  decodeTableWord 96 0x3884000000C03FFC3F000000 = some (.fmulImm ⟨{ plainHdr with ga := ⟨false, 2⟩ }, .v 3, .v 3, .none, 0x3F000000⟩) ∧
  decodeTableWord 96 0x60400000FFF03FFFFFFFC042 = some (.vote ⟨plainHdr, .none, .p 3, .none, .none, .none, 0x0042⟩) ∧
  decodeTableWord 96 0x808000000220201712FFE002 = some (.lda ⟨plainHdr, .v 8, .x 2, .v 5, .k 2, .none, 0x2002⟩) ∧
  decodeTableWord 96 0xA04000004000480602FFEC3A = some (.mma ⟨plainHdr, .a 0, .v 4, .x 1, .x 2, .none, 0x2C3A⟩) ∧
  decodeTableWord 96 0xC040000001A0080602FFE100 = some (.bsend ⟨plainHdr, .v 6, .x 0, .x 1, .x 2, .none, 0x2100⟩)

/-- Decoding the word of a well-formed scalar instruction gives the instruction back: every operand at every value its field admits, no bit dropped (R77 to R83). -/
def Obligations.ScalarEncodeDecode : Prop :=
  ∀ (i : Instr) (w : Nat), encodeScalar i = some w → i.wf = true → w < 2 ^ 32 ∧ decodeTableWord 32 w = some i

/-- Decoding the 96 bits of a well-formed lane instruction gives the instruction back (R84 to R92). -/
def Obligations.LaneEncodeDecode : Prop :=
  ∀ (i : Instr) (w : Nat), encodeLane i = some w → i.wf = true → w < 2 ^ 96 ∧ decodeTableWord 96 w = some i

/-- A word that decodes is the one word of its instruction: a field the format does not use holds zero, or the word is refused (R77, R94). -/
def claimScalarWordsHaveOneReading : Prop :=
  ∀ (w : Nat) (i : Instr), w < 2 ^ 32 → decodeTableWord 32 w = some i → i.wf = true ∧ encodeScalar i = some w

/-- No bit of a lane instruction is without meaning: two 96-bit values never decode to one instruction (R84, R92). -/
def claimLaneWordsHaveOneReading : Prop :=
  ∀ (w : Nat) (i : Instr), w < 2 ^ 96 → decodeTableWord 96 w = some i → i.wf = true ∧ encodeLane i = some w

/-- A word that decodes is the one word of its instruction: a field the format does not use holds zero, or the word is refused (R77, R84, R92, R94). -/
def Obligations.WordsHaveOneReading : Prop := claimScalarWordsHaveOneReading ∧ claimLaneWordsHaveOneReading

/-! ## Scalar arithmetic -/

/-- R116 on two registers, for the operations whose result the next instruction sees: `sd` takes the value of the table, the stream falls through (R123), and nothing else changes. -/
def claimScalarRegisterResults : Prop :=
  ∀ (s : State) (k : Nat) (w : Warp) (d a b : SReg), s.scalarReady k w [d, a, b] →
    let A := w.sr a
    let B := w.sr b
    let n := (B &&& 63#64).toNat
    let gives (i : Instr) (v : W64) : Prop := exec i s = .next (s.fellThrough k (w.writeS d v))
    gives (.sadd d a b) (A + B) ∧ gives (.ssub d a b) (A - B) ∧
    gives (.sand d a b) (A &&& B) ∧ gives (.sor d a b) (A ||| B) ∧ gives (.sxor d a b) (A ^^^ B) ∧
    gives (.sshl d a b) (A <<< n) ∧ gives (.sshr d a b) (A >>> n) ∧ gives (.ssra d a b) (A.sshiftRight n) ∧
    gives (.smin d a b) (if A.toInt ≤ B.toInt then A else B) ∧ gives (.smax d a b) (if A.toInt ≤ B.toInt then B else A) ∧
    gives (.sminU d a b) (if A.toNat ≤ B.toNat then A else B) ∧ gives (.smaxU d a b) (if A.toNat ≤ B.toNat then B else A) ∧
    gives (.scmp .eq d a b) (if A = B then 1 else 0) ∧ gives (.scmp .ne d a b) (if A = B then 0 else 1) ∧
    gives (.scmp .lt d a b) (if A.toInt < B.toInt then 1 else 0) ∧ gives (.scmp .ge d a b) (if A.toInt < B.toInt then 0 else 1) ∧
    gives (.scmp .ltu d a b) (if A.toNat < B.toNat then 1 else 0) ∧ gives (.scmp .geu d a b) (if A.toNat < B.toNat then 0 else 1)

/-- R116 and R118 on a register and an immediate. -/
def claimScalarImmediateResults : Prop :=
  ∀ (s : State) (k : Nat) (w : Warp) (d a : SReg) (i : BitVec 14) (j : BitVec 11) (n : BitVec 6) (u : BitVec 20),
    s.scalarReady k w [d, a] →
    let A := w.sr a
    let B : W64 := i.signExtend 64
    let C : W64 := j.signExtend 64
    let gives (i : Instr) (v : W64) : Prop := exec i s = .next (s.fellThrough k (w.writeS d v))
    gives (.saddi d a i) (A + B) ∧ gives (.sandi d a i) (A &&& B) ∧ gives (.sori d a i) (A ||| B) ∧ gives (.sxori d a i) (A ^^^ B) ∧
    gives (.smini d a i) (if A.toInt ≤ B.toInt then A else B) ∧ gives (.smaxi d a i) (if A.toInt ≤ B.toInt then B else A) ∧
    gives (.sshli d a n) (A <<< n.toNat) ∧ gives (.sshri d a n) (A >>> n.toNat) ∧ gives (.ssrai d a n) (A.sshiftRight n.toNat) ∧
    gives (.scmpi .eq d a j) (if A = C then 1 else 0) ∧ gives (.scmpi .ne d a j) (if A = C then 0 else 1) ∧
    gives (.scmpi .lt d a j) (if A.toInt < C.toInt then 1 else 0) ∧ gives (.scmpi .ge d a j) (if A.toInt < C.toInt then 0 else 1) ∧
    gives (.scmpi .ltu d a j) (if A.toNat < C.toNat then 1 else 0) ∧ gives (.scmpi .geu d a j) (if A.toNat < C.toNat then 0 else 1) ∧
    gives (.slui d u) ((u ++ 0#12 : W32).signExtend 64)

/-- R116 and R118: the scalar operations whose result the next instruction sees, on two registers and on an immediate. -/
def Obligations.ScalarResults : Prop := claimScalarRegisterResults ∧ claimScalarImmediateResults

/-- R116 and R117 for the operations that mark `sd` empty: the product, its high half, and the truncated quotient with its remainder, with the edge results of division; the value is in flight after issue (R114). -/
def Obligations.ScalarLongResults : Prop :=
  ∀ (s : State) (k : Nat) (w : Warp) (d a b : SReg) (i : BitVec 14), s.scalarReady k w [d, a, b] →
    let A := w.sr a
    let B := w.sr b
    let gives (i : Instr) (v : W64) : Prop := exec i s = .next (s.fellThrough k (w.longS d v))
    gives (.smul d a b) (A * B) ∧ gives (.smuli d a i) (A * i.signExtend 64) ∧
    gives (.smulh d a b) ((A.signExtend 128 * B.signExtend 128).extractLsb' 64 64) ∧
    gives (.smulhU d a b) ((A.setWidth 128 * B.setWidth 128).extractLsb' 64 64) ∧
    gives (.sdiv d a b) (if B = 0 then BitVec.allOnes 64 else A.sdiv B) ∧
    gives (.srem d a b) (if B = 0 then A else A.srem B) ∧
    gives (.sdivU d a b) (if B = 0 then BitVec.allOnes 64 else A.udiv B) ∧
    gives (.sremU d a b) (if B = 0 then A else A.umod B) ∧
    (A = BitVec.intMin 64 → B = BitVec.allOnes 64 → gives (.sdiv d a b) (BitVec.intMin 64) ∧ gives (.srem d a b) 0)

/-- A long operation marks its destination empty and nothing reads or writes it until its result arrives, the oldest one first; `s0` is never marked (R114). -/
def claimScalarResultLands : Prop :=
  ∀ (s : State) (k : Nat) (w : Warp) (d : SReg) (v : W64) (r : List (SReg × W64)),
    Tbl.find s.warps k = some w → w.sc.fill = (d, v) :: r → d ≠ 0 →
    ∃ t u, exec (.scalarResultFill k d) s = .next t ∧ Tbl.find t.warps k = some u ∧
      u.sr d = v ∧ u.sc.full d = true ∧ u.sc.fill = r ∧ (∀ e : SReg, e ≠ d → u.sr e = w.sr e ∧ u.sc.full e = w.sc.full e)

/-- An instruction one of whose registers is empty does not issue: nothing changes until it is full (R114); the arithmetic and comparison forms. -/
def claimScalarWaitsForEmpty : Prop :=
  ∀ (s : State) (k : Nat) (w : Warp) (cc : SCond) (d a b : SReg), s.issues k w .scalar → w.sc.ready [d, a, b] = false →
    ∀ i ∈ [Instr.sadd d a b, .ssub d a b, .smul d a b, .smulh d a b, .sdiv d a b, .srem d a b, .sand d a b, .sor d a b, .sxor d a b,
      .sshl d a b, .sshr d a b, .ssra d a b, .smin d a b, .smax d a b, .smulhU d a b, .sdivU d a b, .sremU d a b, .sminU d a b, .smaxU d a b,
      .scmp cc d a b], exec i s = .next s

/-- `s0` reads as zero and discards writes, so an instruction whose destination it is changes no register; any other register reads as what was last written, and a write fills it and no other (R36, R49, R114). -/
def claimScalarRegisterFile : Prop :=
  ∀ (w : Warp) (d : SReg) (v : W64),
    w.sr 0 = 0 ∧ w.writeS 0 v = w ∧ w.longS 0 v = w ∧
    (d ≠ 0 → (w.writeS d v).sr d = v ∧ (w.writeS d v).sc.full d = true ∧ (w.longS d v).sc.full d = false) ∧
    (∀ e : SReg, e ≠ d → (w.writeS d v).sr e = w.sr e ∧ (w.writeS d v).sc.full e = w.sc.full e ∧ (w.longS d v).sc.full e = w.sc.full e) ∧
    (∀ e : SReg, (w.longS d v).sr e = w.sr e)

/-- R36, R49 and R114: empty and full scalar registers, the result in flight that fills one, and `s0`. -/
def Obligations.ScalarRegisterStates : Prop := claimScalarResultLands ∧ claimScalarWaitsForEmpty ∧ claimScalarRegisterFile

/-! ## Scalar control -/

/-- R121: where a branch or jump goes, and what it links; a target outside the scalar section or misaligned raises `FETCHF` at the branch; the words of each form; a word with condition code 6 or 7 raises `ILLOP` when it is issued. -/
def Obligations.ScalarBranchesAndJumps : Prop :=
  ∀ (s : State) (k : Nat) (w : Warp) (cc : SCond) (d a b : SReg) (o11 : BitVec 11) (o26 : BitVec 26) (o20 : BitVec 20) (i14 : BitVec 14),
    let pc := w.sc.pc
    let goes (i : Instr) (t : Warp) (target : W64) : Prop :=
      ((s.wg (wgOf k)).inScalar target = true → exec i s = .next (s.jumped k t target)) ∧
      ((s.wg (wgOf k)).inScalar target = false → exec i s = .next (s.raiseScalar k w cFETCHF 0))
    (s.issues k w .scalar → w.sc.ready [a, b] = true → SCond.holds cc (w.sr a) (w.sr b) = true →
      goes (.sbr cc a b o11) w (pc + 4#64 * o11.signExtend 64)) ∧
    (s.scalarReady k w [a, b] → SCond.holds cc (w.sr a) (w.sr b) = false → exec (.sbr cc a b o11) s = .next (s.fellThrough k w)) ∧
    (s.issues k w .scalar → goes (.sj o26) w (pc + 4#64 * o26.signExtend 64)) ∧
    (s.issues k w .scalar → w.sc.ready [d] = true → goes (.sjal d o20) (w.writeS d (pc + 4)) (pc + 4#64 * o20.signExtend 64)) ∧
    (s.issues k w .scalar → w.sc.ready [d, a] = true → goes (.sjr d a i14) (w.writeS d (pc + 4)) (w.sr a + 4#64 * i14.signExtend 64)) ∧
    encodeScalar (.sj o26) = some (0x19 * 2 ^ 26 + o26.toNat) ∧
    encodeScalar (.sjal d o20) = some (0x1A * 2 ^ 26 + d.toNat * 2 ^ 20 + o20.toNat) ∧
    encodeScalar (.sjr d a i14) = some (0x1B * 2 ^ 26 + d.toNat * 2 ^ 20 + a.toNat * 2 ^ 14 + i14.toNat) ∧
    (∀ x : Nat, x < 2 ^ 32 → x / 2 ^ 26 = 0x18 →
      (x / 2 ^ 23 % 8 < 6 → ∃ c : SCond, decodeTableWord 32 x = some (.sbr c (BitVec.ofNat 6 (x / 2 ^ 17)) (BitVec.ofNat 6 (x / 2 ^ 11)) (BitVec.ofNat 11 x))) ∧
      (6 ≤ x / 2 ^ 23 % 8 → decodeTableWord 32 x = none ∧
        (Tbl.find s.warps k = some w → (s.wg (wgOf k)).inScalar pc = true → leNat (s.scalarBytes (s.wg (wgOf k)) w) = x →
          s.issueOne k .scalar = .next (({ s with cur := some (k, .scalar) }).raiseScalar k w cILLOP 0))))

/-- R122 and R124: `LOOP` with a count of 0 skips the body and pushes nothing; else it pushes start, end and count, at most four deep and nested in the enclosing loop, or raises `LOOPF`; `LBRK` pops the top entry and goes behind its end. -/
def claimHardwareLoops : Prop :=
  ∀ (s : State) (k : Nat) (w : Warp) (a : SReg) (c64 : Bool) (off : BitVec 16),
    s.issues k w .scalar → w.handler = none →
    let pc := w.sc.pc
    let e := pc + 4#64 * off.setWidth 64
    let c : W64 := if c64 then w.sr a else (w.sr a &&& 0xFFFFFFFF#64)
    let inside (x : W64) : Prop := (s.wg (wgOf k)).inScalar x = true
    let nested : Prop := ∀ t ∈ w.sc.loops.head?, e.toNat ≤ t.endPc.toNat
    (w.sc.ready [a] = true → c = 0 → inside (e + 4) → exec (.loop a c64 off) s = .next (s.jumped k w (e + 4))) ∧
    (w.sc.ready [a] = true → c ≠ 0 → w.sc.loops.length ≠ 4 → nested → inside (pc + 4) →
      exec (.loop a c64 off) s =
        .next (s.jumped k { w with sc := { w.sc with loops := ⟨pc + 4, e, c⟩ :: w.sc.loops } } (pc + 4))) ∧
    (w.sc.ready [a] = true → c ≠ 0 → (w.sc.loops.length = 4 ∨ ¬ nested) →
      exec (.loop a c64 off) s = .next (s.raiseScalar k w cLOOPF 0)) ∧
    (∀ t r, w.sc.loops = t :: r → inside (t.endPc + 4) →
      exec .lbrk s = .next (s.jumped k { w with sc := { w.sc with loops := r } } (t.endPc + 4))) ∧
    (w.sc.loops = [] → exec .lbrk s = .next (s.raiseScalar k w cLOOPF 0)) ∧
    encodeScalar .lbrk = some (0x3F * 2 ^ 26 + 0x0A) ∧
    encodeScalar (.loop a c64 off) = some (0x1C * 2 ^ 26 + a.toNat * 2 ^ 20 + c64.toNat * 2 ^ 16 + off.toNat)

/-- R123: the check at the end of a loop body, entry by entry from the innermost: an entry not at its end leaves the fall-through alone, one with passes left goes back to its start with its count lowered, an exhausted one is popped and the enclosing entry tested. -/
def claimLoopEndCheck : Prop :=
  ∀ (pc : W64) (e : LoopEnt) (r : List LoopEnt),
    loopEnd pc [] = (pc + 4, []) ∧
    (pc ≠ e.endPc → loopEnd pc (e :: r) = (pc + 4, e :: r)) ∧
    (pc = e.endPc → e.count ≠ 1 → loopEnd pc (e :: r) = (e.start, { e with count := e.count - 1 } :: r)) ∧
    (pc = e.endPc → e.count = 1 → loopEnd pc (e :: r) = loopEnd pc r)

/-- R122 to R124: the hardware loops: what `LOOP` and `LBRK` do, and the check at the end of a body. -/
def Obligations.LoopInstructions : Prop := claimHardwareLoops ∧ claimLoopEndCheck

/-- R37, R39, R76, R126, R127 and R134 to R136: the lane link and the plain system instructions outside a handler. `LGO` queues a block with its snapshot of eight `x` registers, stalls on a full queue, and raises `ILLOP` for `sa` above 60 and `FETCHF` for a PC outside the lane section; `LARG` sets one of `x4` to `x7` for later blocks; `SPOP` takes the oldest entry of the return queue, waits for one that can still come, and else raises `RQEMPTY`; `SNOP` does nothing; `SYIELD` marks the warp to be passed over; `SSLEEP` keeps it from issuing for `min(sa, 2^32 - 1)` cycles; `SPERF` reads the counter that `sel` names and raises `ILLOP` for one above 8; `STIME` reads the device's time. -/
def Obligations.LaneLinkAndSystem : Prop :=
  ∀ (s : State) (k : Nat) (w : Warp) (a d : SReg) (n : BitVec 20) (x : BitVec 2) (v : W64) (q : List W64) (p : BitVec 12),
    w.handler = none →
    let passes (i : Instr) (u : Warp) : Prop := exec i s = .next (s.fellThrough k u)
    let snap : Vector W64 8 := #v[w.sr a, w.sr (a + 1), w.sr (a + 2), w.sr (a + 3), w.larg[0], w.larg[1], w.larg[2], w.larg[3]]
    let count : W64 := if p = 8 then BitVec.ofNat 64 (s.partition k) else if p = 4 then BitVec.ofNat 64 (w.csr.bouncecnt.toNat % 2 ^ 48) else w.csr.perf.toList.getD p.toNat 0
    (s.scalarReady k w [a, a + 1, a + 2, a + 3] → a.toNat ≤ 60 → (s.wg (wgOf k)).inLane n.toNat = true →
      (w.blocks.length < 16 → passes (.lgo a n) { w with blocks := w.blocks ++ [⟨n, snap, s.nextId⟩] }) ∧
      (16 ≤ w.blocks.length → exec (.lgo a n) s = .next (s.putWarp k { w with sc := { w.sc with wait := .lgo n snap } }))) ∧
    (s.issues k w .scalar → 60 < a.toNat → exec (.lgo a n) s = .next (s.raiseScalar k w cILLOP 0)) ∧
    (s.issues k w .scalar → w.sc.ready [a, a + 1, a + 2, a + 3] = true → a.toNat ≤ 60 → (s.wg (wgOf k)).inLane n.toNat = false →
      exec (.lgo a n) s = .next (s.raiseScalar k w cFETCHF 0)) ∧
    (s.scalarReady k w [a] → passes (.larg x a) { w with larg := w.larg.set x.toNat (w.sr a) }) ∧
    (s.scalarReady k w [d] →
      (w.rq = v :: q → passes (.spop d) ({ w with rq := q }.longS d v)) ∧
      (w.rq = [] → w.neverPushes = false → exec (.spop d) s = .next (s.putWarp k { w with sc := { w.sc.mark d with wait := .spop d } }))) ∧
    (s.issues k w .scalar → w.sc.ready [d] = true → w.rq = [] → w.blocks = [] → w.running = false → (∀ y ∈ w.flight, y.push = none) →
      exec (.spop d) s = .next (s.raiseScalar k w cRQEMPTY 0)) ∧
    (s.scalarReady k w [] → passes .snop w ∧ passes .syield { w with yielded := true }) ∧
    (s.scalarReady k w [a] →
      (w.sr a ≠ 0 → passes (.ssleep a) { w with sleep := s.cyc + 1 + min (w.sr a).toNat (2 ^ 32 - 1) }) ∧
      (w.sr a = 0 → passes (.ssleep a) w)) ∧
    (s.scalarReady k w [d] → (p.toNat ≤ 8 → passes (.sperf p d) (w.longS d count)) ∧ passes (.stime d) (w.longS d (BitVec.ofNat 64 s.ptp.now))) ∧
    (s.issues k w .scalar → w.sc.ready [d] = true → 8 < p.toNat → exec (.sperf p d) s = .next (s.raiseScalar k w cILLOP 0))

/-- The CSR numbers that R83 and the owning chapters assign. -/
def csrNumbers : List Nat :=
  [0x000, 0x001, 0x002, 0x003, 0x004, 0x005, 0x006, 0x010, 0x011, 0x012, 0x013, 0x014, 0x015, 0x016, 0x017, 0x018, 0x019, 0x01A, 0x01B,
    0x020, 0x021, 0x022, 0x023, 0x030, 0x031, 0x032, 0x033, 0x034, 0x040, 0x041, 0x050, 0x060, 0x070, 0x071, 0x072, 0x073, 0x200]

/-- The CSRs that user code may write at all. -/
def csrWritable : List Nat := [0x010, 0x011, 0x019, 0x023, 0x031, 0x050, 0x070, 0x071]

/-- R7, R47, R48, R63, R83, R125, R132 and R324: `SCSRR` of an assigned number reads the CSR into `sd` and `SCSRW` writes it; any other number raises `ILLOP`. The value read is that of the state that holds it. A write clears flags, and the sticky `SCOPEDN` and `COPYSTAT`, by ones; `LSEL` and SKIP take theirs, and `TRAPVEC` and `TRAPDELEG` outside a handler; every other CSR ignores it; a write to `VB` acts as `SETVB`: it first waits until every register is full, and then a value above NREG raises `REGRANGE` (R47, R48). -/
def Obligations.ControlAndStatusRegisters : Prop :=
  ∀ (s : State) (k : Nat) (w : Warp) (n : BitVec 12) (a d : SReg) (v : W64),
    let g := s.wg (wgOf k)
    let top := (w.sc.loops.drop w.sc.lsel.toNat).headD ⟨0, 0, 0⟩
    let reads (m : Nat) (v : W64) : Prop := s.csr k w m = some v
    (n.toNat ∈ csrNumbers →
      (s.scalarReady k w [d] → ∃ v : W64, reads n.toNat v ∧ exec (.scsrr n d) s = .next (s.fellThrough k (w.longS d v))) ∧
      (s.scalarReady k w [a] → n ≠ 0x010 → exec (.scsrw n a) s = .next (s.fellThrough k (w.writeCsr n.toNat (w.sr a))))) ∧
    (n.toNat ∉ csrNumbers → s.issues k w .scalar →
      (w.sc.ready [d] = true → exec (.scsrr n d) s = .next (s.raiseScalar k w cILLOP 0)) ∧
      (w.sc.ready [a] = true → exec (.scsrw n a) s = .next (s.raiseScalar k w cILLOP 0))) ∧
    (let b := (w.sr a).toNat % 1024
     (s.scalarReady k w [a] →
      (w.rg.allFull = true → b ≤ w.rg.nreg → exec (.scsrw 0x010 a) s = .next (s.fellThrough k { w with rg := { w.rg with vb := b } })) ∧
      (w.rg.allFull = false → exec (.scsrw 0x010 a) s = .next (s.putWarp k { w with sc := { w.sc with wait := .setvb b } }))) ∧
     (s.issues k w .scalar → w.sc.ready [a] = true → w.rg.allFull = true → w.rg.nreg < b → exec (.scsrw 0x010 a) s = .next (s.raiseScalar k w cREGRANGE 0))) ∧
    (reads 0x000 1 ∧ reads 0x001 (s.devid.setWidth 64) ∧
      reads 0x002 (BitVec.ofNat 64 (g.die % 4 * 2 ^ 14 + g.core % 64 * 2 ^ 8 + (s.core g.coreKey).row % 8 * 8 + (s.core g.coreKey).col % 8)) ∧
      reads 0x003 g.sbase ∧ reads 0x004 (BitVec.ofNat 64 g.slen) ∧ reads 0x005 g.lbase ∧ reads 0x006 (BitVec.ofNat 64 g.llen) ∧
      reads 0x010 w.rg.vbCsr ∧ reads 0x011 (w.fflags.setWidth 64) ∧ reads 0x012 (BitVec.ofNat 64 (w.dsbase.toNat / 1024 * 1024)) ∧
      reads 0x013 (BitVec.ofNat 64 w.dstack.length) ∧ reads 0x017 (BitVec.ofNat 64 w.trap.skids) ∧ reads 0x018 (BitVec.ofNat 64 w.trap.skidl) ∧
      reads 0x020 (BitVec.ofNat 64 (s.cyc % 4096 / 64 * 4096 + s.cyc % 4096)) ∧ reads 0x023 (if w.csr.scopedn then 1 else 0) ∧
      reads 0x200 (BitVec.ofNat 64 ((if s.ptp.ever then 2 else 0) + if s.ptp.sync then 1 else 0)) ∧ reads 0x014 w.csr.pix ∧ reads 0x015 w.csr.latcnt ∧ reads 0x016 w.csr.bouncecnt ∧
      reads 0x019 w.trap.cause ∧ reads 0x01A w.trap.pc ∧ reads 0x01B w.trap.inst ∧ reads 0x021 (BitVec.ofNat 64 s.ptp.now) ∧ reads 0x022 (s.fab.bad ++ s.fab.late) ∧
      reads 0x030 (BitVec.ofNat 64 w.sc.loops.length) ∧ reads 0x031 (w.sc.lsel.setWidth 64) ∧ reads 0x032 top.start ∧ reads 0x033 top.endPc ∧ reads 0x034 top.count ∧
      reads 0x040 w.csr.raceaddr ∧ reads 0x041 w.csr.racepeer ∧ reads 0x050 (w.csr.copystat.setWidth 64) ∧ reads 0x060 w.csr.gridarg ∧
      reads 0x070 w.trap.vec ∧ reads 0x071 w.trap.deleg ∧ reads 0x072 w.trap.lpca ∧ reads 0x073 w.trap.lpcb) ∧
    w.writeCsr 0x011 v = { w with fflags := w.fflags &&& ~~~(v.setWidth 5) } ∧
    w.writeCsr 0x019 v = { w with trap := { w.trap with cause := (w.trap.cause &&& ~~~8192#64) ||| (v &&& 8192#64) } } ∧
    w.writeCsr 0x023 v = { w with csr := { w.csr with scopedn := w.csr.scopedn && !v.getLsbD 0 } } ∧
    w.writeCsr 0x031 v = { w with sc := { w.sc with lsel := v.setWidth 2 } } ∧
    w.writeCsr 0x050 v = { w with csr := { w.csr with copystat := w.csr.copystat &&& ~~~(v.setWidth 2) } } ∧
    (w.handler = none → w.writeCsr 0x070 v = { w with trap := { w.trap with vec := v &&& ~~~2#64 } } ∧
      (w.writeCsr 0x071 v = { w with trap := { w.trap with deleg := (w.writeCsr 0x071 v).trap.deleg } }) ∧
      (∀ c : Nat, (w.writeCsr 0x071 v).trap.deleg.getLsbD c = (v.getLsbD c && delegable c))) ∧
    (w.handler ≠ none → w.writeCsr 0x070 v = w ∧ w.writeCsr 0x071 v = w) ∧
    (n.toNat ∈ csrNumbers → n.toNat ∉ csrWritable → w.writeCsr n.toNat v = w)

/-- The joins of R40, R52, R53, R128 to R131 and R134: `LWAIT`, `SBAR`, `SBAR.c`, `STRIG`, `SLAUNCH` and `SHALT` hold the scalar stream until the warp's lane work has ended, and go on at once where it has. -/
def claimJoinsHoldTheStream : Prop :=
  ∀ (s : State) (k : Nat) (w : Warp) (b : BitVec 4) (d a : SReg), w.handler = none → s.joinReady k w = false →
    let holds (i : Instr) (j : Join) (c : Scalar) : Prop := exec i s = .next (s.putWarp k { w with sc := { c with wait := .join j } })
    (s.scalarReady k w [] → holds .lwait .lwait w.sc ∧ holds (.sbar b) (.sbar b.toNat) w.sc ∧ holds .sbarC (.sbar 16) w.sc ∧ holds .strig .strig w.sc) ∧
    (s.scalarReady k w [d, a] → s.scalarCheck k 0 (w.sr a) 64 false = 0 → holds (.slaunch d a) (.slaunch d a) (w.sc.mark d)) ∧
    (s.issues k w .scalar → exec .shalt s = .next (s.putWarp k { w with sc := { w.sc with wait := .join .shalt }, csr := bumpPerf w.csr 1 }))

/-- The joins once the warp's lane work has ended: `LWAIT` goes on, the later accesses of the stream ordered behind it; `SHALT` ends the warp, its loop stack gone (R34, R134); the others release at the scope of R52, R53 and R130 first. -/
def claimJoinsComplete : Prop :=
  ∀ (s : State) (k : Nat) (w : Warp) (b : BitVec 4) (d a : SReg), w.handler = none → s.joinReady k w = true →
    let release (i : Instr) (j : Join) (scope : Nat) : Prop := ∃ t r u, exec i s = .next t ∧ Tbl.find t.reqs s.nextId = some r ∧
      Tbl.find t.warps k = some u ∧ u.sc.wait = .release s.nextId j ∧ r.kind = .fence ∧ r.rel = 1 ∧ r.scope = scope ∧ r.warp = k ∧ t.mem = s.mem
    (s.scalarReady k w [] →
      (∃ t u, exec .lwait s = .next t ∧ Tbl.find t.warps k = some u ∧ u.sc.wait = .none ∧ u.joined = s.nextId ∧ u.sc.pc = w.sc.fall.pc ∧ u.sc.s = w.sc.s ∧ t.mem = s.mem) ∧
      release (.sbar b) (.sbar b.toNat) 0 ∧ release .sbarC (.sbar 16) 1 ∧
      (w.triggered = false → release .strig .strig 2)) ∧
    (s.scalarReady k w [d, a] → s.scalarCheck k 0 (w.sr a) 64 false = 0 → release (.slaunch d a) (.slaunch d a) 2) ∧
    (s.issues k w .scalar → ∃ t u, exec .shalt s = .next t ∧ Tbl.find t.warps k = some u ∧ u.exited = true ∧ u.halted = true ∧ u.sc.loops = [])

/-- R40, R52, R53, R128 to R131 and R134: the joins, while the warp has lane work and once it has ended. -/
def Obligations.Joins : Prop := claimJoinsHoldTheStream ∧ claimJoinsComplete

/-! ## Traps -/

/-- R133 and R319 to R324: `STRAP` outside a handler traps. The trap registers take cause, code and place, both slots freeze into `LPCA` and `LPCB`, no effect of the instruction is visible, every running sibling enters its skid window, which ends by itself after at most eight further cycles; the warp goes on at `TRAPVEC`.ADDR in handler mode with its loop stack, its wait and its place set aside where `TRAPDELEG` and `TRAPVEC`.EN select that, else the workgroup is left to firmware; its lane work stays where it is. -/
def Obligations.StrapTakesTheTrap : Prop :=
  ∀ (s : State) (k : Nat) (w : Warp) (code : BitVec 12), s.issues k w .scalar → w.handler = none → w.halt = .run →
    ∃ t u, exec (.strap code) s = .next t ∧ Tbl.find t.warps k = some u ∧
      u.trap.cause = BitVec.ofNat 64 (code.toNat * 2 ^ 32 + 0x20) ∧ u.trap.pc = w.sc.pc ∧
      u.trap.inst = (s.scalarInst (s.wg (wgOf k)) w).setWidth 64 ∧ u.trap.lpca = w.slotA.lpc ∧ u.trap.lpcb = w.slotB.lpc ∧
      u.sc.s = w.sc.s ∧ u.rg = w.rg ∧ t.mem = s.mem ∧
      (∀ j x, j ≠ k → wgOf j = wgOf k → Tbl.find s.warps j = some x → x.exited = false → x.halt = .run →
        ∃ stop, s.cyc < stop ∧ stop ≤ s.cyc + 9 ∧
          Tbl.find t.warps j = some { x with halt := .skid s.cyc stop, trap := { x.trap with skids := 0, skidl := 0 } }) ∧
      u.slotA = w.slotA ∧ u.slotB = w.slotB ∧ u.blocks = w.blocks ∧ u.rq = w.rq ∧
      (if w.trap.deleg.getLsbD 0x20 ∧ w.trap.vec.getLsbD 0 then
        u.handler = some ⟨w.sc.loops, w.sc.wait, w.sc.pc⟩ ∧ u.sc.pc = w.trap.vec &&& ~~~3#64 ∧ u.sc.loops = [] ∧ u.halt = .run ∧
          ∀ g, Tbl.find s.wgs (wgOf k) = some g → Tbl.find t.wgs (wgOf k) = some { g with trapper := some k }
      else u.handler = none ∧ u.halt = .stopped ∧
          ∀ g, Tbl.find s.wgs (wgOf k) = some g → Tbl.find t.wgs (wgOf k) = some { g with status := .halted, trapper := some k })

/-- R325 and R133: `SERET` in handler mode puts the set-aside state back and resumes: a trap of the scalar stream again at `TRAPPC`, or behind it with SKIP, one that interrupted no instruction where it stopped; every warp of the workgroup runs again where no sibling holds PEND. Outside handler mode it raises `ERETF`. -/
def claimSeretResumes : Prop :=
  ∀ (s : State) (k : Nat) (w : Warp) (a : SetAside), s.issues k w .scalar →
    (w.handler = none → exec .seret s = .next (s.raiseScalar k w cERETF 0)) ∧
    (w.handler = some a → s.returnsInside k w = true → (s.barrier (wgOf k) 16).arrived = [] →
      (∀ j x, wgOf j = wgOf k → (j, x) ∈ s.warps → trapPend x.trap.cause = false) →
      ∃ t u, exec .seret s = .next t ∧ Tbl.find t.warps k = some u ∧ u.handler = none ∧ u.halt = .run ∧ u.rq = w.rq ∧ u.blocks = w.blocks ∧ u.sc.loops = a.loops ∧
        u.sc.s = w.sc.s ∧ t.mem = s.mem ∧
        (∀ j x, wgOf j = wgOf k → Tbl.find t.warps j = some x → x.halt = .run) ∧
        (trapSrc w.trap.cause = 0 → u.slotA = w.slotA ∧ u.slotB = w.slotB ∧ u.sc.pc = if w.trap.cause.getLsbD 13 then w.trap.pc + 4 else w.trap.pc) ∧
        (trapSrc w.trap.cause = 3 → u.slotA = w.slotA ∧ u.slotB = w.slotB ∧ u.sc.pc = a.pc ∧ u.sc.wait = a.wait))

/-- R324: in handler mode every scalar instruction outside the list of that rule raises `ILLOP`. -/
def claimHandlerModeForbids : Prop :=
  ∀ (s : State) (k : Nat) (w : Warp) (h : SetAside) (a d : SReg) (n : BitVec 20) (x : BitVec 2) (c64 : Bool) (o : BitVec 16) (b : BitVec 4) (c : BitVec 12),
    s.issues k w .scalar → w.handler = some h → w.sc.empty = 0 →
    ∀ i ∈ [Instr.lgo a n, .larg x a, .lwait, .spop d, .sbar b, .sbarC, .slaunch d a, .strig, .strap c, .syield, .ssleep a, .shalt, .sperf c d, .stime d,
      .loop a c64 o, .lbrk], exec i s = .next (s.raiseScalar k w cILLOP 0)

/-- R324 and R325: what a handler may not issue, and how it returns. -/
def Obligations.HandlerMode : Prop := claimSeretResumes ∧ claimHandlerModeForbids

/-- R319 to R321 and R324, said once of every precise trap of a running warp: which registers it writes, that it writes no memory, and that a trap in handler mode, or one not delegated, leaves the workgroup to firmware. -/
def claimTrapRegisters : Prop :=
  ∀ (s : State) (k src code info : Nat) (pc : W64) (inst : W32) (w : Warp),
    Tbl.find s.warps k = some w → w.halt = .run → code < 256 → src < 4 →
    ∃ u, Tbl.find (s.raise k src code info pc inst).warps k = some u ∧
      u.trap.cause = causeWord info src false code ∧ trapCode u.trap.cause = code ∧ trapSrc u.trap.cause = src ∧ trapPend u.trap.cause = false ∧ trapSkip u.trap.cause = false ∧
      u.trap.pc = pc ∧ u.trap.inst = inst.setWidth 64 ∧ u.trap.vec = w.trap.vec ∧ u.trap.deleg = w.trap.deleg ∧
      u.sc.s = w.sc.s ∧ u.rg = w.rg ∧ u.fflags = w.fflags ∧
      (s.raise k src code info pc inst).mem = s.mem ∧ (s.raise k src code info pc inst).reqs = s.reqs ∧
      ((w.handler = none ∧ w.delegates code = true) → u.handler = some w.setAside ∧ u.halt = .run ∧
        ∀ g, Tbl.find s.wgs (wgOf k) = some g → Tbl.find (s.raise k src code info pc inst).wgs (wgOf k) = some { g with trapper := some k }) ∧
      ((w.handler ≠ none ∨ w.delegates code = false) → u.handler = w.handler ∧ u.halt = .stopped ∧
        ∀ g, Tbl.find s.wgs (wgOf k) = some g → Tbl.find (s.raise k src code info pc inst).wgs (wgOf k) = some { g with status := .halted, trapper := some k })

/-- R322: a trap of a warp inside its skid window records PEND and stops the warp, and no halt is sent again; but where the halt came in this very cycle from a higher-numbered warp, that warp becomes the PEND sibling and this trap is the one that is taken. -/
def claimTrapInsideSkidWindow : Prop :=
  ∀ (s : State) (k src code info since stop : Nat) (pc : W64) (inst : W32) (w : Warp), Tbl.find s.warps k = some w → w.halt = .skid since stop →
    let first : Prop := since = s.cyc ∧ ∃ j, (s.wg (wgOf k)).trapper = some j ∧ k < j
    (¬ first → s.raise k src code info pc inst = s.putWarp k (w.stop (causeWord info src true code) pc inst)) ∧
    trapPend (causeWord info src true code) = true ∧
    (∀ (j : Nat) (x g), since = s.cyc → (s.wg (wgOf k)).trapper = some j → k < j → wgOf j = wgOf k → Tbl.find s.warps j = some x →
      Tbl.find s.wgs (wgOf k) = some g →
      ∃ t u v, s.raise k src code info pc inst = t ∧ Tbl.find t.warps k = some u ∧ Tbl.find t.warps j = some v ∧
        u.trap.cause = causeWord info src false code ∧ v.halt = .stopped ∧ v.handler = none ∧ trapPend v.trap.cause = true ∧
        (t.wg (wgOf k)).trapper = some k)

/-- R319 to R324: every precise trap, of a running warp and of one in its skid window. -/
def Obligations.TrapEntry : Prop := claimTrapRegisters ∧ claimTrapInsideSkidWindow

/-- A scalar word that decodes to nothing raises `ILLOP` when it is issued, and so does a lane instruction, its INFO naming the lanes active under its guard (R94, R115); a place outside the stream's section raises `FETCHF` instead (R76). -/
def Obligations.UndecodedWordsAreIllegal : Prop :=
  ∀ (s : State) (k : Nat) (w : Warp) (st : Stream), Tbl.find s.warps k = some w →
    let t : State := { s with cur := some (k, st) }
    let g := s.wg (wgOf k)
    let h := hdrAt (leNat (s.laneBytes g (w.slot st).pc.toNat))
    let active : LaneMask := (w.slot st).mask &&& LaneMask.mk fun l =>
      let p (x : Guard) : Bool := w.rg.p[x.idx.toNat].getLsbD l.val ^^ x.neg
      if h.gc then p h.ga || p h.gb else p h.ga && p h.gb
    (st = .scalar → g.inScalar w.sc.pc = true → decodeScalar (leNat (s.scalarBytes g w)) = none → s.issueOne k st = .next (t.raiseScalar k w cILLOP 0)) ∧
    (st = .scalar → g.inScalar w.sc.pc = false → s.issueOne k st = .next (t.raiseScalar k w cFETCHF 0)) ∧
    (st ≠ .scalar → g.inLane (w.slot st).pc.toNat = true → decodeLane (leNat (s.laneBytes g (w.slot st).pc.toNat)) = none →
      s.issueOne k st = .next (t.raiseLane k w st cILLOP active.toNat)) ∧
    (st ≠ .scalar → g.inLane (w.slot st).pc.toNat = false → s.issueOne k st = .next (t.raiseLane k w st cFETCHF active.toNat))

/-! ## Scalar memory -/

/-- R119 and R120, in the order of the checks: a misaligned access raises `ALIGNF`, a global address beyond 57 bits `ADDRF`, a scratchpad access beyond the workgroup's size `SPRANGE`, a store to a page that the translation at hand does not let be written `PROTF`. -/
def Obligations.ScalarAccessChecks : Prop :=
  ∀ (s : State) (k : Nat) (w : Warp) (sz : SSize) (d a b : SReg) (off : BitVec 11) (op : AmoOp) (ord : MemOrder),
    s.issues k w .scalar → w.sc.ready [d, a, b] = true →
    let ea := w.sr a + off.signExtend 64
    let n := ssizeBytes sz
    let g := s.wg (wgOf k)
    let traps (i : Instr) (c : Nat) : Prop := exec i s = .next (s.raiseScalar k w c 0)
    (ea.toNat % n ≠ 0 → traps (.sld sz d a off) cALIGNF ∧ traps (.sst sz d a off) cALIGNF ∧ traps (.sldPad sz d a off) cALIGNF ∧ traps (.sstPad sz d a off) cALIGNF) ∧
    (ea.toNat % n = 0 → canonical ea = false → traps (.sld sz d a off) cADDRF ∧ traps (.sst sz d a off) cADDRF) ∧
    (ea.toNat % n = 0 → g.padSize < ea.toNat + n → traps (.sldPad sz d a off) cSPRANGE ∧ traps (.sstPad sz d a off) cSPRANGE) ∧
    (ea.toNat % n = 0 → canonical ea = true → s.xlate g.coreKey g.fn g.proc ea.toNat true = .refused → traps (.sst sz d a off) cPROTF) ∧
    ((w.sr a).toNat % 4 ≠ 0 → traps (.samo op false ord false d a b) cALIGNF) ∧
    ((w.sr a).toNat % 4 = 0 → canonical (w.sr a) = false → traps (.samo op false ord false d a b) cADDRF)

/-- The one access of a scalar memory instruction. -/
def scalarAccessOf (ea : W64) (n data cmp bmask : Nat) : Access := ⟨32, ea.toNat, 0, n, data, cmp, bmask⟩

/-- R119 and R120: a scalar access that passes its checks, a store or atomic to a page that is not a Cinnabar page, makes one request, of the address `sa` + offset and the size's bytes: a load marks `sd` empty and names it, a store carries the low bytes of `sd`, an atomic its operand, its comparand `sd` as it stood, its order and its scope; the stream falls through. -/
def claimScalarMemoryRequests : Prop :=
  ∀ (s : State) (k : Nat) (w : Warp) (sz : SSize) (d a b : SReg) (off : BitVec 11) (op : AmoOp) (wide : Bool) (ord : MemOrder) (sys down : Bool) (scope : Nat),
    s.scalarReady k w [d, a, b] → s.memBlocked k .scalar 0 w.joined = false →
    let g := s.wg (wgOf k)
    let ea := w.sr a + off.signExtend 64
    let n := ssizeBytes sz
    let sends (i : Instr) (u : Warp) (r : Req) (x : Access) : Prop := exec i s = .next (((s.putWarp k u).request r [x]).onWarp k Warp.fallS)
    let marked := { w with sc := w.sc.mark d }
    (s.scalarCheck k 0 ea n false = 0 →
      sends (.sld sz d a off) marked { s.scalarReq k w .load 0 with ext := ssizeCode sz, sd := some d, gang := s.onCinnabar g.fn g.proc ea.toNat } (scalarAccessOf ea n 0 0 0)) ∧
    (ea.toNat % n = 0 → ea.toNat + n ≤ g.padSize →
      sends (.sldPad sz d a off) marked { s.scalarReq k w .load 1 with ext := ssizeCode sz, sd := some d } (scalarAccessOf ea n 0 0 0) ∧
      sends (.sstPad sz d a off) w (s.scalarReq k w .store 1) (scalarAccessOf ea n ((w.sr d).toNat % 2 ^ (8 * n)) 0 (2 ^ n - 1))) ∧
    (s.scalarCheck k 0 ea n true = 0 → s.onCinnabar g.fn g.proc ea.toNat = false →
      sends (.sst sz d a off) w (s.scalarReq k w .store 0) (scalarAccessOf ea n ((w.sr d).toNat % 2 ^ (8 * n)) 0 (2 ^ n - 1))) ∧
    (s.scopePolicy g.fn (if sys then 4 else 2) = some (scope, down) → s.scalarCheck k 0 (w.sr a) (if wide then 8 else 4) true = 0 →
      s.onCinnabar g.fn g.proc (w.sr a).toNat = false →
      sends (.samo op wide ord sys d a b) (marked.downgraded down)
        { s.scalarReq k w .atom 0 with
          op := some op
          ext := if wide then 6 else 4
          sd := some d
          scope := scope
          ord := ordCode ord
          rel := if ordRel (ordCode ord) then 1 else 0
          acq := ordAcq (ordCode ord) }
        (scalarAccessOf (w.sr a) (if wide then 8 else 4) (w.sr b).toNat (w.sr d).toNat (2 ^ (if wide then 8 else 4) - 1)))

/-- R119 and R186, to the bytes: with no request outstanding, a scratchpad store writes the low bytes of `sd`, least significant first (R5), at `sa` + offset of the workgroup's scratchpad, every other byte of the scratchpad and all of memory unchanged. -/
def claimScratchpadStoreWrites : Prop :=
  ∀ (s : State) (k : Nat) (w : Warp) (g : Wg) (sz : SSize) (d a : SReg) (off : BitVec 11),
    s.scalarReady k w [d, a] → s.reqs = [] → Tbl.find s.wgs (wgOf k) = some g → g.status = .resident →
    let ea := w.sr a + off.signExtend 64
    let n := ssizeBytes sz
    ea.toNat % n = 0 → ea.toNat + n ≤ g.padSize → g.padSize < 2 ^ 64 →
    ∃ t x, exec (.sstPad sz d a off) s = .next t ∧ Tbl.find t.wgs (wgOf k) = some x ∧
      Memory.readN x.pad ea.toNat n = (w.sr d).toNat % 2 ^ (8 * n) ∧
      (∀ c, c < ea.toNat ∨ ea.toNat + n ≤ c → Memory.read x.pad c = Memory.read g.pad c) ∧ t.mem = s.mem

/-- R119, R120 and R212: the requests of the scalar loads, stores and atomics, and what a store to the scratchpad changes. -/
def Obligations.ScalarMemory : Prop := claimScalarMemoryRequests ∧ claimScratchpadStoreWrites

/-! ## Lane arithmetic -/

/-- A lane-wise instruction of warp `k` issues and leaves in flight the result that writes, in lane `l` of D, a word whose elements of width `n` are `f l e`, with the flags of all of them in the active lanes (R58, R63, R140, R141). -/
def leavesElements (s : State) (k : Nat) (w : Warp) (st : Stream) (i : Instr) (h : LaneHdr) (d : Opnd) (n : Nat) (f : Fin 32 → Nat → Nat × Flags) : Prop :=
  ∃ v : Fin 32 → W32 × Flags, exec i s = .next (s.flew k w st h (laneResult s w st (w.active st h) d v) 0) ∧
    ∀ l, (∀ e, e < 32 / n → elem n (v l).1 e = (f l e).1 % 2 ^ n) ∧ (v l).2 = (List.range (32 / n)).foldl (fun a e => a ||| (f l e).2) 0

/-- The same of one whole word and no flag. -/
def leavesWord (s : State) (k : Nat) (w : Warp) (st : Stream) (i : Instr) (h : LaneHdr) (d : Opnd) (f : Fin 32 → W32) : Prop :=
  exec i s = .next (s.flew k w st h (laneResult s w st (w.active st h) d fun l => (f l, 0)) 0)

/-- The same of a predicate. -/
def leavesPredicate (s : State) (k : Nat) (w : Warp) (st : Stream) (i : Instr) (h : LaneHdr) (d : Opnd) (f : Fin 32 → Bool) : Prop :=
  exec i s = .next (s.flew k w st h (predResult s st (w.active st h) d f) 0)

/-- R143 and R144: lane integer arithmetic, element by element on the exact values: wrapped, or clamped to the type's range with the saturate bit; minimum, maximum and absolute value; the high half of the product; and `ICMP` into a V or a P destination. -/
def claimLaneIntegerResults : Prop :=
  ∀ (s : State) (k : Nat) (w : Warp) (st : Stream) (l : LaneReg), s.laneReady k w st l.hdr (LaneReg.uses1 l) →
    let n := elemWidth l.ty
    let val (o : Opnd) (i : Fin 32) (e : Nat) : Int := intVal l.ty (elem n (s.rd k w st o 0)[i] e)
    let gives (i : Instr) (sat : Bool) (f : Int → Int → Int → Int) : Prop :=
      leavesElements s k w st i l.hdr l.d n fun j e => (fitTy l.ty sat (f (val l.a j e) (val l.b j e) (val l.c j e)), 0)
    gives (.iadd l) l.sat (fun a b _ => a + b) ∧ gives (.isub l) l.sat (fun a b _ => a - b) ∧ gives (.imul l) l.sat (fun a b _ => a * b) ∧
    gives (.imad l) l.sat (fun a b c => a * b + c) ∧ gives (.imulh l) false (fun a b _ => a * b / 2 ^ n) ∧
    gives (.imin l) false (fun a b _ => if a ≤ b then a else b) ∧ gives (.imax l) false (fun a b _ => if a ≤ b then b else a) ∧
    gives (.iabs l) l.sat (fun a _ _ => if a < 0 then -a else a) ∧
    (l.d.isP = false → leavesElements s k w st (.icmp l) l.hdr l.d n fun j e =>
      (if condHolds l.low (val l.a j e - val l.b j e) then 2 ^ n - 1 else 0, 0)) ∧
    (l.d.isP = true → leavesPredicate s k w st (.icmp l) l.hdr l.d fun j =>
      condHolds l.low (intVal l.ty (s.rd k w st l.a 0)[j].toNat - intVal l.ty (s.rd k w st l.b 0)[j].toNat))

/-- R89 and R143 to R146: the immediate forms, on `i32`; shifts on `n32`. -/
def claimLaneImmediateResults : Prop :=
  ∀ (s : State) (k : Nat) (w : Warp) (st : Stream) (l : LaneImm), s.laneReady k w st l.hdr (LaneImm.uses l) →
    let A (i : Fin 32) : W32 := (s.rd k w st l.a 0)[i]
    let gives (i : Instr) (f : W32 → W32) : Prop := leavesWord s k w st i l.hdr l.d fun j => f (A j)
    gives (.iaddImm l) (fun a => a + l.imm) ∧ gives (.imulImm l) (fun a => a * l.imm) ∧
    gives (.iminImm l) (fun a => if a.toInt ≤ l.imm.toInt then a else l.imm) ∧ gives (.imaxImm l) (fun a => if a.toInt ≤ l.imm.toInt then l.imm else a) ∧
    gives (.landImm l) (fun a => a &&& l.imm) ∧ gives (.lorImm l) (fun a => a ||| l.imm) ∧ gives (.lxorImm l) (fun a => a ^^^ l.imm) ∧
    gives (.lshlImm l) (fun a => if l.imm.toNat < 32 then a <<< l.imm.toNat else 0) ∧
    gives (.lshrImm l) (fun a => if l.imm.toNat < 32 then a >>> l.imm.toNat else 0) ∧
    gives (.lsraImm l) (fun a => a.sshiftRight l.imm.toNat)

/-- R89 and R143 to R146: lane integer arithmetic on registers and on an immediate. -/
def Obligations.LaneIntegers : Prop := claimLaneIntegerResults ∧ claimLaneImmediateResults

/-- R145 to R148: lane logic, shifts by elements (a count of the width or more gives 0, or the sign), counts, reversal and bit fields. -/
def claimLaneLogicResults : Prop :=
  ∀ (s : State) (k : Nat) (w : Warp) (st : Stream) (l : LaneReg), s.laneReady k w st l.hdr (LaneReg.uses1 l) →
    let n := elemWidth l.ty
    let A (i : Fin 32) : W32 := (s.rd k w st l.a 0)[i]
    let B (i : Fin 32) : W32 := (s.rd k w st l.b 0)[i]
    let C (i : Fin 32) : W32 := (s.rd k w st l.c 0)[i]
    let E (i : Fin 32) : W32 := (s.rd k w st l.e 0)[i]
    let word (i : Instr) (f : Fin 32 → W32) : Prop := leavesWord s k w st i l.hdr l.d f
    let gives (i : Instr) (f : Nat → Nat → Nat) : Prop := leavesElements s k w st i l.hdr l.d n fun j e => (f (elem n (A j) e) (elem n (B j) e), 0)
    word (.land l) (fun j => A j &&& B j) ∧ word (.lor l) (fun j => A j ||| B j) ∧ word (.lxor l) (fun j => A j ^^^ B j) ∧
    gives (.lshl l) (fun a c => if c < n then a * 2 ^ c else 0) ∧ gives (.lshr l) (fun a c => if c < n then a / 2 ^ c else 0) ∧
    gives (.lsra l) (fun a c => if c < n then wrapN n (sextN n a / 2 ^ c) else if sextN n a < 0 then 2 ^ n - 1 else 0) ∧
    gives (.popc l) (fun a _ => ((List.range n).filter fun b => a.testBit b).length) ∧
    gives (.clz l) (fun a _ => if a = 0 then n else n - 1 - Nat.log2 a) ∧
    leavesElements s k w st (.brev l) l.hdr l.d n (fun j e => (brevN n (elem n (A j) e), 0)) ∧
    word (.bfe l) (fun j => bfeW (l.ty == 7) (A j) (B j) (C j)) ∧ word (.bfi l) (fun j => bfiW (A j) (B j) (C j) (E j))

/-- R147 and R148, bit by bit: `BREV` reverses the bits of an element; `BFE` takes the field of length C at offset B, cut at bit 31, zero- or sign-extended; `BFI` puts the low bits of B there and leaves every other bit of A. -/
def claimBitFieldBits : Prop :=
  (∀ n x b, x < 2 ^ n → b < n → (brevN n x).testBit b = x.testBit (n - 1 - b)) ∧
  (∀ (a o m : W32) (b : Nat), b < 32 →
    let off := o.toNat % 256
    let len := min (off + m.toNat % 256) 32 - off
    ((bfeW false a o m).getLsbD b = (decide (b < len) && a.getLsbD (off + b))) ∧
    (0 < len → (bfeW true a o m).getLsbD b = a.getLsbD (if b < len then off + b else off + len - 1)) ∧
    (∀ x : W32, (bfiW a x o m).getLsbD b = if off ≤ b ∧ b < off + len then x.getLsbD (b - off) else a.getLsbD b))

/-- R145 to R148: lane logic, shifts, counts and bit fields. -/
def Obligations.LaneLogicAndBits : Prop := claimLaneLogicResults ∧ claimBitFieldBits

/-- R149 to R152 and R61: float arithmetic, element by element of f32, f16 or bf16, each rounded once in the mode of MOD, with the flags of every element; the immediate forms round to nearest on f32. The sign of a sum of zeros is IEEE 754's, the model's choice (log 35). -/
def Obligations.LaneFloatResults : Prop :=
  ∀ (s : State) (k : Nat) (w : Warp) (st : Stream) (l : LaneReg) (m : LaneImm), floatTy l.ty = true →
    (s.laneReady k w st l.hdr (LaneReg.uses1 l) →
      let n := fltWidth l.ty
      let el (o : Opnd) (j : Fin 32) (e : Nat) : Nat := elem n (s.rd k w st o 0)[j] e
      let gives (i : Instr) (f : Nat → Nat → Nat → Nat × Flags) : Prop := leavesElements s k w st i l.hdr l.d n fun j e => f (el l.a j e) (el l.b j e) (el l.c j e)
      gives (.fadd l) (fun a b _ => fAdd l.ty l.rm l.sat a b) ∧ gives (.fsub l) (fun a b _ => fSub l.ty l.rm l.sat a b) ∧
      gives (.fmul l) (fun a b _ => fMul l.ty l.rm l.sat a b) ∧ gives (.ffma l) (fun a b c => fFma l.ty l.rm l.sat a b c) ∧
      gives (.fmin l) (fun a b _ => (fMinMax l.ty false a b, 0)) ∧ gives (.fmax l) (fun a b _ => (fMinMax l.ty true a b, 0)) ∧
      gives (.fclass l) (fun a _ _ => (fClass l.ty a, 0)) ∧ gives (.frnd l) (fun a _ _ => fRnd l.ty l.rm a) ∧
      (l.d.isP = false → gives (.fcmp l) (fun a b _ => (if fCmp l.ty l.low a b then 2 ^ n - 1 else 0, 0))) ∧
      (l.d.isP = true → leavesPredicate s k w st (.fcmp l) l.hdr l.d fun j => fCmp l.ty l.low (el l.a j 0) (el l.b j 0))) ∧
    (s.laneReady k w st m.hdr (LaneImm.uses m) →
      let gives (i : Instr) (f : Nat → Nat → Nat × Flags) : Prop :=
        leavesElements s k w st i m.hdr m.d 32 fun j _ => f (s.rd k w st m.a 0)[j].toNat m.imm.toNat
      gives (.faddImm m) (fAdd 0 0 false) ∧ gives (.fmulImm m) (fMul 0 0 false) ∧
      gives (.fminImm m) (fun a b => (fMinMax 0 false a b, 0)) ∧ gives (.fmaxImm m) (fun a b => (fMinMax 0 true a b, 0)))

/-- R60 and R61: a NaN operand gives the canonical NaN and raises no flag, whatever its payload or quiet bit; `FMIN` and `FMAX` return the other operand, and the canonical NaN when both are NaN. -/
def claimNaNOperands : Prop :=
  ∀ (t rm a b c : Nat) (sat : Bool), t ≤ 2 → a < 2 ^ fltWidth t → b < 2 ^ fltWidth t → c < 2 ^ fltWidth t →
    (fval t a = .nan ∨ fval t b = .nan → fAdd t rm sat a b = (canonNaN t, 0) ∧ fSub t rm sat a b = (canonNaN t, 0) ∧ fMul t rm sat a b = (canonNaN t, 0)) ∧
    (fval t a = .nan ∨ fval t b = .nan → fFma t rm sat a b c = (canonNaN t, 0)) ∧
    (∀ m, fval t a = .nan → fval t b ≠ .nan → fMinMax t m a b = b ∧ fMinMax t m b a = b) ∧
    (∀ m, fval t a = .nan → fval t b = .nan → fMinMax t m a b = canonNaN t) ∧
    (∀ cc, cc ≤ 13 → fval t a = .nan ∨ fval t b = .nan → fCmp t cc a b = decide (7 ≤ cc))

/-- R71 to R73 and R154 to R159: special functions, whose free choice within the allowed set is drawn lane by lane, and conversions. How the member of the allowed set is found is the model's reading (logs 6, 7, 8). -/
def Obligations.LaneConversionResults : Prop :=
  ∀ (s : State) (k : Nat) (w : Warp) (st : Stream) (l : LaneReg), s.laneReady k w st l.hdr (LaneReg.uses1 l) →
    let V (o : Opnd) (i : Fin 32) : W32 := (s.rd k w st o 0)[i]
    let special (i : Instr) (f : SFun) (rm : Nat) : Prop :=
      exec i s = .next (s.flew k w st l.hdr (laneResult s w st (w.active st l.hdr) l.d fun j =>
        packElems (fltWidth l.ty) fun e => f.eval l.ty rm (elem (fltWidth l.ty) (V l.a j) e) ((Config.freeBits (s.free + j.val)).toNat / 2 ^ (32 * e))) 32)
    let word (i : Instr) (f : Fin 32 → W32 × Flags) : Prop := exec i s = .next (s.flew k w st l.hdr (laneResult s w st (w.active st l.hdr) l.d f) 0)
    let conv (v : W32) (e : Nat) : Nat × Flags := cvtElem l.ty l.rm l.sat l.st (elem (tyBits l.st) v e)
    special (.rcp l) .rcp 0 ∧ special (.rsq l) .rsq 0 ∧ special (.sqrt l) .sqrt l.rm ∧ special (.exp2 l) .exp2 0 ∧ special (.log2 l) .log2 0 ∧
    special (.sin l) .sin 0 ∧ special (.cos l) .cos 0 ∧ special (.tanh l) .tanh 0 ∧
    word (.cvt l) (fun j => (placeTy l.ty (conv (V l.a j) 0).1, (conv (V l.a j) 0).2)) ∧
    word (.unpack l) (fun j => (placeTy l.ty (conv (V l.a j) l.wei).1, (conv (V l.a j) l.wei).2)) ∧
    word (.pack l) (fun j => packElems (tyBits l.ty) fun e => conv (if e = 0 then V l.a j else if e = 1 then V l.b j else if e = 2 then V l.c j else V l.e j) 0) ∧
    word (.bfpd l) (fun j =>
      let r := bfpDeq l.ty l.rm l.sat (l.wei + 2) ((V l.a j).toNat / 256 % 256) (sextN (l.wei + 2) ((V l.a j).toNat % 2 ^ (l.wei + 2)))
      (placeTy l.ty r.1, r.2)) ∧
    word (.bfpq l) (fun j =>
      let val (i : Fin 32) : FVal := fval l.st (elem (fltWidth l.st) (V l.a i) 0)
      let ex := bfpExp (l.wei + 2) l.rm ((w.active st l.hdr).lanes.map val)
      let m := bfpMant (l.wei + 2) l.rm ex (val j)
      (BitVec.ofNat 32 (ex * 256 + wrapN 8 m.1), m.2))

/-- R72: the special functions of zeros, infinities and NaN, in every format, with their flags, whatever the free candidate. -/
def claimSpecialFunctionEdges : Prop :=
  ∀ (t rm cand : Nat), t ≤ 2 →
    let pos := 0
    let neg := 2 ^ (fltWidth t - 1)
    let inf := infBits t false
    let ninf := infBits t true
    let one := oneBits t false
    let mone := oneBits t true
    let nan := (canonNaN t, flagNV)
    SFun.rcp.eval t rm ninf cand = (neg, 0) ∧ SFun.rcp.eval t rm inf cand = (pos, 0) ∧
    SFun.rcp.eval t rm neg cand = (ninf, flagDZ) ∧ SFun.rcp.eval t rm pos cand = (inf, flagDZ) ∧
    SFun.rsq.eval t rm ninf cand = nan ∧ SFun.rsq.eval t rm neg cand = (ninf, flagDZ) ∧ SFun.rsq.eval t rm pos cand = (inf, flagDZ) ∧ SFun.rsq.eval t rm inf cand = (pos, 0) ∧
    SFun.sqrt.eval t rm ninf cand = nan ∧ SFun.sqrt.eval t rm neg cand = (neg, 0) ∧ SFun.sqrt.eval t rm pos cand = (pos, 0) ∧ SFun.sqrt.eval t rm inf cand = (inf, 0) ∧
    SFun.exp2.eval t rm ninf cand = (pos, 0) ∧ SFun.exp2.eval t rm neg cand = (one, 0) ∧ SFun.exp2.eval t rm pos cand = (one, 0) ∧ SFun.exp2.eval t rm inf cand = (inf, 0) ∧
    SFun.log2.eval t rm ninf cand = nan ∧ SFun.log2.eval t rm neg cand = (ninf, flagDZ) ∧ SFun.log2.eval t rm pos cand = (ninf, flagDZ) ∧ SFun.log2.eval t rm inf cand = (inf, 0) ∧
    SFun.sin.eval t rm ninf cand = nan ∧ SFun.sin.eval t rm neg cand = (neg, 0) ∧ SFun.sin.eval t rm pos cand = (pos, 0) ∧ SFun.sin.eval t rm inf cand = nan ∧
    SFun.cos.eval t rm ninf cand = nan ∧ SFun.cos.eval t rm neg cand = (one, 0) ∧ SFun.cos.eval t rm pos cand = (one, 0) ∧ SFun.cos.eval t rm inf cand = nan ∧
    SFun.tanh.eval t rm ninf cand = (mone, 0) ∧ SFun.tanh.eval t rm neg cand = (neg, 0) ∧ SFun.tanh.eval t rm pos cand = (pos, 0) ∧ SFun.tanh.eval t rm inf cand = (one, 0) ∧
    (∀ (f : SFun) (a : Nat), fval t a = .nan → f.eval t rm a cand = (canonNaN t, 0))

/-- R60, R61 and R72: NaN operands, and the special functions of zeros, infinities and NaN. -/
def Obligations.FloatEdgeCases : Prop := claimNaNOperands ∧ claimSpecialFunctionEdges

/-- R160 to R165 and R48: moves to each kind of destination, the select, the predicate table, the warp-state reads, of which that of `FFLAGS` waits while an `MMA` of its slot stands in the matrix queue, and `SETVB` of a converged warp whose registers are all full; of a divergent one it raises `VBDIV`. -/
def Obligations.LaneMovesAndPredicates : Prop :=
  ∀ (s : State) (k : Nat) (w : Warp) (st : Stream) (l : LaneReg) (m : LaneImm) (j : Fin 32) (r : List (Fin 32)),
    (s.laneReady k w st l.hdr (LaneReg.uses1 l) →
      let V (o : Opnd) (i : Fin 32) : W32 := (s.rd k w st o 0)[i]
      let act := w.active st l.hdr
      (l.d.isV = true → leavesWord s k w st (.mov l) l.hdr l.d (V l.a)) ∧
      (l.d.isP = true → leavesPredicate s k w st (.mov l) l.hdr l.d fun i => V l.a i != 0) ∧
      (∀ n, l.d = .k n → act.lanes = j :: r →
        exec (.mov l) s = .next (s.flew k w st l.hdr { s.blankResult st 0 with ctrs := [(n.toNat, (V l.a j).setWidth 16)] } 0)) ∧
      leavesWord s k w st (.sel l) l.hdr l.d (fun i => if V l.c i = 0 then V l.b i else V l.a i) ∧
      leavesPredicate s k w st (.plop l) l.hdr l.d (fun i => l.mod.getLsbD (2 * (V l.a i).toNat + (V l.b i).toNat)) ∧
      ((l.low ≠ 0 ∨ s.flagsOwed k st = false) → leavesWord s k w st (.sprd l) l.hdr l.d (fun _ => s.sprdValue w st l.low)) ∧
      (l.low = 0 → s.flagsOwed k st = true → exec (.sprd l) s = .next s) ∧
      (w.slotB.st = .idle → w.dstack = [] → act ≠ 0 → w.rg.allFull = true → (V l.a 0).toNat ≤ w.rg.nreg →
        exec (.setvb l) s = .next ((s.putWarp k { w with rg := { w.rg with vb := (V l.a 0).toNat } }).passed k st l.hdr (w.slot st).pc s.cyc)) ∧
      ((w.slotB.st ≠ .idle ∨ w.dstack ≠ []) → exec (.setvb l) s = .next (s.raiseLane k w st cVBDIV act.toNat))) ∧
    (s.laneReady k w st m.hdr (LaneImm.uses m) →
      (m.d.isV = true → leavesWord s k w st (.movi m) m.hdr m.d fun _ => m.imm) ∧
      (m.d.isP = true → leavesPredicate s k w st (.movi m) m.hdr m.d fun _ => m.imm != 0) ∧
      (∀ n, m.d = .k n → w.active st m.hdr ≠ 0 →
        exec (.movi m) s = .next (s.flew k w st m.hdr { s.blankResult st 0 with ctrs := [(n.toNat, m.imm.setWidth 16)] } 0)))

/-- R49, R51, R63, R95, R141, R160, R203 and R217: the oldest lane result in flight, with nothing outstanding, lands: the active lanes of its registers and predicates take their values, `p0` ignores the write, a register overwritten whole is no longer poisoned, and every other lane, register and predicate keeps its own; a result whose outcome is lost writes none of these; a counter takes its value with the arrivals of the same cycle applied after it; registers marked empty become full and count one arrival each; the flags join `FFLAGS`, and what it pushes joins the return queue. A result that is not complete, and one of a warp switched out, stays in flight; of a `FUSE`, the operations are performed first, one by one (R179, R329). -/
def Obligations.LaneResultLands : Prop :=
  ∀ (s : State) (k : Nat) (w : Warp) (x : Result) (r : List Result), Tbl.find s.warps k = some w → w.flight = x :: r →
    (x.need = 0 → x.fusing = false → (s.wg (wgOf k)).status ≠ .out → ∃ t u, exec (.laneResultWrite k 0) s = .next t ∧ Tbl.find t.warps k = some u ∧
      (∀ (e : Nat) (v : Lanes), x.keep = false → x.regs = [(e, v)] →
        (∀ l : Fin 32, (u.rg.get e)[l] = if x.lanes.has l then v[l] else (w.rg.get e)[l]) ∧ (x.lanes = 0xFFFFFFFF#32 → u.rg.isPoison e = false)) ∧
      (∀ f, f ∉ x.regs.map (·.1) → u.rg.get f = w.rg.get f ∧ u.rg.isPoison f = w.rg.isPoison f ∧ u.rg.isEmpty f = w.rg.isEmpty f) ∧
      (∀ (n : Nat) (m : LaneMask), x.keep = false → x.preds = [(n, m)] → n < 16 →
        ∀ l : Nat, l < 32 → (u.rg.pr n).getLsbD l = if n = 0 then true else if x.lanes.getLsbD l then m.getLsbD l else (w.rg.pr n).getLsbD l) ∧
      (∀ n, n ∉ x.preds.map (·.1) → u.rg.pr n = w.rg.pr n) ∧
      (x.keep = true → (∀ f, u.rg.get f = w.rg.get f ∧ u.rg.isPoison f = w.rg.isPoison f) ∧ (∀ n, u.rg.pr n = w.rg.pr n)) ∧
      (∀ (c : Nat) (v : W16), x.fills = false → x.ctrs = [(c, v)] → c < 16 → u.rg.kr c = BitVec.ofNat 16 (min 0xFFFF (v.toNat + w.rg.arrs.count c))) ∧
      (∀ c, x.ctrs = [] → (x.fills = false ∨ x.kctr ≠ some c) → u.rg.kr c = w.rg.kr c) ∧
      (x.fills = true → (∀ e ∈ x.regs.map (·.1), e < 512 → u.rg.isEmpty e = false) ∧
        (∀ (c : Nat) (y : Nat × Lanes), x.kctr = some c → c < 16 → x.ctrs = [] → x.regs = [y] → u.rg.kr c = BitVec.ofNat 16 (min 0xFFFF ((w.rg.kr c).toNat + 1)))) ∧
      (x.fills = false → ∀ f, u.rg.isEmpty f = w.rg.isEmpty f) ∧
      u.fflags = w.fflags ||| x.flags ∧ u.rq = (match x.push with | some y => w.rq ++ [y] | none => w.rq) ∧
      u.sc = w.sc ∧ t.mem = s.mem ∧ (∀ e, e ≠ k → Tbl.find t.warps e = Tbl.find s.warps e)) ∧
    ((s.wg (wgOf k)).status = .out → exec (.laneResultWrite k 0) s = .next s) ∧
    (x.need ≠ 0 → x.fusing = false → ∃ t : State, exec (.laneResultWrite k 0) s = .next t ∧ t = { s with warps := t.warps } ∧ ∀ e, Tbl.find t.warps e = Tbl.find s.warps e) ∧
    (∀ f : FuseRun, x.fuse = some f → f.next < f.steps.length → (∀ y ∈ r, y.id ≠ x.id) → (s.wg (wgOf k)).status ≠ .out →
      exec (.laneResultWrite k 0) s = .next (s.putWarp k { w with flight := { x with fuse := some { f with next := f.next + 1 } } :: r }))

/-- R50, R94, R141 and R203: what comes before a lane instruction's own part, whatever that is: it does not issue while a result in flight holds it (R141); a register outside the warp's range raises `REGRANGE`, and then an empty register whose FE bit is set `EMPTYREG` (checks 2 and 3 of R94); it waits while any other register it names is empty (R50); a poisoned source raises `MEMERR` (R203). That `MEMERR` comes after the waits and before the instruction's own conditions is the model's choice (log 83). -/
def Obligations.LaneChecksInOrder : Prop :=
  ∀ (s : State) (k : Nat) (w : Warp) (st : Stream) (h : LaneHdr) (us : List Use) (f : Nat → Warp → Stream → Slot → LaneMask → LOut),
    s.issues k w st →
    let act := (w.active st h).toNat
    let outOfRange := ∃ u ∈ us, u.inRange w.rg = false
    let feEmpty := ∃ u ∈ us, u.fe = true ∧ ∃ e ∈ u.entries w.rg, w.rg.isEmpty e = true
    let held := w.interlocked st (w.slot st).mask h us = true
    let waits := ∃ u ∈ us, u.fe = false ∧ ∃ e ∈ u.entries w.rg, w.rg.isEmpty e = true
    let poisoned := ∃ u ∈ us, u.dst = false ∧ ∃ e ∈ u.entries w.rg, w.rg.isPoison e = true
    (held → laneIssue s h us f = .next s) ∧
    (¬ held → outOfRange → laneIssue s h us f = .next (s.raiseLane k w st cREGRANGE act)) ∧
    (¬ held → ¬ outOfRange → feEmpty → laneIssue s h us f = .next (s.raiseLane k w st cEMPTYREG act)) ∧
    (¬ held → ¬ outOfRange → ¬ feEmpty → waits → laneIssue s h us f = .next s) ∧
    (¬ held → ¬ outOfRange → ¬ feEmpty → ¬ waits → poisoned → laneIssue s h us f = .next (s.raiseLane k w st cMEMERR act))

/-! ## Cross-lane, fused and control -/

/-- A lane instruction that computes one value for the warp: into the active lanes of a V register, into a predicate, or pushed onto the return queue when it completes (R39, R171, R172). -/
def leavesValue (s : State) (k : Nat) (w : Warp) (st : Stream) (i : Instr) (l : LaneReg) (r : W32) (wide : W64) (f : Flags) : Prop :=
  let act := w.active st l.hdr
  let flies (x : Result) : Prop := exec i s = .next (s.flew k w st l.hdr { x with flags := f } 0)
  (l.d.isV = true → flies (laneResult s w st act l.d fun _ => (r, 0))) ∧
  (l.d.isP = true → flies (predResult s st act l.d fun _ => r != 0)) ∧
  (l.d = .none → w.bothHold = false → w.rqFull = false → flies { s.blankResult st act with push := some wide }) ∧
  (l.d = .none → w.bothHold = true → exec i s = .next (s.raiseLane k w st cRQDIV act.toNat))

/-- R167 to R175: `SHFL` reads the lane its mode names inside the segment, its own where that lane is outside the slot's mask or the segment; `VOTE` over the active lanes; `RED` by the tree of R172 and `SCAN` in lane order; `COMPRESS` gathers and `EXPAND` scatters the active lanes of a converged warp, and traps with `XLDIV` in any other. -/
def claimCrossLaneResults : Prop :=
  ∀ (s : State) (k : Nat) (w : Warp) (st : Stream) (l : LaneReg),
    let act := w.active st l.hdr
    let V (o : Opnd) (i : Fin 32) : W32 := (s.rd k w st o 0)[i]
    let op := modBits l.mod 2 0
    (s.laneReady k w st l.hdr (LaneReg.uses1 l) →
      leavesWord s k w st (.shfl l) l.hdr l.d (fun i =>
        let seg := 2 ^ modBits l.mod 4 2
        let base := i.val / seg * seg
        let b := (V l.b i).toNat % 32
        let from_ (ok : Bool) (j : Nat) : W32 := if ok && (w.slot st).mask.getLsbD j then (s.rd k w st l.a 0).toList.getD j 0 else V l.a i
        match modBits l.mod 1 0 with
        | 0 => from_ true (base + b % seg)
        | 1 => from_ (b ≤ i.val - base) (i.val - b)
        | 2 => from_ (i.val - base + b < seg) (i.val + b)
        | _ => from_ true (base + ((i.val - base) ^^^ b) % seg)) ∧
      (let y := LaneMask.mk fun i => act.has i && V l.a i != 0
       let r : W32 := match modBits l.mod 1 0 with
        | 0 => if y = act then 1 else 0
        | 1 => if y = 0 then 0 else 1
        | 2 => y
        | _ => if y = 0 ∨ y = act then 1 else 0
       leavesValue s k w st (.vote l) l r (r.setWidth 64) 0) ∧
      (let leaf := (List.finRange 32).map fun i => if act.has i then some (redIn l.ty (V l.a i)) else none
       let q := redTree l.ty op l.rm 5 leaf 0
       let r := redOut l.ty l.sat (q.1.getD (redEmpty l.ty op))
       leavesValue s k w st (.red l) l r (if l.ty = 7 then r.signExtend 64 else r.setWidth 64) q.2) ∧
      (let q := scanLanes l.ty op l.rm (modBits l.mod 3 3 == 1) (act.lanes.map fun i => (i.val, redIn l.ty (V l.a i))) (redEmpty l.ty op) 0
       exec (.scan l) s = .next (s.flew k w st l.hdr
        { laneResult s w st act l.d (fun i => (redOut l.ty l.sat (Tbl.getD q.1 i.val 0), 0)) with flags := q.2 } 0))) ∧
    (s.laneReady k w st l.hdr (countUses l) →
      let ns := act.lanes.map (·.val)
      let A (j : Nat) : W32 := (s.rd k w st l.a 0).toList.getD j 0
      let whole (i : Instr) (f : Nat → Option W32) : Prop :=
        (w.slotB.st = .idle → w.dstack = [] → exec i s = .next (s.flew k w st l.hdr { s.blankResult st 0xFFFFFFFF#32 with
          regs := (match w.rg.entry l.d 0 with
              | some e => [(e, Lanes.mk fun q => (f q.val).getD (if l.mod.getLsbD 0 then 0 else (w.rg.get e)[q]))] | none => []) ++
            (match w.rg.entry l.b 0 with | some e => [(e, Lanes.splat (BitVec.ofNat 32 ns.length))] | none => []) } 0)) ∧
        ((w.slotB.st ≠ .idle ∨ w.dstack ≠ []) → exec i s = .next (s.raiseLane k w st cXLDIV act.toNat))
      whole (.compress l) (fun q => ns[q]?.map A) ∧ whole (.expand l) (fun q => (ns.findIdx? (· == q)).map A))

/-- R172 and R173: an integer reduction is the exact sum, the minimum or the maximum of the active lanes' values, in any order; with no lane active it is the value of R173. -/
def claimIntegerReductions : Prop :=
  ∀ (t : Nat) (a : Fin 32 → Option Int), t = 7 ∨ t = 10 → (∀ i x, a i = some x → intMin t ≤ x ∧ x ≤ intMax t) →
    let leaf := (List.finRange 32).map a
    let xs := leaf.filterMap id
    let q (op : Nat) := (redTree t op 0 5 leaf 0).1.getD (redEmpty t op)
    (redTree t 0 0 5 leaf 0).2 = 0 ∧ q 0 = xs.sum ∧ q 1 = xs.foldl min (intMax t) ∧ q 2 = xs.foldl max (intMin t)

/-- R166 to R175: the cross-lane instructions, and the exactness of the integer reductions. That `RQDIV` is raised at once where both slots hold lanes, the return queue full or not, is the model's choice (log 70), and so is the value of a `RED` over one lane that holds a NaN (log 83). -/
def Obligations.CrossLane : Prop := claimCrossLaneResults ∧ claimIntegerReductions

/-- R176 to R179: `FUSEDEF` enters its chain and goes on behind the body, its body checked; `FUSE` of a chain not defined raises `FUSEUND`, else each active lane runs the body over its own registers and D takes entry 4. -/
def Obligations.FusedChains : Prop :=
  ∀ (s : State) (k : Nat) (w : Warp) (st : Stream) (l : LaneReg) (p : Nat),
    s.laneReady k w st l.hdr (LaneReg.uses1 l) →
    let g := s.wg (wgOf k)
    let chain := modBits l.mod 5 0
    let n := modBits l.mod 9 6 + 1
    let pc := (w.slot st).pc.toNat
    let act := w.active st l.hdr
    (g.inLane (pc + n + 1) = true → (∀ i, 1 ≤ i → i ≤ n → (s.bodyOp g (pc + i)).isSome = true) → Tbl.find s.wgs (wgOf k) = some g →
      ∃ t : State, exec (.fusedef l) s = .next (t.onWarp k fun u => u.passLane st l.hdr s.cyc (BitVec.ofNat 20 (pc + n + 1))) ∧
        Tbl.find t.wgs (wgOf k) = some { g with chains := Tbl.put g.chains chain pc } ∧ t.warps = (s.putWarp k w).warps ∧ t.mem = s.mem) ∧
    (Tbl.find g.chains chain = none → exec (.fuse l) s = .next (s.raiseLane k w st cFUSEUND act.toNat)) ∧
    (∀ d : LaneReg, Tbl.find g.chains chain = some p → decodeLaneBytes (s.laneBytes g p) = some (.fusedef d) →
      let m := modBits d.mod 9 6 + 1
      let body := (List.range m).filterMap fun i => s.bodyOp g (p + 1 + i)
      let V (o : Opnd) (i : Fin 32) : W32 := (s.rd k w st o 0)[i]
      let env (i : Fin 32) : ChainEnv := [V l.a i, V l.b i, V l.c i, V l.e i, V l.d i] ++ List.replicate 11 0
      let res := laneResult s w st act l.d fun i =>
        let q := runChain s k w st i body 0 (env i) 0
        (q.1.getD 4 0, q.2)
      exec (.fuse l) s = .next (s.flew k w st l.hdr { res with fuse := some (fuseRun s k w st act body env) } (32 * m)))

/-- R41 to R44, R180 to R183: `LNOP` does nothing; `LBR` with every lane taken goes to its target, with none falls through, and with some splits the slot: the taken lanes run in slot B where that is idle and slot A issued, both sides joining at JOIN under a recovery entry; `LJOIN` of the whole slot goes to its join, of part of it drops those lanes, and outside a divergence raises `LJOINF`; `LSTOP` of a converged warp ends the block, and raises `LSTOPDIV` in any other. -/
def Obligations.LaneControl : Prop :=
  ∀ (s : State) (k : Nat) (w : Warp) (st : Stream) (l : LaneReg) (b : LaneBr),
    let g := s.wg (wgOf k)
    let x := w.slot st
    let goes (i : Instr) (h : LaneHdr) (pc : Nat) : Prop := exec i s = .next ((s.putWarp k w).onWarp k fun u => u.passLane st h s.cyc (BitVec.ofNat 20 pc))
    (s.laneReady k w st l.hdr (LaneReg.uses1 l) →
      let act := w.active st l.hdr
      exec (.lnop l) s = .next (s.passed k st l.hdr x.pc s.cyc) ∧
      (act = x.mask → act ≠ 0 → x.join ≠ 0xFFFFFF#24 → g.inLane x.join.toNat = true → goes (.ljoin l) l.hdr x.join.toNat) ∧
      (act ≠ x.mask → act ≠ 0 → x.join ≠ 0xFFFFFF#24 →
        exec (.ljoin l) s = .next ((s.putWarp k (w.putSlot st { x with mask := x.mask &&& ~~~act })).passed k st l.hdr x.pc s.cyc)) ∧
      (act ≠ 0 → x.join = 0xFFFFFF#24 → exec (.ljoin l) s = .next (s.raiseLane k w st cLJOINF act.toNat)) ∧
      (act = 0 → exec (.ljoin l) s = .next (s.passed k st l.hdr x.pc s.cyc)) ∧
      (w.slotB.st = .idle → w.dstack = [] → w.slotA.mask = w.launch → x.mask = w.launch →
        exec (.lstop l) s = .next (s.putWarp k { w with running := false, slotA := { Slot.idle with until_ := s.cyc + 1 + l.hdr.spc.toNat }, yielded := w.yielded || l.hdr.yld, csr := bumpPerf w.csr 2 })) ∧
      ((w.slotB.st ≠ .idle ∨ w.dstack ≠ [] ∨ w.slotA.mask ≠ w.launch ∨ x.mask ≠ w.launch) → exec (.lstop l) s = .next (s.raiseLane k w st cLSTOPDIV act.toNat))) ∧
    (s.laneReady k w st b.hdr [] →
      let t := w.active st b.hdr
      let f := x.mask &&& ~~~t
      let j : BitVec 24 := b.join.setWidth 24
      g.inLane b.target.toNat = true → g.inLane b.join.toNat = true →
      (t = 0 → exec (.lbr b) s = .next (s.passed k st b.hdr x.pc s.cyc)) ∧
      (t ≠ 0 → f = 0 → goes (.lbr b) b.hdr b.target.toNat) ∧
      (t ≠ 0 → f ≠ 0 → st = .slotA → w.slotB.st = .idle → w.dstack.length < 64 →
        exec (.lbr b) s = .next ((s.putWarp k (({ w with
          slotA := { x with mask := f, join := j }
          slotB := ⟨.running, b.target, t, j, .none, w.slotB.until_, 0⟩
          dstack := ⟨true, x.join, j, x.mask⟩ :: w.dstack } : Warp).passLane st b.hdr s.cyc (x.pc + 1))).mirrorStack k)) ∧
      (t ≠ 0 → f ≠ 0 → (st ≠ .slotA ∨ w.slotB.st ≠ .idle) → w.dstack.length < 63 →
        exec (.lbr b) s = .next ((s.putWarp k (({ w.putSlot st { x with mask := f, join := j } with
          dstack := ⟨false, j, b.target.setWidth 24, t⟩ :: ⟨true, x.join, j, x.mask⟩ :: w.dstack } : Warp).passLane st b.hdr s.cyc (x.pc + 1))).mirrorStack k)) ∧
      (t ≠ 0 → f ≠ 0 → (64 ≤ w.dstack.length ∨ (63 ≤ w.dstack.length ∧ (st ≠ .slotA ∨ w.slotB.st ≠ .idle))) →
        exec (.lbr b) s = .next (s.raiseLane k w st cDIVOVF t.toNat)))

/-! ## Lane memory -/

/-- A memory instruction has issued: its destination registers empty where its result fills them, the result in flight and waiting for every request, the requests made, and the slot gone on, or held where `hold` says that a Cinnabar page holds a store or `ATOM`, or its lines a `CSTORE` (R206 to R209, R216, R245). -/
def memorySent (s : State) (k : Nat) (w : Warp) (st : Stream) (h : LaneHdr) (act : LaneMask) (res : Option Result) (r : Req) (as : List Access) (hold : Bool) : State :=
  let u := match res with
    | some x => if x.fills then { w with rg := w.rg.marked (x.regs.map (·.1)) } else w
    | none => w
  let t := match res with
    | some x => (s.putWarp k u).fly k { x with need := (s.plan r as).length }
    | none => s.putWarp k u
  let q := match res with | some _ => { r with result := s.nextId } | none => r
  if hold then (t.onWarp k fun u => u.holdLane st h s.cyc act (.held t.nextId)).request q as
  else (t.request q as).passed k st h (w.slot st).pc s.cyc

/-- R204 to R213 and R218: what the lane loads, stores, prefetches, multicast loads and atomics ask of memory, lane by lane at ea(l), once their checks pass and nothing orders them behind an earlier release, acquire or fence. That an access behind an earlier release, acquire or fence waits at issue is the model's reading (log 34), and that `LDMC` takes its mask from lane 0 the model's choice (log 75). -/
def Obligations.LaneMemoryRequests : Prop :=
  ∀ (s : State) (k : Nat) (w : Warp) (st : Stream) (l : LaneReg) (op : AmoOp) (scope : Nat) (down : Bool) (cores : List Nat),
    let g := s.wg (wgOf k)
    let x := w.slot st
    let act := w.active st l.hdr
    let n := grpRegs l.size
    let nb := if l.amode == 5 then 2 else 1
    let size := sizeBytes l.size
    let ea := s.ea k w st l
    let acc (f : Fin 32 → Nat) (c : Fin 32 → Nat) (bm : Nat) : List Access := act.lanes.map fun i => ⟨i.val, (ea i).toNat, 0, size, f i, c i, bm⟩
    let cin (as : List Access) : Bool := l.space == 0 && as.any fun a => s.onCinnabar g.fn g.proc a.va
    let far (as : List Access) : Bool := l.space == 0 && as.any fun a => s.onRemote g.fn g.proc a.va
    let u := w.downgraded down
    let reads := acc (fun _ => 0) (fun _ => 0) 0
    let writes := acc (fun i => laneValue (s.rds k w st l.c n) i % 2 ^ (8 * size)) (fun _ => 0) (2 ^ size - 1)
    let steps := acc (laneValue (s.rds k w st l.c n)) (laneValue (s.rds k w st l.e n)) (2 ^ size - 1)
    let dest (fills : Bool) (ctr : Option Nat) : Result := { s.blankResult st act with regs := w.destRegs l.d n, fills := fills, kctr := ctr, mem := true }
    let ctr : Option Nat := match l.c with | .k c => some c.toNat | _ => none
    act ≠ 0 → s.laneHeld k w st x = false →
    (s.scopePolicy g.fn l.scope = some (scope, down) →
      (s.laneReady k w st l.hdr (LaneReg.uses l n 1 nb 1 1) → s.laneCheck k l.space size false act ea = none →
        exec (.lda l) s = .next (memorySent s k u st l.hdr act (some (dest true ctr))
          ({ s.laneReq k w st x l.hdr .load l.space with ext := l.size, gang := cin reads }.ordered l.order scope false true) reads false) ∧
        (l.c = .none → exec (.ld l) s = .next (memorySent s k u st l.hdr act (some (dest (far reads) none))
          ({ s.laneReq k w st x l.hdr .load l.space with ext := l.size, gang := cin reads }.ordered l.order scope false true) reads false))) ∧
      (s.laneReady k w st l.hdr (LaneReg.uses l 1 1 nb n 1) → s.laneCheck k l.space size true act ea = none →
        exec (.st l) s = .next (memorySent s k u st l.hdr act none ({ s.laneReq k w st x l.hdr .store l.space with gang := cin writes }.ordered l.order scope true false) writes (cin writes))) ∧
      (s.laneReady k w st l.hdr (LaneReg.uses l n 1 nb n n) → s.laneCheck k l.space size true act ea = none →
        exec (.atom op l) s = .next (memorySent s k u st l.hdr act (if l.d.isNone then none else some (dest (far steps) none))
          ({ s.laneReq k w st x l.hdr .atom l.space with op := some op, ext := l.size, gang := cin steps }.ordered l.order scope true true) steps (cin steps)))) ∧
    (s.laneReady k w st l.hdr (LaneReg.uses l n 1 nb 1 1) → s.mcTargets (wgOf k) (s.rd k w st l.e 0)[0].toNat = some cores → s.laneCheck k 0 size false act ea = none →
      exec (.ldmc l) s = .next (memorySent s k w st l.hdr act (some (dest true ctr))
        { s.laneReq k w st x l.hdr .load 0 with
          ext := l.size
          targets := (g.coreKey :: cores).eraseDups
          gang := reads.any fun a => s.onCinnabar g.fn g.proc a.va } reads false)) ∧
    (s.laneReady k w st l.hdr (LaneReg.uses l 1 1 nb 1 1) →
      exec (.pref l) s = .next ((s.request (s.laneReq k w st x l.hdr .pref 0) ((act.lanes.filter fun i =>
        (ea i).toNat % 4 == 0 && canonical (ea i) && decide (s.xlate g.coreKey g.fn g.proc (ea i).toNat false ≠ .refused) && !s.onRemote g.fn g.proc (ea i).toNat).map
          fun i => ⟨i.val, (ea i).toNat, 0, 4, 0, 0, 0⟩)).passed k st l.hdr x.pc s.cyc))

/-- R214 to R216: `CREAD` reads one whole line with its version, `CSTORE` offers its lines with the versions of E, by a converged warp; a divergent one raises `XLDIV`. -/
def Obligations.VersionedLineAccesses : Prop :=
  ∀ (s : State) (k : Nat) (w : Warp) (st : Stream) (l : LaneReg) (scope : Nat) (down : Bool),
    let g := s.wg (wgOf k)
    let x := w.slot st
    let act := w.active st l.hdr
    let a := w.x64 l.a
    let n := l.amode + 1
    let line (i : Fin 32) : W64 := a + (s.rd k w st l.b 0)[i].setWidth 64
    let idx := (List.finRange 32).take n
    let whole : List Access := [⟨0, a.toNat, 0, 128, 0, 0, 0⟩]
    let bm := act.lanes.foldl (fun m i => m ||| 15 * 2 ^ (4 * i.val)) 0
    let lines : List Access := idx.map fun i =>
      ⟨i.val, (line i).toNat, 0, 128, (List.finRange 32).foldr (fun j t => (s.rd k w st l.c i.val)[j].toNat + 2 ^ 32 * t) 0, 0, bm⟩
    (s.laneReady k w st l.hdr (LaneReg.uses l 2 1 1 1 1) →
      (w.slotB.st ≠ .idle ∨ w.dstack ≠ [] → exec (.cread l) s = .next (s.raiseLane k w st cXLDIV act.toNat)) ∧
      (w.slotB.st = .idle → w.dstack = [] → s.scopePolicy g.fn l.scope = some (scope, down) → act ≠ 0 → s.laneHeld k w st x = false →
        s.laneCheck k 0 128 false act (fun _ => a) = none →
        exec (.cread l) s = .next (memorySent s k (w.downgraded down) st l.hdr act (some { s.blankResult st act with
          regs := w.destRegs l.d 2
          fills := true
          kctr := match l.c with | .k c => some c.toNat | _ => none
          mem := true }) ({ s.laneReq k w st x l.hdr .cread 0 with ext := 5, gang := s.onCinnabar g.fn g.proc a.toNat }.ordered l.order scope false true) whole false))) ∧
    (s.laneReady k w st l.hdr (LaneReg.uses l 1 1 1 n 1) →
      (w.slotB.st ≠ .idle ∨ w.dstack ≠ [] → exec (.cstore l) s = .next (s.raiseLane k w st cXLDIV act.toNat)) ∧
      (w.slotB.st = .idle → w.dstack = [] → s.scopePolicy g.fn l.scope = some (scope, down) → act ≠ 0 → s.laneHeld k w st x = false →
        s.laneCheck k 0 128 true (BitVec.ofNat 32 (2 ^ n - 1)) line = none →
        exec (.cstore l) s = .next (memorySent s k (w.downgraded down) st l.hdr act (some { s.blankResult st act with
          preds := match l.d with | .p p => [(p.toNat, 0)] | _ => []
          mem := true }) ({ s.laneReq k w st x l.hdr .cstore 0 with
            want := idx.map (fun (i : Fin 32) => (s.rd k w st l.e 0)[i].toNat % 65536)
            gang := lines.any fun a => s.onCinnabar g.fn g.proc a.va }.ordered l.order scope true true) lines true)))

/-- R210, R220 and R221: `WAITK` goes on once its counter has reached its count and else waits in its slot, and `WAITK_DONE` ends the wait then; `FENCE` holds its slot behind a fence in the issue sequence, and `QFENCE` behind the queues its mask names; each ends once what it waits for has, while the warp runs outside a handler. -/
def Obligations.SlotWaits : Prop :=
  ∀ (s : State) (k : Nat) (w : Warp) (st : Stream) (l : LaneImm) (r : LaneReg) (c : BitVec 4) (scope m n : Nat) (down : Bool) (q : Req),
    (s.laneReady k w st l.hdr (LaneImm.uses l) →
      (l.a = .k c → l.imm.toNat ≤ (w.rg.kr c.toNat).toNat → exec (.waitk l) s = .next (s.passed k st l.hdr (w.slot st).pc s.cyc)) ∧
      (l.a = .k c → l.imm.toNat < 65536 → (w.rg.kr c.toNat).toNat < l.imm.toNat →
        exec (.waitk l) s = .next (s.putWarp k (w.holdLane st l.hdr s.cyc (w.active st l.hdr) (.waitk c.toNat l.imm.toNat)))) ∧
      (l.imm.toNat < 16 → exec (.qfence l) s = .next (s.putWarp k (w.holdLane st l.hdr s.cyc (w.active st l.hdr) (.qfence l.imm.toNat s.nextId))))) ∧
    (s.laneReady k w st r.hdr (LaneReg.uses1 r) → s.scopePolicy (s.wg (wgOf k)).fn r.scope = some (scope, down) → s.laneHeld k w st (w.slot st) = false →
      exec (.fence r) s = .next ((s.putWarp k ((w.downgraded down).holdLane st r.hdr s.cyc (w.active st r.hdr) (.fence s.nextId))).fenceReq
        (s.laneReq k w st (w.slot st) r.hdr .fence 0) (ordRel r.order) (ordAcq r.order) scope)) ∧
    (Tbl.find s.warps k = some w → w.live = true → (w.slot st).wait = .waitk m n → n ≤ (w.rg.kr m).toNat → exec (.waitkDone k st) s = .next (s.passHeld k st)) ∧
    (Tbl.find s.warps k = some w → w.live = true → (w.slot st).wait = .qfence m n → s.qfenceReady k m n = true → exec (.qfenceDone k st) s = .next (s.passHeld k st)) ∧
    (Tbl.find s.warps k = some w → w.live = true → (w.slot st).wait = .fence n → Tbl.find s.reqs n = some q → q.relDone = true →
      exec (.fenceDone k st) s = .next (((if q.acq then s.acquire q.core q.scope else s).delReq n).passHeld k st))

/-! ## Matrix, copy and ring instructions, and the issue of the fabric group -/

/-- R271, R273, R276 and R277: `WLOAD` claims its bank and enters the matrix queue; `MMA` marks its accumulators empty and enters it with one row for each active lane, at the scratchpad offset B + A[l] · C; `AZERO`, `AREAD` and `AWRITE` enter it with what they will write: zeros, the accumulators converted, the sources converted. -/
def Obligations.MatrixInstructions : Prop :=
  ∀ (s : State) (k : Nat) (w : Warp) (st : Stream) (l : LaneReg) (b : Bank) (es : List Nat),
    let g := s.wg (wgOf k)
    let core := s.core g.coreKey
    let x := w.slot st
    let act := w.active st l.hdr
    let bank := modBits l.mod 3 3
    let pad := modBits l.mod 4 4 == 1
    let width := LaneReg.wei l + 2
    let a := (w.x64 l.a).toNat
    let row (i : Fin 32) : Nat := (w.x64 l.b).toNat % 2 ^ 32 + (s.rd k w st l.a 0)[i].toNat * ((w.x64 l.c).toNat % 2 ^ 32)
    let goes (i : Instr) (t : State) : Prop := exec i s = .next (t.passed k st l.hdr x.pc s.cyc)
    w.qfenced 2 = false →
    (s.laneReady k w st l.hdr (LaneReg.uses1 l) → s.bankMine (wgOf k) bank = true → s.memBlocked k st x.mask w.after = false → core.bank bank = b →
      Tbl.find s.wgs (wgOf k) = some g → g.coreKey < 240 →
      a % 128 = 0 → (if pad then a + (2048 + 8192 * width) ≤ g.padSize else a + (2048 + 8192 * width) ≤ 2 ^ 29) →
      ∃ t : State, exec (.wload l) s = .next (t.passed k st l.hdr x.pc s.cyc) ∧
        Tbl.find t.cores g.coreKey = some { core.putBank bank { b with claim := b.claim.orElse fun _ => some (wgOf k) } with
          matq := core.matq ++ [{ s.matOp k st x act .wload with bank := bank, width := width, addr := a, pad := pad }] } ∧
        t.warps = s.warps ∧ t.mem = s.mem ∧ bank ∈ (t.wg (wgOf k)).claims) ∧
    (s.laneReady k w st l.hdr (LaneReg.uses l 0 1 1 1 1) → Use.inRange w.rg ⟨l.d, 64 * (modBits l.mod 5 4 + 1), false, true⟩ = true →
      es = Use.entries w.rg ⟨l.d, 64 * (modBits l.mod 5 4 + 1), false, true⟩ → s.accWaits k w x.mask es = false → (∀ e : Nat, e ∈ es → w.rg.isPoison e = false) →
      s.bankReady (wgOf k) bank = true → s.memBlocked k st x.mask w.after = false → act ≠ 0 →
      (∀ i : Fin 32, act.has i = true → row i % 4 = 0 ∧ row i + (8 + 32 * width) ≤ g.padSize) →
      goes (.mma l) ((s.putWarp k { w with rg := w.rg.marked es }).enqueueMat g.coreKey
        { s.matOp k st x act .mma with bank := bank, width := width, rows := act.lanes.map fun i => (i.val, row i), accs := es })) ∧
    (act ≠ 0 →
      (s.laneReady k w st l.hdr (LaneReg.uses l l.accCount 1 1 1 1) →
        goes (.azero l) (s.queueMove k st x act .azero (Use.entries w.rg ⟨l.d, l.accCount, false, true⟩)
          { s.blankResult st act with regs := (Use.entries w.rg ⟨l.d, l.accCount, false, true⟩).map fun e => (e, Lanes.splat 0) })) ∧
      (s.laneReady k w st l.hdr (LaneReg.uses l (moveRegs l.ty width l.accCount) l.accCount 1 1 1) →
        let es := Use.entries w.rg ⟨l.d, moveRegs l.ty width l.accCount, false, true⟩
        let out (i : Fin 32) := areadLane l.ty width l.rm l.sat (laneOf (s.rds k w st l.a l.accCount) i)
        goes (.aread l) ((s.putWarp k { w with rg := w.rg.marked es }).queueMove k st x act .aread []
          { s.blankResult st act with regs := regsFrom es (fun i => (out i).1), flags := orFlags act (fun i => (out i).2), fills := true })) ∧
      (s.laneReady k w st l.hdr (LaneReg.uses l l.accCount (moveRegs l.ty width l.accCount) 1 1 1) →
        let es := Use.entries w.rg ⟨l.d, l.accCount, false, true⟩
        let src := s.rds k w st l.a (moveRegs l.ty width l.accCount)
        goes (.awrite l) (s.queueMove k st x act .awrite es
          { s.blankResult st act with regs := regsFrom es (fun i => awriteLane l.ty width l.accCount (laneOf src i)) })))

/-- R281 to R283, R289, R291 to R293: a copy whose records the core's cache holds, and whose checks pass, is accepted, alone or with a follow-on `MMA` that leaves its accumulators empty; `RCF` empties the record cache; `RINIT` writes the header and frees the slots; the ring waits hold their slot on the slot they claim; `RREL` leaves a release of the slot it names. The ring of a consumer that has no producer warp is that of the co-placed workgroup that has one (log 44). -/
def Obligations.CopyAndRingInstructions : Prop :=
  ∀ (s : State) (k : Nat) (w : Warp) (st : Stream) (l : LaneReg) (src dst : Shape),
    let g := s.wg (wgOf k)
    let x := w.slot st
    let a := w.x64 l.a
    let b := w.x64 l.b
    let h := a.toNat
    let r := s.ring (wgOf k) h
    let c := s.laneCopy k w x l src dst
    let s1 := (s.cacheRecord g.coreKey g.fn g.proc a.toNat src).cacheRecord g.coreKey g.fn g.proc b.toNat dst
    let f := followOf (w.x64 l.e).toNat
    s.laneReady k w st l.hdr (LaneReg.uses1 l) →
    (s.isProducer k = true → exec (.rcf l) s = .next ((s.onCore g.coreKey fun y => { y with records := [] }).passed k st l.hdr x.pc s.cyc)) ∧
    (s.memBlocked k st x.mask w.after = false → w.qfenced 1 = false → s.isProducer k = true → a.toNat % 64 = 0 → b.toNat % 64 = 0 → canonical a = true → canonical b = true →
      s.cached g.coreKey g.fn g.proc a.toNat = some src → s.cached g.coreKey g.fn g.proc b.toNat = some dst →
      (l.e = .none → shapesOk c.src c.dst c.sdisp c.ddisp c.transp c.red c.ty false = true → s1.extentFault c = 0 →
        exec (.cpy l) s = .next ((s1.acceptCopy g.coreKey c).passed k st l.hdr x.pc s.cyc)) ∧
      (∀ c1 : Copy, l.e ≠ .none → shapesOk c.src c.dst c.sdisp c.ddisp c.transp c.red c.ty true = true →
        s1.ringCopy w c (w.x64 l.e) = .ok c1 → s1.extentFault c1 = 0 →
        let t := Tbl.getD w.rings (w.x64 l.e).toNat (0, 0)
        exec (.cpy l) s = .next (((s1.putWarp k { w with rings := Tbl.put w.rings (w.x64 l.e).toNat (t.1, t.2 + c.bytes) }).acceptCopy g.coreKey c1).passed
          k st l.hdr x.pc s.cyc)) ∧
      (∀ (v : Warp) (es : List Nat), s.followFault (wgOf k) f = 0 → dst.space = 1 → shapesOk c.src c.dst c.sdisp c.ddisp c.transp c.red c.ty false = true →
        s1.extentFault c = 0 → s1.bankReady (wgOf k) f.bank = true → s1.consumer (wgOf k) f = some v → f.entries v.rg = some es →
        let row (i : Fin 32) : Nat := c.dst.at c.ddisp [0, 0, 0, 0, 0] + i.val * f.stride
        rowFault (lowLanes f.nrow) row (f.wa + 2) g.padSize = none →
        ∃ m : MatOp, m.kind = .mma ∧ m.id = s.nextId + 1 ∧ m.warp = warpKey (wgOf k) f.cw ∧ m.bank = f.bank ∧ m.width = f.wa + 2 ∧ m.accs = es ∧
          m.rows = (lowLanes f.nrow).lanes.map (fun i => (i.val, row i)) ∧
          exec (.cpym l) s = .next (((s1.onWarp (warpKey (wgOf k) f.cw) fun v => { v with rg := v.rg.marked es }).acceptCopy g.coreKey
            { c with follow := some m }).bump.passed k st l.hdr x.pc s.cyc))) ∧
    (s.memBlocked k st x.mask w.after = false → s.isProducer k = true →
      (let n := modBits l.mod 3 0 + 1
       let r : Ring := ⟨b.toNat, (w.x64 l.c).toNat, 0, 0, 0, 0, 0, 0, n, modBits l.mod 6 4, true⟩
       let top := h + 16 + 8 * n
       h < 2 ^ 20 → r.ok h g.padSize = true → ¬ (h < r.base + r.slots * r.size ∧ r.base < top) →
       exec (.rinit l) s = .next ((((List.range n).foldl (fun s i => s.putSync (wgOf k) h i ⟨0, 0, r.size, 0⟩) (s.putRing (wgOf k) h r)).padHeal (wgOf k) 1
          ((List.range (top - h)).map (h + ·))).passed k st l.hdr x.pc s.cyc)) ∧
      (let t := b.toNat % 2 ^ 24
       s.ringFault (wgOf k) a = 0 → t ≠ 0 → t ≤ r.size → g.inLane (x.pc.toNat + 1) = true →
       exec (.rwaitFree l) s = .next ((s.putWarp k (w.holdLane st l.hdr s.cyc (w.active st l.hdr)
         (.rwaitFree h r.pidx r.prnd t (w.destEntry l.d)))).tryRwaitFree k st))) ∧
    (let o := s.ringWg (wgOf k)
     let r := s.ring o h
     s.memBlocked k st x.mask w.after = false → s.ringFault o a = 0 → g.inLane (x.pc.toNat + 1) = true →
      (let n := advance r.cidx r.slots r.crnd
       exec (.rwaitFilled l) s = .next (((s.putRing o h { r with cidx := n.1, crnd := n.2 }).putWarp k
        (w.holdLane st l.hdr s.cyc (w.active st l.hdr) (.rwaitFilled h r.cidx r.crnd (w.destEntry l.d)))).tryRwaitFilled k st)) ∧
      (∀ i : Fin 32, x.mask.lanes.head? = some i →
        let slot := (s.rd k w st l.b 0)[i].toNat
        slot < r.slots → (s.sync o h slot).state = 3 →
        exec (.rrel l) s = .next ((s.fenceReq { s.laneReq k w st x l.hdr .fence 0 with want := [h, slot] } true false r.scope).passed k st l.hdr x.pc s.cyc)))

/-- R355 to R360: an instruction of group 0xC marks its destinations empty and joins the warp's fabric queue, in order, with the values its operands have now; one with a release part leaves that part in the issue sequence first. -/
def queuedFabric (s : State) (k : Nat) (w : Warp) (st : Stream) (l : LaneReg) (code scope : Nat) (us : List Use) (rel : Bool) (a b c : Nat) (hasC : Bool) (i : Instr) : Prop :=
  let ds := (us.filter fun u => u.dst).flatMap (Use.entries w.rg)
  ∃ (t : State) (v : Warp) (o : FabOp), exec i s = .next (t.passed k st l.hdr (w.slot st).pc s.cyc) ∧
    Tbl.find t.warps k = some v ∧ v.fabq = w.fabq ++ [o] ∧ v.rg = w.rg.marked ds ∧ v.sc = w.sc ∧ v.x = w.x ∧
    o.op = code ∧ o.a = BitVec.ofNat 128 a ∧ o.b = BitVec.ofNat 128 b ∧ o.c = BitVec.ofNat 128 c ∧ o.hasC = hasC ∧ o.scope = scope ∧ o.phase = 0 ∧
    o.mask = (w.slot st).mask ∧ o.dregs = ds ∧ o.fence = (if rel then s.nextId else 0) ∧ t.mem = s.mem

/-- R361 to R374: what each instruction of group 0xC gives to its operation. -/
def Obligations.FabricInstructions : Prop :=
  ∀ (s : State) (k : Nat) (w : Warp) (st : Stream) (l : LaneReg) (scope : Nat) (down : Bool),
    let x := w.slot st
    let A := (w.x64 l.a).toNat
    let B := (w.x64 l.b).toNat
    let C := (w.x64 l.c).toNat
    let hnd := s.handle k w st x l.a
    let q (code : Nat) (us : List Use) (rel : Bool) (a b c : Nat) (hasC : Bool) (mem : List FabAddr) (i : Instr) : Prop :=
      s.laneReady k w st l.hdr us → s.fabCheck k mem = 0 → queuedFabric s k w st l code scope us rel a b c hasC i
    let pad := modBits l.mod 5 5 == 1
    let n := fieldOf B 31 0
    s.scopePolicy (s.wg (wgOf k)).fn l.scope = some (scope, down) → s.memBlocked k st x.mask w.after = false → w.qfenced 3 = false →
    q 0 (LaneReg.uses1 l) false A B C true (if modBits l.mod 10 10 == 1 then []
      else [⟨false, w.x64 l.a, n, 128, true⟩, ⟨false, w.x64 l.c, 16, 16, true⟩]) (.bpost l) ∧
    q 1 (LaneReg.uses1 l) true A B C true [⟨false, w.x64 l.a, n, 1, false⟩] (.bsend l) ∧
    q 2 (LaneReg.uses1 l) true A B C true [⟨false, w.x64 l.b, C, 1, false⟩] (.amsend l) ∧
    q 8 [⟨l.d, 4, l.hdr.fe.getLsbD 4, true⟩, ⟨l.b, 4, l.hdr.fe.getLsbD 2, true⟩] false 0 0 0 false [] (.stopen l) ∧
    q 9 (LaneReg.uses l 1 (handleRegs l.a) 1 1 1) true hnd B C true [⟨pad, w.x64 l.b, C, 1, false⟩] (.stsend l) ∧
    (let n := if l.c.isNone then 4096 else C
     q 10 (LaneReg.uses l 2 (handleRegs l.a) 1 1 1) false hnd B n (!l.c.isNone) [⟨pad, w.x64 l.b, n, 1, true⟩] (.strecv l)) ∧
    q 11 (LaneReg.uses l 1 (handleRegs l.a) (handleRegs l.b) 1 1) true hnd (s.handle k w st x l.b) 0 false [] (.stxfer l) ∧
    q 12 (LaneReg.uses l 4 (handleRegs l.a) 1 1 1) false hnd 0 0 false [] (.stadopt l) ∧
    (let kib := fieldOf B 22 16
     let n := if kib == 0 then (match (s.endOf hnd true).bind fun e => e.bind with | some y => y.kib * 1024 | none => 0) else kib * 1024
     q 13 (LaneReg.uses l 1 (handleRegs l.a) 1 1 1) false hnd B C true (if w.x64 l.c == 0 then []
      else [⟨false, w.x64 l.c, n, 1, kib == 0⟩]) (.stbind l)) ∧
    q 14 (LaneReg.uses l 1 (handleRegs l.a) 1 1 1) false hnd 0 0 false [] (.stclose l) ∧
    q 15 (LaneReg.uses l 2 (handleRegs l.a) 1 1 1) false hnd 0 0 false [] (.stquery l)

/-! ## Events of warps, engines and workgroups -/

/-- What ends a warp's waits (R38, R39, R40, R47, R54, R134, R164, R292, R293, R358): a queued block starts in slot A with the launch mask; `LGO` goes on once the queue has room; `SPOP` takes what has been pushed; a join goes on once it holds, and a release once its part has ended; `SETVB` changes `VB` once every register is full; a ring wait goes on once the slot it named at issue stands in its round, and the header's round rises with a wrap; the sleep ends; a warp eligible for 128 cycles takes precedence; the operation at the head of the fabric queue goes on. -/
def Obligations.WarpWaitsEnd : Prop :=
  ∀ (s : State) (k : Nat) (w : Warp) (st : Stream), Tbl.find s.warps k = some w →
    let x := w.slot st
    let goes (i : Instr) (t : State) : Prop := exec i s = .next t
    (∀ (b : Block) (r : List Block), w.blocks = b :: r → w.running = false → w.handler = none → w.halt = .run →
      goes (.laneBlockStart k) (s.putWarp k { w with
        blocks := r
        running := true
        after := b.after
        x := b.x
        dstack := []
        slotA := ⟨.running, b.pc, w.launch, 0xFFFFFF#24, .none, w.slotA.until_, 0⟩
        slotB := { Slot.idle with until_ := w.slotB.until_ } })) ∧
    (∀ (pc : BitVec 20) (y : Vector W64 8), w.sc.wait = .lgo pc y → w.blocks.length < 16 →
      goes (.lgoUnstall k) ((s.putWarp k { w with blocks := w.blocks ++ [⟨pc, y, s.nextId⟩] }).passScalar k)) ∧
    (∀ (d : SReg) (v : W64) (r : List W64), w.sc.wait = .spop d → w.rq = v :: r →
      goes (.spopDone k) ((s.putWarp k { w with rq := r, sc := w.sc.put d v }).passScalar k)) ∧
    (w.sc.wait = .join .lwait → s.joinReady k w = true → goes (.lwaitDone k) ((s.putWarp k { w with joined := s.nextId }).passScalar k)) ∧
    (∀ (n : Nat) (j : Join) (q : Req), w.sc.wait = .release n j → Tbl.find s.reqs n = some q → q.rel = 3 → goes (.lwaitDone k) (s.afterRelease k n j)) ∧
    (∀ n : Nat, w.halt ≠ .stopped → w.sc.wait = .setvb n → w.rg.allFull = true → n ≤ w.rg.nreg → goes (.setvbDone k .scalar) ((s.putWarp k { w with rg := { w.rg with vb := n } }).passScalar k)) ∧
    (∀ n : Nat, w.live = true → st ≠ .scalar → x.wait = .setvb n → w.rg.allFull = true → n ≤ w.rg.nreg → (s.wg (wgOf k)).inLane (x.pc.toNat + 1) = true →
      goes (.setvbDone k st) ((s.putWarp k { w with rg := { w.rg with vb := n } }).passHeld k st)) ∧
    (∀ (h slot round t : Nat) (d : Option Nat), w.live = true → x.wait = .rwaitFree h slot round t d →
      let r := s.ring (wgOf k) h
      let a := advance slot r.slots r.prnd
      r.ok h (s.wg (wgOf k)).padSize = true → (s.sync (wgOf k) h slot).state = 0 → (s.sync (wgOf k) h slot).gen = round →
      goes (.rwaitFreeDone k st) ((((((s.putSync (wgOf k) h slot ⟨1, round, t, 0⟩).putRing (wgOf k) h { r with pidx := a.1, prnd := a.2 }).onWarp k
        fun w => { w with rings := Tbl.put w.rings h (slot, 0) }).acquire (s.wg (wgOf k)).coreKey r.scope).ringResult k st d slot).passHeld k st)) ∧
    (∀ (h slot round : Nat) (d : Option Nat), w.live = true → x.wait = .rwaitFilled h slot round d →
      let o := s.ringWg (wgOf k)
      let y := s.sync o h slot
      y.state = 2 → y.gen = (round + 1) % 256 →
      goes (.rwaitFilledDone k st)
        ((((s.putSync o h slot { y with state := 3 }).acquire (s.wg (wgOf k)).coreKey (s.ring o h).scope).ringResult k st d slot).passHeld k st)) ∧
    (w.sleep ≤ s.cyc → (s.wg (wgOf k)).status ≠ .out → goes (.sleepExpiry k) (s.putWarp k { w with sleep := 0 })) ∧
    (∀ t : Nat, w.elig = some t → t + 128 ≤ s.cyc → goes (.starvationPrecedence k) (s.putWarp k { w with urgent := true })) ∧
    (∀ o : FabOp, (s.wg (wgOf k)).status ≠ .out → w.msgs = [] → w.amWaiting = [] → w.fabHead = some o → o.wait = [] → s.fenceEnded o = true →
      goes (.fabricOpComplete k) (s.advanceOp k o))

/-- R272, R273, R275 and R197, R284, R285, R289: the matrix queue. A `WLOAD` starts once no earlier operation on its bank is left, after the weight store's refresh wait, and at the head of the queue brings its tile into the bank line by line, the width with it, and leaves the queue with the last line; an `MMA` starts once no earlier `WLOAD` on its bank is left; a move at the head writes its destinations. The copy at the head of its lane starts, moves its next elements when the turn is its lane's, round-robin in the order of the workgroups' numbers, and when all are performed hands its flags to the producer and its follow-on to the matrix queue; none of it in the safe state (R406). That elements move in ascending order is the model's choice (log 83). -/
def Obligations.EngineOperations : Prop :=
  ∀ (s : State) (core n g : Nat) (m : MatOp) (rest : List MatOp) (y : Copy),
    let c := s.core core
    let goes (i : Instr) (t : State) : Prop := exec i s = .next t
    s.off = false →
    (c.matFind n = some m → m.started = false →
      (m.kind = .wload → (∀ o ∈ c.matAhead n, (o.kind = .wload ∨ o.kind = .mma) → o.bank ≠ m.bank) →
        let t := s.refreshWait m
        goes (.wloadStart core n) ((s.putCore core { c with matq := c.matq.map fun o => if o.id == n then { o with started := true, res := t } else o }).onWarp m.warp
          fun w => { w with csr := { w.csr with latcnt := w.csr.latcnt + BitVec.ofNat 64 (t - s.cyc) } })) ∧
      (m.kind = .mma → (∀ o ∈ c.matAhead n, o.kind = .wload → o.bank ≠ m.bank) →
        goes (.mmaStart core n) (s.putCore core { c with matq := c.matq.map fun o => if o.id == n then { o with started := true } else o }))) ∧
    (c.matq = m :: rest →
      (m.kind = .wload → m.started = true → m.res ≤ s.cyc → core < 240 → s.tilePoisoned m = false → ((c.bank m.bank).poison = false ∨ m.done = 0) →
        let t := s.putCore core (c.putBank m.bank { c.bank m.bank with tile := (c.bank m.bank).tile.take m.done ++ s.tileLine m, width := m.width, poison := false })
        (m.done + 128 < tileBytes m.width →
          goes (.wloadDone core m.id) (t.onCore core fun c => { c with matq := c.matq.map fun o => if o.id == m.id then { o with done := o.done + 128 } else o })) ∧
        (m.done ≤ tileBytes m.width → tileBytes m.width ≤ m.done + 128 → goes (.wloadDone core m.id) (t.onCore core fun c => c.dropMat m.id))) ∧
      ((m.kind = .azero ∨ m.kind = .aread ∨ m.kind = .awrite) → ∀ (w : Warp) (r : Result), Tbl.find s.warps m.warp = some w → w.flight.find? (fun r => r.id == m.res) = some r →
        goes (.accumMoveDone core m.id) ((s.putCore core (c.dropMat m.id)).putWarp m.warp (w.land r)))) ∧
    (c.laneHead g = some y →
      (y.started = false → y.stopped = false → goes (.copyStart core g) (s.onCopy core y.id fun z => { z with started := true })) ∧
      (c.laneTurn = some g → goes (.copyBytesPerformed core g) ((s.onCore core fun z => { z with laneAt := g }).copyStep core y)) ∧
      (c.laneTurn = some g → y.started = true ∧ y.stopped = false ∧ y.wait = [] ∧ y.done < y.total ∧
        ∀ h : Nat, c.laneReady h = true → (c.laneAt < g → c.laneAt < h → g ≤ h) ∧ (g ≤ c.laneAt → h ≤ c.laneAt ∧ g ≤ h)) ∧
      (∀ k : Nat, y.warp = some k → y.started = true → y.stopped = false → y.total ≤ y.done →
        goes (.copyDone core g) (((s.onCore core fun z => { z with copies := z.copies.filter fun z => z.id != y.id }).onWarp k
          fun w => { w with fflags := w.fflags ||| y.flags }).followOn core y)))

/-- R73, R273, R269 and R294: at the head of the matrix queue an `MMA` takes its rows one by one, the device being up (R406): accumulator `j` of the row's lane takes the pass of that row, as the scratchpad holds it, over column `j` of the bank's tile, and every other lane keeps its value; the operation counts the row, and with the last one it leaves the queue and the accumulators no later operation fills are full. -/
def Obligations.MatrixMultiplyResult : Prop :=
  ∀ (s : State) (core : Nat) (m : MatOp) (rest : List MatOp) (w : Warp),
    let c := s.core core
    let b := c.bank m.bank
    let pad := (s.wg (wgOf m.warp)).pad
    ∀ (lane a : Nat) (more : List (Nat × Nat)),
    s.off = false → c.matq = m :: rest → m.kind = .mma → m.started = true → s.matPoison m b = false → Tbl.find s.warps m.warp = some w →
    core < 240 → m.accs.Nodup → m.rows.drop m.done = (lane, a) :: more →
    ∃ (t : State) (v : Warp), exec (.mmaDone core m.id) s = .next t ∧ Tbl.find t.warps m.warp = some v ∧ t.mem = s.mem ∧ v.sc = w.sc ∧ v.x = w.x ∧
      (∀ e : Nat, e ∉ m.accs → v.rg.get e = w.rg.get e) ∧
      (∀ (j e : Nat) (l : Fin 32), m.accs[j]? = some e →
        (l.val ≠ lane → (v.rg.get e)[l] = (w.rg.get e)[l]) ∧
        (l.val = lane → (v.rg.get e)[l] = BitVec.ofNat 32
            (mmaPass m.width b.width (w.rg.get e)[l].toNat (kBlocks m.width (Memory.readL pad a (rowBytes m.width)) b.width b.tile j)).1)) ∧
      (more ≠ [] → (t.core core).matq.head? = some { m with done := m.done + 1 }) ∧
      (more = [] → (t.core core).matq = rest.filter (fun o => o.id != m.id) ∧
        ∀ e ∈ m.accs, e ∉ (c.dropMat m.id).pendingAccs m.warp → v.rg.isEmpty e = false)

/-- R31, R34, R54, R311, R312, R319, R322, R323, R327 to R329: a workgroup starts in the state of R312; it retires once every warp has exited, none runs a handler and nothing is left to be performed; a deferred cause is taken, a halted sibling stops in any cycle after the halt's, firmware ends a halted workgroup once every sibling has stopped; a function held at its park threshold for 2 µs sends workgroups away; a workgroup that leaves is saved with its gang, and returns, when the die's arbitration has its turn, to a core that fits. Logs 52, 53 and 54 give what a switch-in drops, what retirement waits for and where a sibling stops: the model's readings. -/
def Obligations.WorkgroupLifetime : Prop :=
  ∀ (s : State) (g k core : Nat) (x : Wg) (w : Warp),
    let goes (i : Instr) (t : State) : Prop := exec i s = .next t
    (∀ (idx : Nat) (m : W32) (p q n l : Nat) (b : Bundle) (r : Grid),
      (s.core core).binds[idx]? = some (.workgroup g m p q n l) → Tbl.find s.wgs g = some x → x.status = .placed →
      (∀ y ∈ (s.core core).binds.take idx, y.overlaps (.workgroup g m p q n l) = false) →
      Tbl.find s.bundles x.bundle = some b → b.grid x.grid = some r →
      ∃ t : State, goes (.dispatchWorkgroup core idx) t ∧ Tbl.find t.wgs g = some { x with status := .resident } ∧ t.mem = s.mem ∧
        ∀ i slot : Nat, (Bind.workgroup g m p q n l).slots[i]? = some slot → ∃ v : Warp, Tbl.find t.warps (warpKey g i) = some v ∧
          v.sc.pc = x.sbase + BitVec.ofNat 64 r.entry ∧ v.sc.s = Vector.replicate 64 0 ∧ v.sc.empty = 0 ∧ v.sc.loops = [] ∧ v.rg.pool = [] ∧ v.rg.empty = 0 ∧
          v.rg.vb = x.nreg ∧ v.launch = LaneMask.mk (fun l => decide (32 * i + l.val < x.lanes)) ∧ v.csr.gridarg = r.garg ∧ v.fflags = 0 ∧ v.trap.cause = 0 ∧
          v.slotA = Slot.idle ∧ v.slotB = Slot.idle ∧ v.halt = .run ∧ v.exited = false ∧ v.wslot = slot) ∧
    (Tbl.find s.wgs g = some x → x.status = .resident → (∀ y ∈ s.warpsOf g, y.2.exited = true ∧ y.2.handler = none ∧ y.2.deferred = []) → s.owes g = false → s.lastBlocked g = false →
      goes (.workgroupRetire g) (((s.endWg g).retireHandler g false).retireInGrid g false)) ∧
    (∀ (d : Deferred) (r : List Deferred), Tbl.find s.warps k = some w → w.landKept.deferred = d :: r → w.landKept.halt ≠ .stopped → (s.wg (wgOf k)).status = .resident →
      goes (.deferredTrap k) ((s.putWarp k { w.landKept with deferred := r }).raise k 3 d.code (w.landKept.csr.pix.toNat / 2 ^ 60) d.pc d.inst)) ∧
    (∀ t stop : Nat, Tbl.find s.warps k = some w → w.halt = .skid t stop → t < s.cyc →
      goes (.skidStop k) (s.putWarp k (w.stop 0 w.sc.pc (s.scalarInst (s.wg (wgOf k)) w)))) ∧
    ((s.wg g).status = .halted → s.skidding g = false → (s.discardWg g).owes g = false → (s.discardWg g).lastBlocked g = false →
      goes (.firmwareEndWorkgroup g) ((((((((s.discardWg g).faultRecord g).countExits g).onWg g fun x => { x with failed := true }).endWg g).retireHandler g true).tryBarrier g 16).retireInGrid g true)) ∧
    (∀ fn t limit : Nat, Tbl.find (s.core core).parkSince fn = some t → t + Config.usec 2 ≤ s.cyc → s.atThreshold core fn = true →
      parkLimit (s.fn fn).park (s.residentWarps core fn).length = some limit →
      let gone := s.takeParked core fn limit (s.ranked core fn) []
      s.workFits core gone = true →
      goes (.parkThresholdHold core fn) (gone.foldl (fun s g => s.onWg g fun x => { x with leave := 1 }) s)) ∧
    ((∀ j ∈ s.gang g, (s.wg j).status = .resident ∧ (s.wg j).leave ≠ 0 ∧ s.quiet j = true) → goes (.contextSwitchOut g) ((s.gang g).foldl State.switchOut s)) ∧
    (∀ (b : Bind) (r : List (Nat × Bind)) (d : Tbl Nat),
      let gs := g :: (s.gang g).filter fun j => j != g
      s.off = false → core % 60 ≠ 0 → core / 60 = (s.wg g).die → (∀ j ∈ gs, s.outReady j = true) →
      s.backTurn (core / 60) g gs = some d → s.fitOut gs [] s.bindsAt (core / 60) (core % 60) = some ((core, b) :: r) →
      goes (.contextSwitchIn g core) ((gs.zip ((core, b) :: r)).foldl (fun s y => s.switchIn y.1 y.2.1 y.2.2) { s with deficit := d }))

/-! ## Translation, requests and homes -/

/-- R193, R203, R214 and R403: one write at the home of a line: its bytes take their new values, every other byte of memory reads as before, the line's version rises by one, no other line's does, and the poisoned words are those that the write brings as poisoned and those that were and are not written whole. -/
def Obligations.HomeWriteIsOneWrite : Prop :=
  ∀ (s : State) (l : Nat) (bs : List (Nat × Byte)) (bad : List Nat), (∀ b ∈ bs, b.1 / 128 = l) → (bs.map Prod.fst).Nodup →
    let t := s.homeWrite l bs bad
    (∀ (a : Nat) (v : Byte), (a, v) ∈ bs → t.homeByte a = v) ∧
    (∀ a : Nat, (∀ v : Byte, (a, v) ∉ bs) → t.homeByte a = s.homeByte a) ∧
    t.version l = (s.version l + 1) % 65536 ∧ (∀ m : Nat, m ≠ l → t.version m = s.version m) ∧
    (∀ w : Nat, w ∈ t.poison ↔ w ∈ bad ∨ (w ∈ s.poison ∧ ¬ (∀ i : Nat, i < 8 → ∃ v : Byte, (8 * w + i, v) ∈ bs))) ∧
    t.warps = s.warps ∧ t.wgs = s.wgs ∧ t.pages = s.pages

/-- R330 to R333 and R304: the walk of a page, one of the 64 oldest of its die, which installs the entry in the L2 TLB and lets the requests that wait for it go on, but not one that the page's rights or a live private area forbid; firmware's answer that maps a page, or that it cannot be mapped; the removal of an entry from every TLB, and its completion once nothing translated through it is left. The form of a page entry is the model's choice (log 10). -/
def Obligations.TranslationEvents : Prop :=
  ∀ (s : State) (die fn space va : Nat) (x : Walk) (p : PageEntry),
    let goes (i : Instr) (t : State) : Prop := exec i s = .next t
    let pg := va / 65536 * 65536
    ((s.die die).walking.find? (fun y => y.fn == fn && y.va == pg) = some x →
      (s.page x.fn x.space x.va = some p →
        goes (.walkComplete die fn va) (((s.dropWalk die x).installL2 die p).eachReq
          (fun r => s.awaits r (some die) 1 .walk x.fn x.space x.va) fun s r =>
            if r.writes = true ∧ (∃ a ∈ r.accs, s.samePage x.fn x.space x.va a.va = true ∧ s.livePriv x.fn x.space a.va = true) then s.dropFault r cPROTF
            else if pageAllows p r.writes = false then s.dropFault r cPAGEF
            else s.putReq { r with stage := .replay 1 .ready })) ∧
      (s.page x.fn x.space x.va = none → x.pref = true → goes (.walkComplete die fn va) (s.dropWalk die x)) ∧
      (s.page x.fn x.space x.va = none → x.pref = false →
        goes (.walkComplete die fn va) ((s.onDie die fun d => { d with walks := (d.walks.map fun y => if y == x then { y with asked := true } else y).eraseDups }).eachReq
          (fun r => s.awaits r (some die) 1 .walk x.fn x.space x.va) fun s r => s.noticed r 2 .mapped))) ∧
    (s.pageOk p = true → ∃ t : State, goes (.pageMapped p) t.endPackets ∧ t.pages = s.pages ++ [p] ∧ t.mem = s.mem ∧ t.warps = s.warps ∧
      (∀ (n : Nat) (r : Req), Tbl.find s.reqs n = some r →
        Tbl.find t.reqs n = some (if r.stage = .replay 2 .mapped ∧ (∃ a ∈ r.accs, pageCovers p r.fn r.space a.va = true) then { r with stage := .replay 2 .ready } else r))) ∧
    (let asked (y : Walk) : Bool := y.asked && y.fn == fn && y.va == pg
     let spaces := ((Tbl.values s.dies).flatMap fun d => (d.walks.filter asked).map fun y => y.space).eraseDups
     (∃ d ∈ Tbl.values s.dies, ∃ y ∈ d.walks, asked y = true) →
     let s1 := s.refuseBpost fn pg
     goes (.pageMapRefused fn va) (State.endPackets <| spaces.foldl (fun s sp => s.eachReq (fun r => s.awaits r none 2 .mapped fn sp pg) fun s r => s.dropFault r cPAGEF)
      { s1 with
        dies := Tbl.mapVal (fun _ d => { d with walks := d.walks.filter fun y => !asked y }) s1.dies
        cmdq := Tbl.mapVal (fun _ q => if q.fn == fn && spaces.contains q.proc then { q with refused := q.refused ++ [pg] } else q) s1.cmdq })) ∧
    (s.page fn space va = some p →
      ∃ t : State, goes (.tlbInvalidation fn ⟨space, va⟩) t ∧ t.pages = s.pages.filter (fun q => q != p) ∧ t.inval = s.inval ++ [p] ∧ t.mem = s.mem ∧ t.warps = s.warps ∧ t.reqs = s.reqs ∧
        (∀ (k : Nat) (c : Core), Tbl.find t.cores k = some c → ∀ e ∈ c.tlb, e.page ≠ p) ∧ (∀ (k : Nat) (d : Die), Tbl.find t.dies k = some d → ∀ e ∈ d.tlb, e.page ≠ p)) ∧
    (s.inval.find? (fun q => pageCovers q fn space va) = some p →
      (∀ r ∈ s.reqList, r.translated = true → r.isPerformed = false → ∀ a ∈ r.accs, pageCovers p r.fn r.space a.va = false) →
      goes (.invalidationComplete fn ⟨space, va⟩) { s with inval := s.inval.filter fun q => q != p })

/-- The no-hold rule (R246 to R258, R398): a request offers itself to its queue and takes an ordinary entry where one is free, else is bounced; a cause of its own owner that comes up while it stands there bounces it too; a request from the fabric goes on from its port's replay buffer, or joins its line's chain there; one that has stood for its bound is bounced; the notice records reason and wake condition; a wake makes it ready, and the oldest ready one of its replay store that can go offers itself again, one in a cycle, where no answer to a grant is due, and is counted as a reissue with a reservation from its eighth bounce on; a grant lets the granted source's request go, another one of that source that waits setting its bit again (log 83), and lapses to the next source; a refilled bucket wakes what it can pay for. -/
def Obligations.NoHoldRule : Prop :=
  ∀ (s : State) (n : Nat) (r : Req) (q : QId) (c : OwnerClass) (vf : Nat), Tbl.find s.reqs n = some r →
    let goes (i : Instr) (t : State) : Prop := exec i s = .next t
    let k := qCode q
    let x := s.queue k
    (r.stage = .issued → goes (.sharedQueueArrival n) (s.launch r)) ∧
    (r.stage = .transit k → r.resv = false → s.ownerBounce k r = none →
      (x.ord.length < qOrdinary k → (qKind k ≠ 5 ∨ r.cls = .ingress) → goes (.sharedQueueArrival n)
        ((s.putReq { r with stage := .queued k false, entered := s.cyc, bound := s.bound }).putQueue k { x with ord := x.ord ++ [r.id] })) ∧
      (qOrdinary k ≤ x.ord.length → goes (.sharedQueueArrival n) (s.bounce k r 3 (.cleared k (s.cyc + 4 * s.bound))))) ∧
    (r.stage = .transit k → ∀ (why : Nat) (wake : Wake), s.ownerBounce k r = some (why, wake) → goes (.sharedQueueArrival n) (s.bounce k r why wake)) ∧
    (∀ why : Nat, r.stage = .replay why .ready → r.chainedUp = true → goes (.sharedQueueArrival n) (s.launch r)) ∧
    (∀ (b : Bool) (q' : Nat), r.stage = .queued k b → s.ownerBounce k r = none →
      (qKind k = 5 → goes (.queueDeparture n) (((s.leaveQueue r).putReq { r with stage := .sent }).sendTagged r)) ∧
      (qKind k = 6 → s.bufferUse .ingress r.source < 256 →
        (s.heads r = true → goes (.queueDeparture n) (s.moveOn r (qCode (.sliceIn (homeSlice r.pa))) false)) ∧
        (s.heads r = false → goes (.queueDeparture n) ((s.leaveQueue r).putReq { r with stage := .replay 0 .ready }))) ∧
      (qKind k ≠ 5 → qKind k ≠ 6 → s.nextQueue r k = some q' → goes (.queueDeparture n) (s.moveOn r q' b))) ∧
    (∀ (b : Bool) (why : Nat) (wake : Wake), r.stage = .queued k b → s.ownerBounce k r = some (why, wake) →
      (qKind k = 6 → goes (.queueDeparture n) ((s.leaveQueue r).bounceBack r why)) ∧
      (qKind k ≠ 6 → goes (.queueDeparture n) ((s.leaveQueue r).bounce k r why wake))) ∧
    (r.stage = .queued k false → r.entered + r.bound ≤ s.cyc →
      goes (.residencyExpired n) (if qKind k = 6 then (s.leaveQueue r).bounceBack r 3 else (s.leaveQueue r).bounce k r 3 (.cleared k (s.cyc + 4 * s.bound)))) ∧
    (∀ (why : Nat) (wake : Wake), r.stage = .bounced why wake →
      ∃ (t : State) (u : Req), goes (.bounceNotice n) t ∧ Tbl.find t.reqs r.id = some u ∧ u.stage = .replay why wake ∧ u.bounces = min 15 (r.bounces + 1) ∧ u.accs = r.accs ∧ t.mem = s.mem ∧
        (r.cls ≠ .warp → t.warps = s.warps)) ∧
    goes (.congestionCleared q) (s.wakeCleared k) ∧
    (∀ why t : Nat, (r.stage = .replay why (.cleared k t) ∨ r.stage = .replay why (.time t)) → t ≤ s.cyc → goes (.backoffExpiry n) (s.putReq { r with stage := .replay why .ready })) ∧
    (∀ g : Nat × Nat × Nat, x.grants.find? (fun g => g.1 == clsCode c) = some g →
      s.reqList.find? (fun y => clsCode y.cls == clsCode c && y.src == g.2.1 && decide (y.stage = .replay 7 (.grant k)) && s.heads y) = some r →
      r.store ∉ s.reissued →
      let s1 := (({ s with reissued := s.reissued ++ [r.store] } : State).waitsAgain k r).countReissue r
      goes (.reservationGranted q c) ((s1.putReq { r with stage := .replay 7 .ready }).launch { r with stage := .replay 7 .ready })) ∧
    (∀ g : Nat × Nat × Nat, x.grants.find? (fun g => g.1 == clsCode c && g.2.2 ≤ s.cyc) = some g →
      goes (.grantLapse q c) ((s.putQueue k { x with
        grants := x.grants.filter fun y => y != g
        mask := if x.mask.contains (g.1, g.2.1) then x.mask else x.mask ++ [(g.1, g.2.1)] }).grantResv k g.1)) ∧
    (r.stage = .replay 6 .budget → r.fn = vf → s.affords vf (if r.dev.isSome then r.egressBytes else 128) = true →
      ∃ t : State, goes (.budgetRefill vf) t ∧ Tbl.find t.reqs n = some { r with stage := .replay 6 .ready } ∧ t.mem = s.mem ∧ t.warps = s.warps) ∧
    (s.eligible r = true → r.store ∉ s.reissued → s.answerDue r = false → (∀ y ∈ s.reqList, y.store = r.store → y.id < r.id → s.eligible y = false) →
      goes (.replayReissue n) ((({ s with reissued := s.reissued ++ [r.store] } : State).countReissue r).launch r))

/-- R187, R195, R201, R225, R226, R230, R243, R245, R397, R403: a request in its place is served: the slice performs one whose lines it holds, refuses one whose function does not own the frame, discards a write of a passed epoch; an access of an instruction that touches a Cinnabar page is checked first, raises `MEMRACE` where a check fails, and has its sharers probed; a line that is elsewhere is fetched first; a sharer's answer to a probe passes or raises `MEMRACE`; a reply reaches its instruction; and a release part waits for what precedes it, writes the workgroup's dirty words back, and ends once they and those in the write-back buffer are acknowledged. -/
def claimHomesAndReplies : Prop :=
  ∀ (s : State) (n k core q l : Nat) (b : Bool) (r : Req),
    let goes (i : Instr) (t : State) : Prop := exec i s = .next t
    (Tbl.find s.reqs n = some r → r.stage = .queued q b →
      (qKind q = 1 → r.kind ≠ .victim → s.missLine r = none → (r.headOnly = true → b = true ∨ (s.queue q).ord.head? = some r.id) →
        (s.foreign r = true → goes (.homeAccess n) (s.refuse r)) ∧
        (s.foreign r = false → s.lateWrite r = true → goes (.homeAccess n) ((s.leaveQueue r).putReq { r with stage := .performed })) ∧
        (s.foreign r = false → s.lateWrite r = false →
          (r.gang = false → goes (.homeAccess n) ((s.leaveQueue r).performAt r)) ∧
          (r.gang = true → r.clear = true → goes (.homeAccess n) (s.tryGang r.iid)) ∧
          (r.gang = true → r.clear = false →
            (s.racesOf r [] ≠ [] → goes (.homeAccess n) (s.memRace r (s.races r.iid))) ∧
            (s.racesOf r [] = [] → (s.checked r = false ∨ r.writes = false ∨ s.sharersOf r = []) → goes (.homeAccess n) (s.markClear r)) ∧
            (s.racesOf r [] = [] → s.checked r = true → r.writes = true → s.sharersOf r ≠ [] → r.probes = none →
              goes (.homeAccess n) (s.putReq { r with probes := some (s.sharersOf r) }))))) ∧
      (qKind q = 3 → r.kind ≠ .victim → s.missLine r = some l → (s.line l).place = .msc → goes (.homeAccess n) (s.fetched r l b)) ∧
      (qKind q = 4 → r.kind ≠ .victim → s.missLine r = some l → s.ownerBounce q r = none → (s.fetchLine l r.rh).isSome = true → s.bankBusy (qIndex q) (Config.hbmBank (paOf (l * 128))) = false → (s.line l).place = .hbm →
        goes (.homeAccess n) ((s.openRow r l).fetched r l b)) ∧
      (∀ ps : List Nat, r.probes = some ps → core ∈ ps →
        (s.racesOf r [core] ≠ [] → goes (.homeProbe n core) (s.memRace r (s.races r.iid))) ∧
        (s.racesOf r [core] = [] →
          let u := { r with probes := some (ps.filter fun c => c != core) }
          goes (.homeProbe n core) (if ps.filter (fun c => c != core) = [] then (s.putReq u).markClear u else s.putReq u)))) ∧
    (Tbl.find s.reqs n = some r → r.stage = .performed →
      (r.cls = .ingress → goes (.requestReply n) (s.respond r)) ∧
      (r.cls ≠ .ingress → r.fault ≠ 0 → goes (.requestReply n) ((s.fillFrom { r with snap := [] }).dropFault r r.fault)) ∧
      (r.cls ≠ .ingress → r.fault = 0 → (r.snap = [] ∨ r.bypass = true ∨ s.roomL1 r.core r.line = true) → goes (.requestReply n) (s.accept r))) ∧
    (Tbl.find s.reqs n = some r → r.stage = .granted → s.roomL1 r.core r.line = true → goes (.requestReply n) (s.performStore r)) ∧
    (s.oldestRelease k = some r →
      (r.rel = 1 → s.releaseReady k r = true → r.scope = 0 → goes (.releasePart k) (s.endRelease k r)) ∧
      (r.rel = 1 → s.releaseReady k r = true → r.scope ≠ 0 →
        let t := (s.setRel r.iid 2).releaseWrites k r
        goes (.releasePart k) (if t.writesBack k r then t else t.endRelease k r)) ∧
      (r.rel = 2 → (∀ y ∈ s.reqList, y.kind = .wback → y.cls = .warp → y.parent ≠ r.iid) →
        (∀ y ∈ s.reqList, y.kind = .wback → y.cls = .eviction → y.core = r.core → ∀ a ∈ y.accs, a.cmp ≠ wgOf k) → goes (.releasePart k) (s.endRelease k r)))

/-- R197, R199, R201 and R202: a refresh falls due for every bank once in each interval of 3.9 µs after the first, and makes its bank busy, or is postponed while a read waits there, at most eight before every bank refreshes; a postponed one is made up when the bank is free; a row that reaches its threshold under a virtual function is refreshed around, throttled and reported; the counts and the throttles of a period of 32 ms end with it; the weight store's window follows the cycle counter alone. -/
def claimDramMaintenance : Prop :=
  ∀ (s : State) (ch bank vf row edge die : Nat),
    let goes (i : Instr) (t : State) : Prop := exec i s = .next t
    let c := s.chan ch
    let due := Tbl.put c.due bank (s.cyc / 5460)
    let busy (b n : Nat) : Tbl Nat := Tbl.put c.busy b (max (Tbl.getD c.busy b 0) (s.cyc + n))
    let period := s.cyc / Config.msec 32
    let rolled (c : Chan) : Chan := if c.cleared < period then { c with acts := [], gated := [], cleared := period } else c
    (Tbl.getD c.due bank 0 = s.cyc / 5460 → goes (.hbmRefreshDue ch bank) s) ∧
    (Tbl.getD c.due bank 0 ≠ s.cyc / 5460 → 8 ≤ c.count →
      goes (.hbmRefreshDue ch bank) (s.putChan ch { c with due := due, busy := busy allBanks 574, count := 0, owing := [] })) ∧
    (Tbl.getD c.due bank 0 ≠ s.cyc / 5460 → c.count < 8 → (∃ r ∈ s.pendingAt ch bank, r.isRead = true) →
      goes (.hbmRefreshDue ch bank) (s.putChan ch { c with due := due, count := c.count + 1, owing := Tbl.put c.owing bank (Tbl.getD c.owing bank 0 + 1) })) ∧
    (Tbl.getD c.due bank 0 ≠ s.cyc / 5460 → c.count < 8 → (∀ r ∈ s.pendingAt ch bank, r.isRead = false) →
      goes (.hbmRefreshDue ch bank) (s.putChan ch { c with due := due, busy := busy bank 224 })) ∧
    (∀ m : Nat, Tbl.getD c.owing bank 0 = m + 1 → s.pendingAt ch bank = [] → s.bankBusy ch bank = false →
      goes (.postponedRefresh ch bank) (s.putChan ch { c with
        busy := busy bank 224
        count := c.count - 1
        owing := if m = 0 then Tbl.del c.owing bank else Tbl.put c.owing bank m })) ∧
    (1 ≤ vf → vf ≤ 32 → (∃ m : Nat, s.rowguard.lo ≤ m ∧ (vf, bank, row, m) ∈ (rolled c).acts) → (∀ m : Nat, (vf, bank, row, m) ∉ (rolled c).gated) →
      goes (.rowThresholdReached vf ch bank row) { (s.putChan ch { rolled c with
          busy := Tbl.put c.busy bank (max (Tbl.getD c.busy bank 0) s.cyc + 420)
          gated := (rolled c).gated ++ [(vf, bank, row, s.cyc + 140 * s.rowguard.hi)] }).charge vf 4096 with irqs := s.irqs ++ [⟨0, 3, rowRecord vf ch bank row, 0⟩] }) ∧
    goes (.rowCountClear edge) { s with chans := Tbl.mapVal (fun j c => if j / 128 == edge then rolled c else c) s.chans } ∧
    goes (.weightRefreshWindow die) s

/-- The homes, their replies and the HBM4E refresh. The HBM4E address mapping is opaque (log 13) and the record of a row is the model's layout (log 66). -/
def Obligations.HomesAndMemory : Prop := claimHomesAndReplies ∧ claimDramMaintenance

/-! ## The command front end -/

/-- R298, R302, R303, R305, R308, R314, R318: the doorbell moves the tail of its owner's queue, or puts the queue in error where it runs past the ring; `QSTAT` reset opens it again behind what was offered; a batch whose pages are mapped is accepted whole, or rejected whole with the first failing check in code order, and one without its COMMIT waits; a packet starts once it may; held completions reach the host by count or by time; the unit that a die's arbitration chooses is placed, its slice advances, and a head packet that starves is promoted. The moment of each event within a cycle is the model's choice (log 2). -/
def Obligations.CommandQueues : Prop :=
  ∀ (s : State) (m : Mgr) (q fn die core : Nat) (tail : W32) (x : Queue),
    let goes (i : Instr) (t : State) : Prop := exec i s = .next t
    let f := s.fn fn
    (Tbl.find s.cmdq q = some x →
      (s.off = false → mgrFn m = x.fn → x.state ≠ 0 →
        ((tail.toNat + 2 ^ 32 - x.head) % 2 ^ 32 ≤ 2 ^ x.logn → goes (.qdoorWrite m q tail) (s.putCmdq q { x with tail := tail.toNat })) ∧
        (2 ^ x.logn < (tail.toNat + 2 ^ 32 - x.head) % 2 ^ 32 → goes (.qdoorWrite m q tail)
          { s.putCmdq q { x with state := 2, ecode := 2, eidx := x.head % 65536, refused := [] } with irqs := s.irqs ++ [⟨x.fn, 1, 0, 0⟩] })) ∧
      (mgrFn m ≠ x.fn → goes (.qdoorWrite m q tail) s ∧ goes (.qstatReset m q) s) ∧
      (mgrFn m = x.fn → x.state ≠ 0 → goes (.qstatReset m q) (s.putCmdq q { x with head := x.tail, ecode := 0, eidx := 0, state := 1, refused := [] })) ∧
      (x.state = 1 → s.off = false →
        (∀ c i : Nat, s.scan q x 65 [] = .bad c i → goes (.batchCommit q) (s.queueError q x c i)) ∧
        (s.scan q x 65 [] = .wait → goes (.batchCommit q) s) ∧
        (∀ ps : List (Nat × Nat), s.scan q x 65 [] = .batch ps →
          (∀ p ∈ ps, s.check q x 1 p.2 = true → s.missingPages x p.2 = []) →
          (∀ c i : Nat, s.verdict q x ps = some (c, i) → goes (.batchCommit q) (s.queueError q x c i)) ∧
          (s.verdict q x ps = none → goes (.batchCommit q)
            (ps.foldl (fun s p => s.acceptPacket q x p.1 p.2) (s.putCmdq q { x with head := (x.head + ps.length) % 2 ^ 32, refused := [] }))))) ∧
      (∀ (e : List QPacket) (p : QPacket), x.nextStart = some (e, p) → s.mayStart e p = true → s.off = false →
        goes (.packetStart q) (s.onPacket q p.index fun p => { p with started := true, ready := s.cyc + 1 })) ∧
      (∀ (u : Sys2Proof.Machine.PUnit) (b : Bundle), s.unitOf q x = some u → Tbl.find s.bundles u.bundle = some b → (∀ g ∈ b.grids, g.placed = 0) → x.starved = false →
        u.pkt.ready + Config.msec (s.fn x.fn).arb.lo ≤ s.cyc → goes (.starvePromotion q) (s.putCmdq q { x with starved := true }))) ∧
    (f.held ≠ [] → f.icoal.lo ≤ f.held.length →
      goes (.completionInterruptCount fn) { s.putFn fn { f with held := [] } with irqs := s.irqs ++ [⟨fn, 0, 0, f.held.length⟩] }) ∧
    (∀ (t : Nat) (r : List Nat), f.held = t :: r → t + Config.usec f.icoal.hi ≤ s.cyc →
      goes (.completionInterruptTimeout fn) { s.putFn fn { f with held := [] } with irqs := s.irqs ++ [⟨fn, 0, 0, f.held.length⟩] }) ∧
    (∀ (u : Sys2Proof.Machine.PUnit) (d : Tbl Nat) (b : Bind) (r : List (Nat × Bind)), s.choose die = some (.work (.unit u) d) → u.fit s.bindsAt die core = some ((coreKey die core, b) :: r) → s.off = false →
      s.isLate u = false → ∃ t : State, goes (.placement die core) t ∧
        t = { (u.members.zip ((coreKey die core, b) :: r)).foldl (fun s y => s.placeMember u y.1 y.2.1 y.2.2) ({ s with deficit := d } : State) with cmdq := t.cmdq } ∧
        (∀ y : Queue, Tbl.find t.cmdq u.queue = some y → y.starved = false)) ∧
    (∀ (e n : Nat × Nat × Bool), s.sliceList[(s.die die).slice % s.sliceList.length]? = some e → (s.die die).sliceAt + Config.usec e.2.1 ≤ s.cyc →
      s.sliceList[((s.die die).slice % s.sliceList.length + 1) % s.sliceList.length]? = some n →
      goes (.sliceAdvance die) (s.beginSlice die (((s.die die).slice % s.sliceList.length + 1) % s.sliceList.length) n.1 n.2.2))

/-- R304, R306, R314 to R317: what each kind of started packet does: a launch starts its bundle, a timed one once its time has come, where a die has room for it; a copy or weight-store write goes to the die copy path; a barrier-and-signal waits until its word has reached its value and then adds to the signal word, a wait that is over staying so while the signal word's page is mapped (an addition on another device's page leaves as a request of the firmware, log 86); an interrupt packet interrupts with its cookie; a handler table takes the place of the old one. -/
def Obligations.PacketKinds : Prop :=
  ∀ (s : State) (q n : Nat) (x : Queue) (p : QPacket), Tbl.find s.cmdq q = some x →
    let goes (i : Instr) (t : State) : Prop := exec i s = .next t
    let kind := pktKind p.bytes
    let W := pktWord p.bytes
    (x.pick (fun y => pktKind y.bytes == 1 && !((s.bundleOfPkt y).elim true (·.started))) = some p → p.bundle = some n → goes (.launchBundle q) (s.startBundle n)) ∧
    (x.pick (fun y => pktKind y.bytes == 2 && y.timed == 0) = some p → goes (.timedLaunch q) (s.onPacket q p.index fun y => { y with timed := 1 })) ∧
    (x.pick (fun y => pktKind y.bytes == 2 && y.timed == 1 && pktWord y.bytes 2 ≤ s.ptp.now) = some p →
      let t := s.onPacket q p.index fun y => { y with timed := 2, ready := s.cyc + 1, unsync := !s.ptp.sync }
      let t2 := match p.bundle with | some n => t.startBundle n | none => t
      (∀ (y : Queue) (u : Sys2Proof.Machine.PUnit), Tbl.find t2.cmdq q = some y → (t2.unitsOf q y).find? (fun u => u.pkt.index == p.index) = some u → (t2.offered u x.die).isSome = true) →
      goes (.timedLaunchEligible q) t2) ∧
    (∀ sh : Shape × Shape, p.shapes = some sh →
      let t := ((s.onCore (fwCore x.die) fun c => { c with copies := c.copies ++ [s.pktCopy q x p sh] }).bump).onPacket q p.index fun y => { y with fired := true }
      (x.pick (fun y => pktKind y.bytes == 3 && !y.fired) = some p → goes (.copyPacket q) t) ∧
      (x.pick (fun y => pktKind y.bytes == 4 && !y.fired) = some p → goes (.wsWritePacket q) t)) ∧
    (kind = 5 → (x.pick (fun y => pktKind y.bytes == 5 && y.timed == 0) = some p → goes (.barrierAndSignal q) (s.tryBarrierPkt q x p)) ∧
      (W 1 ≠ 0 → p.timed ≠ 2 → s.wordState x (W 1) false = 0 → s.vread x.fn x.proc (W 1) 8 < W 2 → s.tryBarrierPkt q x p = s.onPacket q p.index fun y => { y with timed := 1 }) ∧
      (W 1 = 0 ∨ p.timed = 2 ∨ s.wordState x (W 1) false = 0 ∧ W 2 ≤ s.vread x.fn x.proc (W 1) 8 →
        (W 3 = 0 → s.tryBarrierPkt q x p = s.completePacket q p.index false) ∧
        (W 3 ≠ 0 → s.wordState x (W 3) true = 0 → s.tryBarrierPkt q x p = (s.fwAdd x.die x.fn x.proc (W 3) (W 4)).completePacket q p.index false)) ∧
      (∀ pa : Nat, s.phys x.fn x.proc (W 3) = some pa → isRemote pa = false →
        s.fwAdd x.die x.fn x.proc (W 3) (W 4) = s.vwrite x.fn x.proc (W 3) (bytesLE 8 ((s.vread x.fn x.proc (W 3) 8 + W 4) % 2 ^ 64)))) ∧
    (x.pick (fun y => pktKind y.bytes == 5 &&
        ((y.timed == 1 && (s.wordState x (pktWord y.bytes 1) false != 0 || pktWord y.bytes 2 ≤ s.vread x.fn x.proc (pktWord y.bytes 1) 8)) ||
         (y.timed == 2 && s.wordState x (pktWord y.bytes 3) true != 1))) = some p → goes (.barrierSignalWake q) (s.tryBarrierPkt q x p)) ∧
    (x.pick (fun y => pktKind y.bytes == 6) = some p →
      goes (.interruptPacket q) (({ s.putFn x.fn { s.fn x.fn with held := [] } with irqs := s.irqs ++ [⟨x.fn, 0, BitVec.ofNat 64 (W 1), (s.fn x.fn).held.length⟩] } : State).completePacket q p.index false)) ∧
    (x.pick (fun y => pktKind y.bytes == 7) = some p →
      let t := s.onFn x.fn fun f => { f with table_ := p.table_, tproc := x.proc }
      goes (.registerHandlerTable q) (({ t with cores := Tbl.mapVal (fun _ c => dropStanding x.fn (s.fn x.fn).table_ p.table_ c) t.cores } : State).completePacket q p.index false))

/-- R315 and R414: the device time: a value at or above the counter loads, one below it becomes a slew; an offset is added at once or slewed; the rate correction is clamped to a thousandth; a hold of 0 ms ends the synchronisation, as does the expiry of the holdover; none of these registers is a virtual function's; a tick never takes the counter back. -/
def Obligations.DeviceTime : Prop :=
  ∀ (s : State) (m : Mgr) (v : W64) (n : Nat),
    let goes (i : Instr) (t : State) : Prop := exec i s = .next t
    let p := s.ptp
    let set (p : Ptp) : State := { s with ptp := { p with sync := true, ever := true, last := s.cyc } }
    let unit := 1400000000000
    (m = .vf n → goes (.ptpsetWrite m v) s ∧ goes (.ptpadjWrite m v) s ∧ goes (.ptprateWrite m v) s ∧ goes (.ptpholdWrite m v) s) ∧
    ((m = .pf ∨ m = .fw) →
      (p.now ≤ v.toNat → goes (.ptpsetWrite m v) (set { p with now := v.toNat, owed := 0 })) ∧
      (v.toNat < p.now → goes (.ptpsetWrite m v) (set { p with owed := (p.now - v.toNat) * unit })) ∧
      (0 ≤ v.toInt → goes (.ptpadjWrite m v) (set { p with now := (p.now + v.toNat) % 2 ^ 64 })) ∧
      (v.toInt < 0 → goes (.ptpadjWrite m v) (set { p with owed := p.owed + v.toInt.natAbs * unit })) ∧
      goes (.ptprateWrite m v) (set { p with rate := max (-1000000000) (min 1000000000 (v.setWidth 32 : W32).toInt) }) ∧
      (v.toNat % 65536 = 0 → goes (.ptpholdWrite m v) { s with ptp := { p with sync := false } }) ∧
      (v.toNat % 65536 ≠ 0 → goes (.ptpholdWrite m v) { s with ptp := { p with hold := v.toNat % 65536 } })) ∧
    (p.sync = true → p.last + Config.msec p.hold ≤ s.cyc → goes .ptpHoldoverExpiry { s with ptp := { p with sync := false } }) ∧
    goes .ptmRequest s ∧
    (p.frac < unit → (p.tick).frac < unit ∧ (p.tick).owed ≤ p.owed ∧ (p.rate ≤ 1000000000 → p.now < 2 ^ 64 - 1 → p.now ≤ (p.tick).now))

/-! ## The fabric -/

/-- A packet that ingress keeps reaches this device as operation `op` (R334 to R338). -/
def arrivesHere (s : State) (p : Packet) (op : Nat) : Prop :=
  s.dataOff = false ∧ badPacket p = false ∧ p.dst = s.devid ∧ p.op.toNat = op

/-- R334 to R341, R344 and R415: a packet with a reserved bit, a level above 5 or no legal operation is dropped and counted; one for another device stands at the port of its route one level higher until the port takes it, or is counted at level 5 or without a route; the fabric manager writes routes, whose reserved bits stay 0 (R8), tenant entries and the device ID; a request enters the port's ingress queue with the accesses its packet gives, once: a copy whose reply is cached is answered from the cache. What an ATOM's c field says of a signed or floating-point operation is the model's choice (log 21). -/
def Obligations.FabricRequestsArrive : Prop :=
  ∀ (s : State) (port dev : Nat) (p : Packet) (e : W64) (f : W32), port < 128 →
    let goes (i : Instr) (t : State) : Prop := exec i s = .next t
    let q := qCode (.ingress port)
    let enters (i : Instr) (r : Req) : Prop := s.affords p.vf.toNat 160 = true → ∃ t : State, exec i s = .next t ∧
      Tbl.find t.reqs s.nextId = some { r with stage := .queued q false, entered := s.cyc, bound := s.bound } ∧ t.mem = s.mem ∧ t.warps = s.warps
    let line := p.osa.toNat * 128
    let fresh : Prop := s.cachedReply p = none ∧ s.underWay p = false ∧ s.bankFull p = false
    (s.dataOff = false → badPacket p = true → ∀ i ∈ [Instr.fabricForward port p, .fabricRd port p, .fabricWr port p, .fabricAtomGroup port p, .fabricCstGroup port p, .fabricBdata port p,
        .fabricBreq port p, .fabricAmsg port p, .fabricRdr port p, .fabricWack port p, .fabricAtomr port p, .fabricCstr port p, .fabricAmack port p, .fabricBounce port p, .fabricGrant port p,
        .fabricReturn port p, .fabricBstat port p, .fabricCong port p], goes i s.countBad) ∧
    (s.dataOff = false → badPacket p = false → p.dst ≠ s.devid →
      ((p.hop.toNat = 5 ∨ s.hopOf p.dst.toNat = none) → goes (.fabricForward port p) s.countBad) ∧
      (∀ out : Nat, p.hop.toNat ≠ 5 → s.hopOf p.dst.toNat = some out → ∃ t : State, goes (.fabricForward port p) t ∧
        t.fab.transit = s.fab.transit ++ [⟨s.nextId, out, { p with hop := p.hop + 1 }, s.cyc, false⟩] ∧ t.fab.out = s.fab.out ∧ t.reqs = s.reqs ∧ t.mem = s.mem ∧ t.warps = s.warps)) ∧
    (∀ x : Transit, s.fab.transit.find? (fun y => y.id == dev) = some x → Tbl.find s.reqs dev = none →
      goes (.queueDeparture dev) { s with fab := { s.fab with out := s.fab.out ++ [(x.port, x.pkt)], transit := s.fab.transit.filter fun y => y.id != dev } }) ∧
    (dev ≤ 786431 → goes (.fmManagement (.route dev e)) { s with fab := { s.fab with route := Tbl.put s.fab.route dev (e &&& 0xF87FF87FF87FF87F#64) } } ∧
      goes (.fmManagement (.tenmap dev f)) { s with fab := { s.fab with tenmap := Tbl.put s.fab.tenmap dev f } } ∧
      goes (.fmManagement (.devId dev)) { s with devid := BitVec.ofNat 20 dev }) ∧
    ((s.queue q).ord.length < qOrdinary q →
      (arrivesHere s p 0 → enters (.fabricRd port p) { s.ingressReq port p .load with accs := (maskBytes p.osb.toNat).map fun b => ⟨b, 0, line + b, 1, 0, 0, 0⟩ }) ∧
      (arrivesHere s p 1 → fresh → enters (.fabricWr port p) { s.ingressReq port p .store with accs := (maskBytes p.osb.toNat).map fun b => ⟨b, 0, line + b, 1, wrByte p b, 0, 1⟩ }) ∧
      (arrivesHere s p 2 → fresh → s.fab.groups = [] → fieldOf p.osb.toNat 82 81 = 0 →
        let r : Req := { s.ingressReq port p .atom with
          op := some (amoOf (fieldOf p.osb.toNat 90 88))
          ext := if atomSigned32 p then 5 else fieldOf p.osb.toNat 87 85
          accs := atomAccs p }
        (atomReduce p = none → enters (.fabricAtomGroup port p) r) ∧
        (∀ red : List Nat, atomReduce p = some red → enters (.fabricAtomGroup port p) { r with kind := .reduce, want := red, accs := r.accs.flatMap Access.parts })) ∧
      (arrivesHere s p 3 → fresh → s.fab.groups = [] → fieldOf p.osb.toNat 77 76 = 0 → enters (.fabricCstGroup port p) { s.ingressReq port p .cstore with
        want := [fieldOf p.osb.toNat 95 80]
        accs := [cstAcc 0 p] })) ∧
    (∀ rs : List Packet, s.cachedReply p = some rs →
      (arrivesHere s p 1 → goes (.fabricWr port p) (rs.foldl State.emit s)) ∧ (arrivesHere s p 2 → goes (.fabricAtomGroup port p) (rs.foldl State.emit s)) ∧
      (arrivesHere s p 3 → goes (.fabricCstGroup port p) (rs.foldl State.emit s)))

/-- R339, R341, R343 to R345, R347 and R394: a response frees its tag and, with the last packet answered, its request is performed with the values it carries; one that answers no tag is counted late; a bounce returns the request to its replay entry with its reason, or ends it; packets are sent again 20 µs and 40 µs after the first send, replies kept 80 µs and groups 40 µs; a request unanswered for 120 µs is repeated where it may be, else its outcome is unknown; a congested destination is flagged, the sources of packets that pass through told by CONG, and the flag withdrawn when its cause has stood off for 10 µs. An access performed on another device leaves no filled copy in the core's L1 but a multicast's (log 84). The reasons of a refused or poisoned BOUNCE and the fields of CONG are the model's choices (logs 23, 24). -/
def Obligations.FabricResponsesAndTimers : Prop :=
  ∀ (s : State) (port dev n src tag gen : Nat) (p : Packet) (t : TagRec) (r : Req),
    let goes (i : Instr) (t : State) : Prop := exec i s = .next t
    let mine (x : TagRec) : Bool := x.dev == p.src.toNat && x.tag == p.tag.toNat && x.gen == p.gen.toNat
    let s1 := s.freeTags fun x => x.dev == t.dev && x.tag == t.tag
    let N (k : Nat) := leNat (flitBytes p k)
    let line := if r.targets.isEmpty || r.bypass then [] else flitBytes p 128
    (s.fab.tags.find? mine = none → (arrivesHere s p 16 → goes (.fabricRdr port p) s.countLate) ∧ (arrivesHere s p 17 → goes (.fabricWack port p) s.countLate)) ∧
    (s.fab.tags.find? mine = some t → Tbl.find s.reqs t.req = some r → (∀ x ∈ s.fab.tags, x.req = r.id → x.dev = t.dev ∧ x.tag = t.tag) →
      (arrivesHere s p 16 → r.kind = .cread → goes (.fabricRdr port p) ((s1.dropRemote r).putReq { r with
        stage := .performed
        snap := line
        reply := (List.range 32).map fun l => (l, N 128 / 2 ^ (32 * l) % 2 ^ 32 + p.osa.toNat % 65536 * 2 ^ 32) })) ∧
      (arrivesHere s p 16 → r.kind ≠ .cread → goes (.fabricRdr port p) ((s1.dropRemote r).putReq { r with
        stage := .performed
        snap := line
        reply := r.accs.map fun a => (a.lane, r.extend (N 128 / 2 ^ (8 * (a.pa % 128)) % 2 ^ (8 * a.size))) })) ∧
      (arrivesHere s p 17 → goes (.fabricWack port p) ((s1.dropRemote r).putReq { r with stage := .performed })) ∧
      (arrivesHere s p 18 → r.kind ≠ .reduce → r.sd = none → ∀ (a : Access) (as : List Access), r.accs = a :: as → goes (.fabricAtomr port p) ((s1.dropRemote r).putReq { r with
        stage := .performed
        reply := r.reply ++ (t.pkts.flatMap atomLanes).zipIdx.map fun x => (x.1, r.extend (N 64 / 2 ^ (64 * x.2) % 2 ^ (8 * a.size))) })) ∧
      (arrivesHere s p 19 → goes (.fabricCstr port p) ((s1.dropRemote r).putReq { r with stage := .performed, ok := osbField p 0 0 == 1 })) ∧
      (arrivesHere s p 20 → goes (.fabricAmack port p) (((s1.dropRemote r).putReq { r with stage := .performed }).amOutcome r (osbField p 7 0))) ∧
      (arrivesHere s p 21 →
        let s2 := s1.freeTags fun x => x.req == r.id
        (osbField p 3 0 = 0 → goes (.fabricBounce port p) (s2.dropFault r cPAGEF)) ∧
        (osbField p 3 0 = 15 → goes (.fabricBounce port p) (s2.dropFault r cMEMERR)) ∧
        (osbField p 3 0 = 6 → goes (.fabricBounce port p) (s2.noticed { r with reply := [] } 6 .budget)) ∧
        (osbField p 3 0 = 7 → goes (.fabricBounce port p) (s2.noticed { r with reply := [] } 7 .ready)))) ∧
    (let due (x : TagRec) : Bool := x.req == n && ((x.sends == 1 && x.sentAt + Config.usec 20 ≤ s.cyc) || (x.sends == 2 && x.sentAt + Config.usec 40 ≤ s.cyc))
     goes (.resendTimer n) (((s.fab.tags.filter due).flatMap fun x => x.pkts).foldl State.emit
      { s with fab := { s.fab with tags := s.fab.tags.map fun x => if due x then { x with sends := x.sends + 1 } else x } })) ∧
    goes (.replyCacheExpiry src tag gen) { s with fab := { s.fab with cache := s.fab.cache.filter fun c => !(c.src == src && c.tag == tag && c.gen == gen && c.until_ ≤ s.cyc) } } ∧
    goes (.groupTimeout src tag gen) { s with fab := { s.fab with groups := s.fab.groups.filter fun g => !(g.src == src && g.tag == tag && g.gen == gen && g.since + Config.usec 40 ≤ s.cyc) } } ∧
    (Tbl.find s.reqs n = some r → r.stage = .sent → (∃ x ∈ s.fab.tags, x.req = n ∧ x.sends ≠ 0 ∧ x.sentAt + Config.usec 120 ≤ s.cyc) →
      let d := r.dev.getD noDev
      let s2 := s.freeTags fun x => x.req == n
      (d ∈ s.fab.dead → goes (.requestUnanswered n) (s.unreachable r)) ∧
      (d ∉ s.fab.dead → r.mayRepeat = true → goes (.requestUnanswered n) (s2.putReq { r with stage := .transit (qCode (.egress (s.routePort d))), reply := [] })) ∧
      (d ∉ s.fab.dead → r.mayRepeat = false → r.kind = .packet → goes (.requestUnanswered n) (s2.unknownPacket r)) ∧
      (d ∉ s.fab.dead → r.mayRepeat = false → r.kind ≠ .packet → goes (.requestUnanswered n) ((s2.dropRemote r).dropFault r cATOMUNK))) ∧
    (dev ≠ s.own →
      let u := ({ s with
        fab := { s.fab with dead := if s.fab.dead.contains dev then s.fab.dead else s.fab.dead ++ [dev] } } : State)
      let a := (s.moves.filter fun x => x.1.home == dev).foldl (fun s x => s.refuseAdopt x.1 stORPHAN) u
      let u := a.eachReq (fun y => y.dev == some dev && y.cls != .ingress && !y.isPerformed) State.unreachable
      let v := u.warps.foldl (fun s (x : Nat × Warp) => (x.2.msgs.filter fun m => m.dev == dev).foldl (fun s m => s.endMsg x.1 m stUNKNOWN) s) u
      goes (.destUnreachable dev) ((v.loseHeldBy dev).homeLost dev (s.movingTo dev))) ∧
    (((∃ x ∈ s.standingAt port dev, x.entered + s.bound / 2 < s.cyc) ∨ s.latePassing port dev ≠ []) → goes (.destinationCongested port dev) ((s.flag port dev).tellSources port dev)) ∧
    (arrivesHere s p 27 → goes (.fabricCong port p) (((hops (Tbl.getD s.fab.route (osbField p 127 108) 0)).map (·.1)).foldl (fun s port => s.flag port (osbField p 127 108)) s)) ∧
    (∀ c : Cong, s.fab.cong.find? (fun c => c.port == port && c.dev == dev) = some c → c.last + Config.usec 10 ≤ s.cyc → (∀ x ∈ s.standingAt port dev, s.cyc ≤ x.entered + s.bound / 4) →
      (∀ x ∈ s.fab.transit, x.port = port → x.pkt.dst.toNat = dev → s.cyc ≤ x.since + s.bound / 4) →
      goes (.congestionWithdraw port dev) { s with
        fab := { s.fab with cong := s.fab.cong.filter fun c => !(c.port == port && c.dev == dev) }
        reqs := Tbl.mapVal (fun _ y => { y with stage := match y.stage with
          | .replay why (.uncongested d) => if d = dev then .replay why .ready else y.stage
          | .bounced why (.uncongested d) => if d = dev then .bounced why .ready else y.stage
          | x => x }) s.reqs })

/-! ## Messages, handlers and streams -/

/-- R348 to R354, R362 and R366: a message is announced or its bytes arrive, are performed into its buffer, counted and acknowledged, and tokens are granted; a token not used in 25 µs goes, the eighth time in a row with the message; a message without a token for 100 µs rises in priority, whatever its state; a grant joins those of its message in the order of their offsets, or goes back where that is paused; what is handed back is granted no longer; a status ends the message; an active message is accepted, and one of those whose handlers have room on a core, whichever, starts its handler there when the die places a handler of its function next (R3). The places of the fields in an AMSG packet are the model's choice (log 23). -/
def Obligations.MessagesAndHandlers : Prop :=
  ∀ (s : State) (port src msg off fn core : Nat) (p : Packet),
    let goes (i : Instr) (t : State) : Prop := exec i s = .next t
    let fresh : Prop := s.cachedReply p = none ∧ s.underWay p = false ∧ s.bankFull p = false
    let from_ := p.src.toNat
    let id := msgidOf p
    (arrivesHere s p 4 → fresh →
      let s1 := s.openRecord p
      let n := min (32 * p.flits.length) (bulkLen p - offsetOf p)
      (∀ m : RecvMsg, s1.msg from_ id = some m → m.state ≠ .waitbuf → goes (.fabricBdata port p) ((s1.bulkBytes m (offsetOf p) (flitBytes p n)).ackBulk p).grants) ∧
      ((∀ m : RecvMsg, s1.msg from_ id = some m → m.state = .waitbuf) → goes (.fabricBdata port p) (s1.ackBulk p).grants)) ∧
    (arrivesHere s p 8 → fresh →
      (osbField p 81 81 = 0 → goes (.fabricBreq port p) ((s.openRecord p).ackBulk p).grants) ∧
      (osbField p 81 81 = 1 → goes (.fabricBreq port p)
        (((s.openRecord p).onMsg from_ id fun m => if m.state = .paused then { m with state := .active } else m).ackBulk p).grants)) ∧
    (arrivesHere s p 5 → fresh →
      let bs := flitBytes p (osbField p 24 16)
      (∀ (t : State) (st : Nat), s.amAccept p.vf.toNat from_ (osbField p 11 0) p.scope.toNat bs = some (t, st) →
        goes (.fabricAmsg port p) ((t.recordReply p [t.respPkt p 20 0 st []]).emit (t.respPkt p 20 0 st []))) ∧
      (s.amAccept p.vf.toNat from_ (osbField p 11 0) p.scope.toNat bs = none → goes (.fabricAmsg port p) (s.bouncePkt p 3))) ∧
    (arrivesHere s p 25 → goes (.fabricReturn port p) (s.onMsg from_ id fun m =>
      if m.state = MsgState.waitbuf then m else { m with state := MsgState.paused, tokens := m.tokens.filterMap (Token.cut (offsetOf p)) }).grants) ∧
    (∀ (m : RecvMsg) (t : Token), s.msg src msg = some m →
      (m.state = .active → m.tokens.find? (fun t => t.off == off && t.at_ + Config.usec 25 ≤ s.cyc) = some t →
        let fails := if t.got == 0 then m.fails + 1 else m.fails
        let toks := m.tokens.filter fun y => y.off != off
        (8 ≤ fails → goes (.tokenExpiry src msg off) (((s.bstat src msg m.fn 2).dropMsg src msg).freeSlot m.fn m.slot 3).grants) ∧
        (fails < 8 → goes (.tokenExpiry src msg off) (s.onMsg src msg fun m => { m with tokens := toks, fails := fails, since := if toks.isEmpty then s.cyc else m.since }).grants)) ∧
      (m.tokens = [] → (m.gap s.cyc).2 ≠ 0 → m.eff < 3 → m.since + Config.usec 100 ≤ s.cyc →
        goes (.prioAging src msg) (s.onMsg src msg fun m => { m with eff := m.eff + 1, since := s.cyc }).grants)) ∧
    (∀ (k : Nat) (m : OpenMsg), s.openMsg from_ id = some (k, m) →
      (arrivesHere s p 24 → m.paused = false → goes (.fabricGrant port p)
        (s.onWarp k fun w => { w with msgs := w.msgs.map fun x => if x.id == m.id then x.grant (offsetOf p, bulkLen p) else x })) ∧
      (∀ t : Nat × Nat, t ∈ (m.grant t).tokens ∧ (∀ x ∈ m.tokens, x ∈ (m.grant t).tokens) ∧
        (m.tokens.Pairwise (fun x y => x.1 ≤ y.1) → (m.grant t).tokens.Pairwise fun x y => x.1 ≤ y.1)) ∧
      (arrivesHere s p 24 → m.paused = true → goes (.fabricGrant port p) (s.giveBack m (s.wg (wgOf k)).fn (offsetOf p) (bulkLen p))) ∧
      (arrivesHere s p 26 → goes (.fabricBstat port p) (s.endMsg k m (if osbField p 7 0 = 1 then 0 else if osbField p 7 0 = 2 then stORPHAN else stREFUSED)))) ∧
    (∀ m : RecvMsg, s.openMsg from_ id = none → s.msg from_ id = some m → osbField p 7 0 = 3 → arrivesHere s p 26 → goes (.fabricBstat port p) (s.abortMsg m false).grants) ∧
    (s.off = false → core % 60 ≠ 0 → core < 240 → (s.fn fn).resetStep = 0 → s.handlersTurn (core / 60) fn = true →
      (∃ m ∈ (s.fn fn).ams, ∃ e : HandlerEnt, tableEnt (s.fn fn).table_ m.hidx = some e ∧ (s.handlerPlace core e).isSome = true) →
      ∃ (i : Nat) (m : AmMsg) (e : HandlerEnt) (pl : List Nat × Nat × Nat), (s.fn fn).ams[i]? = some m ∧ tableEnt (s.fn fn).table_ m.hidx = some e ∧ s.handlerPlace core e = some pl ∧
        goes (.amHandlerStart fn core) ((((s.drawn 1).bindHandler core e pl).startHandler fn core e pl m.bytes [m.bytes.length, m.src, 0, 0, 0] 0 .message none m.scope).onFn fn
          fun f => { f with ams := f.ams.eraseIdx i }))

/-- R366, R371, R372 and R379 to R394: a piece of an item is answered by its status once it is held, stored at the home or sent on; acknowledgements, credits, locations and losses reach the end they name; the steps of a move at the home and at the adopter; a frozen record goes 120 µs after the home has acknowledged the move; PLACE brings the new handle, its SMACK carries it back, and a null handle in its place refuses the adoption, while an ADOPT that has to wait is not answered (log 80); an idle context is evicted after its time, its granules are freed, a reloaded one is active; the next item of a bound end starts its handler. The places of the fields in stream packets are the model's choice (log 23). -/
def Obligations.StreamsAndContexts : Prop :=
  ∀ (s : State) (port core : Nat) (m : Mgr) (v : W32) (p : Packet) (k : EndKey) (e : EndRec) (b : Binding),
    let goes (i : Instr) (t : State) : Prop := exec i s = .next t
    let st := osbField p 7 0
    let n := osaField p 177 154
    let src := p.src.toNat
    let here := smEnd p s.own
    let there := smEnd p src
    let ack (t : State) (osb : Nat) : State := t.emit (t.respPkt p 23 p.osa.toNat osb [])
    (arrivesHere s p 6 →
      let c : EndKey := ⟨osbField p 127 108, n, true⟩
      let len := osbField p 84 72
      let frag := osbField p 88 85
      let r := s.freshPiece c ⟨c.home, c.stream, osbField p 107 89, osaField p 153 130, osaField p 129 128, p.scope.toNat, frag, len, flitBytes p (min 256 (len - 256 * frag))⟩
      (r.2 = none → goes (.sitem port p) (r.1.emit (r.1.respPkt p 22 p.osa.toNat 0 []))) ∧
      (∀ it : Item, r.2 = some it →
        let x := r.1.itemIn c (osbField p 107 89) it
        goes (.sitem port p) (x.1.emit (x.1.respPkt p 22 p.osa.toNat x.2 [])))) ∧
    (∀ (t : TagRec) (r : Req), s.fab.tags.find? (fun x => x.dev == src && x.tag == p.tag.toNat && x.gen == p.gen.toNat) = some t → Tbl.find s.reqs t.req = some r →
      let s1 := s.freeTags fun x => x.dev == t.dev && x.tag == t.tag
      (arrivesHere s p 22 →
        let s2 := s1.onEnd ⟨match r.pkts with | q :: _ => osbField q 127 108 | [] => noDev, n, false⟩ fun e => { e with
          closed := e.closed || st == stCLOSED
          orphan := e.orphan || st == stORPHAN }
        (st = 0 → goes (.sack port p) (s2.answerIn r)) ∧
        (st ≠ 0 → goes (.sack port p) ((s2.onOp r.warp r.parent fun o => { o with status := st }).answerIn r))) ∧
      (arrivesHere s p 23 → smPhase p = 0 → goes (.smack port p) ((s1.onEnd there fun e => if e.frozen then { e with frozenAt := s1.cyc } else e).answerIn r)) ∧
      (arrivesHere s p 23 → smPhase p ≠ 0 → goes (.smack port p) (s1.answerIn r))) ∧
    (arrivesHere s p 28 → s.ends.find? (fun y => !y.key.cons && y.key.stream == n && (y.peer == src || y.key.home == src)) = some e → goes (.scred port p) (s.creditIn e.key (osbField p 127 121))) ∧
    (let other : EndKey := ⟨src, n, !(osaField p 153 153 == 1)⟩
     arrivesHere s p 29 →
      (s.adopting other = false → s.endRec other = some e → goes (.sloc port p) (s.onEnd other fun y => y.learn (osbField p 127 108))) ∧
      (s.adopting other = true → goes (.sloc port p) (s.onMove other fun y => { y with
        peer := osbField p 127 108
        told := true
        base := y.base + if !other.cons && osbField p 127 108 != noDev then 1 else 0 }))) ∧
    (arrivesHere s p 30 →
      let cons := osaField p 153 153 == 1
      let last := if p.scope = 0 then some (osbField p 127 104) else none
      (∀ x ∈ s.moves, ¬ (x.1.stream = n ∧ x.1.cons ≠ cons ∧ x.1.home = src)) →
      ((∀ y ∈ s.ends, ¬ (y.key.stream = n ∧ y.key.cons ≠ cons)) → goes (.sorph port p) (s.loseEnd ⟨s.own, n, cons⟩ (if cons then none else last))) ∧
      (s.ends.find? (fun y => y.key.stream == n && y.key.cons != cons && (y.key.home == src || (y.key.home != s.own && y.peer == src))) = some e →
        goes (.sorph port p) (s.orphanBehind e.key last))) ∧
    (arrivesHere s p 7 →
      (smPhase p = 0 → goes (.smoveMove port p) (ack (s.homeMove here (smGen p) (smRecord p (Moved.blank (smGen p)))) 0)) ∧
      (smPhase p = 1 → s.adopting there = true → goes (.smoveCtx port p) (ack ((s.onMove there fun y => y.chunk (osbField p 56 49) (flitBytes p 256)).tryInstall there) 0)) ∧
      (smPhase p = 1 → s.adopting there = false → goes (.smoveCtx port p) (ack (s.onHome here fun h =>
        if h.gen == smGen p then { h with moved := some ((h.moved.getD (Moved.blank h.gen)).chunk (osbField p 56 49) (flitBytes p 256)) } else h) 0)) ∧
      (smPhase p = 2 → s.adoptDone here (smGen p) = true → goes (.smoveAdopt port p) (ack s 0)) ∧
      (smPhase p = 2 → s.adoptDone here (smGen p) = false → ∀ s1 : State,
        (s.homeAdopt here (smGen p) src (osbField p 76 69 != 0) = (s1, .waits) → goes (.smoveAdopt port p) s1) ∧
        (∀ st : Nat, s.homeAdopt here (smGen p) src (osbField p 76 69 != 0) = (s1, .refused st) →
          goes (.smoveAdopt port p) ((ack s1 0).fwSend (s1.smove src here (smGen p) 3 noDev 0 0 0 0 0 p.vf.toNat 0 (bytesLE 16 (nullHandle st))))) ∧
        (∀ y : Moved, s.homeAdopt here (smGen p) src (osbField p 76 69 != 0) = (s1, .granted y) →
          let s2 := ack s1 0
          goes (.smoveAdopt port p) ((s2.smove src here y.gen 3 y.peer y.next y.credits (y.kib + if y.faulted then 128 else 0) y.hidx 0 p.vf.toNat y.cscope
              (bytesLE 16 (handleBits here y.gen (s2.chkOf here y.gen)) ++ bytesLE 3 y.base) ::
            s2.movePackets src here y.gen y).foldl State.fwSend s2))) ∧
      (smPhase p = 3 → s.adopting there = false → goes (.smovePlace port p) (ack s (leNat (flitBytes p 16)))) ∧
      (let h := leNat (flitBytes p 16)
       smPhase p = 3 → s.adopting there = true →
        ((keyOfHandle h).home = noDev → goes (.smovePlace port p) (ack (s.refuseAdopt there (h % 256)) h)) ∧
        ((keyOfHandle h).home ≠ noDev → goes (.smovePlace port p) (ack ((s.onMove there fun y => if y.placed then y else { smRecord p y with
          gen := smGen p
          chk := some (BitVec.ofNat 64 h)
          peer := if y.told then y.peer else osbField p 127 108
          base := y.base + leNat ((flitBytes p 19).drop 16)
          credits := min 64 (osbField p 83 77 + y.credits)
          items := y.items.foldl (addItem (osbField p 107 84)) []
          ctx := y.ctx
          chunks := y.chunks }).tryInstall there) h))) ∧
      (smPhase p = 4 → s.adopting there = true →
        let kind := osbField p 83 77 / 16
        let len := if 2 ≤ kind then 0 else osbField p 68 57 + 1
        let frag := osbField p 83 77 % 16
        let r := s.freshPiece there ⟨there.home, there.stream, smGen p, osbField p 107 84, kind, p.scope.toNat, frag, len, flitBytes p (min 256 (len - 256 * frag))⟩
        (r.2 = none → goes (.smoveItems port p) (ack r.1 0)) ∧
        (∀ it : Item, r.2 = some it → r.1.adopting there = true → goes (.smoveItems port p) (ack (r.1.onMove there fun y => y.hold it) 0)))) ∧
    (s.endRec k = some e →
      (e.frozen = true → e.frozenAt + Config.usec 120 ≤ s.cyc → (∀ r ∈ s.reqList, ∀ y ∈ r.pkts, (y.op = 6 ∨ y.op = 7) → osaField y 177 154 ≠ k.stream) →
        goes (.frozenRecordRelease k) (s.dropEnd k)) ∧
      (e.bind = some b →
        (b.st = .idle → b.since + Config.msec (s.fn b.fn).stidle.lo ≤ s.cyc → goes (.contextIdleTimeout k) (s.evictCtx k)) ∧
        (b.st = .evicting → goes (.contextEvictionDone k) ((s.onEnd k fun y => { y with bind := some { b with st := .evicted, since := s.cyc, gran := [] } }).wakeDie e.die)) ∧
        (b.st = .reloading → goes (.contextReloadDone k) ((s.onEnd k fun y => { y with bind := some { b with st := .active, since := s.cyc } }).settleStore e.die)) ∧
        (∀ it : Item, e.due = some it → s.startable e b = true → s.off = false → core % 60 ≠ 0 → core / 60 = e.die →
          (tableEnt (s.fn e.fn).table_ b.hidx = none → goes (.streamHandlerStart k core) (s.faultEnd e)) ∧
          (∀ (h : HandlerEnt) (pl : Option Nat × List Nat × Nat × Nat), tableEnt (s.fn e.fn).table_ b.hidx = some h → s.startPlace e h b.hidx core = some pl →
            (it.kind ≠ 1 → goes (.streamHandlerStart k core) (s.startItem e b it h core pl it.bytes 0)) ∧
            (it.kind = 1 → ∀ s1 : State,
              (s.adopted it e.fn e.die = (s1, none) → goes (.streamHandlerStart k core) s1) ∧
              (∀ hd st : Nat, s.adopted it e.fn e.die = (s1, some (hd, st)) →
                goes (.streamHandlerStart k core) ((s1.startItem e b it h core pl (bytesLE 16 hd) st).loseCarried it st))))))) ∧
    goes (.ctxstoreBWrite m v) ((s.writeB .ctxstore m 0 v).resizeStore s.ctxstore.lo) ∧ goes (.ctxstoreXWrite m v) ((s.writeX .ctxstore m 0 v).resizeStore s.ctxstore.lo)

/-! ## The host, functions and device care -/

/-- R396, R402 to R406, R203, R411: a snoop the host may make takes the line from every L1 that the slice lists; a host access of the function's own HDM range becomes one bypass request for each line; a function reset ends the function's work, forgets its translations and posted buffers, and completes once every request is performed, when each of its frames is scrub-pending with an epoch one higher; the scrubber makes a stale line zeros with the frame's epoch and writes no other; a device reset begins self-test; a self-test stage that fails is repeated once with a free spare in the failing part's place, and otherwise leaves the safe state and its entry in the report; a spare takes the place of a part at its quiescent point and not before; a corrected error is counted and changes no value; an uncorrectable one poisons the word; that, and the 64th corrected one of a part in 24 hours, calls for a spare. What survives a function reset, part numbers of spares and the request of a host access are the model's readings (logs 18, 25, 26, 63). -/
def Obligations.HostAndReset : Prop :=
  ∀ (s : State) (fn pa n vf line port lane : Nat) (bytes : List Byte) (inval : Bool),
    let goes (i : Instr) (t : State) : Prop := exec i s = .next t
    let b := s.boot
    ((homeOf (line * 128) ≠ 1 ∨ Tbl.find s.hostLines line = none) → goes (.hostSnoop line inval) s) ∧
    (∀ own : Bool, homeOf (line * 128) = 1 → Tbl.find s.hostLines line = some own → ∃ t : State, exec (.hostSnoop line inval) s = .next t ∧
      (t.line line).sharers = [] ∧ (t.line line).dirty = false ∧ (∀ a, a / 128 ≠ line → Memory.read t.mem a = Memory.read s.mem a) ∧ t.warps = s.warps ∧ Tbl.find t.hostLines line = (if inval then none else some false)) ∧
    (s.inHdm fn pa bytes.length = true → s.bufferUse .host 0 + (cutLines pa bytes.length).length ≤ hostEntries →
      goes (.hostMemWrite fn pa bytes) ((cutLines pa bytes.length).foldl
        (fun s p => s.hostReq fn .store [⟨32, p.2.1, p.2.1, p.2.2, leNat ((bytes.drop (p.2.1 - pa)).take p.2.2), 0, 2 ^ p.2.2 - 1⟩]) s)) ∧
    (s.inHdm fn pa n = true → s.bufferUse .host 0 + (cutLines pa n).length ≤ hostEntries →
      goes (.hostMemRead fn pa n) ((cutLines pa n).foldl (fun s p => s.hostReq fn .load [⟨32, p.2.1, p.2.1, p.2.2, 0, 0, 0⟩]) s)) ∧
    (1 ≤ vf → vf ≤ 32 → (s.fn vf).resetStep = 0 →
      goes (.functionReset vf) ((((s.resetWork vf).resetMemory vf).resetFabric vf).onFn vf fun f => { f with resetStep := 4 }) ∧
      (∀ y ∈ (s.resetWork vf).wgs, y.2.fn ≠ vf) ∧ (∀ q ∈ (s.resetWork vf).cmdq, q.2.fn ≠ vf) ∧ (∀ p ∈ (s.resetMemory vf).pages, p.fn ≠ vf) ∧ ((s.resetFabric vf).fn vf).slots = []) ∧
    ((s.fn vf).resetStep ≠ 0 → s.resetWaits vf = true → goes (.functionResetComplete vf) s) ∧
    ((s.fn vf).resetStep ≠ 0 → s.resetWaits vf = false → ∃ t : State, exec (.functionResetComplete vf) s = .next t ∧
      (t.fn vf).resetStep = 0 ∧ (t.fn vf).unlock = Unlock.reset ∧ (t.fn vf).vfbud = Fn.reset.vfbud ∧ (t.fn vf).vfscope = Fn.reset.vfscope ∧
      (∀ (k : Nat) (f : Frame), Tbl.find s.frames k = some f → ∃ g : Frame, Tbl.find t.frames k = some g ∧ g.owner = f.owner ∧
        (f.owner = vf → g.epoch = f.epoch + 1 ∧ g.scrub = true) ∧ (f.owner ≠ vf → g = f))) ∧
    (line < 2 ^ 50 → s.stale (line * 128) = true → ∃ t : State, exec (.scrubLine line) s = .next t ∧
      t.mem = Memory.clear s.mem (line * 128) 128 ∧ (t.line line).version = 0 ∧ (t.line line).epoch = (s.frame (line / 512)).epoch) ∧
    (s.stale (line * 128) = false → ∃ t : State, exec (.scrubLine line) s = .next t ∧ t.mem = s.mem ∧ t.lines = s.lines) ∧
    (∃ t : State, exec .deviceReset s = .next t ∧ t.mem = State.reset.mem ∧ t.wgs = [] ∧ t.warps = [] ∧ t.reqs = [] ∧ t.boot = b.afterReset ∧
      t.boot.stage = 0 ∧ (t.boot.running = true ∨ t.boot.safe = true)) ∧
    (b.running = true →
      (∀ x : Sys2Proof.FailPart × Nat, goes (.selfTestStageDone true x) { s with boot := { b with stage := b.stage + 1, repeat_ := false, running := decide (b.stage + 1 < 6) } }) ∧
      (∀ (k : SpareKind) (part phys : Nat), b.repeat_ = false → b.spareLeft k part = true → b.spareFree k part phys = true →
        goes (.selfTestStageDone false (.part k part, phys)) { s.substitute k part phys with boot := { (s.substitute k part phys).boot with repeat_ := true } }) ∧
      (∀ x : Sys2Proof.FailPart × Nat, (∀ (k : SpareKind) (part phys : Nat), x = (.part k part, phys) → b.repeat_ = true ∨ b.spareLeft k part = false ∨ b.spareFree k part phys = false) →
        ∃ t : State, exec (.selfTestStageDone false x) s = .next t ∧ t.boot.safe = true ∧ t.boot.running = false ∧ t.off = true ∧
          t.boot.report = b.report ++ [(b.stage + 1, x.1)])) ∧
    (b.running = false → ∀ (pass : Bool) (x : Sys2Proof.FailPart × Nat), goes (.selfTestStageDone pass x) s) ∧
    goes .coolantFault { s with boot := { b with safe := true } } ∧
    goes (.linkTrainingComplete port lane) { s with boot := { b with lanes := b.lanes.filter fun x => x != (port, lane) } } ∧
    (∀ site : UpsetSite,
      let e : Boot := { b with errors := Tbl.put b.errors (s.siteCounter site) (Tbl.getD b.errors (s.siteCounter site) 0 + 1) }
      (s.sitePart site = none → goes (.softError site true) { s with boot := e } ∧ goes (.softError site false) (s.poisonAt site)) ∧
      (∀ (k : SpareKind) (part : Nat), s.sitePart site = some (k, part) →
        let l := b.strikes.filter (fun x => s.cyc < x.2.2 + 24 * 3600 * Config.msec 1000) ++ [(k, part, s.cyc)]
        let t : State := { s with boot := { e with strikes := l } }
        let n := (l.filter fun x => decide (x.1 = k) && x.2.1 == part).length
        (n < 64 → goes (.softError site true) t) ∧ (64 ≤ n → goes (.softError site true) (t.trigger k part)) ∧
        goes (.softError site false) ((s.poisonAt site).trigger k part))) ∧
    (∀ (k : SpareKind) (part phys : Nat),
      ((b.spareLeft k part = true ∨ (k, part) ∈ b.pending) → goes (.spareTrigger k part) (s.awaitSpare k part)) ∧
      (b.spareLeft k part = false → (k, part) ∉ b.pending → goes (.spareTrigger k part) (s.management part).enterSafe) ∧
      ((k, part) ∈ b.pending → s.quiescent k part = true → b.spareFree k part phys = true → goes (.spareSubstitution k part phys) (s.substitute k part phys)) ∧
      (((k, part) ∉ b.pending ∨ s.quiescent k part = false ∨ b.spareFree k part phys = false) → goes (.spareSubstitution k part phys) s) ∧
      (s.substitute k part phys).boot.spares = b.spares ++ [(k, part, phys)] ∧ (s.substitute k part phys).boot.pending = b.pending.erase (k, part) ∧
      (k ≠ .core → (s.substitute k part phys).mem = s.mem ∧ (s.substitute k part phys).warps = s.warps)) ∧
    (b.hostPort = 0 → (∀ r ∈ s.reqs, r.2.id = r.1) → ∃ t : State, exec .hostPortFailover s = .next t ∧ t.boot.hostPort = 1 ∧ (∀ r ∈ t.reqs, r.2.cls ≠ .host)) ∧
    (b.hostPort ≠ 0 → ∃ t : State, exec .hostPortFailover s = .next t ∧ t.boot.safe = true)

/-- R404, R407 to R411 and R297: a write of the doorbell starts a command: one that is not open to its writer answers status 1 and changes nothing else, as an unlisted code answers 2 and one behind a command still under way 3; a started one sets bit 31 until firmware has carried it out with the operands of the request and answers its own status: a malformed queue record, or a `DEVSUB` ring outside the device's own HBM4E, 2, a queue of another function 1, a frame the device does not have 2; `ATTEST` answers the report and its signature, `POSTREPORT` the certificate on page 0. The layout of the mailbox records and the status numbers are the model's choice (log 15). -/
def Obligations.MailboxCommands : Prop :=
  ∀ (s : State) (m : Mgr) (n q page frame owner part : Nat) (rc : QueueRec) (nonce : BitVec 256) (pass : Bool) (k : SpareKind) (img : Image),
    let answers (i : Instr) (t : State) (code status : Nat) (rest : List Byte) : Prop := exec i s = .next (t.respondTo m code status rest)
    let fn := mgrFn m
    let b := s.boot
    let started (code : Nat) : Prop := s.started m code = true
    (∀ v : W64, let c := v.toNat % 256
      let rings (t : State) : Prop := exec (.registerWrite m 0x80 4 v) s = .next t
      ((s.fn fn).doorbell.getLsbD 31 = true → rings (s.onFn fn fun f => { f with response := 3#8 :: f.response.drop 1 })) ∧
      ((s.fn fn).doorbell.getLsbD 31 = false →
        ((c = 0 ∨ (5 ≤ c ∧ c ≤ 15) ∨ 0x17 ≤ c) → rings (s.respondTo m c 2 [])) ∧
        (((1 ≤ c ∧ c ≤ 4 ∧ isFunction m = false) ∨ (0x10 ≤ c ∧ c ≤ 0x16 ∧ m ≠ .pf)) → rings (s.respondTo m c 1 [])) ∧
        (((1 ≤ c ∧ c ≤ 4 ∧ isFunction m = true) ∨ (0x10 ≤ c ∧ c ≤ 0x16 ∧ m = .pf)) → rings (s.onFn fn fun f => { f with doorbell := BitVec.ofNat 32 (2 ^ 31 + c) })))) ∧
    (∀ i ∈ [(Instr.openq m rc, 1), (.closeq m q, 2), (.faultlog m, 3), (.attest m nonce, 4), (.postreport m page, 0x10), (.retest m pass, 0x11), (.substitute m k part, 0x12), (.retire m, 0x13),
      (.fwupdate m img, 0x14), (.frameinfo m frame, 0x15), (.assign m frame owner, 0x16)], s.started m i.2 = false → exec i.1 s = .next s) ∧
    (started 1 → s.requestRec m = rc →
      ((recOk rc = false ∨ (rc.flags = 1 ∧ s.ringLocal fn rc = false)) → answers (.openq m rc) s 1 2 []) ∧
      (recOk rc = true → (rc.flags ≠ 1 ∨ s.ringLocal fn rc = true) → (s.fn fn).resetStep = 0 → s.freeQueue = some q → ∃ (t : State) (x : Queue), exec (.openq m rc) s = .next t ∧
        Tbl.find t.cmdq q = some x ∧ x.fn = fn ∧ x.ring = rc.ring ∧ x.logn = rc.logn ∧ x.die = rc.die ∧ x.prio = rc.prio ∧ x.proc = rc.proc ∧ x.state = 1 ∧ x.head = 0 ∧ x.tail = 0)) ∧
    (started 2 → s.requestN m 0 4 = q →
      (∀ x : Queue, Tbl.find s.cmdq q = some x →
        (x.fn = fn → x.state ≠ 0 → answers (.closeq m q) (s.putCmdq q { x with state := 0, tail := x.head, refused := [] }) 2 0 []) ∧
        (x.fn ≠ fn → answers (.closeq m q) s 2 1 []))) ∧
    (started 3 →
      (∀ (r : LogRec) (rest : List LogRec), (s.fn fn).log = r :: rest → answers (.faultlog m) (s.onFn fn fun f => { f with log := rest }) 3 0 r.bytes) ∧
      ((s.fn fn).log = [] → answers (.faultlog m) s 3 0 [])) ∧
    (started 4 → s.requestN m 0 32 = nonce.toNat →
      answers (.attest m nonce) s 4 0 (s.attestFields fn nonce ++ Config.sign (digest (s.attestFields fn nonce)))) ∧
    (started 0x10 → s.requestN m 0 4 = page →
      (page = 0 → answers (.postreport m page) s 0x10 0 Config.certificate) ∧
      (page ≠ 0 → answers (.postreport m page) s 0x10 0 ((b.reportBytes.drop (64 * (page - 1))).take 64))) ∧
    (started 0x11 →
      (b.safe = true → b.retired = false → answers (.retest m true) { s with boot := { b with safe := false, running := false, stage := 6 } } 0x11 0 [] ∧ answers (.retest m false) s 0x11 0 []) ∧
      (b.retired = true → answers (.retest m pass) s 0x11 1 [])) ∧
    (started 0x12 → s.requestN m 0 1 = Sys2Proof.Machine.SpareKind.code k → s.requestN m 8 8 = part →
      (b.spareLeft k part = true → answers (.substitute m k part) (s.awaitSpare k part) 0x12 0 []) ∧
      (b.spareLeft k part = false → answers (.substitute m k part) s 0x12 1 [])) ∧
    (started 0x13 → answers (.retire m) { s with boot := { b with safe := true, retired := true } } 0x13 0 []) ∧
    (started 0x14 → answers (.fwupdate m img) { s with boot := { b with banks := b.banks.set (1 - b.active) (some img), active := 1 - b.active } } 0x14 0 []) ∧
    (started 0x15 → s.requestN m 0 8 = frame →
      (frameCount ≤ frame → answers (.frameinfo m frame) s 0x15 2 []) ∧
      (frame < frameCount → answers (.frameinfo m frame) s 0x15 0
        (bytesLE 1 (if (s.frame frame).scrub then 1 else 0) ++ bytesLE 2 0 ++ bytesLE 4 (s.frame frame).owner ++ bytesLE 8 (s.frame frame).epoch))) ∧
    (started 0x16 → s.requestN m 0 8 = frame → s.requestN m 8 4 = owner →
      (frameCount ≤ frame → answers (.assign m frame owner) s 0x16 2 []) ∧
      (frame < frameCount → owner ≤ 32 → (s.fn (s.frame frame).owner).resetStep = 0 → s.pages = [] →
        (((s.frame frame).scrub = false ∨ (s.frame frame).rises < 255) → answers (.assign m frame owner) (s.putFrame frame { s.frame frame with owner := owner }) 0x16 0 []) ∧
        ((s.frame frame).scrub = true → 255 ≤ (s.frame frame).rises → answers (.assign m frame owner) s 0x16 1 []))) ∧
    (∀ j : Nat, (s.respondTo m 3 n []).fn fn = ({ s.fn fn with response := [BitVec.ofNat 8 n], doorbell := 3#32 } : Fn) ∧ (j ≠ fn → (s.respondTo m 3 n []).fn j = s.fn j))

/-- R7, R8, R10, R11, R298, R309, R315, R335 and R414: reads of the register space. A `_B` view reads the code in force and an `_X` view the parameters in their fields, every other bit 0, so that an `_X` read written back where the view is open keeps the setting; `XUNLOCK` reads its group, XREJ, XDONE and OPEN with KEY 0; a slice reads only its defined bits; `PTPSET` and `PTPADJ` read 0; a queue's `QSTAT` reads for its owner alone; and what a virtual function's space does not hold reads 0. -/
def claimRegisterReads : Prop :=
  ∀ (s : State) (m : Mgr) (off width : Nat) (v : W32),
    let f := mgrFn m
    let u := (s.fn f).unlock
    ((off % width ≠ 0 ∨ width = 0) → s.readReg m off width = 0) ∧
    (∀ vf : Nat, m = .vf vf → 0x200000 ≤ off → s.readReg m off width = 0) ∧
    (u.group ≤ 255 → (s.readReg m 0x1000 4).toNat = u.group * 256 + (if u.xrej then 4 else 0) + (if u.xdone then 2 else 0) + (if u.opened then 1 else 0)) ∧
    (m ≠ .fw → ∀ x ∈ [(SetReg.icoal, 0x1100), (.arbguard, 0x1108), (.park, 0x1110), (.stidle, 0x1118)],
      s.readReg m x.2 4 = BitVec.ofNat 64 (s.getReg x.1 f).code ∧ s.readReg m (x.2 + 4) 4 = (x.1.word (s.getReg x.1 f)).setWidth 64) ∧
    (m = .pf → ∀ x ∈ [(SetReg.resid, 0x200000), (.replayq, 0x200008), (.rowguard, 0x200010), (.bulk, 0x200018), (.ctxstore, 0x200020), (.power, 0x200028)],
      s.readReg m x.2 4 = BitVec.ofNat 64 (s.getReg x.1 0).code ∧ s.readReg m (x.2 + 4) 4 = (x.1.word (s.getReg x.1 0)).setWidth 64) ∧
    (m = .pf → ∀ n : Nat, 1 ≤ n → n ≤ 32 → ∀ x ∈ [(SetReg.vfbud, 0), (.vfscope, 8), (.icoal, 16), (.arbguard, 24), (.park, 32), (.stidle, 40)],
      s.readReg m (0x201000 + (n - 1) * 64 + x.2) 4 = BitVec.ofNat 64 (s.getReg x.1 n).code ∧
      s.readReg m (0x201000 + (n - 1) * 64 + x.2 + 4) 4 = (x.1.word (s.getReg x.1 n)).setWidth 64) ∧
    (∀ r : SetReg, r.expert (r.word (r.expert v.toNat)).toNat = r.expert v.toNat) ∧
    (m = .pf → ∀ k : Nat, k < 64 → (s.writeSlice k v).readReg m (0x202000 + 4 * k) 4 = (v &&& 0x01FFFFFF#32).setWidth 64) ∧
    (m = .pf → s.readReg m 0x200100 8 = 0 ∧ s.readReg m 0x200108 8 = 0 ∧ s.readReg m 0x200120 8 = s.ptp.stat) ∧
    (∀ q : Nat, q < 4096 → s.readReg m (0x10000 + 16 * q) 8 = 0 ∧
      (∀ x : Queue, Tbl.find s.cmdq q = some x →
        s.readReg m (0x10008 + 16 * q) 8 = if x.fn = f then BitVec.ofNat 64 (x.state * 2 ^ 62 + x.ecode % 256 * 2 ^ 48 + x.eidx % 65536 * 2 ^ 32 + x.head) else 0))

/-- R10 to R12, R399 and R412 to R414: a write to a `_B` view puts the preset it names in force, and one that names none is discarded; a write to an `_X` view takes effect, clamped, while `XUNLOCK` opens its group for the writer, and is discarded otherwise; a register outside the writer's own space changes nothing; a setting in force reads back as it was set. A setting in force is kept as a code and two numbers, the model's form (log 64). -/
def Obligations.SettingsWrites : Prop :=
  (∀ (s : State) (m : Mgr) (n : Nat) (v : W32) (x : SetReg × Nat × Instr × Instr),
    x ∈ [(SetReg.resid, 0, Instr.residBWrite m v, Instr.residXWrite m v), (.replayq, 0, .replayqBWrite m v, .replayqXWrite m v), (.rowguard, 0, .rowguardBWrite m v, .rowguardXWrite m v),
      (.bulk, 0, .bulkBWrite m v, .bulkXWrite m v), (.power, 0, .powerBWrite m v, .powerXWrite m v), (.vfbud, n, .vfbudBWrite m n v, .vfbudXWrite m n v),
      (.vfscope, n, .vfscopeBWrite m n v, .vfscopeXWrite m n v), (.icoal, n, .icoalBWrite m n v, .icoalXWrite m n v), (.arbguard, n, .arbguardBWrite m n v, .arbguardXWrite m n v),
      (.park, n, .parkBWrite m n v, .parkXWrite m n v), (.stidle, n, .stidleBWrite m n v, .stidleXWrite m n v)] →
    let r := x.1
    let fn := x.2.1
    (r.reachable m fn = false → exec x.2.2.1 s = .next s ∧ exec x.2.2.2 s = .next s) ∧
    (r.reachable m fn = true →
      (∀ y : Setting, r.preset (v.toNat % 16) = some y → exec x.2.2.1 s = .next (s.setReg r fn y)) ∧
      (r.preset (v.toNat % 16) = none → exec x.2.2.1 s = .next (s.reject m)) ∧
      (s.openFor_ m r.group = true → exec x.2.2.2 s = .next ((s.setReg r fn (r.expert v.toNat)).onUnlock m fun u => { u with xdone := true })) ∧
      (s.openFor_ m r.group = false → exec x.2.2.2 s = .next (s.reject m)))) ∧
  (∀ (s : State) (r : SetReg) (fn : Nat) (y : Setting), (s.setReg r fn y).getReg r fn = y ∧ (s.setReg r fn y).mem = s.mem ∧ (s.setReg r fn y).warps = s.warps) ∧
  (∀ (r : SetReg) (v : Nat), (r.expert v).code = 15 ∧ (∀ (c : Nat) (y : Setting), r.preset c = some y → y.code = c)) ∧
  (∀ (s : State) (m : Mgr) (v : W32), let g := v.toNat / 256 % 256
    ((v.toNat / 65536 ≠ 0x5A6E ∨ (g ≠ 255 ∧ mayUnlock m g = false)) → exec (.xunlockWrite m v) s = .next (s.reject m)) ∧
    (v.toNat / 65536 = 0x5A6E → (g = 255 ∨ mayUnlock m g = true) →
      exec (.xunlockWrite m v) s = .next (s.onUnlock m fun u => ⟨g, u.xrej && !v.getLsbD 2, u.xdone && !v.getLsbD 0, v.getLsbD 0⟩))) ∧
  (∀ (s : State) (m : Mgr) (off width : Nat) (v : W64),
    ((off % width ≠ 0 ∨ width = 0) → exec (.registerWrite m off width v) s = .next s) ∧
    (∀ f : Nat, m = .vf f → 0x200000 ≤ off → exec (.registerWrite m off width v) s = .next s) ∧
    exec (.registerWrite m 0x1000 4 v) s = exec (.xunlockWrite m (v.setWidth 32)) s ∧
    (let f := mgrFn m
     exec (.registerWrite m 0x1100 4 v) s = exec (.icoalBWrite m f (v.setWidth 32)) s ∧ exec (.registerWrite m 0x1104 4 v) s = exec (.icoalXWrite m f (v.setWidth 32)) s ∧
     exec (.registerWrite m 0x1108 4 v) s = exec (.arbguardBWrite m f (v.setWidth 32)) s ∧ exec (.registerWrite m 0x1110 4 v) s = exec (.parkBWrite m f (v.setWidth 32)) s ∧
     exec (.registerWrite m 0x1118 4 v) s = exec (.stidleBWrite m f (v.setWidth 32)) s) ∧
    (m = .pf → exec (.registerWrite m 0x200000 4 v) s = exec (.residBWrite m (v.setWidth 32)) s ∧ exec (.registerWrite m 0x20000C 4 v) s = exec (.replayqXWrite m (v.setWidth 32)) s ∧
      exec (.registerWrite m 0x201040 4 v) s = exec (.vfbudBWrite m 2 (v.setWidth 32)) s ∧ exec (.registerWrite m 0x200100 8 v) s = exec (.ptpsetWrite m v) s)) ∧
  claimRegisterReads

/-! ## The machine -/

/-- A step takes the agenda's next move once its wait is over, an event by its meaning, an issue by fetching the instruction at the stream's place and running its meaning where the core of the warp chooses that stream next, and by nothing where it chooses another; what it issues counts toward the skid of a warp that stops (R322), and a warp that runs counts none. With no move due it takes the device's own next event; else the issue that the selection of R54 and R313 names; else the cycle ends (log 1). The agenda and the order of the agents of one cycle are the model's choice (log 1). -/
def Obligations.StepRunsDecodedInstruction : Prop :=
  ∀ (s : State) (k : Nat) (st : Stream) (i : Instr) (w : Warp) (m : Move) (rest : List (Nat × Move)),
    let q : State := { s with agenda := rest }
    let counted (p : State) (o : Host.Outcome State Fault Refusal) : Host.Outcome State Fault Refusal :=
      match o with | .next t => .next (t.onWarp k fun w => w.countSkid st p.cyc) | x => x
    (s.agenda = (0, .event i) :: rest → step s = exec i q) ∧
    (s.agenda = (0, .issue k st) :: rest → q.isChosen k st = true → Tbl.find (q.selected k st).warps k = some w → (q.selected k st).instrAt k w st = some i →
      step s = counted q (exec i { q.selected k st with cur := some (k, st) })) ∧
    (s.agenda = (0, .issue k st) :: rest → q.isChosen k st = false → step s = .next q) ∧
    ((s.agenda = [] ∨ ∃ n, s.agenda = (n + 1, m) :: rest) →
      (∀ t : State, s.internal = some t → step s = .next t) ∧
      (s.internal = none → s.selection = some (k, st) → Tbl.find (s.selected k st).warps k = some w → (s.selected k st).instrAt k w st = some i →
        step s = counted s (exec i { s.selected k st with cur := some (k, st) })) ∧
      (s.internal = none → s.selection = none → step s = .next s.tick)) ∧
    (w.halt = .run → w.countSkid st s.cyc = w)

/-- The instruction placed for the next fetch is the one its word decodes to, a scalar word in its four bytes and a lane instruction in its twelve (R75, R77, R84, log 3). How a program is placed is the model's choice (log 3). -/
def Obligations.FetchReadsTheWord : Prop :=
  ∀ (w : Nat),
    (w < 2 ^ 32 → (State.reset.withFetchWord 32 w).instrAt 0 (loadedWarp (loadedWg 0 1) false) .scalar = decodeTableWord 32 w) ∧
    (w < 2 ^ 96 → (State.reset.withFetchWord 96 w).instrAt 0 (loadedWarp (loadedWg 0 1) true) .slotA = decodeTableWord 96 w)

/-- Every instruction and event completes with a next state wherever a warp stands at the issuing position; without one, only the instructions of a warp stop, and nothing is refused (log 1). The issuing position and the fault without one are the model's own (log 1). -/
def Obligations.NoInstructionStops : Prop :=
  ∀ (i : Instr) (s : State),
    (∀ (k : Nat) (w : Warp) (st : Stream), s.issues k w st → ∃ t : State, exec i s = .next t) ∧
    ((∃ t : State, exec i s = .next t) ∨ (s.issuer = none ∧ exec i s = .fault .noIssuer))

/-- R10, R11, R309, R310, R315, R318, R327, R334, R390, R399, R405, R413, R415 and the Reset columns: what a device reset leaves: compute off until self-test has passed, every setting at its preset, the expert views locked, the slice table all the physical function's, device time not synchronised, no device ID, route or tenant entry; and memory in its canonical form. What the spec gives no reset value for stands at the model's choice (log 5), and unwritten memory reads as 0 (log 4). -/
def Obligations.ResetState : Prop :=
  let s := State.reset
  s.Inv ∧ s.off = true ∧ s.warps = [] ∧ s.wgs = [] ∧ s.reqs = [] ∧ s.cmdq = [] ∧ s.ends = [] ∧
  s.getReg .resid 0 = ⟨2, 0, 512⟩ ∧ s.getReg .replayq 0 = ⟨2, 64, 4⟩ ∧ s.getReg .rowguard 0 = ⟨2, 20, 2048⟩ ∧ s.getReg .bulk 0 = ⟨2, 32, 16⟩ ∧
  s.getReg .ctxstore 0 = ⟨0, 0, 0⟩ ∧ s.getReg .power 0 = ⟨1, 0, 240⟩ ∧
  (∀ f, s.getReg .icoal f = ⟨2, 20, 32⟩ ∧ s.getReg .arbguard f = ⟨2, 0, 10⟩ ∧ s.getReg .park f = ⟨0, 0, 0⟩ ∧ s.getReg .stidle f = ⟨2, 0, 400⟩ ∧
    s.getReg .vfbud f = ⟨1, 0, 0⟩ ∧ s.getReg .vfscope f = ⟨2, 0, 1⟩) ∧
  (∀ m g, s.openFor_ m g = false) ∧
  s.slices[0] = 1000#32 ∧ (∀ j : Fin 64, 0 < j.val → s.slices[j] = 0x00FF0000#32) ∧
  s.ptp.sync = false ∧ s.ptp.hold = 2000 ∧ s.devid = 0xFFFFF#20 ∧ s.fab.route = [] ∧ s.fab.tenmap = [] ∧ s.dataOff = true

/-- The memory keeps its canonical form: addresses strictly rising, and no listed byte equal to what an unlisted address reads as; every step keeps it, whatever instruction or event it runs (log 4). The form itself and what an unlisted byte reads as are the model's choice (log 4). -/
def Obligations.StepKeepsMemoryCanonical : Prop :=
  ∀ (s t : State), s.Inv → step s = .next t → t.Inv

/-- The frame of the scalar register operations (R36, R49, R114, R116 to R118): where no fall-through leaves the section, only the destination register may change, `s0` never; every other scalar register, the lane registers, flags, trap registers, slots and queues of the warp, every other warp, and every byte of memory stay. -/
def Obligations.ScalarFrame : Prop :=
  ∀ (s t : State) (k : Nat) (w : Warp) (cc : SCond) (d a b : SReg) (i : BitVec 14) (j : BitVec 11) (n : BitVec 6) (u : BitVec 20),
    s.issues k w .scalar → (s.wg (wgOf k)).inScalar w.sc.fall.pc = true →
    ∀ x ∈ [Instr.sadd d a b, .ssub d a b, .smul d a b, .smulh d a b, .sdiv d a b, .srem d a b, .sand d a b, .sor d a b, .sxor d a b,
      .sshl d a b, .sshr d a b, .ssra d a b, .smin d a b, .smax d a b, .smulhU d a b, .sdivU d a b, .sremU d a b, .sminU d a b, .smaxU d a b,
      .scmp cc d a b, .saddi d a i, .smuli d a i, .sandi d a i, .sori d a i, .sxori d a i, .smini d a i, .smaxi d a i,
      .sshli d a n, .sshri d a n, .ssrai d a n, .scmpi cc d a j, .slui d u],
    exec x s = .next t →
      t = { s with warps := t.warps } ∧ (∀ c, Memory.read t.mem c = Memory.read s.mem c) ∧ (∀ e, e ≠ k → Tbl.find t.warps e = Tbl.find s.warps e) ∧
      ∃ v : Warp, Tbl.find t.warps k = some v ∧ v = { w with sc := v.sc, csr := { w.csr with perf := v.csr.perf } } ∧
        (∀ e : SReg, e ≠ d → v.sr e = w.sr e ∧ v.sc.full e = w.sc.full e) ∧ v.sr 0 = 0 ∧ v.sc.lsel = w.sc.lsel ∧ v.sc.wait = w.sc.wait

/-- The frame of the lane register operations at issue (R85, R95, R140, R141): the result is in flight and nothing else has changed: no lane register, predicate, counter or flag, no scalar register, no other warp and no byte of memory; what lands later is LaneResultLands. A read of `FFLAGS` that waits (R165) has not issued, and is the one form left to LaneMovesAndPredicates. -/
def Obligations.LaneFrame : Prop :=
  ∀ (s t : State) (k : Nat) (w : Warp) (st : Stream) (l : LaneReg), s.laneReady k w st l.hdr (LaneReg.uses1 l) →
    ∀ x ∈ [Instr.iadd l, .isub l, .imul l, .imulh l, .imad l, .imin l, .imax l, .iabs l, .icmp l, .land l, .lor l, .lxor l, .lshl l, .lshr l, .lsra l,
      .popc l, .clz l, .brev l, .bfe l, .bfi l, .fadd l, .fsub l, .fmul l, .ffma l, .fmin l, .fmax l, .fcmp l, .fclass l, .frnd l,
      .rcp l, .rsq l, .sqrt l, .exp2 l, .log2 l, .sin l, .cos l, .tanh l, .cvt l, .pack l, .unpack l, .bfpd l, .bfpq l, .sel l, .plop l, .sprd l],
    ¬ (x = .sprd l ∧ l.low = 0 ∧ s.flagsOwed k st = true) → exec x s = .next t →
      t = { s with warps := t.warps, nextId := t.nextId, free := t.free } ∧ (∀ c, Memory.read t.mem c = Memory.read s.mem c) ∧
      (∀ e, e ≠ k → Tbl.find t.warps e = Tbl.find s.warps e) ∧
      ∃ (v : Warp) (r : Result), Tbl.find t.warps k = some v ∧ v.flight = w.flight ++ [r] ∧ r.id = s.nextId ∧ r.lanes = w.active st l.hdr ∧
        v.rg = w.rg ∧ v.fflags = w.fflags ∧ v.sc = w.sc ∧ v.trap = w.trap ∧ v.x = w.x ∧ v.larg = w.larg ∧ v.rq = w.rq ∧ v.blocks = w.blocks ∧ v.handler = w.handler ∧ v.halt = w.halt
end

