-- ==== Sys2Proof/Laws/Table.lean ====
section
/-! SUPPORT. Laws of the tables and memories: read after write, every other key alone, and the canonical form. -/

namespace Sys2Proof.Machine

/-! ## Read after write -/

@[simp] theorem Tbl.find_put_same {α : Type} (m : Tbl α) (k : Nat) (v : α) : Tbl.find (Tbl.put m k v) k = some v := by
  induction m with
  | nil => simp [Tbl.put, Tbl.find]
  | cons x r ih =>
    obtain ⟨j, u⟩ := x
    rw [Tbl.put]
    split
    · simp [Tbl.find]
    · split <;> simp_all [Tbl.find]

theorem Tbl.find_put_other {α : Type} (m : Tbl α) {k j : Nat} (v : α) (h : j ≠ k) : Tbl.find (Tbl.put m k v) j = Tbl.find m j := by
  induction m with
  | nil => simp [Tbl.put, Tbl.find, h]
  | cons x r ih =>
    obtain ⟨i, u⟩ := x
    rw [Tbl.put]
    split
    · subst i; simp [Tbl.find, h]
    · split
      · simp [Tbl.find, h]
      · simp [Tbl.find, ih]

theorem Tbl.find_put {α : Type} (m : Tbl α) (k j : Nat) (v : α) :
    Tbl.find (Tbl.put m k v) j = if j = k then some v else Tbl.find m j := by
  split
  · subst j; simp
  · exact Tbl.find_put_other m v ‹_›

@[simp] theorem Tbl.put_put {α : Type} (m : Tbl α) (k : Nat) (u v : α) : Tbl.put (Tbl.put m k u) k v = Tbl.put m k v := by
  induction m with
  | nil => simp [Tbl.put]
  | cons x r ih =>
    obtain ⟨j, w⟩ := x
    by_cases h1 : k = j
    · simp [Tbl.put, h1]
    · by_cases h2 : k < j
      · simp [Tbl.put, h1, h2]
      · simp [Tbl.put, h1, h2, ih]

@[simp] theorem Tbl.adjust_put {α : Type} (m : Tbl α) (k : Nat) (v : α) (f : α → α) :
    Tbl.adjust (Tbl.put m k v) k f = Tbl.put m k (f v) := by simp [Tbl.adjust]

theorem Tbl.adjust_of_find {α : Type} {m : Tbl α} {k : Nat} {v : α} (h : Tbl.find m k = some v) (f : α → α) :
    Tbl.adjust m k f = Tbl.put m k (f v) := by simp [Tbl.adjust, h]

theorem Tbl.find_adjust {α : Type} (m : Tbl α) (k j : Nat) (f : α → α) :
    Tbl.find (Tbl.adjust m k f) j = if j = k then (Tbl.find m k).map f else Tbl.find m j := by
  unfold Tbl.adjust
  split
  · rename_i v hv; rw [Tbl.find_put]; simp [hv]
  · rename_i hv; split
    · subst j; simp [hv]
    · rfl

theorem Tbl.find_del_same {α : Type} (m : Tbl α) (k : Nat) : Tbl.find (Tbl.del m k) k = none := by
  induction m with
  | nil => simp [Tbl.del, Tbl.find]
  | cons x r ih =>
    obtain ⟨j, u⟩ := x
    rw [Tbl.del]
    split
    · exact ih
    · simp_all [Tbl.find]

theorem Tbl.find_del_other {α : Type} (m : Tbl α) {k j : Nat} (h : j ≠ k) : Tbl.find (Tbl.del m k) j = Tbl.find m j := by
  induction m with
  | nil => simp [Tbl.del]
  | cons x r ih =>
    obtain ⟨i, u⟩ := x
    rw [Tbl.del]
    split
    · subst i; simp [Tbl.find, h, ih]
    · simp [Tbl.find, ih]

theorem Tbl.find_mapVal {α : Type} (f : Nat → α → α) (m : Tbl α) (k : Nat) :
    Tbl.find (Tbl.mapVal f m) k = (Tbl.find m k).map (f k) := by
  induction m with
  | nil => simp [Tbl.mapVal, Tbl.find]
  | cons x r ih =>
    obtain ⟨j, u⟩ := x
    simp only [Tbl.mapVal, List.map_cons, Tbl.find] at ih ⊢
    split
    · subst k; simp
    · exact ih

/-! ## Rising keys -/

/-- Every key of the table lies above `n`. -/
def Tbl.above {α : Type} (n : Nat) (m : Tbl α) : Prop := ∀ x ∈ m, n < x.1

theorem Tbl.sorted_cons {α : Type} (a : Nat × α) (m : Tbl α) : Tbl.sorted (a :: m) = true ↔ Tbl.above a.1 m ∧ Tbl.sorted m = true := by
  induction m generalizing a with
  | nil => simp [Tbl.sorted, Tbl.above]
  | cons b r ih =>
    simp only [Tbl.sorted, Bool.and_eq_true, decide_eq_true_eq]
    constructor
    · rintro ⟨hab, hs⟩
      refine ⟨?_, hs⟩
      intro x hx
      rcases List.mem_cons.1 hx with rfl | hx
      · exact hab
      · exact Nat.lt_trans hab (((ih b).1 hs).1 x hx)
    · rintro ⟨ha, hs⟩
      exact ⟨ha b (List.mem_cons_self ..), hs⟩

theorem Tbl.mem_put {α : Type} {m : Tbl α} {k : Nat} {v : α} {x : Nat × α} (h : x ∈ Tbl.put m k v) : x = (k, v) ∨ x ∈ m := by
  induction m with
  | nil => simp_all [Tbl.put]
  | cons y r ih =>
    obtain ⟨j, u⟩ := y
    rw [Tbl.put] at h
    split at h
    · rcases List.mem_cons.1 h with h | h
      · exact .inl h
      · exact .inr (List.mem_cons_of_mem _ h)
    · split at h
      · rcases List.mem_cons.1 h with h | h
        · exact .inl h
        · exact .inr h
      · rcases List.mem_cons.1 h with h | h
        · exact .inr (h ▸ List.mem_cons_self ..)
        · exact (ih h).imp id (List.mem_cons_of_mem _)

theorem Tbl.mem_del {α : Type} {m : Tbl α} {k : Nat} {x : Nat × α} (h : x ∈ Tbl.del m k) : x ∈ m := by
  induction m with
  | nil => simp_all [Tbl.del]
  | cons y r ih =>
    obtain ⟨j, u⟩ := y
    rw [Tbl.del] at h
    split at h
    · exact List.mem_cons_of_mem _ (ih h)
    · rcases List.mem_cons.1 h with h | h
      · exact h ▸ List.mem_cons_self ..
      · exact List.mem_cons_of_mem _ (ih h)

theorem Tbl.sorted_put {α : Type} (m : Tbl α) (k : Nat) (v : α) (h : Tbl.sorted m = true) : Tbl.sorted (Tbl.put m k v) = true := by
  induction m with
  | nil => simp [Tbl.put, Tbl.sorted]
  | cons x r ih =>
    obtain ⟨j, u⟩ := x
    have hx := (Tbl.sorted_cons (j, u) r).1 h
    rw [Tbl.put]
    split
    · subst k; exact (Tbl.sorted_cons _ r).2 ⟨hx.1, hx.2⟩
    · split
      · refine (Tbl.sorted_cons _ _).2 ⟨?_, h⟩
        intro y hy
        rcases List.mem_cons.1 hy with rfl | hy
        · assumption
        · exact Nat.lt_trans ‹_› (hx.1 y hy)
      · refine (Tbl.sorted_cons _ _).2 ⟨?_, ih hx.2⟩
        intro y hy
        rcases Tbl.mem_put hy with rfl | hy
        · change j < k; omega
        · exact hx.1 y hy

theorem Tbl.sorted_del {α : Type} (m : Tbl α) (k : Nat) (h : Tbl.sorted m = true) : Tbl.sorted (Tbl.del m k) = true := by
  induction m with
  | nil => simp [Tbl.del, Tbl.sorted]
  | cons x r ih =>
    obtain ⟨j, u⟩ := x
    have hx := (Tbl.sorted_cons (j, u) r).1 h
    rw [Tbl.del]
    split
    · exact ih hx.2
    · exact (Tbl.sorted_cons _ _).2 ⟨fun y hy => hx.1 y (Tbl.mem_del hy), ih hx.2⟩

theorem Tbl.sorted_filter {α : Type} (p : Nat × α → Bool) (m : Tbl α) (h : Tbl.sorted m = true) : Tbl.sorted (List.filter p m) = true := by
  induction m with
  | nil => simp [Tbl.sorted]
  | cons x r ih =>
    have hx := (Tbl.sorted_cons x r).1 h
    rw [List.filter_cons]
    split
    · exact (Tbl.sorted_cons _ _).2 ⟨fun y hy => hx.1 y (List.mem_filter.1 hy).1, ih hx.2⟩
    · exact ih hx.2

/-! ## The canonical form of memory -/

theorem Memory.wf_iff (m : Memory) : Memory.wf m = true ↔ Tbl.sorted m = true ∧ ∀ c ∈ m, c.2 ≠ Memory.blank := by
  simp [Memory.wf]

theorem Memory.wf_nil : Memory.wf [] = true := rfl

theorem Memory.wf_write (m : Memory) (a : Nat) (b : Byte) (h : Memory.wf m = true) : Memory.wf (Memory.write m a b) = true := by
  rw [Memory.wf_iff] at h ⊢
  unfold Memory.write
  split
  · exact ⟨Tbl.sorted_del m a h.1, fun c hc => h.2 c (Tbl.mem_del hc)⟩
  · refine ⟨Tbl.sorted_put m a b h.1, fun c hc => ?_⟩
    rcases Tbl.mem_put hc with rfl | hc
    · assumption
    · exact h.2 c hc

theorem Memory.wf_writeN (m : Memory) (a n v : Nat) (h : Memory.wf m = true) : Memory.wf (Memory.writeN m a n v) = true := by
  induction n generalizing m a v with
  | zero => exact h
  | succ n ih => exact ih _ _ _ (Memory.wf_write m a _ h)

theorem Memory.wf_writeL (m : Memory) (a : Nat) (bs : List Byte) (h : Memory.wf m = true) : Memory.wf (Memory.writeL m a bs) = true := by
  induction bs generalizing m a with
  | nil => exact h
  | cons b r ih => exact ih _ _ (Memory.wf_write m a b h)

theorem Memory.wf_clear (m : Memory) (lo n : Nat) (h : Memory.wf m = true) : Memory.wf (Memory.clear m lo n) = true := by
  rw [Memory.wf_iff] at h ⊢
  exact ⟨Tbl.sorted_filter _ m h.1, fun c hc => h.2 c (List.mem_filter.1 hc).1⟩

/-- The bytes of one write to a line, in order, keep the form. -/
theorem Memory.wf_writes (m : Memory) (bytes : List (Nat × Byte)) (h : Memory.wf m = true) :
    Memory.wf (bytes.foldl (fun m b => Memory.write m b.1 b.2) m) = true := by
  induction bytes generalizing m with
  | nil => exact h
  | cons b r ih => exact ih _ (Memory.wf_write m b.1 b.2 h)

/-! ## Reading after writing -/

theorem Memory.read_write (m : Memory) (a c : Nat) (b : Byte) :
    Memory.read (Memory.write m a b) c = if c = a then b else Memory.read m c := by
  unfold Memory.read Memory.write
  split
  · rename_i hb
    split
    · subst c; simp [Tbl.find_del_same, hb]
    · rw [Tbl.find_del_other m ‹_›]
  · rw [Tbl.find_put]
    split <;> simp

/-- A write of `n` bytes leaves every byte outside them alone. -/
theorem Memory.read_writeN_other (m : Memory) (a n v c : Nat) (h : c < a ∨ a + n ≤ c) :
    Memory.read (Memory.writeN m a n v) c = Memory.read m c := by
  induction n generalizing m a v with
  | zero => rfl
  | succ n ih => rw [Memory.writeN, ih _ _ _ (by omega), Memory.read_write, if_neg (by omega)]

theorem Memory.readN_write_below (m : Memory) (a c n : Nat) (b : Byte) (h : a < c) :
    Memory.readN (Memory.write m a b) c n = Memory.readN m c n := by
  induction n generalizing c with
  | zero => rfl
  | succ n ih => rw [Memory.readN, Memory.readN, ih _ (by omega), Memory.read_write, if_neg (by omega)]

theorem Memory.read_writeN_first (m : Memory) (a n v : Nat) :
    Memory.read (Memory.writeN m a (n + 1) v) a = BitVec.ofNat 8 v := by
  rw [Memory.writeN, Memory.read_writeN_other _ _ _ _ _ (by omega), Memory.read_write, if_pos rfl]

/-- What was written is read back, little-endian (R5). -/
theorem Memory.readN_writeN (m : Memory) (a n v : Nat) : Memory.readN (Memory.writeN m a n v) a n = v % 256 ^ n := by
  induction n generalizing m a v with
  | zero => simp [Memory.readN, Nat.mod_one]
  | succ n ih =>
    rw [Memory.readN, Memory.read_writeN_first, Memory.writeN, ih, BitVec.toNat_ofNat, Nat.pow_succ' (n := n), Nat.mod_mul]

end Sys2Proof.Machine
end

