-- ==== Sys2Proof/Laws/Issue.lean ====
section
/-! SUPPORT. What the issue of an instruction can do, said once for scalar and for lane instructions. -/

namespace Sys2Proof.Machine

theorem State.issuer_of_issues {s : State} {k : Nat} {w : Warp} {st : Stream} (h : s.issues k w st) :
    s.issuer = some (k, w, st) := by simp [State.issuer, h.1, h.2]

@[simp] theorem State.onWarp_putWarp (s : State) (k : Nat) (w : Warp) (f : Warp → Warp) :
    (s.putWarp k w).onWarp k f = s.putWarp k (f w) := by simp [State.onWarp, State.putWarp]

theorem State.onWarp_of_find {s : State} {k : Nat} {w : Warp} (h : Tbl.find s.warps k = some w) (f : Warp → Warp) :
    s.onWarp k f = s.putWarp k (f w) := by simp [State.onWarp, State.putWarp, Tbl.adjust, h]

@[simp] theorem State.find_putWarp_same (s : State) (k : Nat) (w : Warp) : Tbl.find (s.putWarp k w).warps k = some w := by
  simp [State.putWarp]

theorem State.find_putWarp_other (s : State) {k j : Nat} (w : Warp) (h : j ≠ k) :
    Tbl.find (s.putWarp k w).warps j = Tbl.find s.warps j := Tbl.find_put_other _ _ h

/-! ## Scalar issue -/

/-- Every answer of a scalar issue with an issuer is a next state. -/
theorem scalarIssue_next {s : State} {k : Nat} {w : Warp} {st : Stream} (h : s.issues k w st) (us : List SReg) (f : Nat → Warp → SOut) :
    ∃ t, scalarIssue s us f = .next t := by
  simp only [scalarIssue, State.issuer_of_issues h]
  split
  · split <;> (try split) <;> exact ⟨_, rfl⟩
  · exact ⟨_, rfl⟩

theorem scalarIssue_done {s t : State} {k : Nat} {w : Warp} {us : List SReg} {f : Nat → Warp → SOut} (h : s.scalarReady k w us) (hf : f k w = .done t) :
    scalarIssue s us f = .next (t.onWarp k Warp.fallS) := by
  simp [scalarIssue, State.issuer_of_issues h.1, h.2.1, hf, h.2.2]

theorem scalarIssue_stay {s t : State} {k : Nat} {w : Warp} {us : List SReg} {f : Nat → Warp → SOut} (h : s.scalarReady k w us) (hf : f k w = .stay t) :
    scalarIssue s us f = .next t := by
  simp [scalarIssue, State.issuer_of_issues h.1, h.2.1, hf, h.2.2]

theorem scalarIssue_jump {s t : State} {k : Nat} {w : Warp} {us : List SReg} {f : Nat → Warp → SOut} {pc : W64} {st : Stream}
    (h : s.issues k w st) (hr : w.sc.ready us = true) (hf : f k w = .jump t pc) (hp : (s.wg (wgOf k)).inScalar pc = true) :
    scalarIssue s us f = .next (t.onWarp k fun w => w.jumpS pc) := by
  simp [scalarIssue, State.issuer_of_issues h, hr, hf, hp]

theorem scalarIssue_trap {s : State} {k : Nat} {w : Warp} {us : List SReg} {f : Nat → Warp → SOut} {code info : Nat} {st : Stream}
    (h : s.issues k w st) (hr : w.sc.ready us = true) (hf : f k w = .trap code info) :
    scalarIssue s us f = .next (s.raiseScalar k w code info) := by
  simp [scalarIssue, State.issuer_of_issues h, hr, hf]

theorem scalarIssue_final {s t : State} {k : Nat} {w : Warp} {us : List SReg} {f : Nat → Warp → SOut} {st : Stream}
    (h : s.issues k w st) (hr : w.sc.ready us = true) (hf : f k w = .final t) : scalarIssue s us f = .next t := by
  simp [scalarIssue, State.issuer_of_issues h, hr, hf]

/-- An instruction whose register is empty waits: nothing changes (R114). -/
theorem scalarIssue_waits {s : State} {k : Nat} {w : Warp} {us : List SReg} {f : Nat → Warp → SOut} {st : Stream}
    (h : s.issues k w st) (hr : w.sc.ready us = false) : scalarIssue s us f = .next s := by
  simp [scalarIssue, State.issuer_of_issues h, hr]

theorem scalarAlu_ready {s : State} {k : Nat} {w : Warp} {us : List SReg} {d : SReg} {f : Warp → W64} (h : s.scalarReady k w us) :
    scalarAlu s us d f = .next (s.fellThrough k (w.writeS d (f w))) := by
  rw [scalarAlu, scalarIssue_done h rfl, State.onWarp_putWarp, State.fellThrough]

theorem scalarLong_ready {s : State} {k : Nat} {w : Warp} {us : List SReg} {d : SReg} {f : Warp → W64} (h : s.scalarReady k w us) :
    scalarLong s us d f = .next (s.fellThrough k (w.longS d (f w))) := by
  rw [scalarLong, scalarIssue_done h rfl, State.onWarp_putWarp, State.fellThrough]

/-! ## Lane issue -/

theorem laneIssue_next {s : State} {k : Nat} {w : Warp} {st : Stream} (h : s.issues k w st) (hd : LaneHdr) (us : List Use)
    (f : Nat → Warp → Stream → Slot → LaneMask → LOut) : ∃ t, laneIssue s hd us f = .next t := by
  simp only [laneIssue, State.issuer_of_issues h]
  split
  · exact ⟨_, rfl⟩
  split
  · exact ⟨_, rfl⟩
  split
  · exact ⟨_, rfl⟩
  split
  · exact ⟨_, rfl⟩
  split <;> (try split) <;> (try split) <;> exact ⟨_, rfl⟩

/-- The checks of R94 pass on available operands. -/
theorem laneIssue_ready {s : State} {k : Nat} {w : Warp} {st : Stream} {hd : LaneHdr} {us : List Use} (h : s.laneReady k w st hd us)
    (f : Nat → Warp → Stream → Slot → LaneMask → LOut) :
    laneIssue s hd us f = match f k w st (w.slot st) (w.active st hd) with
      | .trap code info => .next (s.raiseLane k w st code info)
      | .final t => .next t
      | .stay t => .next t
      | .done t => .next (t.passed k st hd (w.slot st).pc s.cyc) := by
  obtain ⟨hi, hu, hl, hn⟩ := h
  have hu' : ∀ u ∈ us, u.inRange w.rg = true ∧ ∀ e ∈ u.entries w.rg, w.rg.isEmpty e = false ∧ (u.dst = true ∨ w.rg.isPoison e = false) := by
    simpa [Use.ready] using hu
  have h1 : us.all (Use.inRange w.rg) = true := by simpa using fun u hu => (hu' u hu).1
  have h2 : (us.any fun u => u.fe && (u.entries w.rg).any w.rg.isEmpty) = false := by
    simp only [List.any_eq_false, Bool.and_eq_true, not_and, List.any_eq_true, not_exists]
    intro u hu _ e he hx
    simp [((hu' u hu).2 e he).1] at hx
  have h3 : w.laneWaits us = false := by
    simp only [Warp.laneWaits, List.any_eq_false, Bool.and_eq_true, not_and, List.any_eq_true, not_exists]
    intro u hu _ e he hx
    simp [((hu' u hu).2 e he).1] at hx
  have h4 : (us.any fun u => !u.dst && (u.entries w.rg).any w.rg.isPoison) = false := by
    simp only [List.any_eq_false, Bool.and_eq_true, not_and, List.any_eq_true, not_exists]
    intro u hu hd e he hx
    rcases ((hu' u hu).2 e he).2 with h | h
    · simp [h] at hd
    · simp [h] at hx
  simp only [laneIssue, State.issuer_of_issues hi, hl, h1, h2, h3, h4, hn, Warp.active, State.passed]
  cases f k w st (w.slot st) ((w.slot st).mask &&& guardMask w.rg hd) <;> simp

theorem laneIssue_done {s t : State} {k : Nat} {w : Warp} {st : Stream} {hd : LaneHdr} {us : List Use} {f : Nat → Warp → Stream → Slot → LaneMask → LOut}
    (h : s.laneReady k w st hd us) (hf : f k w st (w.slot st) (w.active st hd) = .done t) :
    laneIssue s hd us f = .next (t.passed k st hd (w.slot st).pc s.cyc) := by rw [laneIssue_ready h, hf]

theorem laneIssue_trap {s : State} {k : Nat} {w : Warp} {st : Stream} {hd : LaneHdr} {us : List Use} {f : Nat → Warp → Stream → Slot → LaneMask → LOut}
    {code info : Nat} (h : s.laneReady k w st hd us) (hf : f k w st (w.slot st) (w.active st hd) = .trap code info) :
    laneIssue s hd us f = .next (s.raiseLane k w st code info) := by rw [laneIssue_ready h, hf]

theorem laneIssue_final {s t : State} {k : Nat} {w : Warp} {st : Stream} {hd : LaneHdr} {us : List Use} {f : Nat → Warp → Stream → Slot → LaneMask → LOut}
    (h : s.laneReady k w st hd us) (hf : f k w st (w.slot st) (w.active st hd) = .final t) : laneIssue s hd us f = .next t := by rw [laneIssue_ready h, hf]

/-- A register outside the warp's range: `REGRANGE`, before every other check of R94 on registers, once no result in flight holds the instruction back (R141). -/
theorem laneIssue_regrange {s : State} {k : Nat} {w : Warp} {st : Stream} {hd : LaneHdr} {us : List Use} {f : Nat → Warp → Stream → Slot → LaneMask → LOut}
    (h : s.issues k w st) (hl : w.interlocked st (w.slot st).mask hd us = false) (hu : us.all (Use.inRange w.rg) = false) :
    laneIssue s hd us f = .next (s.raiseLane k w st cREGRANGE (w.active st hd).toNat) := by
  simp [laneIssue, State.issuer_of_issues h, hl, hu, Warp.active]

/-- A lane-wise instruction leaves its result in flight (R140, R141). -/
theorem laneWise_ready {s : State} {k : Nat} {w : Warp} {st : Stream} {l : LaneReg} (h : s.laneReady k w st l.hdr (LaneReg.uses1 l)) (f : LaneSrc → W32 × Flags) :
    laneWise s l false f = .next (s.flew k w st l.hdr (laneResult s w st (w.active st l.hdr) l.d fun i =>
      f ⟨(s.rd k w st l.a 0)[i], (s.rd k w st l.b 0)[i], (s.rd k w st l.c 0)[i], (s.rd k w st l.e 0)[i], 0⟩) 0) := by
  rw [laneWise, laneIssue_done h rfl, State.flew]; rfl

end Sys2Proof.Machine
end

