-- ==== Sys2Proof/Laws/State.lean ====
section
/-! SUPPORT. What each named update of the state writes, and that every other field stays: one lemma for each field and update. -/

namespace Sys2Proof.Machine

/-! ### `State.putWarp` -/

@[simp] theorem State.putWarp_agenda (s : State) (k : Nat) (w : Warp) : (s.putWarp k w).agenda = s.agenda := rfl
@[simp] theorem State.putWarp_cur (s : State) (k : Nat) (w : Warp) : (s.putWarp k w).cur = s.cur := rfl
@[simp] theorem State.putWarp_used (s : State) (k : Nat) (w : Warp) : (s.putWarp k w).used = s.used := rfl
@[simp] theorem State.putWarp_reissued (s : State) (k : Nat) (w : Warp) : (s.putWarp k w).reissued = s.reissued := rfl
@[simp] theorem State.putWarp_free (s : State) (k : Nat) (w : Warp) : (s.putWarp k w).free = s.free := rfl
@[simp] theorem State.putWarp_nextId (s : State) (k : Nat) (w : Warp) : (s.putWarp k w).nextId = s.nextId := rfl
@[simp] theorem State.putWarp_nextWg (s : State) (k : Nat) (w : Warp) : (s.putWarp k w).nextWg = s.nextWg := rfl
@[simp] theorem State.putWarp_warps (s : State) (k : Nat) (w : Warp) : (s.putWarp k w).warps = Tbl.put s.warps k w := rfl
@[simp] theorem State.putWarp_wgs (s : State) (k : Nat) (w : Warp) : (s.putWarp k w).wgs = s.wgs := rfl
@[simp] theorem State.putWarp_cores (s : State) (k : Nat) (w : Warp) : (s.putWarp k w).cores = s.cores := rfl
@[simp] theorem State.putWarp_dies (s : State) (k : Nat) (w : Warp) : (s.putWarp k w).dies = s.dies := rfl
@[simp] theorem State.putWarp_cohorts (s : State) (k : Nat) (w : Warp) : (s.putWarp k w).cohorts = s.cohorts := rfl
@[simp] theorem State.putWarp_cyc (s : State) (k : Nat) (w : Warp) : (s.putWarp k w).cyc = s.cyc := rfl
@[simp] theorem State.putWarp_mem (s : State) (k : Nat) (w : Warp) : (s.putWarp k w).mem = s.mem := rfl
@[simp] theorem State.putWarp_lines (s : State) (k : Nat) (w : Warp) : (s.putWarp k w).lines = s.lines := rfl
@[simp] theorem State.putWarp_poison (s : State) (k : Nat) (w : Warp) : (s.putWarp k w).poison = s.poison := rfl
@[simp] theorem State.putWarp_frames (s : State) (k : Nat) (w : Warp) : (s.putWarp k w).frames = s.frames := rfl
@[simp] theorem State.putWarp_pages (s : State) (k : Nat) (w : Warp) : (s.putWarp k w).pages = s.pages := rfl
@[simp] theorem State.putWarp_inval (s : State) (k : Nat) (w : Warp) : (s.putWarp k w).inval = s.inval := rfl
@[simp] theorem State.putWarp_reqs (s : State) (k : Nat) (w : Warp) : (s.putWarp k w).reqs = s.reqs := rfl
@[simp] theorem State.putWarp_queues (s : State) (k : Nat) (w : Warp) : (s.putWarp k w).queues = s.queues := rfl
@[simp] theorem State.putWarp_chans (s : State) (k : Nat) (w : Warp) : (s.putWarp k w).chans = s.chans := rfl
@[simp] theorem State.putWarp_resid (s : State) (k : Nat) (w : Warp) : (s.putWarp k w).resid = s.resid := rfl
@[simp] theorem State.putWarp_replayq (s : State) (k : Nat) (w : Warp) : (s.putWarp k w).replayq = s.replayq := rfl
@[simp] theorem State.putWarp_rowguard (s : State) (k : Nat) (w : Warp) : (s.putWarp k w).rowguard = s.rowguard := rfl
@[simp] theorem State.putWarp_bulk (s : State) (k : Nat) (w : Warp) : (s.putWarp k w).bulk = s.bulk := rfl
@[simp] theorem State.putWarp_ctxstore (s : State) (k : Nat) (w : Warp) : (s.putWarp k w).ctxstore = s.ctxstore := rfl
@[simp] theorem State.putWarp_power (s : State) (k : Nat) (w : Warp) : (s.putWarp k w).power = s.power := rfl
@[simp] theorem State.putWarp_fns (s : State) (k : Nat) (w : Warp) : (s.putWarp k w).fns = s.fns := rfl
@[simp] theorem State.putWarp_slices (s : State) (k : Nat) (w : Warp) : (s.putWarp k w).slices = s.slices := rfl
@[simp] theorem State.putWarp_cmdq (s : State) (k : Nat) (w : Warp) : (s.putWarp k w).cmdq = s.cmdq := rfl
@[simp] theorem State.putWarp_bundles (s : State) (k : Nat) (w : Warp) : (s.putWarp k w).bundles = s.bundles := rfl
@[simp] theorem State.putWarp_weights (s : State) (k : Nat) (w : Warp) : (s.putWarp k w).weights = s.weights := rfl
@[simp] theorem State.putWarp_deficit (s : State) (k : Nat) (w : Warp) : (s.putWarp k w).deficit = s.deficit := rfl
@[simp] theorem State.putWarp_irqs (s : State) (k : Nat) (w : Warp) : (s.putWarp k w).irqs = s.irqs := rfl
@[simp] theorem State.putWarp_ptp (s : State) (k : Nat) (w : Warp) : (s.putWarp k w).ptp = s.ptp := rfl
@[simp] theorem State.putWarp_devid (s : State) (k : Nat) (w : Warp) : (s.putWarp k w).devid = s.devid := rfl
@[simp] theorem State.putWarp_fab (s : State) (k : Nat) (w : Warp) : (s.putWarp k w).fab = s.fab := rfl
@[simp] theorem State.putWarp_kstream (s : State) (k : Nat) (w : Warp) : (s.putWarp k w).kstream = s.kstream := rfl
@[simp] theorem State.putWarp_streams (s : State) (k : Nat) (w : Warp) : (s.putWarp k w).streams = s.streams := rfl
@[simp] theorem State.putWarp_ends (s : State) (k : Nat) (w : Warp) : (s.putWarp k w).ends = s.ends := rfl
@[simp] theorem State.putWarp_moves (s : State) (k : Nat) (w : Warp) : (s.putWarp k w).moves = s.moves := rfl
@[simp] theorem State.putWarp_hostLines (s : State) (k : Nat) (w : Warp) : (s.putWarp k w).hostLines = s.hostLines := rfl
@[simp] theorem State.putWarp_boot (s : State) (k : Nat) (w : Warp) : (s.putWarp k w).boot = s.boot := rfl

/-! ### `State.putWg` -/

@[simp] theorem State.putWg_agenda (s : State) (g : Nat) (x : Wg) : (s.putWg g x).agenda = s.agenda := rfl
@[simp] theorem State.putWg_cur (s : State) (g : Nat) (x : Wg) : (s.putWg g x).cur = s.cur := rfl
@[simp] theorem State.putWg_used (s : State) (g : Nat) (x : Wg) : (s.putWg g x).used = s.used := rfl
@[simp] theorem State.putWg_reissued (s : State) (g : Nat) (x : Wg) : (s.putWg g x).reissued = s.reissued := rfl
@[simp] theorem State.putWg_free (s : State) (g : Nat) (x : Wg) : (s.putWg g x).free = s.free := rfl
@[simp] theorem State.putWg_nextId (s : State) (g : Nat) (x : Wg) : (s.putWg g x).nextId = s.nextId := rfl
@[simp] theorem State.putWg_nextWg (s : State) (g : Nat) (x : Wg) : (s.putWg g x).nextWg = s.nextWg := rfl
@[simp] theorem State.putWg_warps (s : State) (g : Nat) (x : Wg) : (s.putWg g x).warps = s.warps := rfl
@[simp] theorem State.putWg_wgs (s : State) (g : Nat) (x : Wg) : (s.putWg g x).wgs = Tbl.put s.wgs g x := rfl
@[simp] theorem State.putWg_cores (s : State) (g : Nat) (x : Wg) : (s.putWg g x).cores = s.cores := rfl
@[simp] theorem State.putWg_dies (s : State) (g : Nat) (x : Wg) : (s.putWg g x).dies = s.dies := rfl
@[simp] theorem State.putWg_cohorts (s : State) (g : Nat) (x : Wg) : (s.putWg g x).cohorts = s.cohorts := rfl
@[simp] theorem State.putWg_cyc (s : State) (g : Nat) (x : Wg) : (s.putWg g x).cyc = s.cyc := rfl
@[simp] theorem State.putWg_mem (s : State) (g : Nat) (x : Wg) : (s.putWg g x).mem = s.mem := rfl
@[simp] theorem State.putWg_lines (s : State) (g : Nat) (x : Wg) : (s.putWg g x).lines = s.lines := rfl
@[simp] theorem State.putWg_poison (s : State) (g : Nat) (x : Wg) : (s.putWg g x).poison = s.poison := rfl
@[simp] theorem State.putWg_frames (s : State) (g : Nat) (x : Wg) : (s.putWg g x).frames = s.frames := rfl
@[simp] theorem State.putWg_pages (s : State) (g : Nat) (x : Wg) : (s.putWg g x).pages = s.pages := rfl
@[simp] theorem State.putWg_inval (s : State) (g : Nat) (x : Wg) : (s.putWg g x).inval = s.inval := rfl
@[simp] theorem State.putWg_reqs (s : State) (g : Nat) (x : Wg) : (s.putWg g x).reqs = s.reqs := rfl
@[simp] theorem State.putWg_queues (s : State) (g : Nat) (x : Wg) : (s.putWg g x).queues = s.queues := rfl
@[simp] theorem State.putWg_chans (s : State) (g : Nat) (x : Wg) : (s.putWg g x).chans = s.chans := rfl
@[simp] theorem State.putWg_resid (s : State) (g : Nat) (x : Wg) : (s.putWg g x).resid = s.resid := rfl
@[simp] theorem State.putWg_replayq (s : State) (g : Nat) (x : Wg) : (s.putWg g x).replayq = s.replayq := rfl
@[simp] theorem State.putWg_rowguard (s : State) (g : Nat) (x : Wg) : (s.putWg g x).rowguard = s.rowguard := rfl
@[simp] theorem State.putWg_bulk (s : State) (g : Nat) (x : Wg) : (s.putWg g x).bulk = s.bulk := rfl
@[simp] theorem State.putWg_ctxstore (s : State) (g : Nat) (x : Wg) : (s.putWg g x).ctxstore = s.ctxstore := rfl
@[simp] theorem State.putWg_power (s : State) (g : Nat) (x : Wg) : (s.putWg g x).power = s.power := rfl
@[simp] theorem State.putWg_fns (s : State) (g : Nat) (x : Wg) : (s.putWg g x).fns = s.fns := rfl
@[simp] theorem State.putWg_slices (s : State) (g : Nat) (x : Wg) : (s.putWg g x).slices = s.slices := rfl
@[simp] theorem State.putWg_cmdq (s : State) (g : Nat) (x : Wg) : (s.putWg g x).cmdq = s.cmdq := rfl
@[simp] theorem State.putWg_bundles (s : State) (g : Nat) (x : Wg) : (s.putWg g x).bundles = s.bundles := rfl
@[simp] theorem State.putWg_weights (s : State) (g : Nat) (x : Wg) : (s.putWg g x).weights = s.weights := rfl
@[simp] theorem State.putWg_deficit (s : State) (g : Nat) (x : Wg) : (s.putWg g x).deficit = s.deficit := rfl
@[simp] theorem State.putWg_irqs (s : State) (g : Nat) (x : Wg) : (s.putWg g x).irqs = s.irqs := rfl
@[simp] theorem State.putWg_ptp (s : State) (g : Nat) (x : Wg) : (s.putWg g x).ptp = s.ptp := rfl
@[simp] theorem State.putWg_devid (s : State) (g : Nat) (x : Wg) : (s.putWg g x).devid = s.devid := rfl
@[simp] theorem State.putWg_fab (s : State) (g : Nat) (x : Wg) : (s.putWg g x).fab = s.fab := rfl
@[simp] theorem State.putWg_kstream (s : State) (g : Nat) (x : Wg) : (s.putWg g x).kstream = s.kstream := rfl
@[simp] theorem State.putWg_streams (s : State) (g : Nat) (x : Wg) : (s.putWg g x).streams = s.streams := rfl
@[simp] theorem State.putWg_ends (s : State) (g : Nat) (x : Wg) : (s.putWg g x).ends = s.ends := rfl
@[simp] theorem State.putWg_moves (s : State) (g : Nat) (x : Wg) : (s.putWg g x).moves = s.moves := rfl
@[simp] theorem State.putWg_hostLines (s : State) (g : Nat) (x : Wg) : (s.putWg g x).hostLines = s.hostLines := rfl
@[simp] theorem State.putWg_boot (s : State) (g : Nat) (x : Wg) : (s.putWg g x).boot = s.boot := rfl

/-! ### `State.putCore` -/

@[simp] theorem State.putCore_agenda (s : State) (k : Nat) (c : Core) : (s.putCore k c).agenda = s.agenda := rfl
@[simp] theorem State.putCore_cur (s : State) (k : Nat) (c : Core) : (s.putCore k c).cur = s.cur := rfl
@[simp] theorem State.putCore_used (s : State) (k : Nat) (c : Core) : (s.putCore k c).used = s.used := rfl
@[simp] theorem State.putCore_reissued (s : State) (k : Nat) (c : Core) : (s.putCore k c).reissued = s.reissued := rfl
@[simp] theorem State.putCore_free (s : State) (k : Nat) (c : Core) : (s.putCore k c).free = s.free := rfl
@[simp] theorem State.putCore_nextId (s : State) (k : Nat) (c : Core) : (s.putCore k c).nextId = s.nextId := rfl
@[simp] theorem State.putCore_nextWg (s : State) (k : Nat) (c : Core) : (s.putCore k c).nextWg = s.nextWg := rfl
@[simp] theorem State.putCore_warps (s : State) (k : Nat) (c : Core) : (s.putCore k c).warps = s.warps := rfl
@[simp] theorem State.putCore_wgs (s : State) (k : Nat) (c : Core) : (s.putCore k c).wgs = s.wgs := rfl
@[simp] theorem State.putCore_cores (s : State) (k : Nat) (c : Core) : (s.putCore k c).cores = Tbl.put s.cores k c := rfl
@[simp] theorem State.putCore_dies (s : State) (k : Nat) (c : Core) : (s.putCore k c).dies = s.dies := rfl
@[simp] theorem State.putCore_cohorts (s : State) (k : Nat) (c : Core) : (s.putCore k c).cohorts = s.cohorts := rfl
@[simp] theorem State.putCore_cyc (s : State) (k : Nat) (c : Core) : (s.putCore k c).cyc = s.cyc := rfl
@[simp] theorem State.putCore_mem (s : State) (k : Nat) (c : Core) : (s.putCore k c).mem = s.mem := rfl
@[simp] theorem State.putCore_lines (s : State) (k : Nat) (c : Core) : (s.putCore k c).lines = s.lines := rfl
@[simp] theorem State.putCore_poison (s : State) (k : Nat) (c : Core) : (s.putCore k c).poison = s.poison := rfl
@[simp] theorem State.putCore_frames (s : State) (k : Nat) (c : Core) : (s.putCore k c).frames = s.frames := rfl
@[simp] theorem State.putCore_pages (s : State) (k : Nat) (c : Core) : (s.putCore k c).pages = s.pages := rfl
@[simp] theorem State.putCore_inval (s : State) (k : Nat) (c : Core) : (s.putCore k c).inval = s.inval := rfl
@[simp] theorem State.putCore_reqs (s : State) (k : Nat) (c : Core) : (s.putCore k c).reqs = s.reqs := rfl
@[simp] theorem State.putCore_queues (s : State) (k : Nat) (c : Core) : (s.putCore k c).queues = s.queues := rfl
@[simp] theorem State.putCore_chans (s : State) (k : Nat) (c : Core) : (s.putCore k c).chans = s.chans := rfl
@[simp] theorem State.putCore_resid (s : State) (k : Nat) (c : Core) : (s.putCore k c).resid = s.resid := rfl
@[simp] theorem State.putCore_replayq (s : State) (k : Nat) (c : Core) : (s.putCore k c).replayq = s.replayq := rfl
@[simp] theorem State.putCore_rowguard (s : State) (k : Nat) (c : Core) : (s.putCore k c).rowguard = s.rowguard := rfl
@[simp] theorem State.putCore_bulk (s : State) (k : Nat) (c : Core) : (s.putCore k c).bulk = s.bulk := rfl
@[simp] theorem State.putCore_ctxstore (s : State) (k : Nat) (c : Core) : (s.putCore k c).ctxstore = s.ctxstore := rfl
@[simp] theorem State.putCore_power (s : State) (k : Nat) (c : Core) : (s.putCore k c).power = s.power := rfl
@[simp] theorem State.putCore_fns (s : State) (k : Nat) (c : Core) : (s.putCore k c).fns = s.fns := rfl
@[simp] theorem State.putCore_slices (s : State) (k : Nat) (c : Core) : (s.putCore k c).slices = s.slices := rfl
@[simp] theorem State.putCore_cmdq (s : State) (k : Nat) (c : Core) : (s.putCore k c).cmdq = s.cmdq := rfl
@[simp] theorem State.putCore_bundles (s : State) (k : Nat) (c : Core) : (s.putCore k c).bundles = s.bundles := rfl
@[simp] theorem State.putCore_weights (s : State) (k : Nat) (c : Core) : (s.putCore k c).weights = s.weights := rfl
@[simp] theorem State.putCore_deficit (s : State) (k : Nat) (c : Core) : (s.putCore k c).deficit = s.deficit := rfl
@[simp] theorem State.putCore_irqs (s : State) (k : Nat) (c : Core) : (s.putCore k c).irqs = s.irqs := rfl
@[simp] theorem State.putCore_ptp (s : State) (k : Nat) (c : Core) : (s.putCore k c).ptp = s.ptp := rfl
@[simp] theorem State.putCore_devid (s : State) (k : Nat) (c : Core) : (s.putCore k c).devid = s.devid := rfl
@[simp] theorem State.putCore_fab (s : State) (k : Nat) (c : Core) : (s.putCore k c).fab = s.fab := rfl
@[simp] theorem State.putCore_kstream (s : State) (k : Nat) (c : Core) : (s.putCore k c).kstream = s.kstream := rfl
@[simp] theorem State.putCore_streams (s : State) (k : Nat) (c : Core) : (s.putCore k c).streams = s.streams := rfl
@[simp] theorem State.putCore_ends (s : State) (k : Nat) (c : Core) : (s.putCore k c).ends = s.ends := rfl
@[simp] theorem State.putCore_moves (s : State) (k : Nat) (c : Core) : (s.putCore k c).moves = s.moves := rfl
@[simp] theorem State.putCore_hostLines (s : State) (k : Nat) (c : Core) : (s.putCore k c).hostLines = s.hostLines := rfl
@[simp] theorem State.putCore_boot (s : State) (k : Nat) (c : Core) : (s.putCore k c).boot = s.boot := rfl

/-! ### `State.putDie` -/

@[simp] theorem State.putDie_agenda (s : State) (d : Nat) (x : Die) : (s.putDie d x).agenda = s.agenda := rfl
@[simp] theorem State.putDie_cur (s : State) (d : Nat) (x : Die) : (s.putDie d x).cur = s.cur := rfl
@[simp] theorem State.putDie_used (s : State) (d : Nat) (x : Die) : (s.putDie d x).used = s.used := rfl
@[simp] theorem State.putDie_reissued (s : State) (d : Nat) (x : Die) : (s.putDie d x).reissued = s.reissued := rfl
@[simp] theorem State.putDie_free (s : State) (d : Nat) (x : Die) : (s.putDie d x).free = s.free := rfl
@[simp] theorem State.putDie_nextId (s : State) (d : Nat) (x : Die) : (s.putDie d x).nextId = s.nextId := rfl
@[simp] theorem State.putDie_nextWg (s : State) (d : Nat) (x : Die) : (s.putDie d x).nextWg = s.nextWg := rfl
@[simp] theorem State.putDie_warps (s : State) (d : Nat) (x : Die) : (s.putDie d x).warps = s.warps := rfl
@[simp] theorem State.putDie_wgs (s : State) (d : Nat) (x : Die) : (s.putDie d x).wgs = s.wgs := rfl
@[simp] theorem State.putDie_cores (s : State) (d : Nat) (x : Die) : (s.putDie d x).cores = s.cores := rfl
@[simp] theorem State.putDie_dies (s : State) (d : Nat) (x : Die) : (s.putDie d x).dies = Tbl.put s.dies d x := rfl
@[simp] theorem State.putDie_cohorts (s : State) (d : Nat) (x : Die) : (s.putDie d x).cohorts = s.cohorts := rfl
@[simp] theorem State.putDie_cyc (s : State) (d : Nat) (x : Die) : (s.putDie d x).cyc = s.cyc := rfl
@[simp] theorem State.putDie_mem (s : State) (d : Nat) (x : Die) : (s.putDie d x).mem = s.mem := rfl
@[simp] theorem State.putDie_lines (s : State) (d : Nat) (x : Die) : (s.putDie d x).lines = s.lines := rfl
@[simp] theorem State.putDie_poison (s : State) (d : Nat) (x : Die) : (s.putDie d x).poison = s.poison := rfl
@[simp] theorem State.putDie_frames (s : State) (d : Nat) (x : Die) : (s.putDie d x).frames = s.frames := rfl
@[simp] theorem State.putDie_pages (s : State) (d : Nat) (x : Die) : (s.putDie d x).pages = s.pages := rfl
@[simp] theorem State.putDie_inval (s : State) (d : Nat) (x : Die) : (s.putDie d x).inval = s.inval := rfl
@[simp] theorem State.putDie_reqs (s : State) (d : Nat) (x : Die) : (s.putDie d x).reqs = s.reqs := rfl
@[simp] theorem State.putDie_queues (s : State) (d : Nat) (x : Die) : (s.putDie d x).queues = s.queues := rfl
@[simp] theorem State.putDie_chans (s : State) (d : Nat) (x : Die) : (s.putDie d x).chans = s.chans := rfl
@[simp] theorem State.putDie_resid (s : State) (d : Nat) (x : Die) : (s.putDie d x).resid = s.resid := rfl
@[simp] theorem State.putDie_replayq (s : State) (d : Nat) (x : Die) : (s.putDie d x).replayq = s.replayq := rfl
@[simp] theorem State.putDie_rowguard (s : State) (d : Nat) (x : Die) : (s.putDie d x).rowguard = s.rowguard := rfl
@[simp] theorem State.putDie_bulk (s : State) (d : Nat) (x : Die) : (s.putDie d x).bulk = s.bulk := rfl
@[simp] theorem State.putDie_ctxstore (s : State) (d : Nat) (x : Die) : (s.putDie d x).ctxstore = s.ctxstore := rfl
@[simp] theorem State.putDie_power (s : State) (d : Nat) (x : Die) : (s.putDie d x).power = s.power := rfl
@[simp] theorem State.putDie_fns (s : State) (d : Nat) (x : Die) : (s.putDie d x).fns = s.fns := rfl
@[simp] theorem State.putDie_slices (s : State) (d : Nat) (x : Die) : (s.putDie d x).slices = s.slices := rfl
@[simp] theorem State.putDie_cmdq (s : State) (d : Nat) (x : Die) : (s.putDie d x).cmdq = s.cmdq := rfl
@[simp] theorem State.putDie_bundles (s : State) (d : Nat) (x : Die) : (s.putDie d x).bundles = s.bundles := rfl
@[simp] theorem State.putDie_weights (s : State) (d : Nat) (x : Die) : (s.putDie d x).weights = s.weights := rfl
@[simp] theorem State.putDie_deficit (s : State) (d : Nat) (x : Die) : (s.putDie d x).deficit = s.deficit := rfl
@[simp] theorem State.putDie_irqs (s : State) (d : Nat) (x : Die) : (s.putDie d x).irqs = s.irqs := rfl
@[simp] theorem State.putDie_ptp (s : State) (d : Nat) (x : Die) : (s.putDie d x).ptp = s.ptp := rfl
@[simp] theorem State.putDie_devid (s : State) (d : Nat) (x : Die) : (s.putDie d x).devid = s.devid := rfl
@[simp] theorem State.putDie_fab (s : State) (d : Nat) (x : Die) : (s.putDie d x).fab = s.fab := rfl
@[simp] theorem State.putDie_kstream (s : State) (d : Nat) (x : Die) : (s.putDie d x).kstream = s.kstream := rfl
@[simp] theorem State.putDie_streams (s : State) (d : Nat) (x : Die) : (s.putDie d x).streams = s.streams := rfl
@[simp] theorem State.putDie_ends (s : State) (d : Nat) (x : Die) : (s.putDie d x).ends = s.ends := rfl
@[simp] theorem State.putDie_moves (s : State) (d : Nat) (x : Die) : (s.putDie d x).moves = s.moves := rfl
@[simp] theorem State.putDie_hostLines (s : State) (d : Nat) (x : Die) : (s.putDie d x).hostLines = s.hostLines := rfl
@[simp] theorem State.putDie_boot (s : State) (d : Nat) (x : Die) : (s.putDie d x).boot = s.boot := rfl

/-! ### `State.putFn` -/

@[simp] theorem State.putFn_agenda (s : State) (f : Nat) (x : Fn) : (s.putFn f x).agenda = s.agenda := rfl
@[simp] theorem State.putFn_cur (s : State) (f : Nat) (x : Fn) : (s.putFn f x).cur = s.cur := rfl
@[simp] theorem State.putFn_used (s : State) (f : Nat) (x : Fn) : (s.putFn f x).used = s.used := rfl
@[simp] theorem State.putFn_reissued (s : State) (f : Nat) (x : Fn) : (s.putFn f x).reissued = s.reissued := rfl
@[simp] theorem State.putFn_free (s : State) (f : Nat) (x : Fn) : (s.putFn f x).free = s.free := rfl
@[simp] theorem State.putFn_nextId (s : State) (f : Nat) (x : Fn) : (s.putFn f x).nextId = s.nextId := rfl
@[simp] theorem State.putFn_nextWg (s : State) (f : Nat) (x : Fn) : (s.putFn f x).nextWg = s.nextWg := rfl
@[simp] theorem State.putFn_warps (s : State) (f : Nat) (x : Fn) : (s.putFn f x).warps = s.warps := rfl
@[simp] theorem State.putFn_wgs (s : State) (f : Nat) (x : Fn) : (s.putFn f x).wgs = s.wgs := rfl
@[simp] theorem State.putFn_cores (s : State) (f : Nat) (x : Fn) : (s.putFn f x).cores = s.cores := rfl
@[simp] theorem State.putFn_dies (s : State) (f : Nat) (x : Fn) : (s.putFn f x).dies = s.dies := rfl
@[simp] theorem State.putFn_cohorts (s : State) (f : Nat) (x : Fn) : (s.putFn f x).cohorts = s.cohorts := rfl
@[simp] theorem State.putFn_cyc (s : State) (f : Nat) (x : Fn) : (s.putFn f x).cyc = s.cyc := rfl
@[simp] theorem State.putFn_mem (s : State) (f : Nat) (x : Fn) : (s.putFn f x).mem = s.mem := rfl
@[simp] theorem State.putFn_lines (s : State) (f : Nat) (x : Fn) : (s.putFn f x).lines = s.lines := rfl
@[simp] theorem State.putFn_poison (s : State) (f : Nat) (x : Fn) : (s.putFn f x).poison = s.poison := rfl
@[simp] theorem State.putFn_frames (s : State) (f : Nat) (x : Fn) : (s.putFn f x).frames = s.frames := rfl
@[simp] theorem State.putFn_pages (s : State) (f : Nat) (x : Fn) : (s.putFn f x).pages = s.pages := rfl
@[simp] theorem State.putFn_inval (s : State) (f : Nat) (x : Fn) : (s.putFn f x).inval = s.inval := rfl
@[simp] theorem State.putFn_reqs (s : State) (f : Nat) (x : Fn) : (s.putFn f x).reqs = s.reqs := rfl
@[simp] theorem State.putFn_queues (s : State) (f : Nat) (x : Fn) : (s.putFn f x).queues = s.queues := rfl
@[simp] theorem State.putFn_chans (s : State) (f : Nat) (x : Fn) : (s.putFn f x).chans = s.chans := rfl
@[simp] theorem State.putFn_resid (s : State) (f : Nat) (x : Fn) : (s.putFn f x).resid = s.resid := rfl
@[simp] theorem State.putFn_replayq (s : State) (f : Nat) (x : Fn) : (s.putFn f x).replayq = s.replayq := rfl
@[simp] theorem State.putFn_rowguard (s : State) (f : Nat) (x : Fn) : (s.putFn f x).rowguard = s.rowguard := rfl
@[simp] theorem State.putFn_bulk (s : State) (f : Nat) (x : Fn) : (s.putFn f x).bulk = s.bulk := rfl
@[simp] theorem State.putFn_ctxstore (s : State) (f : Nat) (x : Fn) : (s.putFn f x).ctxstore = s.ctxstore := rfl
@[simp] theorem State.putFn_power (s : State) (f : Nat) (x : Fn) : (s.putFn f x).power = s.power := rfl
@[simp] theorem State.putFn_fns (s : State) (f : Nat) (x : Fn) : (s.putFn f x).fns = Tbl.put s.fns f x := rfl
@[simp] theorem State.putFn_slices (s : State) (f : Nat) (x : Fn) : (s.putFn f x).slices = s.slices := rfl
@[simp] theorem State.putFn_cmdq (s : State) (f : Nat) (x : Fn) : (s.putFn f x).cmdq = s.cmdq := rfl
@[simp] theorem State.putFn_bundles (s : State) (f : Nat) (x : Fn) : (s.putFn f x).bundles = s.bundles := rfl
@[simp] theorem State.putFn_weights (s : State) (f : Nat) (x : Fn) : (s.putFn f x).weights = s.weights := rfl
@[simp] theorem State.putFn_deficit (s : State) (f : Nat) (x : Fn) : (s.putFn f x).deficit = s.deficit := rfl
@[simp] theorem State.putFn_irqs (s : State) (f : Nat) (x : Fn) : (s.putFn f x).irqs = s.irqs := rfl
@[simp] theorem State.putFn_ptp (s : State) (f : Nat) (x : Fn) : (s.putFn f x).ptp = s.ptp := rfl
@[simp] theorem State.putFn_devid (s : State) (f : Nat) (x : Fn) : (s.putFn f x).devid = s.devid := rfl
@[simp] theorem State.putFn_fab (s : State) (f : Nat) (x : Fn) : (s.putFn f x).fab = s.fab := rfl
@[simp] theorem State.putFn_kstream (s : State) (f : Nat) (x : Fn) : (s.putFn f x).kstream = s.kstream := rfl
@[simp] theorem State.putFn_streams (s : State) (f : Nat) (x : Fn) : (s.putFn f x).streams = s.streams := rfl
@[simp] theorem State.putFn_ends (s : State) (f : Nat) (x : Fn) : (s.putFn f x).ends = s.ends := rfl
@[simp] theorem State.putFn_moves (s : State) (f : Nat) (x : Fn) : (s.putFn f x).moves = s.moves := rfl
@[simp] theorem State.putFn_hostLines (s : State) (f : Nat) (x : Fn) : (s.putFn f x).hostLines = s.hostLines := rfl
@[simp] theorem State.putFn_boot (s : State) (f : Nat) (x : Fn) : (s.putFn f x).boot = s.boot := rfl

/-! ### `State.putLine` -/

@[simp] theorem State.putLine_agenda (s : State) (l : Nat) (x : HomeLine) : (s.putLine l x).agenda = s.agenda := rfl
@[simp] theorem State.putLine_cur (s : State) (l : Nat) (x : HomeLine) : (s.putLine l x).cur = s.cur := rfl
@[simp] theorem State.putLine_used (s : State) (l : Nat) (x : HomeLine) : (s.putLine l x).used = s.used := rfl
@[simp] theorem State.putLine_reissued (s : State) (l : Nat) (x : HomeLine) : (s.putLine l x).reissued = s.reissued := rfl
@[simp] theorem State.putLine_free (s : State) (l : Nat) (x : HomeLine) : (s.putLine l x).free = s.free := rfl
@[simp] theorem State.putLine_nextId (s : State) (l : Nat) (x : HomeLine) : (s.putLine l x).nextId = s.nextId := rfl
@[simp] theorem State.putLine_nextWg (s : State) (l : Nat) (x : HomeLine) : (s.putLine l x).nextWg = s.nextWg := rfl
@[simp] theorem State.putLine_warps (s : State) (l : Nat) (x : HomeLine) : (s.putLine l x).warps = s.warps := rfl
@[simp] theorem State.putLine_wgs (s : State) (l : Nat) (x : HomeLine) : (s.putLine l x).wgs = s.wgs := rfl
@[simp] theorem State.putLine_cores (s : State) (l : Nat) (x : HomeLine) : (s.putLine l x).cores = s.cores := rfl
@[simp] theorem State.putLine_dies (s : State) (l : Nat) (x : HomeLine) : (s.putLine l x).dies = s.dies := rfl
@[simp] theorem State.putLine_cohorts (s : State) (l : Nat) (x : HomeLine) : (s.putLine l x).cohorts = s.cohorts := rfl
@[simp] theorem State.putLine_cyc (s : State) (l : Nat) (x : HomeLine) : (s.putLine l x).cyc = s.cyc := rfl
@[simp] theorem State.putLine_mem (s : State) (l : Nat) (x : HomeLine) : (s.putLine l x).mem = s.mem := rfl
@[simp] theorem State.putLine_lines (s : State) (l : Nat) (x : HomeLine) : (s.putLine l x).lines = Tbl.put s.lines l x := rfl
@[simp] theorem State.putLine_poison (s : State) (l : Nat) (x : HomeLine) : (s.putLine l x).poison = s.poison := rfl
@[simp] theorem State.putLine_frames (s : State) (l : Nat) (x : HomeLine) : (s.putLine l x).frames = s.frames := rfl
@[simp] theorem State.putLine_pages (s : State) (l : Nat) (x : HomeLine) : (s.putLine l x).pages = s.pages := rfl
@[simp] theorem State.putLine_inval (s : State) (l : Nat) (x : HomeLine) : (s.putLine l x).inval = s.inval := rfl
@[simp] theorem State.putLine_reqs (s : State) (l : Nat) (x : HomeLine) : (s.putLine l x).reqs = s.reqs := rfl
@[simp] theorem State.putLine_queues (s : State) (l : Nat) (x : HomeLine) : (s.putLine l x).queues = s.queues := rfl
@[simp] theorem State.putLine_chans (s : State) (l : Nat) (x : HomeLine) : (s.putLine l x).chans = s.chans := rfl
@[simp] theorem State.putLine_resid (s : State) (l : Nat) (x : HomeLine) : (s.putLine l x).resid = s.resid := rfl
@[simp] theorem State.putLine_replayq (s : State) (l : Nat) (x : HomeLine) : (s.putLine l x).replayq = s.replayq := rfl
@[simp] theorem State.putLine_rowguard (s : State) (l : Nat) (x : HomeLine) : (s.putLine l x).rowguard = s.rowguard := rfl
@[simp] theorem State.putLine_bulk (s : State) (l : Nat) (x : HomeLine) : (s.putLine l x).bulk = s.bulk := rfl
@[simp] theorem State.putLine_ctxstore (s : State) (l : Nat) (x : HomeLine) : (s.putLine l x).ctxstore = s.ctxstore := rfl
@[simp] theorem State.putLine_power (s : State) (l : Nat) (x : HomeLine) : (s.putLine l x).power = s.power := rfl
@[simp] theorem State.putLine_fns (s : State) (l : Nat) (x : HomeLine) : (s.putLine l x).fns = s.fns := rfl
@[simp] theorem State.putLine_slices (s : State) (l : Nat) (x : HomeLine) : (s.putLine l x).slices = s.slices := rfl
@[simp] theorem State.putLine_cmdq (s : State) (l : Nat) (x : HomeLine) : (s.putLine l x).cmdq = s.cmdq := rfl
@[simp] theorem State.putLine_bundles (s : State) (l : Nat) (x : HomeLine) : (s.putLine l x).bundles = s.bundles := rfl
@[simp] theorem State.putLine_weights (s : State) (l : Nat) (x : HomeLine) : (s.putLine l x).weights = s.weights := rfl
@[simp] theorem State.putLine_deficit (s : State) (l : Nat) (x : HomeLine) : (s.putLine l x).deficit = s.deficit := rfl
@[simp] theorem State.putLine_irqs (s : State) (l : Nat) (x : HomeLine) : (s.putLine l x).irqs = s.irqs := rfl
@[simp] theorem State.putLine_ptp (s : State) (l : Nat) (x : HomeLine) : (s.putLine l x).ptp = s.ptp := rfl
@[simp] theorem State.putLine_devid (s : State) (l : Nat) (x : HomeLine) : (s.putLine l x).devid = s.devid := rfl
@[simp] theorem State.putLine_fab (s : State) (l : Nat) (x : HomeLine) : (s.putLine l x).fab = s.fab := rfl
@[simp] theorem State.putLine_kstream (s : State) (l : Nat) (x : HomeLine) : (s.putLine l x).kstream = s.kstream := rfl
@[simp] theorem State.putLine_streams (s : State) (l : Nat) (x : HomeLine) : (s.putLine l x).streams = s.streams := rfl
@[simp] theorem State.putLine_ends (s : State) (l : Nat) (x : HomeLine) : (s.putLine l x).ends = s.ends := rfl
@[simp] theorem State.putLine_moves (s : State) (l : Nat) (x : HomeLine) : (s.putLine l x).moves = s.moves := rfl
@[simp] theorem State.putLine_hostLines (s : State) (l : Nat) (x : HomeLine) : (s.putLine l x).hostLines = s.hostLines := rfl
@[simp] theorem State.putLine_boot (s : State) (l : Nat) (x : HomeLine) : (s.putLine l x).boot = s.boot := rfl

/-! ### `State.putFrame` -/

@[simp] theorem State.putFrame_agenda (s : State) (f : Nat) (x : Frame) : (s.putFrame f x).agenda = s.agenda := rfl
@[simp] theorem State.putFrame_cur (s : State) (f : Nat) (x : Frame) : (s.putFrame f x).cur = s.cur := rfl
@[simp] theorem State.putFrame_used (s : State) (f : Nat) (x : Frame) : (s.putFrame f x).used = s.used := rfl
@[simp] theorem State.putFrame_reissued (s : State) (f : Nat) (x : Frame) : (s.putFrame f x).reissued = s.reissued := rfl
@[simp] theorem State.putFrame_free (s : State) (f : Nat) (x : Frame) : (s.putFrame f x).free = s.free := rfl
@[simp] theorem State.putFrame_nextId (s : State) (f : Nat) (x : Frame) : (s.putFrame f x).nextId = s.nextId := rfl
@[simp] theorem State.putFrame_nextWg (s : State) (f : Nat) (x : Frame) : (s.putFrame f x).nextWg = s.nextWg := rfl
@[simp] theorem State.putFrame_warps (s : State) (f : Nat) (x : Frame) : (s.putFrame f x).warps = s.warps := rfl
@[simp] theorem State.putFrame_wgs (s : State) (f : Nat) (x : Frame) : (s.putFrame f x).wgs = s.wgs := rfl
@[simp] theorem State.putFrame_cores (s : State) (f : Nat) (x : Frame) : (s.putFrame f x).cores = s.cores := rfl
@[simp] theorem State.putFrame_dies (s : State) (f : Nat) (x : Frame) : (s.putFrame f x).dies = s.dies := rfl
@[simp] theorem State.putFrame_cohorts (s : State) (f : Nat) (x : Frame) : (s.putFrame f x).cohorts = s.cohorts := rfl
@[simp] theorem State.putFrame_cyc (s : State) (f : Nat) (x : Frame) : (s.putFrame f x).cyc = s.cyc := rfl
@[simp] theorem State.putFrame_mem (s : State) (f : Nat) (x : Frame) : (s.putFrame f x).mem = s.mem := rfl
@[simp] theorem State.putFrame_lines (s : State) (f : Nat) (x : Frame) : (s.putFrame f x).lines = s.lines := rfl
@[simp] theorem State.putFrame_poison (s : State) (f : Nat) (x : Frame) : (s.putFrame f x).poison = s.poison := rfl
@[simp] theorem State.putFrame_frames (s : State) (f : Nat) (x : Frame) : (s.putFrame f x).frames = Tbl.put s.frames f x := rfl
@[simp] theorem State.putFrame_pages (s : State) (f : Nat) (x : Frame) : (s.putFrame f x).pages = s.pages := rfl
@[simp] theorem State.putFrame_inval (s : State) (f : Nat) (x : Frame) : (s.putFrame f x).inval = s.inval := rfl
@[simp] theorem State.putFrame_reqs (s : State) (f : Nat) (x : Frame) : (s.putFrame f x).reqs = s.reqs := rfl
@[simp] theorem State.putFrame_queues (s : State) (f : Nat) (x : Frame) : (s.putFrame f x).queues = s.queues := rfl
@[simp] theorem State.putFrame_chans (s : State) (f : Nat) (x : Frame) : (s.putFrame f x).chans = s.chans := rfl
@[simp] theorem State.putFrame_resid (s : State) (f : Nat) (x : Frame) : (s.putFrame f x).resid = s.resid := rfl
@[simp] theorem State.putFrame_replayq (s : State) (f : Nat) (x : Frame) : (s.putFrame f x).replayq = s.replayq := rfl
@[simp] theorem State.putFrame_rowguard (s : State) (f : Nat) (x : Frame) : (s.putFrame f x).rowguard = s.rowguard := rfl
@[simp] theorem State.putFrame_bulk (s : State) (f : Nat) (x : Frame) : (s.putFrame f x).bulk = s.bulk := rfl
@[simp] theorem State.putFrame_ctxstore (s : State) (f : Nat) (x : Frame) : (s.putFrame f x).ctxstore = s.ctxstore := rfl
@[simp] theorem State.putFrame_power (s : State) (f : Nat) (x : Frame) : (s.putFrame f x).power = s.power := rfl
@[simp] theorem State.putFrame_fns (s : State) (f : Nat) (x : Frame) : (s.putFrame f x).fns = s.fns := rfl
@[simp] theorem State.putFrame_slices (s : State) (f : Nat) (x : Frame) : (s.putFrame f x).slices = s.slices := rfl
@[simp] theorem State.putFrame_cmdq (s : State) (f : Nat) (x : Frame) : (s.putFrame f x).cmdq = s.cmdq := rfl
@[simp] theorem State.putFrame_bundles (s : State) (f : Nat) (x : Frame) : (s.putFrame f x).bundles = s.bundles := rfl
@[simp] theorem State.putFrame_weights (s : State) (f : Nat) (x : Frame) : (s.putFrame f x).weights = s.weights := rfl
@[simp] theorem State.putFrame_deficit (s : State) (f : Nat) (x : Frame) : (s.putFrame f x).deficit = s.deficit := rfl
@[simp] theorem State.putFrame_irqs (s : State) (f : Nat) (x : Frame) : (s.putFrame f x).irqs = s.irqs := rfl
@[simp] theorem State.putFrame_ptp (s : State) (f : Nat) (x : Frame) : (s.putFrame f x).ptp = s.ptp := rfl
@[simp] theorem State.putFrame_devid (s : State) (f : Nat) (x : Frame) : (s.putFrame f x).devid = s.devid := rfl
@[simp] theorem State.putFrame_fab (s : State) (f : Nat) (x : Frame) : (s.putFrame f x).fab = s.fab := rfl
@[simp] theorem State.putFrame_kstream (s : State) (f : Nat) (x : Frame) : (s.putFrame f x).kstream = s.kstream := rfl
@[simp] theorem State.putFrame_streams (s : State) (f : Nat) (x : Frame) : (s.putFrame f x).streams = s.streams := rfl
@[simp] theorem State.putFrame_ends (s : State) (f : Nat) (x : Frame) : (s.putFrame f x).ends = s.ends := rfl
@[simp] theorem State.putFrame_moves (s : State) (f : Nat) (x : Frame) : (s.putFrame f x).moves = s.moves := rfl
@[simp] theorem State.putFrame_hostLines (s : State) (f : Nat) (x : Frame) : (s.putFrame f x).hostLines = s.hostLines := rfl
@[simp] theorem State.putFrame_boot (s : State) (f : Nat) (x : Frame) : (s.putFrame f x).boot = s.boot := rfl

/-! ### `State.putQueue` -/

@[simp] theorem State.putQueue_agenda (s : State) (q : Nat) (x : Shq) : (s.putQueue q x).agenda = s.agenda := rfl
@[simp] theorem State.putQueue_cur (s : State) (q : Nat) (x : Shq) : (s.putQueue q x).cur = s.cur := rfl
@[simp] theorem State.putQueue_used (s : State) (q : Nat) (x : Shq) : (s.putQueue q x).used = s.used := rfl
@[simp] theorem State.putQueue_reissued (s : State) (q : Nat) (x : Shq) : (s.putQueue q x).reissued = s.reissued := rfl
@[simp] theorem State.putQueue_free (s : State) (q : Nat) (x : Shq) : (s.putQueue q x).free = s.free := rfl
@[simp] theorem State.putQueue_nextId (s : State) (q : Nat) (x : Shq) : (s.putQueue q x).nextId = s.nextId := rfl
@[simp] theorem State.putQueue_nextWg (s : State) (q : Nat) (x : Shq) : (s.putQueue q x).nextWg = s.nextWg := rfl
@[simp] theorem State.putQueue_warps (s : State) (q : Nat) (x : Shq) : (s.putQueue q x).warps = s.warps := rfl
@[simp] theorem State.putQueue_wgs (s : State) (q : Nat) (x : Shq) : (s.putQueue q x).wgs = s.wgs := rfl
@[simp] theorem State.putQueue_cores (s : State) (q : Nat) (x : Shq) : (s.putQueue q x).cores = s.cores := rfl
@[simp] theorem State.putQueue_dies (s : State) (q : Nat) (x : Shq) : (s.putQueue q x).dies = s.dies := rfl
@[simp] theorem State.putQueue_cohorts (s : State) (q : Nat) (x : Shq) : (s.putQueue q x).cohorts = s.cohorts := rfl
@[simp] theorem State.putQueue_cyc (s : State) (q : Nat) (x : Shq) : (s.putQueue q x).cyc = s.cyc := rfl
@[simp] theorem State.putQueue_mem (s : State) (q : Nat) (x : Shq) : (s.putQueue q x).mem = s.mem := rfl
@[simp] theorem State.putQueue_lines (s : State) (q : Nat) (x : Shq) : (s.putQueue q x).lines = s.lines := rfl
@[simp] theorem State.putQueue_poison (s : State) (q : Nat) (x : Shq) : (s.putQueue q x).poison = s.poison := rfl
@[simp] theorem State.putQueue_frames (s : State) (q : Nat) (x : Shq) : (s.putQueue q x).frames = s.frames := rfl
@[simp] theorem State.putQueue_pages (s : State) (q : Nat) (x : Shq) : (s.putQueue q x).pages = s.pages := rfl
@[simp] theorem State.putQueue_inval (s : State) (q : Nat) (x : Shq) : (s.putQueue q x).inval = s.inval := rfl
@[simp] theorem State.putQueue_reqs (s : State) (q : Nat) (x : Shq) : (s.putQueue q x).reqs = s.reqs := rfl
@[simp] theorem State.putQueue_queues (s : State) (q : Nat) (x : Shq) : (s.putQueue q x).queues = Tbl.put s.queues q x := rfl
@[simp] theorem State.putQueue_chans (s : State) (q : Nat) (x : Shq) : (s.putQueue q x).chans = s.chans := rfl
@[simp] theorem State.putQueue_resid (s : State) (q : Nat) (x : Shq) : (s.putQueue q x).resid = s.resid := rfl
@[simp] theorem State.putQueue_replayq (s : State) (q : Nat) (x : Shq) : (s.putQueue q x).replayq = s.replayq := rfl
@[simp] theorem State.putQueue_rowguard (s : State) (q : Nat) (x : Shq) : (s.putQueue q x).rowguard = s.rowguard := rfl
@[simp] theorem State.putQueue_bulk (s : State) (q : Nat) (x : Shq) : (s.putQueue q x).bulk = s.bulk := rfl
@[simp] theorem State.putQueue_ctxstore (s : State) (q : Nat) (x : Shq) : (s.putQueue q x).ctxstore = s.ctxstore := rfl
@[simp] theorem State.putQueue_power (s : State) (q : Nat) (x : Shq) : (s.putQueue q x).power = s.power := rfl
@[simp] theorem State.putQueue_fns (s : State) (q : Nat) (x : Shq) : (s.putQueue q x).fns = s.fns := rfl
@[simp] theorem State.putQueue_slices (s : State) (q : Nat) (x : Shq) : (s.putQueue q x).slices = s.slices := rfl
@[simp] theorem State.putQueue_cmdq (s : State) (q : Nat) (x : Shq) : (s.putQueue q x).cmdq = s.cmdq := rfl
@[simp] theorem State.putQueue_bundles (s : State) (q : Nat) (x : Shq) : (s.putQueue q x).bundles = s.bundles := rfl
@[simp] theorem State.putQueue_weights (s : State) (q : Nat) (x : Shq) : (s.putQueue q x).weights = s.weights := rfl
@[simp] theorem State.putQueue_deficit (s : State) (q : Nat) (x : Shq) : (s.putQueue q x).deficit = s.deficit := rfl
@[simp] theorem State.putQueue_irqs (s : State) (q : Nat) (x : Shq) : (s.putQueue q x).irqs = s.irqs := rfl
@[simp] theorem State.putQueue_ptp (s : State) (q : Nat) (x : Shq) : (s.putQueue q x).ptp = s.ptp := rfl
@[simp] theorem State.putQueue_devid (s : State) (q : Nat) (x : Shq) : (s.putQueue q x).devid = s.devid := rfl
@[simp] theorem State.putQueue_fab (s : State) (q : Nat) (x : Shq) : (s.putQueue q x).fab = s.fab := rfl
@[simp] theorem State.putQueue_kstream (s : State) (q : Nat) (x : Shq) : (s.putQueue q x).kstream = s.kstream := rfl
@[simp] theorem State.putQueue_streams (s : State) (q : Nat) (x : Shq) : (s.putQueue q x).streams = s.streams := rfl
@[simp] theorem State.putQueue_ends (s : State) (q : Nat) (x : Shq) : (s.putQueue q x).ends = s.ends := rfl
@[simp] theorem State.putQueue_moves (s : State) (q : Nat) (x : Shq) : (s.putQueue q x).moves = s.moves := rfl
@[simp] theorem State.putQueue_hostLines (s : State) (q : Nat) (x : Shq) : (s.putQueue q x).hostLines = s.hostLines := rfl
@[simp] theorem State.putQueue_boot (s : State) (q : Nat) (x : Shq) : (s.putQueue q x).boot = s.boot := rfl

/-! ### `State.putChan` -/

@[simp] theorem State.putChan_agenda (s : State) (c : Nat) (x : Chan) : (s.putChan c x).agenda = s.agenda := rfl
@[simp] theorem State.putChan_cur (s : State) (c : Nat) (x : Chan) : (s.putChan c x).cur = s.cur := rfl
@[simp] theorem State.putChan_used (s : State) (c : Nat) (x : Chan) : (s.putChan c x).used = s.used := rfl
@[simp] theorem State.putChan_reissued (s : State) (c : Nat) (x : Chan) : (s.putChan c x).reissued = s.reissued := rfl
@[simp] theorem State.putChan_free (s : State) (c : Nat) (x : Chan) : (s.putChan c x).free = s.free := rfl
@[simp] theorem State.putChan_nextId (s : State) (c : Nat) (x : Chan) : (s.putChan c x).nextId = s.nextId := rfl
@[simp] theorem State.putChan_nextWg (s : State) (c : Nat) (x : Chan) : (s.putChan c x).nextWg = s.nextWg := rfl
@[simp] theorem State.putChan_warps (s : State) (c : Nat) (x : Chan) : (s.putChan c x).warps = s.warps := rfl
@[simp] theorem State.putChan_wgs (s : State) (c : Nat) (x : Chan) : (s.putChan c x).wgs = s.wgs := rfl
@[simp] theorem State.putChan_cores (s : State) (c : Nat) (x : Chan) : (s.putChan c x).cores = s.cores := rfl
@[simp] theorem State.putChan_dies (s : State) (c : Nat) (x : Chan) : (s.putChan c x).dies = s.dies := rfl
@[simp] theorem State.putChan_cohorts (s : State) (c : Nat) (x : Chan) : (s.putChan c x).cohorts = s.cohorts := rfl
@[simp] theorem State.putChan_cyc (s : State) (c : Nat) (x : Chan) : (s.putChan c x).cyc = s.cyc := rfl
@[simp] theorem State.putChan_mem (s : State) (c : Nat) (x : Chan) : (s.putChan c x).mem = s.mem := rfl
@[simp] theorem State.putChan_lines (s : State) (c : Nat) (x : Chan) : (s.putChan c x).lines = s.lines := rfl
@[simp] theorem State.putChan_poison (s : State) (c : Nat) (x : Chan) : (s.putChan c x).poison = s.poison := rfl
@[simp] theorem State.putChan_frames (s : State) (c : Nat) (x : Chan) : (s.putChan c x).frames = s.frames := rfl
@[simp] theorem State.putChan_pages (s : State) (c : Nat) (x : Chan) : (s.putChan c x).pages = s.pages := rfl
@[simp] theorem State.putChan_inval (s : State) (c : Nat) (x : Chan) : (s.putChan c x).inval = s.inval := rfl
@[simp] theorem State.putChan_reqs (s : State) (c : Nat) (x : Chan) : (s.putChan c x).reqs = s.reqs := rfl
@[simp] theorem State.putChan_queues (s : State) (c : Nat) (x : Chan) : (s.putChan c x).queues = s.queues := rfl
@[simp] theorem State.putChan_chans (s : State) (c : Nat) (x : Chan) : (s.putChan c x).chans = Tbl.put s.chans c x := rfl
@[simp] theorem State.putChan_resid (s : State) (c : Nat) (x : Chan) : (s.putChan c x).resid = s.resid := rfl
@[simp] theorem State.putChan_replayq (s : State) (c : Nat) (x : Chan) : (s.putChan c x).replayq = s.replayq := rfl
@[simp] theorem State.putChan_rowguard (s : State) (c : Nat) (x : Chan) : (s.putChan c x).rowguard = s.rowguard := rfl
@[simp] theorem State.putChan_bulk (s : State) (c : Nat) (x : Chan) : (s.putChan c x).bulk = s.bulk := rfl
@[simp] theorem State.putChan_ctxstore (s : State) (c : Nat) (x : Chan) : (s.putChan c x).ctxstore = s.ctxstore := rfl
@[simp] theorem State.putChan_power (s : State) (c : Nat) (x : Chan) : (s.putChan c x).power = s.power := rfl
@[simp] theorem State.putChan_fns (s : State) (c : Nat) (x : Chan) : (s.putChan c x).fns = s.fns := rfl
@[simp] theorem State.putChan_slices (s : State) (c : Nat) (x : Chan) : (s.putChan c x).slices = s.slices := rfl
@[simp] theorem State.putChan_cmdq (s : State) (c : Nat) (x : Chan) : (s.putChan c x).cmdq = s.cmdq := rfl
@[simp] theorem State.putChan_bundles (s : State) (c : Nat) (x : Chan) : (s.putChan c x).bundles = s.bundles := rfl
@[simp] theorem State.putChan_weights (s : State) (c : Nat) (x : Chan) : (s.putChan c x).weights = s.weights := rfl
@[simp] theorem State.putChan_deficit (s : State) (c : Nat) (x : Chan) : (s.putChan c x).deficit = s.deficit := rfl
@[simp] theorem State.putChan_irqs (s : State) (c : Nat) (x : Chan) : (s.putChan c x).irqs = s.irqs := rfl
@[simp] theorem State.putChan_ptp (s : State) (c : Nat) (x : Chan) : (s.putChan c x).ptp = s.ptp := rfl
@[simp] theorem State.putChan_devid (s : State) (c : Nat) (x : Chan) : (s.putChan c x).devid = s.devid := rfl
@[simp] theorem State.putChan_fab (s : State) (c : Nat) (x : Chan) : (s.putChan c x).fab = s.fab := rfl
@[simp] theorem State.putChan_kstream (s : State) (c : Nat) (x : Chan) : (s.putChan c x).kstream = s.kstream := rfl
@[simp] theorem State.putChan_streams (s : State) (c : Nat) (x : Chan) : (s.putChan c x).streams = s.streams := rfl
@[simp] theorem State.putChan_ends (s : State) (c : Nat) (x : Chan) : (s.putChan c x).ends = s.ends := rfl
@[simp] theorem State.putChan_moves (s : State) (c : Nat) (x : Chan) : (s.putChan c x).moves = s.moves := rfl
@[simp] theorem State.putChan_hostLines (s : State) (c : Nat) (x : Chan) : (s.putChan c x).hostLines = s.hostLines := rfl
@[simp] theorem State.putChan_boot (s : State) (c : Nat) (x : Chan) : (s.putChan c x).boot = s.boot := rfl

/-! ### `State.putReq` -/

@[simp] theorem State.putReq_agenda (s : State) (r : Req) : (s.putReq r).agenda = s.agenda := rfl
@[simp] theorem State.putReq_cur (s : State) (r : Req) : (s.putReq r).cur = s.cur := rfl
@[simp] theorem State.putReq_used (s : State) (r : Req) : (s.putReq r).used = s.used := rfl
@[simp] theorem State.putReq_reissued (s : State) (r : Req) : (s.putReq r).reissued = s.reissued := rfl
@[simp] theorem State.putReq_free (s : State) (r : Req) : (s.putReq r).free = s.free := rfl
@[simp] theorem State.putReq_nextId (s : State) (r : Req) : (s.putReq r).nextId = s.nextId := rfl
@[simp] theorem State.putReq_nextWg (s : State) (r : Req) : (s.putReq r).nextWg = s.nextWg := rfl
@[simp] theorem State.putReq_warps (s : State) (r : Req) : (s.putReq r).warps = s.warps := rfl
@[simp] theorem State.putReq_wgs (s : State) (r : Req) : (s.putReq r).wgs = s.wgs := rfl
@[simp] theorem State.putReq_cores (s : State) (r : Req) : (s.putReq r).cores = s.cores := rfl
@[simp] theorem State.putReq_dies (s : State) (r : Req) : (s.putReq r).dies = s.dies := rfl
@[simp] theorem State.putReq_cohorts (s : State) (r : Req) : (s.putReq r).cohorts = s.cohorts := rfl
@[simp] theorem State.putReq_cyc (s : State) (r : Req) : (s.putReq r).cyc = s.cyc := rfl
@[simp] theorem State.putReq_mem (s : State) (r : Req) : (s.putReq r).mem = s.mem := rfl
@[simp] theorem State.putReq_lines (s : State) (r : Req) : (s.putReq r).lines = s.lines := rfl
@[simp] theorem State.putReq_poison (s : State) (r : Req) : (s.putReq r).poison = s.poison := rfl
@[simp] theorem State.putReq_frames (s : State) (r : Req) : (s.putReq r).frames = s.frames := rfl
@[simp] theorem State.putReq_pages (s : State) (r : Req) : (s.putReq r).pages = s.pages := rfl
@[simp] theorem State.putReq_inval (s : State) (r : Req) : (s.putReq r).inval = s.inval := rfl
@[simp] theorem State.putReq_reqs (s : State) (r : Req) : (s.putReq r).reqs = Tbl.put s.reqs r.id r := rfl
@[simp] theorem State.putReq_queues (s : State) (r : Req) : (s.putReq r).queues = s.queues := rfl
@[simp] theorem State.putReq_chans (s : State) (r : Req) : (s.putReq r).chans = s.chans := rfl
@[simp] theorem State.putReq_resid (s : State) (r : Req) : (s.putReq r).resid = s.resid := rfl
@[simp] theorem State.putReq_replayq (s : State) (r : Req) : (s.putReq r).replayq = s.replayq := rfl
@[simp] theorem State.putReq_rowguard (s : State) (r : Req) : (s.putReq r).rowguard = s.rowguard := rfl
@[simp] theorem State.putReq_bulk (s : State) (r : Req) : (s.putReq r).bulk = s.bulk := rfl
@[simp] theorem State.putReq_ctxstore (s : State) (r : Req) : (s.putReq r).ctxstore = s.ctxstore := rfl
@[simp] theorem State.putReq_power (s : State) (r : Req) : (s.putReq r).power = s.power := rfl
@[simp] theorem State.putReq_fns (s : State) (r : Req) : (s.putReq r).fns = s.fns := rfl
@[simp] theorem State.putReq_slices (s : State) (r : Req) : (s.putReq r).slices = s.slices := rfl
@[simp] theorem State.putReq_cmdq (s : State) (r : Req) : (s.putReq r).cmdq = s.cmdq := rfl
@[simp] theorem State.putReq_bundles (s : State) (r : Req) : (s.putReq r).bundles = s.bundles := rfl
@[simp] theorem State.putReq_weights (s : State) (r : Req) : (s.putReq r).weights = s.weights := rfl
@[simp] theorem State.putReq_deficit (s : State) (r : Req) : (s.putReq r).deficit = s.deficit := rfl
@[simp] theorem State.putReq_irqs (s : State) (r : Req) : (s.putReq r).irqs = s.irqs := rfl
@[simp] theorem State.putReq_ptp (s : State) (r : Req) : (s.putReq r).ptp = s.ptp := rfl
@[simp] theorem State.putReq_devid (s : State) (r : Req) : (s.putReq r).devid = s.devid := rfl
@[simp] theorem State.putReq_fab (s : State) (r : Req) : (s.putReq r).fab = s.fab := rfl
@[simp] theorem State.putReq_kstream (s : State) (r : Req) : (s.putReq r).kstream = s.kstream := rfl
@[simp] theorem State.putReq_streams (s : State) (r : Req) : (s.putReq r).streams = s.streams := rfl
@[simp] theorem State.putReq_ends (s : State) (r : Req) : (s.putReq r).ends = s.ends := rfl
@[simp] theorem State.putReq_moves (s : State) (r : Req) : (s.putReq r).moves = s.moves := rfl
@[simp] theorem State.putReq_hostLines (s : State) (r : Req) : (s.putReq r).hostLines = s.hostLines := rfl
@[simp] theorem State.putReq_boot (s : State) (r : Req) : (s.putReq r).boot = s.boot := rfl

/-! ### `State.delReq` -/

@[simp] theorem State.delReq_agenda (s : State) (n : Nat) : (s.delReq n).agenda = s.agenda := rfl
@[simp] theorem State.delReq_cur (s : State) (n : Nat) : (s.delReq n).cur = s.cur := rfl
@[simp] theorem State.delReq_used (s : State) (n : Nat) : (s.delReq n).used = s.used := rfl
@[simp] theorem State.delReq_reissued (s : State) (n : Nat) : (s.delReq n).reissued = s.reissued := rfl
@[simp] theorem State.delReq_free (s : State) (n : Nat) : (s.delReq n).free = s.free := rfl
@[simp] theorem State.delReq_nextId (s : State) (n : Nat) : (s.delReq n).nextId = s.nextId := rfl
@[simp] theorem State.delReq_nextWg (s : State) (n : Nat) : (s.delReq n).nextWg = s.nextWg := rfl
@[simp] theorem State.delReq_warps (s : State) (n : Nat) : (s.delReq n).warps = s.warps := rfl
@[simp] theorem State.delReq_wgs (s : State) (n : Nat) : (s.delReq n).wgs = s.wgs := rfl
@[simp] theorem State.delReq_cores (s : State) (n : Nat) : (s.delReq n).cores = s.cores := rfl
@[simp] theorem State.delReq_dies (s : State) (n : Nat) : (s.delReq n).dies = s.dies := rfl
@[simp] theorem State.delReq_cohorts (s : State) (n : Nat) : (s.delReq n).cohorts = s.cohorts := rfl
@[simp] theorem State.delReq_cyc (s : State) (n : Nat) : (s.delReq n).cyc = s.cyc := rfl
@[simp] theorem State.delReq_mem (s : State) (n : Nat) : (s.delReq n).mem = s.mem := rfl
@[simp] theorem State.delReq_lines (s : State) (n : Nat) : (s.delReq n).lines = s.lines := rfl
@[simp] theorem State.delReq_poison (s : State) (n : Nat) : (s.delReq n).poison = s.poison := rfl
@[simp] theorem State.delReq_frames (s : State) (n : Nat) : (s.delReq n).frames = s.frames := rfl
@[simp] theorem State.delReq_pages (s : State) (n : Nat) : (s.delReq n).pages = s.pages := rfl
@[simp] theorem State.delReq_inval (s : State) (n : Nat) : (s.delReq n).inval = s.inval := rfl
@[simp] theorem State.delReq_reqs (s : State) (n : Nat) : (s.delReq n).reqs = Tbl.del s.reqs n := rfl
@[simp] theorem State.delReq_queues (s : State) (n : Nat) : (s.delReq n).queues = s.queues := rfl
@[simp] theorem State.delReq_chans (s : State) (n : Nat) : (s.delReq n).chans = s.chans := rfl
@[simp] theorem State.delReq_resid (s : State) (n : Nat) : (s.delReq n).resid = s.resid := rfl
@[simp] theorem State.delReq_replayq (s : State) (n : Nat) : (s.delReq n).replayq = s.replayq := rfl
@[simp] theorem State.delReq_rowguard (s : State) (n : Nat) : (s.delReq n).rowguard = s.rowguard := rfl
@[simp] theorem State.delReq_bulk (s : State) (n : Nat) : (s.delReq n).bulk = s.bulk := rfl
@[simp] theorem State.delReq_ctxstore (s : State) (n : Nat) : (s.delReq n).ctxstore = s.ctxstore := rfl
@[simp] theorem State.delReq_power (s : State) (n : Nat) : (s.delReq n).power = s.power := rfl
@[simp] theorem State.delReq_fns (s : State) (n : Nat) : (s.delReq n).fns = s.fns := rfl
@[simp] theorem State.delReq_slices (s : State) (n : Nat) : (s.delReq n).slices = s.slices := rfl
@[simp] theorem State.delReq_cmdq (s : State) (n : Nat) : (s.delReq n).cmdq = s.cmdq := rfl
@[simp] theorem State.delReq_bundles (s : State) (n : Nat) : (s.delReq n).bundles = s.bundles := rfl
@[simp] theorem State.delReq_weights (s : State) (n : Nat) : (s.delReq n).weights = s.weights := rfl
@[simp] theorem State.delReq_deficit (s : State) (n : Nat) : (s.delReq n).deficit = s.deficit := rfl
@[simp] theorem State.delReq_irqs (s : State) (n : Nat) : (s.delReq n).irqs = s.irqs := rfl
@[simp] theorem State.delReq_ptp (s : State) (n : Nat) : (s.delReq n).ptp = s.ptp := rfl
@[simp] theorem State.delReq_devid (s : State) (n : Nat) : (s.delReq n).devid = s.devid := rfl
@[simp] theorem State.delReq_fab (s : State) (n : Nat) : (s.delReq n).fab = s.fab := rfl
@[simp] theorem State.delReq_kstream (s : State) (n : Nat) : (s.delReq n).kstream = s.kstream := rfl
@[simp] theorem State.delReq_streams (s : State) (n : Nat) : (s.delReq n).streams = s.streams := rfl
@[simp] theorem State.delReq_ends (s : State) (n : Nat) : (s.delReq n).ends = s.ends := rfl
@[simp] theorem State.delReq_moves (s : State) (n : Nat) : (s.delReq n).moves = s.moves := rfl
@[simp] theorem State.delReq_hostLines (s : State) (n : Nat) : (s.delReq n).hostLines = s.hostLines := rfl
@[simp] theorem State.delReq_boot (s : State) (n : Nat) : (s.delReq n).boot = s.boot := rfl

/-! ### `State.putCmdq` -/

@[simp] theorem State.putCmdq_agenda (s : State) (q : Nat) (x : Queue) : (s.putCmdq q x).agenda = s.agenda := rfl
@[simp] theorem State.putCmdq_cur (s : State) (q : Nat) (x : Queue) : (s.putCmdq q x).cur = s.cur := rfl
@[simp] theorem State.putCmdq_used (s : State) (q : Nat) (x : Queue) : (s.putCmdq q x).used = s.used := rfl
@[simp] theorem State.putCmdq_reissued (s : State) (q : Nat) (x : Queue) : (s.putCmdq q x).reissued = s.reissued := rfl
@[simp] theorem State.putCmdq_free (s : State) (q : Nat) (x : Queue) : (s.putCmdq q x).free = s.free := rfl
@[simp] theorem State.putCmdq_nextId (s : State) (q : Nat) (x : Queue) : (s.putCmdq q x).nextId = s.nextId := rfl
@[simp] theorem State.putCmdq_nextWg (s : State) (q : Nat) (x : Queue) : (s.putCmdq q x).nextWg = s.nextWg := rfl
@[simp] theorem State.putCmdq_warps (s : State) (q : Nat) (x : Queue) : (s.putCmdq q x).warps = s.warps := rfl
@[simp] theorem State.putCmdq_wgs (s : State) (q : Nat) (x : Queue) : (s.putCmdq q x).wgs = s.wgs := rfl
@[simp] theorem State.putCmdq_cores (s : State) (q : Nat) (x : Queue) : (s.putCmdq q x).cores = s.cores := rfl
@[simp] theorem State.putCmdq_dies (s : State) (q : Nat) (x : Queue) : (s.putCmdq q x).dies = s.dies := rfl
@[simp] theorem State.putCmdq_cohorts (s : State) (q : Nat) (x : Queue) : (s.putCmdq q x).cohorts = s.cohorts := rfl
@[simp] theorem State.putCmdq_cyc (s : State) (q : Nat) (x : Queue) : (s.putCmdq q x).cyc = s.cyc := rfl
@[simp] theorem State.putCmdq_mem (s : State) (q : Nat) (x : Queue) : (s.putCmdq q x).mem = s.mem := rfl
@[simp] theorem State.putCmdq_lines (s : State) (q : Nat) (x : Queue) : (s.putCmdq q x).lines = s.lines := rfl
@[simp] theorem State.putCmdq_poison (s : State) (q : Nat) (x : Queue) : (s.putCmdq q x).poison = s.poison := rfl
@[simp] theorem State.putCmdq_frames (s : State) (q : Nat) (x : Queue) : (s.putCmdq q x).frames = s.frames := rfl
@[simp] theorem State.putCmdq_pages (s : State) (q : Nat) (x : Queue) : (s.putCmdq q x).pages = s.pages := rfl
@[simp] theorem State.putCmdq_inval (s : State) (q : Nat) (x : Queue) : (s.putCmdq q x).inval = s.inval := rfl
@[simp] theorem State.putCmdq_reqs (s : State) (q : Nat) (x : Queue) : (s.putCmdq q x).reqs = s.reqs := rfl
@[simp] theorem State.putCmdq_queues (s : State) (q : Nat) (x : Queue) : (s.putCmdq q x).queues = s.queues := rfl
@[simp] theorem State.putCmdq_chans (s : State) (q : Nat) (x : Queue) : (s.putCmdq q x).chans = s.chans := rfl
@[simp] theorem State.putCmdq_resid (s : State) (q : Nat) (x : Queue) : (s.putCmdq q x).resid = s.resid := rfl
@[simp] theorem State.putCmdq_replayq (s : State) (q : Nat) (x : Queue) : (s.putCmdq q x).replayq = s.replayq := rfl
@[simp] theorem State.putCmdq_rowguard (s : State) (q : Nat) (x : Queue) : (s.putCmdq q x).rowguard = s.rowguard := rfl
@[simp] theorem State.putCmdq_bulk (s : State) (q : Nat) (x : Queue) : (s.putCmdq q x).bulk = s.bulk := rfl
@[simp] theorem State.putCmdq_ctxstore (s : State) (q : Nat) (x : Queue) : (s.putCmdq q x).ctxstore = s.ctxstore := rfl
@[simp] theorem State.putCmdq_power (s : State) (q : Nat) (x : Queue) : (s.putCmdq q x).power = s.power := rfl
@[simp] theorem State.putCmdq_fns (s : State) (q : Nat) (x : Queue) : (s.putCmdq q x).fns = s.fns := rfl
@[simp] theorem State.putCmdq_slices (s : State) (q : Nat) (x : Queue) : (s.putCmdq q x).slices = s.slices := rfl
@[simp] theorem State.putCmdq_cmdq (s : State) (q : Nat) (x : Queue) : (s.putCmdq q x).cmdq = Tbl.put s.cmdq q x := rfl
@[simp] theorem State.putCmdq_bundles (s : State) (q : Nat) (x : Queue) : (s.putCmdq q x).bundles = s.bundles := rfl
@[simp] theorem State.putCmdq_weights (s : State) (q : Nat) (x : Queue) : (s.putCmdq q x).weights = s.weights := rfl
@[simp] theorem State.putCmdq_deficit (s : State) (q : Nat) (x : Queue) : (s.putCmdq q x).deficit = s.deficit := rfl
@[simp] theorem State.putCmdq_irqs (s : State) (q : Nat) (x : Queue) : (s.putCmdq q x).irqs = s.irqs := rfl
@[simp] theorem State.putCmdq_ptp (s : State) (q : Nat) (x : Queue) : (s.putCmdq q x).ptp = s.ptp := rfl
@[simp] theorem State.putCmdq_devid (s : State) (q : Nat) (x : Queue) : (s.putCmdq q x).devid = s.devid := rfl
@[simp] theorem State.putCmdq_fab (s : State) (q : Nat) (x : Queue) : (s.putCmdq q x).fab = s.fab := rfl
@[simp] theorem State.putCmdq_kstream (s : State) (q : Nat) (x : Queue) : (s.putCmdq q x).kstream = s.kstream := rfl
@[simp] theorem State.putCmdq_streams (s : State) (q : Nat) (x : Queue) : (s.putCmdq q x).streams = s.streams := rfl
@[simp] theorem State.putCmdq_ends (s : State) (q : Nat) (x : Queue) : (s.putCmdq q x).ends = s.ends := rfl
@[simp] theorem State.putCmdq_moves (s : State) (q : Nat) (x : Queue) : (s.putCmdq q x).moves = s.moves := rfl
@[simp] theorem State.putCmdq_hostLines (s : State) (q : Nat) (x : Queue) : (s.putCmdq q x).hostLines = s.hostLines := rfl
@[simp] theorem State.putCmdq_boot (s : State) (q : Nat) (x : Queue) : (s.putCmdq q x).boot = s.boot := rfl

/-! ### `State.putBundle` -/

@[simp] theorem State.putBundle_agenda (s : State) (b : Nat) (x : Bundle) : (s.putBundle b x).agenda = s.agenda := rfl
@[simp] theorem State.putBundle_cur (s : State) (b : Nat) (x : Bundle) : (s.putBundle b x).cur = s.cur := rfl
@[simp] theorem State.putBundle_used (s : State) (b : Nat) (x : Bundle) : (s.putBundle b x).used = s.used := rfl
@[simp] theorem State.putBundle_reissued (s : State) (b : Nat) (x : Bundle) : (s.putBundle b x).reissued = s.reissued := rfl
@[simp] theorem State.putBundle_free (s : State) (b : Nat) (x : Bundle) : (s.putBundle b x).free = s.free := rfl
@[simp] theorem State.putBundle_nextId (s : State) (b : Nat) (x : Bundle) : (s.putBundle b x).nextId = s.nextId := rfl
@[simp] theorem State.putBundle_nextWg (s : State) (b : Nat) (x : Bundle) : (s.putBundle b x).nextWg = s.nextWg := rfl
@[simp] theorem State.putBundle_warps (s : State) (b : Nat) (x : Bundle) : (s.putBundle b x).warps = s.warps := rfl
@[simp] theorem State.putBundle_wgs (s : State) (b : Nat) (x : Bundle) : (s.putBundle b x).wgs = s.wgs := rfl
@[simp] theorem State.putBundle_cores (s : State) (b : Nat) (x : Bundle) : (s.putBundle b x).cores = s.cores := rfl
@[simp] theorem State.putBundle_dies (s : State) (b : Nat) (x : Bundle) : (s.putBundle b x).dies = s.dies := rfl
@[simp] theorem State.putBundle_cohorts (s : State) (b : Nat) (x : Bundle) : (s.putBundle b x).cohorts = s.cohorts := rfl
@[simp] theorem State.putBundle_cyc (s : State) (b : Nat) (x : Bundle) : (s.putBundle b x).cyc = s.cyc := rfl
@[simp] theorem State.putBundle_mem (s : State) (b : Nat) (x : Bundle) : (s.putBundle b x).mem = s.mem := rfl
@[simp] theorem State.putBundle_lines (s : State) (b : Nat) (x : Bundle) : (s.putBundle b x).lines = s.lines := rfl
@[simp] theorem State.putBundle_poison (s : State) (b : Nat) (x : Bundle) : (s.putBundle b x).poison = s.poison := rfl
@[simp] theorem State.putBundle_frames (s : State) (b : Nat) (x : Bundle) : (s.putBundle b x).frames = s.frames := rfl
@[simp] theorem State.putBundle_pages (s : State) (b : Nat) (x : Bundle) : (s.putBundle b x).pages = s.pages := rfl
@[simp] theorem State.putBundle_inval (s : State) (b : Nat) (x : Bundle) : (s.putBundle b x).inval = s.inval := rfl
@[simp] theorem State.putBundle_reqs (s : State) (b : Nat) (x : Bundle) : (s.putBundle b x).reqs = s.reqs := rfl
@[simp] theorem State.putBundle_queues (s : State) (b : Nat) (x : Bundle) : (s.putBundle b x).queues = s.queues := rfl
@[simp] theorem State.putBundle_chans (s : State) (b : Nat) (x : Bundle) : (s.putBundle b x).chans = s.chans := rfl
@[simp] theorem State.putBundle_resid (s : State) (b : Nat) (x : Bundle) : (s.putBundle b x).resid = s.resid := rfl
@[simp] theorem State.putBundle_replayq (s : State) (b : Nat) (x : Bundle) : (s.putBundle b x).replayq = s.replayq := rfl
@[simp] theorem State.putBundle_rowguard (s : State) (b : Nat) (x : Bundle) : (s.putBundle b x).rowguard = s.rowguard := rfl
@[simp] theorem State.putBundle_bulk (s : State) (b : Nat) (x : Bundle) : (s.putBundle b x).bulk = s.bulk := rfl
@[simp] theorem State.putBundle_ctxstore (s : State) (b : Nat) (x : Bundle) : (s.putBundle b x).ctxstore = s.ctxstore := rfl
@[simp] theorem State.putBundle_power (s : State) (b : Nat) (x : Bundle) : (s.putBundle b x).power = s.power := rfl
@[simp] theorem State.putBundle_fns (s : State) (b : Nat) (x : Bundle) : (s.putBundle b x).fns = s.fns := rfl
@[simp] theorem State.putBundle_slices (s : State) (b : Nat) (x : Bundle) : (s.putBundle b x).slices = s.slices := rfl
@[simp] theorem State.putBundle_cmdq (s : State) (b : Nat) (x : Bundle) : (s.putBundle b x).cmdq = s.cmdq := rfl
@[simp] theorem State.putBundle_bundles (s : State) (b : Nat) (x : Bundle) : (s.putBundle b x).bundles = Tbl.put s.bundles b x := rfl
@[simp] theorem State.putBundle_weights (s : State) (b : Nat) (x : Bundle) : (s.putBundle b x).weights = s.weights := rfl
@[simp] theorem State.putBundle_deficit (s : State) (b : Nat) (x : Bundle) : (s.putBundle b x).deficit = s.deficit := rfl
@[simp] theorem State.putBundle_irqs (s : State) (b : Nat) (x : Bundle) : (s.putBundle b x).irqs = s.irqs := rfl
@[simp] theorem State.putBundle_ptp (s : State) (b : Nat) (x : Bundle) : (s.putBundle b x).ptp = s.ptp := rfl
@[simp] theorem State.putBundle_devid (s : State) (b : Nat) (x : Bundle) : (s.putBundle b x).devid = s.devid := rfl
@[simp] theorem State.putBundle_fab (s : State) (b : Nat) (x : Bundle) : (s.putBundle b x).fab = s.fab := rfl
@[simp] theorem State.putBundle_kstream (s : State) (b : Nat) (x : Bundle) : (s.putBundle b x).kstream = s.kstream := rfl
@[simp] theorem State.putBundle_streams (s : State) (b : Nat) (x : Bundle) : (s.putBundle b x).streams = s.streams := rfl
@[simp] theorem State.putBundle_ends (s : State) (b : Nat) (x : Bundle) : (s.putBundle b x).ends = s.ends := rfl
@[simp] theorem State.putBundle_moves (s : State) (b : Nat) (x : Bundle) : (s.putBundle b x).moves = s.moves := rfl
@[simp] theorem State.putBundle_hostLines (s : State) (b : Nat) (x : Bundle) : (s.putBundle b x).hostLines = s.hostLines := rfl
@[simp] theorem State.putBundle_boot (s : State) (b : Nat) (x : Bundle) : (s.putBundle b x).boot = s.boot := rfl

/-! ### `State.onWarp` -/

@[simp] theorem State.onWarp_agenda (s : State) (k : Nat) (f : Warp → Warp) : (s.onWarp k f).agenda = s.agenda := rfl
@[simp] theorem State.onWarp_cur (s : State) (k : Nat) (f : Warp → Warp) : (s.onWarp k f).cur = s.cur := rfl
@[simp] theorem State.onWarp_used (s : State) (k : Nat) (f : Warp → Warp) : (s.onWarp k f).used = s.used := rfl
@[simp] theorem State.onWarp_reissued (s : State) (k : Nat) (f : Warp → Warp) : (s.onWarp k f).reissued = s.reissued := rfl
@[simp] theorem State.onWarp_free (s : State) (k : Nat) (f : Warp → Warp) : (s.onWarp k f).free = s.free := rfl
@[simp] theorem State.onWarp_nextId (s : State) (k : Nat) (f : Warp → Warp) : (s.onWarp k f).nextId = s.nextId := rfl
@[simp] theorem State.onWarp_nextWg (s : State) (k : Nat) (f : Warp → Warp) : (s.onWarp k f).nextWg = s.nextWg := rfl
@[simp] theorem State.onWarp_warps (s : State) (k : Nat) (f : Warp → Warp) : (s.onWarp k f).warps = Tbl.adjust s.warps k f := rfl
@[simp] theorem State.onWarp_wgs (s : State) (k : Nat) (f : Warp → Warp) : (s.onWarp k f).wgs = s.wgs := rfl
@[simp] theorem State.onWarp_cores (s : State) (k : Nat) (f : Warp → Warp) : (s.onWarp k f).cores = s.cores := rfl
@[simp] theorem State.onWarp_dies (s : State) (k : Nat) (f : Warp → Warp) : (s.onWarp k f).dies = s.dies := rfl
@[simp] theorem State.onWarp_cohorts (s : State) (k : Nat) (f : Warp → Warp) : (s.onWarp k f).cohorts = s.cohorts := rfl
@[simp] theorem State.onWarp_cyc (s : State) (k : Nat) (f : Warp → Warp) : (s.onWarp k f).cyc = s.cyc := rfl
@[simp] theorem State.onWarp_mem (s : State) (k : Nat) (f : Warp → Warp) : (s.onWarp k f).mem = s.mem := rfl
@[simp] theorem State.onWarp_lines (s : State) (k : Nat) (f : Warp → Warp) : (s.onWarp k f).lines = s.lines := rfl
@[simp] theorem State.onWarp_poison (s : State) (k : Nat) (f : Warp → Warp) : (s.onWarp k f).poison = s.poison := rfl
@[simp] theorem State.onWarp_frames (s : State) (k : Nat) (f : Warp → Warp) : (s.onWarp k f).frames = s.frames := rfl
@[simp] theorem State.onWarp_pages (s : State) (k : Nat) (f : Warp → Warp) : (s.onWarp k f).pages = s.pages := rfl
@[simp] theorem State.onWarp_inval (s : State) (k : Nat) (f : Warp → Warp) : (s.onWarp k f).inval = s.inval := rfl
@[simp] theorem State.onWarp_reqs (s : State) (k : Nat) (f : Warp → Warp) : (s.onWarp k f).reqs = s.reqs := rfl
@[simp] theorem State.onWarp_queues (s : State) (k : Nat) (f : Warp → Warp) : (s.onWarp k f).queues = s.queues := rfl
@[simp] theorem State.onWarp_chans (s : State) (k : Nat) (f : Warp → Warp) : (s.onWarp k f).chans = s.chans := rfl
@[simp] theorem State.onWarp_resid (s : State) (k : Nat) (f : Warp → Warp) : (s.onWarp k f).resid = s.resid := rfl
@[simp] theorem State.onWarp_replayq (s : State) (k : Nat) (f : Warp → Warp) : (s.onWarp k f).replayq = s.replayq := rfl
@[simp] theorem State.onWarp_rowguard (s : State) (k : Nat) (f : Warp → Warp) : (s.onWarp k f).rowguard = s.rowguard := rfl
@[simp] theorem State.onWarp_bulk (s : State) (k : Nat) (f : Warp → Warp) : (s.onWarp k f).bulk = s.bulk := rfl
@[simp] theorem State.onWarp_ctxstore (s : State) (k : Nat) (f : Warp → Warp) : (s.onWarp k f).ctxstore = s.ctxstore := rfl
@[simp] theorem State.onWarp_power (s : State) (k : Nat) (f : Warp → Warp) : (s.onWarp k f).power = s.power := rfl
@[simp] theorem State.onWarp_fns (s : State) (k : Nat) (f : Warp → Warp) : (s.onWarp k f).fns = s.fns := rfl
@[simp] theorem State.onWarp_slices (s : State) (k : Nat) (f : Warp → Warp) : (s.onWarp k f).slices = s.slices := rfl
@[simp] theorem State.onWarp_cmdq (s : State) (k : Nat) (f : Warp → Warp) : (s.onWarp k f).cmdq = s.cmdq := rfl
@[simp] theorem State.onWarp_bundles (s : State) (k : Nat) (f : Warp → Warp) : (s.onWarp k f).bundles = s.bundles := rfl
@[simp] theorem State.onWarp_weights (s : State) (k : Nat) (f : Warp → Warp) : (s.onWarp k f).weights = s.weights := rfl
@[simp] theorem State.onWarp_deficit (s : State) (k : Nat) (f : Warp → Warp) : (s.onWarp k f).deficit = s.deficit := rfl
@[simp] theorem State.onWarp_irqs (s : State) (k : Nat) (f : Warp → Warp) : (s.onWarp k f).irqs = s.irqs := rfl
@[simp] theorem State.onWarp_ptp (s : State) (k : Nat) (f : Warp → Warp) : (s.onWarp k f).ptp = s.ptp := rfl
@[simp] theorem State.onWarp_devid (s : State) (k : Nat) (f : Warp → Warp) : (s.onWarp k f).devid = s.devid := rfl
@[simp] theorem State.onWarp_fab (s : State) (k : Nat) (f : Warp → Warp) : (s.onWarp k f).fab = s.fab := rfl
@[simp] theorem State.onWarp_kstream (s : State) (k : Nat) (f : Warp → Warp) : (s.onWarp k f).kstream = s.kstream := rfl
@[simp] theorem State.onWarp_streams (s : State) (k : Nat) (f : Warp → Warp) : (s.onWarp k f).streams = s.streams := rfl
@[simp] theorem State.onWarp_ends (s : State) (k : Nat) (f : Warp → Warp) : (s.onWarp k f).ends = s.ends := rfl
@[simp] theorem State.onWarp_moves (s : State) (k : Nat) (f : Warp → Warp) : (s.onWarp k f).moves = s.moves := rfl
@[simp] theorem State.onWarp_hostLines (s : State) (k : Nat) (f : Warp → Warp) : (s.onWarp k f).hostLines = s.hostLines := rfl
@[simp] theorem State.onWarp_boot (s : State) (k : Nat) (f : Warp → Warp) : (s.onWarp k f).boot = s.boot := rfl

/-! ### `State.onWg` -/

@[simp] theorem State.onWg_agenda (s : State) (g : Nat) (f : Wg → Wg) : (s.onWg g f).agenda = s.agenda := rfl
@[simp] theorem State.onWg_cur (s : State) (g : Nat) (f : Wg → Wg) : (s.onWg g f).cur = s.cur := rfl
@[simp] theorem State.onWg_used (s : State) (g : Nat) (f : Wg → Wg) : (s.onWg g f).used = s.used := rfl
@[simp] theorem State.onWg_reissued (s : State) (g : Nat) (f : Wg → Wg) : (s.onWg g f).reissued = s.reissued := rfl
@[simp] theorem State.onWg_free (s : State) (g : Nat) (f : Wg → Wg) : (s.onWg g f).free = s.free := rfl
@[simp] theorem State.onWg_nextId (s : State) (g : Nat) (f : Wg → Wg) : (s.onWg g f).nextId = s.nextId := rfl
@[simp] theorem State.onWg_nextWg (s : State) (g : Nat) (f : Wg → Wg) : (s.onWg g f).nextWg = s.nextWg := rfl
@[simp] theorem State.onWg_warps (s : State) (g : Nat) (f : Wg → Wg) : (s.onWg g f).warps = s.warps := rfl
@[simp] theorem State.onWg_wgs (s : State) (g : Nat) (f : Wg → Wg) : (s.onWg g f).wgs = Tbl.adjust s.wgs g f := rfl
@[simp] theorem State.onWg_cores (s : State) (g : Nat) (f : Wg → Wg) : (s.onWg g f).cores = s.cores := rfl
@[simp] theorem State.onWg_dies (s : State) (g : Nat) (f : Wg → Wg) : (s.onWg g f).dies = s.dies := rfl
@[simp] theorem State.onWg_cohorts (s : State) (g : Nat) (f : Wg → Wg) : (s.onWg g f).cohorts = s.cohorts := rfl
@[simp] theorem State.onWg_cyc (s : State) (g : Nat) (f : Wg → Wg) : (s.onWg g f).cyc = s.cyc := rfl
@[simp] theorem State.onWg_mem (s : State) (g : Nat) (f : Wg → Wg) : (s.onWg g f).mem = s.mem := rfl
@[simp] theorem State.onWg_lines (s : State) (g : Nat) (f : Wg → Wg) : (s.onWg g f).lines = s.lines := rfl
@[simp] theorem State.onWg_poison (s : State) (g : Nat) (f : Wg → Wg) : (s.onWg g f).poison = s.poison := rfl
@[simp] theorem State.onWg_frames (s : State) (g : Nat) (f : Wg → Wg) : (s.onWg g f).frames = s.frames := rfl
@[simp] theorem State.onWg_pages (s : State) (g : Nat) (f : Wg → Wg) : (s.onWg g f).pages = s.pages := rfl
@[simp] theorem State.onWg_inval (s : State) (g : Nat) (f : Wg → Wg) : (s.onWg g f).inval = s.inval := rfl
@[simp] theorem State.onWg_reqs (s : State) (g : Nat) (f : Wg → Wg) : (s.onWg g f).reqs = s.reqs := rfl
@[simp] theorem State.onWg_queues (s : State) (g : Nat) (f : Wg → Wg) : (s.onWg g f).queues = s.queues := rfl
@[simp] theorem State.onWg_chans (s : State) (g : Nat) (f : Wg → Wg) : (s.onWg g f).chans = s.chans := rfl
@[simp] theorem State.onWg_resid (s : State) (g : Nat) (f : Wg → Wg) : (s.onWg g f).resid = s.resid := rfl
@[simp] theorem State.onWg_replayq (s : State) (g : Nat) (f : Wg → Wg) : (s.onWg g f).replayq = s.replayq := rfl
@[simp] theorem State.onWg_rowguard (s : State) (g : Nat) (f : Wg → Wg) : (s.onWg g f).rowguard = s.rowguard := rfl
@[simp] theorem State.onWg_bulk (s : State) (g : Nat) (f : Wg → Wg) : (s.onWg g f).bulk = s.bulk := rfl
@[simp] theorem State.onWg_ctxstore (s : State) (g : Nat) (f : Wg → Wg) : (s.onWg g f).ctxstore = s.ctxstore := rfl
@[simp] theorem State.onWg_power (s : State) (g : Nat) (f : Wg → Wg) : (s.onWg g f).power = s.power := rfl
@[simp] theorem State.onWg_fns (s : State) (g : Nat) (f : Wg → Wg) : (s.onWg g f).fns = s.fns := rfl
@[simp] theorem State.onWg_slices (s : State) (g : Nat) (f : Wg → Wg) : (s.onWg g f).slices = s.slices := rfl
@[simp] theorem State.onWg_cmdq (s : State) (g : Nat) (f : Wg → Wg) : (s.onWg g f).cmdq = s.cmdq := rfl
@[simp] theorem State.onWg_bundles (s : State) (g : Nat) (f : Wg → Wg) : (s.onWg g f).bundles = s.bundles := rfl
@[simp] theorem State.onWg_weights (s : State) (g : Nat) (f : Wg → Wg) : (s.onWg g f).weights = s.weights := rfl
@[simp] theorem State.onWg_deficit (s : State) (g : Nat) (f : Wg → Wg) : (s.onWg g f).deficit = s.deficit := rfl
@[simp] theorem State.onWg_irqs (s : State) (g : Nat) (f : Wg → Wg) : (s.onWg g f).irqs = s.irqs := rfl
@[simp] theorem State.onWg_ptp (s : State) (g : Nat) (f : Wg → Wg) : (s.onWg g f).ptp = s.ptp := rfl
@[simp] theorem State.onWg_devid (s : State) (g : Nat) (f : Wg → Wg) : (s.onWg g f).devid = s.devid := rfl
@[simp] theorem State.onWg_fab (s : State) (g : Nat) (f : Wg → Wg) : (s.onWg g f).fab = s.fab := rfl
@[simp] theorem State.onWg_kstream (s : State) (g : Nat) (f : Wg → Wg) : (s.onWg g f).kstream = s.kstream := rfl
@[simp] theorem State.onWg_streams (s : State) (g : Nat) (f : Wg → Wg) : (s.onWg g f).streams = s.streams := rfl
@[simp] theorem State.onWg_ends (s : State) (g : Nat) (f : Wg → Wg) : (s.onWg g f).ends = s.ends := rfl
@[simp] theorem State.onWg_moves (s : State) (g : Nat) (f : Wg → Wg) : (s.onWg g f).moves = s.moves := rfl
@[simp] theorem State.onWg_hostLines (s : State) (g : Nat) (f : Wg → Wg) : (s.onWg g f).hostLines = s.hostLines := rfl
@[simp] theorem State.onWg_boot (s : State) (g : Nat) (f : Wg → Wg) : (s.onWg g f).boot = s.boot := rfl

/-! ### `State.onReq` -/

@[simp] theorem State.onReq_agenda (s : State) (r : Nat) (f : Req → Req) : (s.onReq r f).agenda = s.agenda := rfl
@[simp] theorem State.onReq_cur (s : State) (r : Nat) (f : Req → Req) : (s.onReq r f).cur = s.cur := rfl
@[simp] theorem State.onReq_used (s : State) (r : Nat) (f : Req → Req) : (s.onReq r f).used = s.used := rfl
@[simp] theorem State.onReq_reissued (s : State) (r : Nat) (f : Req → Req) : (s.onReq r f).reissued = s.reissued := rfl
@[simp] theorem State.onReq_free (s : State) (r : Nat) (f : Req → Req) : (s.onReq r f).free = s.free := rfl
@[simp] theorem State.onReq_nextId (s : State) (r : Nat) (f : Req → Req) : (s.onReq r f).nextId = s.nextId := rfl
@[simp] theorem State.onReq_nextWg (s : State) (r : Nat) (f : Req → Req) : (s.onReq r f).nextWg = s.nextWg := rfl
@[simp] theorem State.onReq_warps (s : State) (r : Nat) (f : Req → Req) : (s.onReq r f).warps = s.warps := rfl
@[simp] theorem State.onReq_wgs (s : State) (r : Nat) (f : Req → Req) : (s.onReq r f).wgs = s.wgs := rfl
@[simp] theorem State.onReq_cores (s : State) (r : Nat) (f : Req → Req) : (s.onReq r f).cores = s.cores := rfl
@[simp] theorem State.onReq_dies (s : State) (r : Nat) (f : Req → Req) : (s.onReq r f).dies = s.dies := rfl
@[simp] theorem State.onReq_cohorts (s : State) (r : Nat) (f : Req → Req) : (s.onReq r f).cohorts = s.cohorts := rfl
@[simp] theorem State.onReq_cyc (s : State) (r : Nat) (f : Req → Req) : (s.onReq r f).cyc = s.cyc := rfl
@[simp] theorem State.onReq_mem (s : State) (r : Nat) (f : Req → Req) : (s.onReq r f).mem = s.mem := rfl
@[simp] theorem State.onReq_lines (s : State) (r : Nat) (f : Req → Req) : (s.onReq r f).lines = s.lines := rfl
@[simp] theorem State.onReq_poison (s : State) (r : Nat) (f : Req → Req) : (s.onReq r f).poison = s.poison := rfl
@[simp] theorem State.onReq_frames (s : State) (r : Nat) (f : Req → Req) : (s.onReq r f).frames = s.frames := rfl
@[simp] theorem State.onReq_pages (s : State) (r : Nat) (f : Req → Req) : (s.onReq r f).pages = s.pages := rfl
@[simp] theorem State.onReq_inval (s : State) (r : Nat) (f : Req → Req) : (s.onReq r f).inval = s.inval := rfl
@[simp] theorem State.onReq_reqs (s : State) (r : Nat) (f : Req → Req) : (s.onReq r f).reqs = Tbl.adjust s.reqs r f := rfl
@[simp] theorem State.onReq_queues (s : State) (r : Nat) (f : Req → Req) : (s.onReq r f).queues = s.queues := rfl
@[simp] theorem State.onReq_chans (s : State) (r : Nat) (f : Req → Req) : (s.onReq r f).chans = s.chans := rfl
@[simp] theorem State.onReq_resid (s : State) (r : Nat) (f : Req → Req) : (s.onReq r f).resid = s.resid := rfl
@[simp] theorem State.onReq_replayq (s : State) (r : Nat) (f : Req → Req) : (s.onReq r f).replayq = s.replayq := rfl
@[simp] theorem State.onReq_rowguard (s : State) (r : Nat) (f : Req → Req) : (s.onReq r f).rowguard = s.rowguard := rfl
@[simp] theorem State.onReq_bulk (s : State) (r : Nat) (f : Req → Req) : (s.onReq r f).bulk = s.bulk := rfl
@[simp] theorem State.onReq_ctxstore (s : State) (r : Nat) (f : Req → Req) : (s.onReq r f).ctxstore = s.ctxstore := rfl
@[simp] theorem State.onReq_power (s : State) (r : Nat) (f : Req → Req) : (s.onReq r f).power = s.power := rfl
@[simp] theorem State.onReq_fns (s : State) (r : Nat) (f : Req → Req) : (s.onReq r f).fns = s.fns := rfl
@[simp] theorem State.onReq_slices (s : State) (r : Nat) (f : Req → Req) : (s.onReq r f).slices = s.slices := rfl
@[simp] theorem State.onReq_cmdq (s : State) (r : Nat) (f : Req → Req) : (s.onReq r f).cmdq = s.cmdq := rfl
@[simp] theorem State.onReq_bundles (s : State) (r : Nat) (f : Req → Req) : (s.onReq r f).bundles = s.bundles := rfl
@[simp] theorem State.onReq_weights (s : State) (r : Nat) (f : Req → Req) : (s.onReq r f).weights = s.weights := rfl
@[simp] theorem State.onReq_deficit (s : State) (r : Nat) (f : Req → Req) : (s.onReq r f).deficit = s.deficit := rfl
@[simp] theorem State.onReq_irqs (s : State) (r : Nat) (f : Req → Req) : (s.onReq r f).irqs = s.irqs := rfl
@[simp] theorem State.onReq_ptp (s : State) (r : Nat) (f : Req → Req) : (s.onReq r f).ptp = s.ptp := rfl
@[simp] theorem State.onReq_devid (s : State) (r : Nat) (f : Req → Req) : (s.onReq r f).devid = s.devid := rfl
@[simp] theorem State.onReq_fab (s : State) (r : Nat) (f : Req → Req) : (s.onReq r f).fab = s.fab := rfl
@[simp] theorem State.onReq_kstream (s : State) (r : Nat) (f : Req → Req) : (s.onReq r f).kstream = s.kstream := rfl
@[simp] theorem State.onReq_streams (s : State) (r : Nat) (f : Req → Req) : (s.onReq r f).streams = s.streams := rfl
@[simp] theorem State.onReq_ends (s : State) (r : Nat) (f : Req → Req) : (s.onReq r f).ends = s.ends := rfl
@[simp] theorem State.onReq_moves (s : State) (r : Nat) (f : Req → Req) : (s.onReq r f).moves = s.moves := rfl
@[simp] theorem State.onReq_hostLines (s : State) (r : Nat) (f : Req → Req) : (s.onReq r f).hostLines = s.hostLines := rfl
@[simp] theorem State.onReq_boot (s : State) (r : Nat) (f : Req → Req) : (s.onReq r f).boot = s.boot := rfl

/-! ### `State.onFn` -/

@[simp] theorem State.onFn_agenda (s : State) (k : Nat) (f : Fn → Fn) : (s.onFn k f).agenda = s.agenda := rfl
@[simp] theorem State.onFn_cur (s : State) (k : Nat) (f : Fn → Fn) : (s.onFn k f).cur = s.cur := rfl
@[simp] theorem State.onFn_used (s : State) (k : Nat) (f : Fn → Fn) : (s.onFn k f).used = s.used := rfl
@[simp] theorem State.onFn_reissued (s : State) (k : Nat) (f : Fn → Fn) : (s.onFn k f).reissued = s.reissued := rfl
@[simp] theorem State.onFn_free (s : State) (k : Nat) (f : Fn → Fn) : (s.onFn k f).free = s.free := rfl
@[simp] theorem State.onFn_nextId (s : State) (k : Nat) (f : Fn → Fn) : (s.onFn k f).nextId = s.nextId := rfl
@[simp] theorem State.onFn_nextWg (s : State) (k : Nat) (f : Fn → Fn) : (s.onFn k f).nextWg = s.nextWg := rfl
@[simp] theorem State.onFn_warps (s : State) (k : Nat) (f : Fn → Fn) : (s.onFn k f).warps = s.warps := rfl
@[simp] theorem State.onFn_wgs (s : State) (k : Nat) (f : Fn → Fn) : (s.onFn k f).wgs = s.wgs := rfl
@[simp] theorem State.onFn_cores (s : State) (k : Nat) (f : Fn → Fn) : (s.onFn k f).cores = s.cores := rfl
@[simp] theorem State.onFn_dies (s : State) (k : Nat) (f : Fn → Fn) : (s.onFn k f).dies = s.dies := rfl
@[simp] theorem State.onFn_cohorts (s : State) (k : Nat) (f : Fn → Fn) : (s.onFn k f).cohorts = s.cohorts := rfl
@[simp] theorem State.onFn_cyc (s : State) (k : Nat) (f : Fn → Fn) : (s.onFn k f).cyc = s.cyc := rfl
@[simp] theorem State.onFn_mem (s : State) (k : Nat) (f : Fn → Fn) : (s.onFn k f).mem = s.mem := rfl
@[simp] theorem State.onFn_lines (s : State) (k : Nat) (f : Fn → Fn) : (s.onFn k f).lines = s.lines := rfl
@[simp] theorem State.onFn_poison (s : State) (k : Nat) (f : Fn → Fn) : (s.onFn k f).poison = s.poison := rfl
@[simp] theorem State.onFn_frames (s : State) (k : Nat) (f : Fn → Fn) : (s.onFn k f).frames = s.frames := rfl
@[simp] theorem State.onFn_pages (s : State) (k : Nat) (f : Fn → Fn) : (s.onFn k f).pages = s.pages := rfl
@[simp] theorem State.onFn_inval (s : State) (k : Nat) (f : Fn → Fn) : (s.onFn k f).inval = s.inval := rfl
@[simp] theorem State.onFn_reqs (s : State) (k : Nat) (f : Fn → Fn) : (s.onFn k f).reqs = s.reqs := rfl
@[simp] theorem State.onFn_queues (s : State) (k : Nat) (f : Fn → Fn) : (s.onFn k f).queues = s.queues := rfl
@[simp] theorem State.onFn_chans (s : State) (k : Nat) (f : Fn → Fn) : (s.onFn k f).chans = s.chans := rfl
@[simp] theorem State.onFn_resid (s : State) (k : Nat) (f : Fn → Fn) : (s.onFn k f).resid = s.resid := rfl
@[simp] theorem State.onFn_replayq (s : State) (k : Nat) (f : Fn → Fn) : (s.onFn k f).replayq = s.replayq := rfl
@[simp] theorem State.onFn_rowguard (s : State) (k : Nat) (f : Fn → Fn) : (s.onFn k f).rowguard = s.rowguard := rfl
@[simp] theorem State.onFn_bulk (s : State) (k : Nat) (f : Fn → Fn) : (s.onFn k f).bulk = s.bulk := rfl
@[simp] theorem State.onFn_ctxstore (s : State) (k : Nat) (f : Fn → Fn) : (s.onFn k f).ctxstore = s.ctxstore := rfl
@[simp] theorem State.onFn_power (s : State) (k : Nat) (f : Fn → Fn) : (s.onFn k f).power = s.power := rfl
@[simp] theorem State.onFn_fns (s : State) (k : Nat) (f : Fn → Fn) : (s.onFn k f).fns = Tbl.put s.fns k (f (s.fn k)) := rfl
@[simp] theorem State.onFn_slices (s : State) (k : Nat) (f : Fn → Fn) : (s.onFn k f).slices = s.slices := rfl
@[simp] theorem State.onFn_cmdq (s : State) (k : Nat) (f : Fn → Fn) : (s.onFn k f).cmdq = s.cmdq := rfl
@[simp] theorem State.onFn_bundles (s : State) (k : Nat) (f : Fn → Fn) : (s.onFn k f).bundles = s.bundles := rfl
@[simp] theorem State.onFn_weights (s : State) (k : Nat) (f : Fn → Fn) : (s.onFn k f).weights = s.weights := rfl
@[simp] theorem State.onFn_deficit (s : State) (k : Nat) (f : Fn → Fn) : (s.onFn k f).deficit = s.deficit := rfl
@[simp] theorem State.onFn_irqs (s : State) (k : Nat) (f : Fn → Fn) : (s.onFn k f).irqs = s.irqs := rfl
@[simp] theorem State.onFn_ptp (s : State) (k : Nat) (f : Fn → Fn) : (s.onFn k f).ptp = s.ptp := rfl
@[simp] theorem State.onFn_devid (s : State) (k : Nat) (f : Fn → Fn) : (s.onFn k f).devid = s.devid := rfl
@[simp] theorem State.onFn_fab (s : State) (k : Nat) (f : Fn → Fn) : (s.onFn k f).fab = s.fab := rfl
@[simp] theorem State.onFn_kstream (s : State) (k : Nat) (f : Fn → Fn) : (s.onFn k f).kstream = s.kstream := rfl
@[simp] theorem State.onFn_streams (s : State) (k : Nat) (f : Fn → Fn) : (s.onFn k f).streams = s.streams := rfl
@[simp] theorem State.onFn_ends (s : State) (k : Nat) (f : Fn → Fn) : (s.onFn k f).ends = s.ends := rfl
@[simp] theorem State.onFn_moves (s : State) (k : Nat) (f : Fn → Fn) : (s.onFn k f).moves = s.moves := rfl
@[simp] theorem State.onFn_hostLines (s : State) (k : Nat) (f : Fn → Fn) : (s.onFn k f).hostLines = s.hostLines := rfl
@[simp] theorem State.onFn_boot (s : State) (k : Nat) (f : Fn → Fn) : (s.onFn k f).boot = s.boot := rfl

/-! ### `State.onDie` -/

@[simp] theorem State.onDie_agenda (s : State) (k : Nat) (f : Die → Die) : (s.onDie k f).agenda = s.agenda := rfl
@[simp] theorem State.onDie_cur (s : State) (k : Nat) (f : Die → Die) : (s.onDie k f).cur = s.cur := rfl
@[simp] theorem State.onDie_used (s : State) (k : Nat) (f : Die → Die) : (s.onDie k f).used = s.used := rfl
@[simp] theorem State.onDie_reissued (s : State) (k : Nat) (f : Die → Die) : (s.onDie k f).reissued = s.reissued := rfl
@[simp] theorem State.onDie_free (s : State) (k : Nat) (f : Die → Die) : (s.onDie k f).free = s.free := rfl
@[simp] theorem State.onDie_nextId (s : State) (k : Nat) (f : Die → Die) : (s.onDie k f).nextId = s.nextId := rfl
@[simp] theorem State.onDie_nextWg (s : State) (k : Nat) (f : Die → Die) : (s.onDie k f).nextWg = s.nextWg := rfl
@[simp] theorem State.onDie_warps (s : State) (k : Nat) (f : Die → Die) : (s.onDie k f).warps = s.warps := rfl
@[simp] theorem State.onDie_wgs (s : State) (k : Nat) (f : Die → Die) : (s.onDie k f).wgs = s.wgs := rfl
@[simp] theorem State.onDie_cores (s : State) (k : Nat) (f : Die → Die) : (s.onDie k f).cores = s.cores := rfl
@[simp] theorem State.onDie_dies (s : State) (k : Nat) (f : Die → Die) : (s.onDie k f).dies = Tbl.put s.dies k (f (s.die k)) := rfl
@[simp] theorem State.onDie_cohorts (s : State) (k : Nat) (f : Die → Die) : (s.onDie k f).cohorts = s.cohorts := rfl
@[simp] theorem State.onDie_cyc (s : State) (k : Nat) (f : Die → Die) : (s.onDie k f).cyc = s.cyc := rfl
@[simp] theorem State.onDie_mem (s : State) (k : Nat) (f : Die → Die) : (s.onDie k f).mem = s.mem := rfl
@[simp] theorem State.onDie_lines (s : State) (k : Nat) (f : Die → Die) : (s.onDie k f).lines = s.lines := rfl
@[simp] theorem State.onDie_poison (s : State) (k : Nat) (f : Die → Die) : (s.onDie k f).poison = s.poison := rfl
@[simp] theorem State.onDie_frames (s : State) (k : Nat) (f : Die → Die) : (s.onDie k f).frames = s.frames := rfl
@[simp] theorem State.onDie_pages (s : State) (k : Nat) (f : Die → Die) : (s.onDie k f).pages = s.pages := rfl
@[simp] theorem State.onDie_inval (s : State) (k : Nat) (f : Die → Die) : (s.onDie k f).inval = s.inval := rfl
@[simp] theorem State.onDie_reqs (s : State) (k : Nat) (f : Die → Die) : (s.onDie k f).reqs = s.reqs := rfl
@[simp] theorem State.onDie_queues (s : State) (k : Nat) (f : Die → Die) : (s.onDie k f).queues = s.queues := rfl
@[simp] theorem State.onDie_chans (s : State) (k : Nat) (f : Die → Die) : (s.onDie k f).chans = s.chans := rfl
@[simp] theorem State.onDie_resid (s : State) (k : Nat) (f : Die → Die) : (s.onDie k f).resid = s.resid := rfl
@[simp] theorem State.onDie_replayq (s : State) (k : Nat) (f : Die → Die) : (s.onDie k f).replayq = s.replayq := rfl
@[simp] theorem State.onDie_rowguard (s : State) (k : Nat) (f : Die → Die) : (s.onDie k f).rowguard = s.rowguard := rfl
@[simp] theorem State.onDie_bulk (s : State) (k : Nat) (f : Die → Die) : (s.onDie k f).bulk = s.bulk := rfl
@[simp] theorem State.onDie_ctxstore (s : State) (k : Nat) (f : Die → Die) : (s.onDie k f).ctxstore = s.ctxstore := rfl
@[simp] theorem State.onDie_power (s : State) (k : Nat) (f : Die → Die) : (s.onDie k f).power = s.power := rfl
@[simp] theorem State.onDie_fns (s : State) (k : Nat) (f : Die → Die) : (s.onDie k f).fns = s.fns := rfl
@[simp] theorem State.onDie_slices (s : State) (k : Nat) (f : Die → Die) : (s.onDie k f).slices = s.slices := rfl
@[simp] theorem State.onDie_cmdq (s : State) (k : Nat) (f : Die → Die) : (s.onDie k f).cmdq = s.cmdq := rfl
@[simp] theorem State.onDie_bundles (s : State) (k : Nat) (f : Die → Die) : (s.onDie k f).bundles = s.bundles := rfl
@[simp] theorem State.onDie_weights (s : State) (k : Nat) (f : Die → Die) : (s.onDie k f).weights = s.weights := rfl
@[simp] theorem State.onDie_deficit (s : State) (k : Nat) (f : Die → Die) : (s.onDie k f).deficit = s.deficit := rfl
@[simp] theorem State.onDie_irqs (s : State) (k : Nat) (f : Die → Die) : (s.onDie k f).irqs = s.irqs := rfl
@[simp] theorem State.onDie_ptp (s : State) (k : Nat) (f : Die → Die) : (s.onDie k f).ptp = s.ptp := rfl
@[simp] theorem State.onDie_devid (s : State) (k : Nat) (f : Die → Die) : (s.onDie k f).devid = s.devid := rfl
@[simp] theorem State.onDie_fab (s : State) (k : Nat) (f : Die → Die) : (s.onDie k f).fab = s.fab := rfl
@[simp] theorem State.onDie_kstream (s : State) (k : Nat) (f : Die → Die) : (s.onDie k f).kstream = s.kstream := rfl
@[simp] theorem State.onDie_streams (s : State) (k : Nat) (f : Die → Die) : (s.onDie k f).streams = s.streams := rfl
@[simp] theorem State.onDie_ends (s : State) (k : Nat) (f : Die → Die) : (s.onDie k f).ends = s.ends := rfl
@[simp] theorem State.onDie_moves (s : State) (k : Nat) (f : Die → Die) : (s.onDie k f).moves = s.moves := rfl
@[simp] theorem State.onDie_hostLines (s : State) (k : Nat) (f : Die → Die) : (s.onDie k f).hostLines = s.hostLines := rfl
@[simp] theorem State.onDie_boot (s : State) (k : Nat) (f : Die → Die) : (s.onDie k f).boot = s.boot := rfl

/-! ### `State.bump` -/

@[simp] theorem State.bump_agenda (s : State) : (s.bump).agenda = s.agenda := rfl
@[simp] theorem State.bump_cur (s : State) : (s.bump).cur = s.cur := rfl
@[simp] theorem State.bump_used (s : State) : (s.bump).used = s.used := rfl
@[simp] theorem State.bump_reissued (s : State) : (s.bump).reissued = s.reissued := rfl
@[simp] theorem State.bump_free (s : State) : (s.bump).free = s.free := rfl
@[simp] theorem State.bump_nextId (s : State) : (s.bump).nextId = s.nextId + 1 := rfl
@[simp] theorem State.bump_nextWg (s : State) : (s.bump).nextWg = s.nextWg := rfl
@[simp] theorem State.bump_warps (s : State) : (s.bump).warps = s.warps := rfl
@[simp] theorem State.bump_wgs (s : State) : (s.bump).wgs = s.wgs := rfl
@[simp] theorem State.bump_cores (s : State) : (s.bump).cores = s.cores := rfl
@[simp] theorem State.bump_dies (s : State) : (s.bump).dies = s.dies := rfl
@[simp] theorem State.bump_cohorts (s : State) : (s.bump).cohorts = s.cohorts := rfl
@[simp] theorem State.bump_cyc (s : State) : (s.bump).cyc = s.cyc := rfl
@[simp] theorem State.bump_mem (s : State) : (s.bump).mem = s.mem := rfl
@[simp] theorem State.bump_lines (s : State) : (s.bump).lines = s.lines := rfl
@[simp] theorem State.bump_poison (s : State) : (s.bump).poison = s.poison := rfl
@[simp] theorem State.bump_frames (s : State) : (s.bump).frames = s.frames := rfl
@[simp] theorem State.bump_pages (s : State) : (s.bump).pages = s.pages := rfl
@[simp] theorem State.bump_inval (s : State) : (s.bump).inval = s.inval := rfl
@[simp] theorem State.bump_reqs (s : State) : (s.bump).reqs = s.reqs := rfl
@[simp] theorem State.bump_queues (s : State) : (s.bump).queues = s.queues := rfl
@[simp] theorem State.bump_chans (s : State) : (s.bump).chans = s.chans := rfl
@[simp] theorem State.bump_resid (s : State) : (s.bump).resid = s.resid := rfl
@[simp] theorem State.bump_replayq (s : State) : (s.bump).replayq = s.replayq := rfl
@[simp] theorem State.bump_rowguard (s : State) : (s.bump).rowguard = s.rowguard := rfl
@[simp] theorem State.bump_bulk (s : State) : (s.bump).bulk = s.bulk := rfl
@[simp] theorem State.bump_ctxstore (s : State) : (s.bump).ctxstore = s.ctxstore := rfl
@[simp] theorem State.bump_power (s : State) : (s.bump).power = s.power := rfl
@[simp] theorem State.bump_fns (s : State) : (s.bump).fns = s.fns := rfl
@[simp] theorem State.bump_slices (s : State) : (s.bump).slices = s.slices := rfl
@[simp] theorem State.bump_cmdq (s : State) : (s.bump).cmdq = s.cmdq := rfl
@[simp] theorem State.bump_bundles (s : State) : (s.bump).bundles = s.bundles := rfl
@[simp] theorem State.bump_weights (s : State) : (s.bump).weights = s.weights := rfl
@[simp] theorem State.bump_deficit (s : State) : (s.bump).deficit = s.deficit := rfl
@[simp] theorem State.bump_irqs (s : State) : (s.bump).irqs = s.irqs := rfl
@[simp] theorem State.bump_ptp (s : State) : (s.bump).ptp = s.ptp := rfl
@[simp] theorem State.bump_devid (s : State) : (s.bump).devid = s.devid := rfl
@[simp] theorem State.bump_fab (s : State) : (s.bump).fab = s.fab := rfl
@[simp] theorem State.bump_kstream (s : State) : (s.bump).kstream = s.kstream := rfl
@[simp] theorem State.bump_streams (s : State) : (s.bump).streams = s.streams := rfl
@[simp] theorem State.bump_ends (s : State) : (s.bump).ends = s.ends := rfl
@[simp] theorem State.bump_moves (s : State) : (s.bump).moves = s.moves := rfl
@[simp] theorem State.bump_hostLines (s : State) : (s.bump).hostLines = s.hostLines := rfl
@[simp] theorem State.bump_boot (s : State) : (s.bump).boot = s.boot := rfl

/-! ### `State.drawn` -/

@[simp] theorem State.drawn_agenda (s : State) (n : Nat) : (s.drawn n).agenda = s.agenda := rfl
@[simp] theorem State.drawn_cur (s : State) (n : Nat) : (s.drawn n).cur = s.cur := rfl
@[simp] theorem State.drawn_used (s : State) (n : Nat) : (s.drawn n).used = s.used := rfl
@[simp] theorem State.drawn_reissued (s : State) (n : Nat) : (s.drawn n).reissued = s.reissued := rfl
@[simp] theorem State.drawn_free (s : State) (n : Nat) : (s.drawn n).free = s.free + n := rfl
@[simp] theorem State.drawn_nextId (s : State) (n : Nat) : (s.drawn n).nextId = s.nextId := rfl
@[simp] theorem State.drawn_nextWg (s : State) (n : Nat) : (s.drawn n).nextWg = s.nextWg := rfl
@[simp] theorem State.drawn_warps (s : State) (n : Nat) : (s.drawn n).warps = s.warps := rfl
@[simp] theorem State.drawn_wgs (s : State) (n : Nat) : (s.drawn n).wgs = s.wgs := rfl
@[simp] theorem State.drawn_cores (s : State) (n : Nat) : (s.drawn n).cores = s.cores := rfl
@[simp] theorem State.drawn_dies (s : State) (n : Nat) : (s.drawn n).dies = s.dies := rfl
@[simp] theorem State.drawn_cohorts (s : State) (n : Nat) : (s.drawn n).cohorts = s.cohorts := rfl
@[simp] theorem State.drawn_cyc (s : State) (n : Nat) : (s.drawn n).cyc = s.cyc := rfl
@[simp] theorem State.drawn_mem (s : State) (n : Nat) : (s.drawn n).mem = s.mem := rfl
@[simp] theorem State.drawn_lines (s : State) (n : Nat) : (s.drawn n).lines = s.lines := rfl
@[simp] theorem State.drawn_poison (s : State) (n : Nat) : (s.drawn n).poison = s.poison := rfl
@[simp] theorem State.drawn_frames (s : State) (n : Nat) : (s.drawn n).frames = s.frames := rfl
@[simp] theorem State.drawn_pages (s : State) (n : Nat) : (s.drawn n).pages = s.pages := rfl
@[simp] theorem State.drawn_inval (s : State) (n : Nat) : (s.drawn n).inval = s.inval := rfl
@[simp] theorem State.drawn_reqs (s : State) (n : Nat) : (s.drawn n).reqs = s.reqs := rfl
@[simp] theorem State.drawn_queues (s : State) (n : Nat) : (s.drawn n).queues = s.queues := rfl
@[simp] theorem State.drawn_chans (s : State) (n : Nat) : (s.drawn n).chans = s.chans := rfl
@[simp] theorem State.drawn_resid (s : State) (n : Nat) : (s.drawn n).resid = s.resid := rfl
@[simp] theorem State.drawn_replayq (s : State) (n : Nat) : (s.drawn n).replayq = s.replayq := rfl
@[simp] theorem State.drawn_rowguard (s : State) (n : Nat) : (s.drawn n).rowguard = s.rowguard := rfl
@[simp] theorem State.drawn_bulk (s : State) (n : Nat) : (s.drawn n).bulk = s.bulk := rfl
@[simp] theorem State.drawn_ctxstore (s : State) (n : Nat) : (s.drawn n).ctxstore = s.ctxstore := rfl
@[simp] theorem State.drawn_power (s : State) (n : Nat) : (s.drawn n).power = s.power := rfl
@[simp] theorem State.drawn_fns (s : State) (n : Nat) : (s.drawn n).fns = s.fns := rfl
@[simp] theorem State.drawn_slices (s : State) (n : Nat) : (s.drawn n).slices = s.slices := rfl
@[simp] theorem State.drawn_cmdq (s : State) (n : Nat) : (s.drawn n).cmdq = s.cmdq := rfl
@[simp] theorem State.drawn_bundles (s : State) (n : Nat) : (s.drawn n).bundles = s.bundles := rfl
@[simp] theorem State.drawn_weights (s : State) (n : Nat) : (s.drawn n).weights = s.weights := rfl
@[simp] theorem State.drawn_deficit (s : State) (n : Nat) : (s.drawn n).deficit = s.deficit := rfl
@[simp] theorem State.drawn_irqs (s : State) (n : Nat) : (s.drawn n).irqs = s.irqs := rfl
@[simp] theorem State.drawn_ptp (s : State) (n : Nat) : (s.drawn n).ptp = s.ptp := rfl
@[simp] theorem State.drawn_devid (s : State) (n : Nat) : (s.drawn n).devid = s.devid := rfl
@[simp] theorem State.drawn_fab (s : State) (n : Nat) : (s.drawn n).fab = s.fab := rfl
@[simp] theorem State.drawn_kstream (s : State) (n : Nat) : (s.drawn n).kstream = s.kstream := rfl
@[simp] theorem State.drawn_streams (s : State) (n : Nat) : (s.drawn n).streams = s.streams := rfl
@[simp] theorem State.drawn_ends (s : State) (n : Nat) : (s.drawn n).ends = s.ends := rfl
@[simp] theorem State.drawn_moves (s : State) (n : Nat) : (s.drawn n).moves = s.moves := rfl
@[simp] theorem State.drawn_hostLines (s : State) (n : Nat) : (s.drawn n).hostLines = s.hostLines := rfl
@[simp] theorem State.drawn_boot (s : State) (n : Nat) : (s.drawn n).boot = s.boot := rfl

/-! ### `State.fly` -/

@[simp] theorem State.fly_agenda (s : State) (k : Nat) (r : Result) : (s.fly k r).agenda = s.agenda := rfl
@[simp] theorem State.fly_cur (s : State) (k : Nat) (r : Result) : (s.fly k r).cur = s.cur := rfl
@[simp] theorem State.fly_used (s : State) (k : Nat) (r : Result) : (s.fly k r).used = s.used := rfl
@[simp] theorem State.fly_reissued (s : State) (k : Nat) (r : Result) : (s.fly k r).reissued = s.reissued := rfl
@[simp] theorem State.fly_free (s : State) (k : Nat) (r : Result) : (s.fly k r).free = s.free := rfl
@[simp] theorem State.fly_nextWg (s : State) (k : Nat) (r : Result) : (s.fly k r).nextWg = s.nextWg := rfl
@[simp] theorem State.fly_wgs (s : State) (k : Nat) (r : Result) : (s.fly k r).wgs = s.wgs := rfl
@[simp] theorem State.fly_cores (s : State) (k : Nat) (r : Result) : (s.fly k r).cores = s.cores := rfl
@[simp] theorem State.fly_dies (s : State) (k : Nat) (r : Result) : (s.fly k r).dies = s.dies := rfl
@[simp] theorem State.fly_cohorts (s : State) (k : Nat) (r : Result) : (s.fly k r).cohorts = s.cohorts := rfl
@[simp] theorem State.fly_cyc (s : State) (k : Nat) (r : Result) : (s.fly k r).cyc = s.cyc := rfl
@[simp] theorem State.fly_mem (s : State) (k : Nat) (r : Result) : (s.fly k r).mem = s.mem := rfl
@[simp] theorem State.fly_lines (s : State) (k : Nat) (r : Result) : (s.fly k r).lines = s.lines := rfl
@[simp] theorem State.fly_poison (s : State) (k : Nat) (r : Result) : (s.fly k r).poison = s.poison := rfl
@[simp] theorem State.fly_frames (s : State) (k : Nat) (r : Result) : (s.fly k r).frames = s.frames := rfl
@[simp] theorem State.fly_pages (s : State) (k : Nat) (r : Result) : (s.fly k r).pages = s.pages := rfl
@[simp] theorem State.fly_inval (s : State) (k : Nat) (r : Result) : (s.fly k r).inval = s.inval := rfl
@[simp] theorem State.fly_reqs (s : State) (k : Nat) (r : Result) : (s.fly k r).reqs = s.reqs := rfl
@[simp] theorem State.fly_queues (s : State) (k : Nat) (r : Result) : (s.fly k r).queues = s.queues := rfl
@[simp] theorem State.fly_chans (s : State) (k : Nat) (r : Result) : (s.fly k r).chans = s.chans := rfl
@[simp] theorem State.fly_resid (s : State) (k : Nat) (r : Result) : (s.fly k r).resid = s.resid := rfl
@[simp] theorem State.fly_replayq (s : State) (k : Nat) (r : Result) : (s.fly k r).replayq = s.replayq := rfl
@[simp] theorem State.fly_rowguard (s : State) (k : Nat) (r : Result) : (s.fly k r).rowguard = s.rowguard := rfl
@[simp] theorem State.fly_bulk (s : State) (k : Nat) (r : Result) : (s.fly k r).bulk = s.bulk := rfl
@[simp] theorem State.fly_ctxstore (s : State) (k : Nat) (r : Result) : (s.fly k r).ctxstore = s.ctxstore := rfl
@[simp] theorem State.fly_power (s : State) (k : Nat) (r : Result) : (s.fly k r).power = s.power := rfl
@[simp] theorem State.fly_fns (s : State) (k : Nat) (r : Result) : (s.fly k r).fns = s.fns := rfl
@[simp] theorem State.fly_slices (s : State) (k : Nat) (r : Result) : (s.fly k r).slices = s.slices := rfl
@[simp] theorem State.fly_cmdq (s : State) (k : Nat) (r : Result) : (s.fly k r).cmdq = s.cmdq := rfl
@[simp] theorem State.fly_bundles (s : State) (k : Nat) (r : Result) : (s.fly k r).bundles = s.bundles := rfl
@[simp] theorem State.fly_weights (s : State) (k : Nat) (r : Result) : (s.fly k r).weights = s.weights := rfl
@[simp] theorem State.fly_deficit (s : State) (k : Nat) (r : Result) : (s.fly k r).deficit = s.deficit := rfl
@[simp] theorem State.fly_irqs (s : State) (k : Nat) (r : Result) : (s.fly k r).irqs = s.irqs := rfl
@[simp] theorem State.fly_ptp (s : State) (k : Nat) (r : Result) : (s.fly k r).ptp = s.ptp := rfl
@[simp] theorem State.fly_devid (s : State) (k : Nat) (r : Result) : (s.fly k r).devid = s.devid := rfl
@[simp] theorem State.fly_fab (s : State) (k : Nat) (r : Result) : (s.fly k r).fab = s.fab := rfl
@[simp] theorem State.fly_kstream (s : State) (k : Nat) (r : Result) : (s.fly k r).kstream = s.kstream := rfl
@[simp] theorem State.fly_streams (s : State) (k : Nat) (r : Result) : (s.fly k r).streams = s.streams := rfl
@[simp] theorem State.fly_ends (s : State) (k : Nat) (r : Result) : (s.fly k r).ends = s.ends := rfl
@[simp] theorem State.fly_moves (s : State) (k : Nat) (r : Result) : (s.fly k r).moves = s.moves := rfl
@[simp] theorem State.fly_hostLines (s : State) (k : Nat) (r : Result) : (s.fly k r).hostLines = s.hostLines := rfl
@[simp] theorem State.fly_boot (s : State) (k : Nat) (r : Result) : (s.fly k r).boot = s.boot := rfl

/-! ### `State.onCore` -/

@[simp] theorem State.onCore_agenda (s : State) (k : Nat) (f : Core → Core) : (s.onCore k f).agenda = s.agenda := by unfold State.onCore; split <;> rfl
@[simp] theorem State.onCore_cur (s : State) (k : Nat) (f : Core → Core) : (s.onCore k f).cur = s.cur := by unfold State.onCore; split <;> rfl
@[simp] theorem State.onCore_used (s : State) (k : Nat) (f : Core → Core) : (s.onCore k f).used = s.used := by unfold State.onCore; split <;> rfl
@[simp] theorem State.onCore_reissued (s : State) (k : Nat) (f : Core → Core) : (s.onCore k f).reissued = s.reissued := by unfold State.onCore; split <;> rfl
@[simp] theorem State.onCore_free (s : State) (k : Nat) (f : Core → Core) : (s.onCore k f).free = s.free := by unfold State.onCore; split <;> rfl
@[simp] theorem State.onCore_nextId (s : State) (k : Nat) (f : Core → Core) : (s.onCore k f).nextId = s.nextId := by unfold State.onCore; split <;> rfl
@[simp] theorem State.onCore_nextWg (s : State) (k : Nat) (f : Core → Core) : (s.onCore k f).nextWg = s.nextWg := by unfold State.onCore; split <;> rfl
@[simp] theorem State.onCore_warps (s : State) (k : Nat) (f : Core → Core) : (s.onCore k f).warps = s.warps := by unfold State.onCore; split <;> rfl
@[simp] theorem State.onCore_wgs (s : State) (k : Nat) (f : Core → Core) : (s.onCore k f).wgs = s.wgs := by unfold State.onCore; split <;> rfl
@[simp] theorem State.onCore_dies (s : State) (k : Nat) (f : Core → Core) : (s.onCore k f).dies = s.dies := by unfold State.onCore; split <;> rfl
@[simp] theorem State.onCore_cohorts (s : State) (k : Nat) (f : Core → Core) : (s.onCore k f).cohorts = s.cohorts := by unfold State.onCore; split <;> rfl
@[simp] theorem State.onCore_cyc (s : State) (k : Nat) (f : Core → Core) : (s.onCore k f).cyc = s.cyc := by unfold State.onCore; split <;> rfl
@[simp] theorem State.onCore_mem (s : State) (k : Nat) (f : Core → Core) : (s.onCore k f).mem = s.mem := by unfold State.onCore; split <;> rfl
@[simp] theorem State.onCore_lines (s : State) (k : Nat) (f : Core → Core) : (s.onCore k f).lines = s.lines := by unfold State.onCore; split <;> rfl
@[simp] theorem State.onCore_poison (s : State) (k : Nat) (f : Core → Core) : (s.onCore k f).poison = s.poison := by unfold State.onCore; split <;> rfl
@[simp] theorem State.onCore_frames (s : State) (k : Nat) (f : Core → Core) : (s.onCore k f).frames = s.frames := by unfold State.onCore; split <;> rfl
@[simp] theorem State.onCore_pages (s : State) (k : Nat) (f : Core → Core) : (s.onCore k f).pages = s.pages := by unfold State.onCore; split <;> rfl
@[simp] theorem State.onCore_inval (s : State) (k : Nat) (f : Core → Core) : (s.onCore k f).inval = s.inval := by unfold State.onCore; split <;> rfl
@[simp] theorem State.onCore_reqs (s : State) (k : Nat) (f : Core → Core) : (s.onCore k f).reqs = s.reqs := by unfold State.onCore; split <;> rfl
@[simp] theorem State.onCore_queues (s : State) (k : Nat) (f : Core → Core) : (s.onCore k f).queues = s.queues := by unfold State.onCore; split <;> rfl
@[simp] theorem State.onCore_chans (s : State) (k : Nat) (f : Core → Core) : (s.onCore k f).chans = s.chans := by unfold State.onCore; split <;> rfl
@[simp] theorem State.onCore_resid (s : State) (k : Nat) (f : Core → Core) : (s.onCore k f).resid = s.resid := by unfold State.onCore; split <;> rfl
@[simp] theorem State.onCore_replayq (s : State) (k : Nat) (f : Core → Core) : (s.onCore k f).replayq = s.replayq := by unfold State.onCore; split <;> rfl
@[simp] theorem State.onCore_rowguard (s : State) (k : Nat) (f : Core → Core) : (s.onCore k f).rowguard = s.rowguard := by unfold State.onCore; split <;> rfl
@[simp] theorem State.onCore_bulk (s : State) (k : Nat) (f : Core → Core) : (s.onCore k f).bulk = s.bulk := by unfold State.onCore; split <;> rfl
@[simp] theorem State.onCore_ctxstore (s : State) (k : Nat) (f : Core → Core) : (s.onCore k f).ctxstore = s.ctxstore := by unfold State.onCore; split <;> rfl
@[simp] theorem State.onCore_power (s : State) (k : Nat) (f : Core → Core) : (s.onCore k f).power = s.power := by unfold State.onCore; split <;> rfl
@[simp] theorem State.onCore_fns (s : State) (k : Nat) (f : Core → Core) : (s.onCore k f).fns = s.fns := by unfold State.onCore; split <;> rfl
@[simp] theorem State.onCore_slices (s : State) (k : Nat) (f : Core → Core) : (s.onCore k f).slices = s.slices := by unfold State.onCore; split <;> rfl
@[simp] theorem State.onCore_cmdq (s : State) (k : Nat) (f : Core → Core) : (s.onCore k f).cmdq = s.cmdq := by unfold State.onCore; split <;> rfl
@[simp] theorem State.onCore_bundles (s : State) (k : Nat) (f : Core → Core) : (s.onCore k f).bundles = s.bundles := by unfold State.onCore; split <;> rfl
@[simp] theorem State.onCore_weights (s : State) (k : Nat) (f : Core → Core) : (s.onCore k f).weights = s.weights := by unfold State.onCore; split <;> rfl
@[simp] theorem State.onCore_deficit (s : State) (k : Nat) (f : Core → Core) : (s.onCore k f).deficit = s.deficit := by unfold State.onCore; split <;> rfl
@[simp] theorem State.onCore_irqs (s : State) (k : Nat) (f : Core → Core) : (s.onCore k f).irqs = s.irqs := by unfold State.onCore; split <;> rfl
@[simp] theorem State.onCore_ptp (s : State) (k : Nat) (f : Core → Core) : (s.onCore k f).ptp = s.ptp := by unfold State.onCore; split <;> rfl
@[simp] theorem State.onCore_devid (s : State) (k : Nat) (f : Core → Core) : (s.onCore k f).devid = s.devid := by unfold State.onCore; split <;> rfl
@[simp] theorem State.onCore_fab (s : State) (k : Nat) (f : Core → Core) : (s.onCore k f).fab = s.fab := by unfold State.onCore; split <;> rfl
@[simp] theorem State.onCore_kstream (s : State) (k : Nat) (f : Core → Core) : (s.onCore k f).kstream = s.kstream := by unfold State.onCore; split <;> rfl
@[simp] theorem State.onCore_streams (s : State) (k : Nat) (f : Core → Core) : (s.onCore k f).streams = s.streams := by unfold State.onCore; split <;> rfl
@[simp] theorem State.onCore_ends (s : State) (k : Nat) (f : Core → Core) : (s.onCore k f).ends = s.ends := by unfold State.onCore; split <;> rfl
@[simp] theorem State.onCore_moves (s : State) (k : Nat) (f : Core → Core) : (s.onCore k f).moves = s.moves := by unfold State.onCore; split <;> rfl
@[simp] theorem State.onCore_hostLines (s : State) (k : Nat) (f : Core → Core) : (s.onCore k f).hostLines = s.hostLines := by unfold State.onCore; split <;> rfl
@[simp] theorem State.onCore_boot (s : State) (k : Nat) (f : Core → Core) : (s.onCore k f).boot = s.boot := by unfold State.onCore; split <;> rfl

end Sys2Proof.Machine
end

