-- ==== Sys2Proof/Laws/Ops.lean ====
section
/-! SUPPORT. What the shared operations can do, said once: taking a trap, writing at a home, and the choice of the next step. -/

namespace Sys2Proof.Machine

/-! ## Folds -/

/-- A property that every element of a fold keeps, the fold keeps. -/
theorem foldl_keeps {α β : Type} {p : β → Prop} {f : β → α → β} (hf : ∀ b a, p b → p (f b a)) (l : List α) {b : β} (h : p b) : p (l.foldl f b) := by
  induction l generalizing b with
  | nil => exact h
  | cons a r ih => exact ih (hf b a h)

/-! ## Taking a trap (R319 to R324) -/

@[simp] theorem State.broadcastHalt_mem (s : State) (k : Nat) : (s.broadcastHalt k).mem = s.mem := by unfold State.broadcastHalt; rfl
@[simp] theorem State.broadcastHalt_wgs (s : State) (k : Nat) : (s.broadcastHalt k).wgs = s.wgs := by unfold State.broadcastHalt; rfl
@[simp] theorem State.broadcastHalt_reqs (s : State) (k : Nat) : (s.broadcastHalt k).reqs = s.reqs := by unfold State.broadcastHalt; rfl
@[simp] theorem State.demote_mem (s : State) (k : Nat) : (s.demote k).mem = s.mem := rfl
@[simp] theorem State.demote_reqs (s : State) (k : Nat) : (s.demote k).reqs = s.reqs := rfl

theorem Warp.stop_delegates (w : Warp) (cause pc : W64) (inst : W32) (code : Nat) : (w.stop cause pc inst).delegates code = w.delegates code := rfl

/-- The two ways a trap is handled: its user handler is entered, or firmware takes the workgroup. -/
theorem State.takeTrap_user {s : State} {k code : Nat} {w : Warp} (hn : w.handler = none) (hd : w.delegates code = true) :
    s.takeTrap k w code = ((({ s with used := s.used ++ [(k, false), (k, true)] } : State).putWarp k w.enterHandler).onWg (wgOf k) fun g => { g with trapper := some k }) := by
  simp [State.takeTrap, hn, hd]

theorem State.takeTrap_firmware {s : State} {k code : Nat} {w : Warp} (h : w.handler ≠ none ∨ w.delegates code = false) :
    s.takeTrap k w code =
      ((({ s with used := s.used ++ [(k, false), (k, true)] } : State).putWarp k w).onWg (wgOf k) fun g => { g with status := .halted, trapper := some k }) := by
  have h' : (w.handler.isNone && w.delegates code) = false := by
    rcases h with h | h
    · cases hx : w.handler with
      | none => exact absurd hx h
      | some a => rfl
    · simp [h]
  simp [State.takeTrap, h']

@[simp] theorem State.takeTrap_mem (s : State) (k : Nat) (w : Warp) (code : Nat) : (s.takeTrap k w code).mem = s.mem := by
  unfold State.takeTrap; split <;> rfl
@[simp] theorem State.takeTrap_reqs (s : State) (k : Nat) (w : Warp) (code : Nat) : (s.takeTrap k w code).reqs = s.reqs := by
  unfold State.takeTrap; split <;> rfl

theorem State.raise_none {s : State} {k : Nat} (h : Tbl.find s.warps k = none) (src code info : Nat) (pc : W64) (inst : W32) :
    s.raise k src code info pc inst = s := by simp only [State.raise, h]

theorem State.raise_run {s : State} {k : Nat} {w : Warp} (h : Tbl.find s.warps k = some w) (hh : w.halt = .run) (src code info : Nat) (pc : W64) (inst : W32) :
    s.raise k src code info pc inst = (s.broadcastHalt k).takeTrap k (w.stop (causeWord info src false code) pc inst) code := by
  simp only [State.raise, h, hh]

/-- Every way a trap can end: nothing changes, the warp having gone or having its trap already; the siblings halt and the trap is taken; the trap of a higher-numbered warp in the same cycle gives way; or the warp is a PEND sibling. -/
theorem State.raise_cases (s : State) (k src code info : Nat) (pc : W64) (inst : W32) :
    s.raise k src code info pc inst = s ∨
    ∃ w, Tbl.find s.warps k = some w ∧
      ((w.halt = .run ∧ s.raise k src code info pc inst = (s.broadcastHalt k).takeTrap k (w.stop (causeWord info src false code) pc inst) code) ∨
       (∃ j stop, w.halt = .skid s.cyc stop ∧ (s.wg (wgOf k)).trapper = some j ∧ k < j ∧
          s.raise k src code info pc inst = (s.demote j).takeTrap k (w.stop (causeWord info src false code) pc inst) code) ∨
       (w.halt ≠ .run ∧ s.raise k src code info pc inst = s.putWarp k (w.stop (causeWord info src true code) pc inst))) := by
  cases hw : Tbl.find s.warps k with
  | none => exact .inl (State.raise_none hw ..)
  | some w =>
    cases hh : w.halt with
    | run => exact .inr ⟨w, rfl, .inl ⟨hh, State.raise_run hw hh ..⟩⟩
    | skid t stop =>
      refine .inr ⟨w, rfl, .inr ?_⟩
      cases ht : (s.wg (wgOf k)).trapper with
      | none => exact .inr ⟨by simp [hh], by simp only [State.raise, hw, hh, ht]⟩
      | some j =>
        by_cases hj : t = s.cyc ∧ k < j
        · exact .inl ⟨j, stop, by rw [hh, hj.1], rfl, hj.2, by simp only [State.raise, hw, hh, ht, if_pos hj]⟩
        · exact .inr ⟨by simp [hh], by simp only [State.raise, hw, hh, ht, if_neg hj]⟩
    | stopped =>
      by_cases hp : (trapPend w.trap.cause || (s.wg (wgOf k)).trapper == some k) = true
      · exact .inl (by simp only [State.raise, hw, hh, if_pos hp])
      · exact .inr ⟨w, rfl, .inr (.inr ⟨by simp [hh], by simp only [State.raise, hw, hh, if_neg hp]⟩)⟩

/-- A trap writes no memory and makes no request. -/
theorem State.raise_frame (s : State) (k src code info : Nat) (pc : W64) (inst : W32) :
    (s.raise k src code info pc inst).mem = s.mem ∧ (s.raise k src code info pc inst).reqs = s.reqs := by
  rcases s.raise_cases k src code info pc inst with h | ⟨w, -, ⟨-, h⟩ | ⟨j, stop, -, -, -, h⟩ | ⟨-, h⟩⟩ <;> rw [h] <;> simp

/-! ## The canonical form of memory -/

theorem State.Inv_of_mem {s t : State} (h : s.Inv) (hm : t.mem = s.mem) : t.Inv := by
  simpa [State.Inv, hm] using h

theorem State.reset_Inv : State.reset.Inv := rfl

/-- A write at a home keeps it. -/
theorem State.homeWrite_Inv (s : State) (l : Nat) (bytes : List (Nat × Byte)) (bad : List Nat) (h : s.Inv) : (s.homeWrite l bytes bad).Inv := by
  simp only [State.homeWrite, State.Inv, State.putLine_mem]
  apply Memory.wf_writes
  split
  · exact Memory.wf_clear _ _ _ h
  · exact h

theorem State.deregister_mem (s : State) (w g : Nat) : (s.deregister w g).mem = s.mem := rfl

/-- So does the write-back of words of a line (R187). -/
theorem State.writeBackLine_Inv (s : State) (core l : Nat) (words : List Nat) (h : s.Inv) : (s.writeBackLine core l words).Inv := by
  unfold State.writeBackLine
  refine State.Inv_of_mem ?_ (State.onCore_mem _ _ _)
  refine foldl_keeps (p := State.Inv) (fun b a hb => State.Inv_of_mem hb (b.deregister_mem _ _)) _ ?_
  split
  · exact h
  · exact s.homeWrite_Inv _ _ _ h

theorem State.flushLine_Inv (s : State) (core g l : Nat) (h : s.Inv) : (s.flushLine core g l).Inv := s.writeBackLine_Inv core l _ h

/-- A line that moves between the L2, the memory-side cache and its stack changes no byte (R195). -/
theorem State.evictL2_mem {s t : State} {l : Nat} (h : s.evictL2 l = some t) : t.mem = s.mem := by
  unfold State.evictL2 at h
  dsimp only at h
  split at h
  · cases h; rfl
  · split at h
    · cases h; rfl
    · split at h
      · cases h; rfl
      · cases h

theorem State.makeWay_mem {s t : State} {l n : Nat} (h : s.makeWay l n = some t) : t.mem = s.mem := by
  induction n generalizing s with
  | zero => cases h; rfl
  | succ n ih =>
    unfold State.makeWay at h
    split at h
    · cases h; rfl
    · split at h
      · split at h
        · rename_i he
          exact (ih h).trans (State.evictL2_mem he)
        · cases h
      · cases h; rfl

theorem State.fetchLine_mem {s t : State} {l rh : Nat} (h : s.fetchLine l rh = some t) : t.mem = s.mem := by
  unfold State.fetchLine at h
  split at h
  · cases h; rfl
  · obtain ⟨u, hu, hx⟩ := Option.map_eq_some_iff.mp h
    rw [← hx]
    exact (State.makeWay_mem hu : u.mem = s.mem)

@[simp] theorem State.fetchNow_mem (s : State) (l rh : Nat) : (s.fetchNow l rh).mem = s.mem := by
  unfold State.fetchNow
  split
  · rename_i h; exact State.fetchLine_mem h
  · dsimp only; split <;> rfl

/-- Firmware's own writes keep it. -/
theorem State.vwrite_Inv (s : State) (fn space a : Nat) (bs : List Byte) (h : s.Inv) : (s.vwrite fn space a bs).Inv := by
  unfold State.vwrite
  exact foldl_keeps (p := State.Inv) (fun b l hb => (b.fetchNow l 0).homeWrite_Inv l _ _ (State.Inv_of_mem hb (b.fetchNow_mem l 0))) _ h

/-- The divergence stack in memory keeps it (R43). -/
theorem State.mirrorStack_Inv (s : State) (k : Nat) (h : s.Inv) : (s.mirrorStack k).Inv := by
  unfold State.mirrorStack
  split
  · exact h
  · refine foldl_keeps (p := State.Inv) (fun b x hb => ?_) _ h
    split
    · exact Memory.wf_writeN _ _ _ _ hb
    · exact hb

/-! ## What happens next (log 1) -/

/-- Every way a step can come about. -/
theorem step_cases (s : State) :
    (∃ m rest, s.agenda = (0, m) :: rest ∧ step s = State.move { s with agenda := rest } m) ∨
    (∃ t, s.internal = some t ∧ step s = .next t) ∨
    (∃ k st, s.internal = none ∧ s.selection = some (k, st) ∧ step s = s.issueSelected k st) ∨
    (s.internal = none ∧ s.selection = none ∧ step s = .next s.tick) := by
  have hr : (∃ t, s.internal = some t ∧ s.run = .next t) ∨
      (∃ k st, s.internal = none ∧ s.selection = some (k, st) ∧ s.run = s.issueSelected k st) ∨
      (s.internal = none ∧ s.selection = none ∧ s.run = .next s.tick) := by
    unfold State.run
    cases hi : s.internal with
    | some t => exact .inl ⟨t, rfl, rfl⟩
    | none =>
      cases hs : s.selection with
      | none => exact .inr (.inr ⟨rfl, rfl, rfl⟩)
      | some x => exact .inr (.inl ⟨x.1, x.2, rfl, rfl, rfl⟩)
  unfold step State.advance
  split
  · rename_i m rest h
    exact .inl ⟨m, rest, h, rfl⟩
  · exact .inr hr

/-- An issue that completes counts toward the skid of its warp (R322). -/
theorem State.issueSelected_next {s t : State} {k : Nat} {st : Stream} (h : (s.selected k st).issueOne k st = .next t) :
    s.issueSelected k st = .next (t.onWarp k fun w => w.countSkid st s.cyc) := by simp only [State.issueSelected, h]

/-- An issue is the instruction at the stream's place, or `ILLOP` where no word there decodes (R75, R94). -/
theorem State.issueOne_cases (s : State) (k : Nat) (st : Stream) :
    (Tbl.find s.warps k = none ∧ s.issueOne k st = .next s) ∨
    ∃ w, Tbl.find s.warps k = some w ∧
      ((∃ i, s.instrAt k w st = some i ∧ s.issueOne k st = exec i { s with cur := some (k, st) }) ∨
       (s.instrAt k w st = none ∧ s.issueOne k st = .next (({ s with cur := some (k, st) } : State).illegal k w st))) := by
  unfold State.issueOne
  cases hw : Tbl.find s.warps k with
  | none => exact .inl ⟨rfl, rfl⟩
  | some w =>
    refine .inr ⟨w, rfl, ?_⟩
    cases hi : s.instrAt k w st with
    | none => exact .inr ⟨rfl, by simp only [hi]⟩
    | some i => exact .inl ⟨i, rfl, by simp only [hi]⟩

end Sys2Proof.Machine
end

