-- ==== Sys2Proof/Laws/PerInstr.lean ====
section
/-! SUPPORT. Facts about every instruction as syntax, one lemma for each constructor: the width of its encoding. -/

namespace Sys2Proof.Laws.Width

/-- An encoding fits the words of its format: 32 bits of a scalar instruction, 96 of a lane instruction (R77, R84). -/
def Statement (i : Instr) : Prop := ∀ n w, encode i = some (n, w) → (n = 32 ∨ n = 96) ∧ w < 2 ^ n

theorem hdr_bits_lt (h : LaneHdr) : h.bits < 2 ^ 86 := by
  have a := h.ga.idx.isLt
  have b := h.gb.idx.isLt
  have c := h.rh.isLt
  have d := h.spc.isLt
  have e := h.fe.isLt
  have p : h.ga.neg.toNat ≤ 1 := Bool.toNat_le _
  have q : h.gb.neg.toNat ≤ 1 := Bool.toNat_le _
  have r : h.gc.toNat ≤ 1 := Bool.toNat_le _
  have t : h.yld.toNat ≤ 1 := Bool.toNat_le _
  simp only [LaneHdr.bits, Guard.bits]
  omega

theorem hdr_bits_dvd (h : LaneHdr) : 2 ^ 64 ∣ h.bits := by
  simp only [LaneHdr.bits]
  omega

theorem spec_lt (o : Opnd) : o.spec < 2 ^ 10 := by
  cases o with
  | none => decide
  | v n | a n | x n | sp n | p n | k n => have := n.isLt; simp only [Opnd.spec]; omega

theorem reg_bits_lt (l : LaneReg) : l.bits < 2 ^ 86 := by
  have h := hdr_bits_lt l.hdr
  have hd := hdr_bits_dvd l.hdr
  have d := spec_lt l.d
  have a := spec_lt l.a
  have b := spec_lt l.b
  have c := spec_lt l.c
  have e := spec_lt l.e
  have m := l.mod.isLt
  simp only [LaneReg.bits]
  omega

theorem imm_bits_lt (l : LaneImm) : l.bits < 2 ^ 86 := by
  have h := hdr_bits_lt l.hdr
  have hd := hdr_bits_dvd l.hdr
  have d := spec_lt l.d
  have a := spec_lt l.a
  have b := spec_lt l.b
  have i := l.imm.isLt
  simp only [LaneImm.bits]
  omega

theorem br_bits_lt (l : LaneBr) : l.bits < 2 ^ 86 := by
  have h := hdr_bits_lt l.hdr
  have hd := hdr_bits_dvd l.hdr
  have t := l.target.isLt
  have j := l.join.isLt
  simp only [LaneBr.bits]
  omega

theorem sr_lt {maj fn : Nat} (d a b : SReg) (hm : maj < 2 ^ 6) (hf : fn < 2 ^ 8) : encSR maj d a b fn < 2 ^ 32 := by
  have := d.isLt; have := a.isLt; have := b.isLt
  simp only [encSR]; omega

theorem si_lt {maj imm : Nat} (d a : SReg) (hm : maj < 2 ^ 6) (hi : imm < 2 ^ 14) : encSI maj d a imm < 2 ^ 32 := by
  have := d.isLt; have := a.isLt
  simp only [encSI]; omega

theorem sx_lt {fn : Nat} (n : BitVec 12) (r : SReg) (hf : fn < 2 ^ 8) : encSX n r fn < 2 ^ 32 := by
  have := n.isLt; have := r.isLt
  simp only [encSX]; omega

theorem imm311_lt {c : Nat} (o : BitVec 11) (hc : c < 8) : imm311 c o < 2 ^ 14 := by
  have := o.isLt
  simp only [imm311]; omega

theorem of_scalar {i : Instr} {v : Nat} (h : encodeScalar i = some v) (hv : v < 2 ^ 32) : Statement i := by
  intro n w e
  simp only [encode, h, Option.some.injEq, Prod.mk.injEq] at e
  obtain ⟨rfl, rfl⟩ := e
  exact ⟨.inl rfl, hv⟩

theorem of_lane {i : Instr} {op b : Nat} (h : encodeScalar i = none) (hl : encodeLane i = some (op * 2 ^ 86 + b)) (ho : op < 2 ^ 10) (hb : b < 2 ^ 86) :
    Statement i := by
  intro n w e
  simp only [encode, h, hl, Option.map_some, Option.some.injEq, Prod.mk.injEq] at e
  obtain ⟨rfl, rfl⟩ := e
  exact ⟨.inr rfl, by omega⟩

theorem of_event {i : Instr} (h : encodeScalar i = none) (hl : encodeLane i = none) : Statement i := by
  intro n w e
  simp [encode, h, hl] at e

/-! ## One lemma for each constructor -/

theorem sadd (d a b : SReg) : Statement (.sadd d a b) := of_scalar rfl (sr_lt _ _ _ (by decide) (by decide))
theorem ssub (d a b : SReg) : Statement (.ssub d a b) := of_scalar rfl (sr_lt _ _ _ (by decide) (by decide))
theorem smul (d a b : SReg) : Statement (.smul d a b) := of_scalar rfl (sr_lt _ _ _ (by decide) (by decide))
theorem smulh (d a b : SReg) : Statement (.smulh d a b) := of_scalar rfl (sr_lt _ _ _ (by decide) (by decide))
theorem sdiv (d a b : SReg) : Statement (.sdiv d a b) := of_scalar rfl (sr_lt _ _ _ (by decide) (by decide))
theorem srem (d a b : SReg) : Statement (.srem d a b) := of_scalar rfl (sr_lt _ _ _ (by decide) (by decide))
theorem sand (d a b : SReg) : Statement (.sand d a b) := of_scalar rfl (sr_lt _ _ _ (by decide) (by decide))
theorem sor (d a b : SReg) : Statement (.sor d a b) := of_scalar rfl (sr_lt _ _ _ (by decide) (by decide))
theorem sxor (d a b : SReg) : Statement (.sxor d a b) := of_scalar rfl (sr_lt _ _ _ (by decide) (by decide))
theorem sshl (d a b : SReg) : Statement (.sshl d a b) := of_scalar rfl (sr_lt _ _ _ (by decide) (by decide))
theorem sshr (d a b : SReg) : Statement (.sshr d a b) := of_scalar rfl (sr_lt _ _ _ (by decide) (by decide))
theorem ssra (d a b : SReg) : Statement (.ssra d a b) := of_scalar rfl (sr_lt _ _ _ (by decide) (by decide))
theorem smin (d a b : SReg) : Statement (.smin d a b) := of_scalar rfl (sr_lt _ _ _ (by decide) (by decide))
theorem smax (d a b : SReg) : Statement (.smax d a b) := of_scalar rfl (sr_lt _ _ _ (by decide) (by decide))
theorem smulhU (d a b : SReg) : Statement (.smulhU d a b) := of_scalar rfl (sr_lt _ _ _ (by decide) (by decide))
theorem sdivU (d a b : SReg) : Statement (.sdivU d a b) := of_scalar rfl (sr_lt _ _ _ (by decide) (by decide))
theorem sremU (d a b : SReg) : Statement (.sremU d a b) := of_scalar rfl (sr_lt _ _ _ (by decide) (by decide))
theorem sminU (d a b : SReg) : Statement (.sminU d a b) := of_scalar rfl (sr_lt _ _ _ (by decide) (by decide))
theorem smaxU (d a b : SReg) : Statement (.smaxU d a b) := of_scalar rfl (sr_lt _ _ _ (by decide) (by decide))
theorem scmp (cc : SCond) (d a b : SReg) : Statement (.scmp cc d a b) := of_scalar rfl (sr_lt _ _ _ (by decide) (by cases cc <;> decide))
theorem saddi (d a : SReg) (imm : BitVec 14) : Statement (.saddi d a imm) := of_scalar rfl (si_lt _ _ (by decide) (BitVec.isLt _))
theorem smuli (d a : SReg) (imm : BitVec 14) : Statement (.smuli d a imm) := of_scalar rfl (si_lt _ _ (by decide) (BitVec.isLt _))
theorem sandi (d a : SReg) (imm : BitVec 14) : Statement (.sandi d a imm) := of_scalar rfl (si_lt _ _ (by decide) (BitVec.isLt _))
theorem sori (d a : SReg) (imm : BitVec 14) : Statement (.sori d a imm) := of_scalar rfl (si_lt _ _ (by decide) (BitVec.isLt _))
theorem sxori (d a : SReg) (imm : BitVec 14) : Statement (.sxori d a imm) := of_scalar rfl (si_lt _ _ (by decide) (BitVec.isLt _))
theorem sshli (d a : SReg) (n : BitVec 6) : Statement (.sshli d a n) := of_scalar rfl (si_lt _ _ (by decide) (Nat.lt_trans (n).isLt (by decide)))
theorem sshri (d a : SReg) (n : BitVec 6) : Statement (.sshri d a n) := of_scalar rfl (si_lt _ _ (by decide) (Nat.lt_trans (n).isLt (by decide)))
theorem ssrai (d a : SReg) (n : BitVec 6) : Statement (.ssrai d a n) := of_scalar rfl (si_lt _ _ (by decide) (Nat.lt_trans (n).isLt (by decide)))
theorem smini (d a : SReg) (imm : BitVec 14) : Statement (.smini d a imm) := of_scalar rfl (si_lt _ _ (by decide) (BitVec.isLt _))
theorem smaxi (d a : SReg) (imm : BitVec 14) : Statement (.smaxi d a imm) := of_scalar rfl (si_lt _ _ (by decide) (BitVec.isLt _))
theorem scmpi (cc : SCond) (d a : SReg) (imm : BitVec 11) : Statement (.scmpi cc d a imm) := of_scalar rfl (si_lt _ _ (by decide) (imm311_lt _ (by cases cc <;> decide)))
theorem slui (d : SReg) (imm : BitVec 20) : Statement (.slui d imm) := by
  have := d.isLt
  have := imm.isLt
  exact of_scalar rfl (by omega)
theorem sld (sz : SSize) (d a : SReg) (off : BitVec 11) : Statement (.sld sz d a off) := of_scalar rfl (si_lt _ _ (by decide) (imm311_lt _ (by cases sz <;> decide)))
theorem sldPad (sz : SSize) (d a : SReg) (off : BitVec 11) : Statement (.sldPad sz d a off) := of_scalar rfl (si_lt _ _ (by decide) (imm311_lt _ (by cases sz <;> decide)))
theorem sst (sz : SSize) (d a : SReg) (off : BitVec 11) : Statement (.sst sz d a off) := of_scalar rfl (si_lt _ _ (by decide) (imm311_lt _ (by cases sz <;> decide)))
theorem sstPad (sz : SSize) (d a : SReg) (off : BitVec 11) : Statement (.sstPad sz d a off) := of_scalar rfl (si_lt _ _ (by decide) (imm311_lt _ (by cases sz <;> decide)))
theorem samo (op : AmoOp) (wide : Bool) (ord : MemOrder) (sys : Bool) (d a b : SReg) : Statement (.samo op wide ord sys d a b) := by
  have : op.code < 8 := by cases op <;> decide
  have := Bool.toNat_le wide
  have : ord.code < 8 := by cases ord <;> decide
  have := Bool.toNat_le sys
  exact of_scalar rfl (sr_lt _ _ _ (by decide) (by omega))
theorem sbr (cc : SCond) (a b : SReg) (off : BitVec 11) : Statement (.sbr cc a b off) := by
  have : cc.code < 8 := by cases cc <;> decide
  have := a.isLt
  have := b.isLt
  have := off.isLt
  exact of_scalar rfl (by omega)
theorem sj (off : BitVec 26) : Statement (.sj off) := by
  have := off.isLt
  exact of_scalar rfl (by omega)
theorem sjal (d : SReg) (off : BitVec 20) : Statement (.sjal d off) := by
  have := d.isLt
  have := off.isLt
  exact of_scalar rfl (by omega)
theorem sjr (d a : SReg) (imm : BitVec 14) : Statement (.sjr d a imm) := of_scalar rfl (si_lt _ _ (by decide) (BitVec.isLt _))
theorem loop (a : SReg) (c64 : Bool) (off : BitVec 16) : Statement (.loop a c64 off) := by
  have := a.isLt
  have := Bool.toNat_le c64
  have := off.isLt
  exact of_scalar rfl (by omega)
theorem lgo (a : SReg) (pc : BitVec 20) : Statement (.lgo a pc) := by
  have := a.isLt
  have := pc.isLt
  exact of_scalar rfl (by omega)
theorem larg (k : BitVec 2) (a : SReg) : Statement (.larg k a) := by
  have := k.isLt
  have := a.isLt
  exact of_scalar rfl (by omega)
theorem lwait : Statement .lwait := of_scalar rfl (by decide)
theorem spop (d : SReg) : Statement (.spop d) := by
  have := d.isLt
  exact of_scalar rfl (by omega)
theorem sbar (b : BitVec 4) : Statement (.sbar b) := by
  have := b.isLt
  exact of_scalar rfl (by omega)
theorem sbarC : Statement .sbarC := of_scalar rfl (by decide)
theorem slaunch (d a : SReg) : Statement (.slaunch d a) := of_scalar rfl (sr_lt _ _ _ (by decide) (by decide))
theorem strig : Statement .strig := of_scalar rfl (by decide)
theorem snop : Statement .snop := of_scalar rfl (sx_lt _ _ (by decide))
theorem scsrr (csr : BitVec 12) (d : SReg) : Statement (.scsrr csr d) := of_scalar rfl (sx_lt _ _ (by decide))
theorem scsrw (csr : BitVec 12) (a : SReg) : Statement (.scsrw csr a) := of_scalar rfl (sx_lt _ _ (by decide))
theorem strap (code : BitVec 12) : Statement (.strap code) := of_scalar rfl (sx_lt _ _ (by decide))
theorem seret : Statement .seret := of_scalar rfl (sx_lt _ _ (by decide))
theorem syield : Statement .syield := of_scalar rfl (sx_lt _ _ (by decide))
theorem ssleep (a : SReg) : Statement (.ssleep a) := of_scalar rfl (sx_lt _ _ (by decide))
theorem shalt : Statement .shalt := of_scalar rfl (sx_lt _ _ (by decide))
theorem sperf (sel : BitVec 12) (d : SReg) : Statement (.sperf sel d) := of_scalar rfl (sx_lt _ _ (by decide))
theorem stime (d : SReg) : Statement (.stime d) := of_scalar rfl (sx_lt _ _ (by decide))
theorem lbrk : Statement .lbrk := of_scalar rfl (sx_lt _ _ (by decide))
theorem lnop (l : LaneReg) : Statement (.lnop l) := of_lane rfl rfl (by decide) (reg_bits_lt l)
theorem lbr (l : LaneBr) : Statement (.lbr l) := of_lane rfl rfl (by decide) (br_bits_lt l)
theorem ljoin (l : LaneReg) : Statement (.ljoin l) := of_lane rfl rfl (by decide) (reg_bits_lt l)
theorem lstop (l : LaneReg) : Statement (.lstop l) := of_lane rfl rfl (by decide) (reg_bits_lt l)
theorem iadd (l : LaneReg) : Statement (.iadd l) := of_lane rfl rfl (by decide) (reg_bits_lt l)
theorem iaddImm (l : LaneImm) : Statement (.iaddImm l) := of_lane rfl rfl (by decide) (imm_bits_lt l)
theorem isub (l : LaneReg) : Statement (.isub l) := of_lane rfl rfl (by decide) (reg_bits_lt l)
theorem imul (l : LaneReg) : Statement (.imul l) := of_lane rfl rfl (by decide) (reg_bits_lt l)
theorem imulImm (l : LaneImm) : Statement (.imulImm l) := of_lane rfl rfl (by decide) (imm_bits_lt l)
theorem imulh (l : LaneReg) : Statement (.imulh l) := of_lane rfl rfl (by decide) (reg_bits_lt l)
theorem imad (l : LaneReg) : Statement (.imad l) := of_lane rfl rfl (by decide) (reg_bits_lt l)
theorem imin (l : LaneReg) : Statement (.imin l) := of_lane rfl rfl (by decide) (reg_bits_lt l)
theorem iminImm (l : LaneImm) : Statement (.iminImm l) := of_lane rfl rfl (by decide) (imm_bits_lt l)
theorem imax (l : LaneReg) : Statement (.imax l) := of_lane rfl rfl (by decide) (reg_bits_lt l)
theorem imaxImm (l : LaneImm) : Statement (.imaxImm l) := of_lane rfl rfl (by decide) (imm_bits_lt l)
theorem iabs (l : LaneReg) : Statement (.iabs l) := of_lane rfl rfl (by decide) (reg_bits_lt l)
theorem icmp (l : LaneReg) : Statement (.icmp l) := of_lane rfl rfl (by decide) (reg_bits_lt l)
theorem land (l : LaneReg) : Statement (.land l) := of_lane rfl rfl (by decide) (reg_bits_lt l)
theorem landImm (l : LaneImm) : Statement (.landImm l) := of_lane rfl rfl (by decide) (imm_bits_lt l)
theorem lor (l : LaneReg) : Statement (.lor l) := of_lane rfl rfl (by decide) (reg_bits_lt l)
theorem lorImm (l : LaneImm) : Statement (.lorImm l) := of_lane rfl rfl (by decide) (imm_bits_lt l)
theorem lxor (l : LaneReg) : Statement (.lxor l) := of_lane rfl rfl (by decide) (reg_bits_lt l)
theorem lxorImm (l : LaneImm) : Statement (.lxorImm l) := of_lane rfl rfl (by decide) (imm_bits_lt l)
theorem lshl (l : LaneReg) : Statement (.lshl l) := of_lane rfl rfl (by decide) (reg_bits_lt l)
theorem lshlImm (l : LaneImm) : Statement (.lshlImm l) := of_lane rfl rfl (by decide) (imm_bits_lt l)
theorem lshr (l : LaneReg) : Statement (.lshr l) := of_lane rfl rfl (by decide) (reg_bits_lt l)
theorem lshrImm (l : LaneImm) : Statement (.lshrImm l) := of_lane rfl rfl (by decide) (imm_bits_lt l)
theorem lsra (l : LaneReg) : Statement (.lsra l) := of_lane rfl rfl (by decide) (reg_bits_lt l)
theorem lsraImm (l : LaneImm) : Statement (.lsraImm l) := of_lane rfl rfl (by decide) (imm_bits_lt l)
theorem popc (l : LaneReg) : Statement (.popc l) := of_lane rfl rfl (by decide) (reg_bits_lt l)
theorem clz (l : LaneReg) : Statement (.clz l) := of_lane rfl rfl (by decide) (reg_bits_lt l)
theorem brev (l : LaneReg) : Statement (.brev l) := of_lane rfl rfl (by decide) (reg_bits_lt l)
theorem bfe (l : LaneReg) : Statement (.bfe l) := of_lane rfl rfl (by decide) (reg_bits_lt l)
theorem bfi (l : LaneReg) : Statement (.bfi l) := of_lane rfl rfl (by decide) (reg_bits_lt l)
theorem fadd (l : LaneReg) : Statement (.fadd l) := of_lane rfl rfl (by decide) (reg_bits_lt l)
theorem faddImm (l : LaneImm) : Statement (.faddImm l) := of_lane rfl rfl (by decide) (imm_bits_lt l)
theorem fsub (l : LaneReg) : Statement (.fsub l) := of_lane rfl rfl (by decide) (reg_bits_lt l)
theorem fmul (l : LaneReg) : Statement (.fmul l) := of_lane rfl rfl (by decide) (reg_bits_lt l)
theorem fmulImm (l : LaneImm) : Statement (.fmulImm l) := of_lane rfl rfl (by decide) (imm_bits_lt l)
theorem ffma (l : LaneReg) : Statement (.ffma l) := of_lane rfl rfl (by decide) (reg_bits_lt l)
theorem fmin (l : LaneReg) : Statement (.fmin l) := of_lane rfl rfl (by decide) (reg_bits_lt l)
theorem fminImm (l : LaneImm) : Statement (.fminImm l) := of_lane rfl rfl (by decide) (imm_bits_lt l)
theorem fmax (l : LaneReg) : Statement (.fmax l) := of_lane rfl rfl (by decide) (reg_bits_lt l)
theorem fmaxImm (l : LaneImm) : Statement (.fmaxImm l) := of_lane rfl rfl (by decide) (imm_bits_lt l)
theorem fcmp (l : LaneReg) : Statement (.fcmp l) := of_lane rfl rfl (by decide) (reg_bits_lt l)
theorem fclass (l : LaneReg) : Statement (.fclass l) := of_lane rfl rfl (by decide) (reg_bits_lt l)
theorem frnd (l : LaneReg) : Statement (.frnd l) := of_lane rfl rfl (by decide) (reg_bits_lt l)
theorem rcp (l : LaneReg) : Statement (.rcp l) := of_lane rfl rfl (by decide) (reg_bits_lt l)
theorem rsq (l : LaneReg) : Statement (.rsq l) := of_lane rfl rfl (by decide) (reg_bits_lt l)
theorem sqrt (l : LaneReg) : Statement (.sqrt l) := of_lane rfl rfl (by decide) (reg_bits_lt l)
theorem exp2 (l : LaneReg) : Statement (.exp2 l) := of_lane rfl rfl (by decide) (reg_bits_lt l)
theorem log2 (l : LaneReg) : Statement (.log2 l) := of_lane rfl rfl (by decide) (reg_bits_lt l)
theorem sin (l : LaneReg) : Statement (.sin l) := of_lane rfl rfl (by decide) (reg_bits_lt l)
theorem cos (l : LaneReg) : Statement (.cos l) := of_lane rfl rfl (by decide) (reg_bits_lt l)
theorem tanh (l : LaneReg) : Statement (.tanh l) := of_lane rfl rfl (by decide) (reg_bits_lt l)
theorem cvt (l : LaneReg) : Statement (.cvt l) := of_lane rfl rfl (by decide) (reg_bits_lt l)
theorem pack (l : LaneReg) : Statement (.pack l) := of_lane rfl rfl (by decide) (reg_bits_lt l)
theorem unpack (l : LaneReg) : Statement (.unpack l) := of_lane rfl rfl (by decide) (reg_bits_lt l)
theorem bfpq (l : LaneReg) : Statement (.bfpq l) := of_lane rfl rfl (by decide) (reg_bits_lt l)
theorem bfpd (l : LaneReg) : Statement (.bfpd l) := of_lane rfl rfl (by decide) (reg_bits_lt l)
theorem mov (l : LaneReg) : Statement (.mov l) := of_lane rfl rfl (by decide) (reg_bits_lt l)
theorem movi (l : LaneImm) : Statement (.movi l) := of_lane rfl rfl (by decide) (imm_bits_lt l)
theorem sel (l : LaneReg) : Statement (.sel l) := of_lane rfl rfl (by decide) (reg_bits_lt l)
theorem plop (l : LaneReg) : Statement (.plop l) := of_lane rfl rfl (by decide) (reg_bits_lt l)
theorem setvb (l : LaneReg) : Statement (.setvb l) := of_lane rfl rfl (by decide) (reg_bits_lt l)
theorem sprd (l : LaneReg) : Statement (.sprd l) := of_lane rfl rfl (by decide) (reg_bits_lt l)
theorem shfl (l : LaneReg) : Statement (.shfl l) := of_lane rfl rfl (by decide) (reg_bits_lt l)
theorem vote (l : LaneReg) : Statement (.vote l) := of_lane rfl rfl (by decide) (reg_bits_lt l)
theorem red (l : LaneReg) : Statement (.red l) := of_lane rfl rfl (by decide) (reg_bits_lt l)
theorem scan (l : LaneReg) : Statement (.scan l) := of_lane rfl rfl (by decide) (reg_bits_lt l)
theorem compress (l : LaneReg) : Statement (.compress l) := of_lane rfl rfl (by decide) (reg_bits_lt l)
theorem expand (l : LaneReg) : Statement (.expand l) := of_lane rfl rfl (by decide) (reg_bits_lt l)
theorem fusedef (l : LaneReg) : Statement (.fusedef l) := of_lane rfl rfl (by decide) (reg_bits_lt l)
theorem fuse (l : LaneReg) : Statement (.fuse l) := of_lane rfl rfl (by decide) (reg_bits_lt l)
theorem ld (l : LaneReg) : Statement (.ld l) := of_lane rfl rfl (by decide) (reg_bits_lt l)
theorem st (l : LaneReg) : Statement (.st l) := of_lane rfl rfl (by decide) (reg_bits_lt l)
theorem lda (l : LaneReg) : Statement (.lda l) := of_lane rfl rfl (by decide) (reg_bits_lt l)
theorem waitk (l : LaneImm) : Statement (.waitk l) := of_lane rfl rfl (by decide) (imm_bits_lt l)
theorem ldmc (l : LaneReg) : Statement (.ldmc l) := of_lane rfl rfl (by decide) (reg_bits_lt l)
theorem pref (l : LaneReg) : Statement (.pref l) := of_lane rfl rfl (by decide) (reg_bits_lt l)
theorem cread (l : LaneReg) : Statement (.cread l) := of_lane rfl rfl (by decide) (reg_bits_lt l)
theorem cstore (l : LaneReg) : Statement (.cstore l) := of_lane rfl rfl (by decide) (reg_bits_lt l)
theorem atom (op : AmoOp) (l : LaneReg) : Statement (.atom op l) := of_lane rfl rfl (by cases op <;> decide) (reg_bits_lt l)
theorem fence (l : LaneReg) : Statement (.fence l) := of_lane rfl rfl (by decide) (reg_bits_lt l)
theorem qfence (l : LaneImm) : Statement (.qfence l) := of_lane rfl rfl (by decide) (imm_bits_lt l)
theorem wload (l : LaneReg) : Statement (.wload l) := of_lane rfl rfl (by decide) (reg_bits_lt l)
theorem mma (l : LaneReg) : Statement (.mma l) := of_lane rfl rfl (by decide) (reg_bits_lt l)
theorem azero (l : LaneReg) : Statement (.azero l) := of_lane rfl rfl (by decide) (reg_bits_lt l)
theorem aread (l : LaneReg) : Statement (.aread l) := of_lane rfl rfl (by decide) (reg_bits_lt l)
theorem awrite (l : LaneReg) : Statement (.awrite l) := of_lane rfl rfl (by decide) (reg_bits_lt l)
theorem cpy (l : LaneReg) : Statement (.cpy l) := of_lane rfl rfl (by decide) (reg_bits_lt l)
theorem cpym (l : LaneReg) : Statement (.cpym l) := of_lane rfl rfl (by decide) (reg_bits_lt l)
theorem rcf (l : LaneReg) : Statement (.rcf l) := of_lane rfl rfl (by decide) (reg_bits_lt l)
theorem rinit (l : LaneReg) : Statement (.rinit l) := of_lane rfl rfl (by decide) (reg_bits_lt l)
theorem rwaitFree (l : LaneReg) : Statement (.rwaitFree l) := of_lane rfl rfl (by decide) (reg_bits_lt l)
theorem rwaitFilled (l : LaneReg) : Statement (.rwaitFilled l) := of_lane rfl rfl (by decide) (reg_bits_lt l)
theorem rrel (l : LaneReg) : Statement (.rrel l) := of_lane rfl rfl (by decide) (reg_bits_lt l)
theorem bpost (l : LaneReg) : Statement (.bpost l) := of_lane rfl rfl (by decide) (reg_bits_lt l)
theorem bsend (l : LaneReg) : Statement (.bsend l) := of_lane rfl rfl (by decide) (reg_bits_lt l)
theorem amsend (l : LaneReg) : Statement (.amsend l) := of_lane rfl rfl (by decide) (reg_bits_lt l)
theorem stopen (l : LaneReg) : Statement (.stopen l) := of_lane rfl rfl (by decide) (reg_bits_lt l)
theorem stsend (l : LaneReg) : Statement (.stsend l) := of_lane rfl rfl (by decide) (reg_bits_lt l)
theorem strecv (l : LaneReg) : Statement (.strecv l) := of_lane rfl rfl (by decide) (reg_bits_lt l)
theorem stxfer (l : LaneReg) : Statement (.stxfer l) := of_lane rfl rfl (by decide) (reg_bits_lt l)
theorem stadopt (l : LaneReg) : Statement (.stadopt l) := of_lane rfl rfl (by decide) (reg_bits_lt l)
theorem stbind (l : LaneReg) : Statement (.stbind l) := of_lane rfl rfl (by decide) (reg_bits_lt l)
theorem stclose (l : LaneReg) : Statement (.stclose l) := of_lane rfl rfl (by decide) (reg_bits_lt l)
theorem stquery (l : LaneReg) : Statement (.stquery l) := of_lane rfl rfl (by decide) (reg_bits_lt l)
theorem fabricOpComplete (w : Nat) : Statement (.fabricOpComplete w) := of_event rfl rfl
theorem laneBlockStart (w : Nat) : Statement (.laneBlockStart w) := of_event rfl rfl
theorem lgoUnstall (w : Nat) : Statement (.lgoUnstall w) := of_event rfl rfl
theorem laneResultWrite (w n : Nat) : Statement (.laneResultWrite w n) := of_event rfl rfl
theorem scalarResultFill (w : Nat) (d : SReg) : Statement (.scalarResultFill w d) := of_event rfl rfl
theorem spopDone (w : Nat) : Statement (.spopDone w) := of_event rfl rfl
theorem lwaitDone (w : Nat) : Statement (.lwaitDone w) := of_event rfl rfl
theorem waitkDone (w : Nat) (st : Stream) : Statement (.waitkDone w st) := of_event rfl rfl
theorem setvbDone (w : Nat) (st : Stream) : Statement (.setvbDone w st) := of_event rfl rfl
theorem fenceDone (w : Nat) (st : Stream) : Statement (.fenceDone w st) := of_event rfl rfl
theorem qfenceDone (w : Nat) (st : Stream) : Statement (.qfenceDone w st) := of_event rfl rfl
theorem rwaitFreeDone (w : Nat) (st : Stream) : Statement (.rwaitFreeDone w st) := of_event rfl rfl
theorem rwaitFilledDone (w : Nat) (st : Stream) : Statement (.rwaitFilledDone w st) := of_event rfl rfl
theorem sleepExpiry (w : Nat) : Statement (.sleepExpiry w) := of_event rfl rfl
theorem starvationPrecedence (w : Nat) : Statement (.starvationPrecedence w) := of_event rfl rfl
theorem workgroupRetire (g : Nat) : Statement (.workgroupRetire g) := of_event rfl rfl
theorem dispatchWorkgroup (core idx : Nat) : Statement (.dispatchWorkgroup core idx) := of_event rfl rfl
theorem deferredTrap (w : Nat) : Statement (.deferredTrap w) := of_event rfl rfl
theorem skidStop (w : Nat) : Statement (.skidStop w) := of_event rfl rfl
theorem firmwareEndWorkgroup (g : Nat) : Statement (.firmwareEndWorkgroup g) := of_event rfl rfl
theorem parkThresholdHold (core fn : Nat) : Statement (.parkThresholdHold core fn) := of_event rfl rfl
theorem contextSwitchOut (g : Nat) : Statement (.contextSwitchOut g) := of_event rfl rfl
theorem contextSwitchIn (g core : Nat) : Statement (.contextSwitchIn g core) := of_event rfl rfl
theorem walkComplete (die fn va : Nat) : Statement (.walkComplete die fn va) := of_event rfl rfl
theorem pageMapped (p : PageEntry) : Statement (.pageMapped p) := of_event rfl rfl
theorem pageMapRefused (fn va : Nat) : Statement (.pageMapRefused fn va) := of_event rfl rfl
theorem tlbInvalidation (fn : Nat) (va : SpaceAddr) : Statement (.tlbInvalidation fn va) := of_event rfl rfl
theorem invalidationComplete (fn : Nat) (va : SpaceAddr) : Statement (.invalidationComplete fn va) := of_event rfl rfl
theorem sharedQueueArrival (r : Nat) : Statement (.sharedQueueArrival r) := of_event rfl rfl
theorem queueDeparture (r : Nat) : Statement (.queueDeparture r) := of_event rfl rfl
theorem residencyExpired (r : Nat) : Statement (.residencyExpired r) := of_event rfl rfl
theorem bounceNotice (r : Nat) : Statement (.bounceNotice r) := of_event rfl rfl
theorem congestionCleared (q : QId) : Statement (.congestionCleared q) := of_event rfl rfl
theorem backoffExpiry (r : Nat) : Statement (.backoffExpiry r) := of_event rfl rfl
theorem reservationGranted (q : QId) (cls : OwnerClass) : Statement (.reservationGranted q cls) := of_event rfl rfl
theorem grantLapse (q : QId) (cls : OwnerClass) : Statement (.grantLapse q cls) := of_event rfl rfl
theorem budgetRefill (vf : Nat) : Statement (.budgetRefill vf) := of_event rfl rfl
theorem replayReissue (r : Nat) : Statement (.replayReissue r) := of_event rfl rfl
theorem requestReply (r : Nat) : Statement (.requestReply r) := of_event rfl rfl
theorem releasePart (w : Nat) : Statement (.releasePart w) := of_event rfl rfl
theorem homeAccess (r : Nat) : Statement (.homeAccess r) := of_event rfl rfl
theorem homeProbe (r core : Nat) : Statement (.homeProbe r core) := of_event rfl rfl
theorem hbmRefreshDue (ch bank : Nat) : Statement (.hbmRefreshDue ch bank) := of_event rfl rfl
theorem postponedRefresh (ch bank : Nat) : Statement (.postponedRefresh ch bank) := of_event rfl rfl
theorem rowThresholdReached (vf ch bank row : Nat) : Statement (.rowThresholdReached vf ch bank row) := of_event rfl rfl
theorem rowCountClear (edge : Nat) : Statement (.rowCountClear edge) := of_event rfl rfl
theorem weightRefreshWindow (die : Nat) : Statement (.weightRefreshWindow die) := of_event rfl rfl
theorem wloadStart (core n : Nat) : Statement (.wloadStart core n) := of_event rfl rfl
theorem wloadDone (core n : Nat) : Statement (.wloadDone core n) := of_event rfl rfl
theorem mmaStart (core n : Nat) : Statement (.mmaStart core n) := of_event rfl rfl
theorem mmaDone (core n : Nat) : Statement (.mmaDone core n) := of_event rfl rfl
theorem accumMoveDone (core n : Nat) : Statement (.accumMoveDone core n) := of_event rfl rfl
theorem copyStart (core g : Nat) : Statement (.copyStart core g) := of_event rfl rfl
theorem copyBytesPerformed (core g : Nat) : Statement (.copyBytesPerformed core g) := of_event rfl rfl
theorem copyDone (core g : Nat) : Statement (.copyDone core g) := of_event rfl rfl
theorem qdoorWrite (by_ : Mgr) (q : Nat) (tail : W32) : Statement (.qdoorWrite by_ q tail) := of_event rfl rfl
theorem qstatReset (by_ : Mgr) (q : Nat) : Statement (.qstatReset by_ q) := of_event rfl rfl
theorem batchCommit (q : Nat) : Statement (.batchCommit q) := of_event rfl rfl
theorem packetStart (q : Nat) : Statement (.packetStart q) := of_event rfl rfl
theorem launchBundle (q : Nat) : Statement (.launchBundle q) := of_event rfl rfl
theorem timedLaunch (q : Nat) : Statement (.timedLaunch q) := of_event rfl rfl
theorem timedLaunchEligible (q : Nat) : Statement (.timedLaunchEligible q) := of_event rfl rfl
theorem copyPacket (q : Nat) : Statement (.copyPacket q) := of_event rfl rfl
theorem wsWritePacket (q : Nat) : Statement (.wsWritePacket q) := of_event rfl rfl
theorem barrierAndSignal (q : Nat) : Statement (.barrierAndSignal q) := of_event rfl rfl
theorem barrierSignalWake (q : Nat) : Statement (.barrierSignalWake q) := of_event rfl rfl
theorem interruptPacket (q : Nat) : Statement (.interruptPacket q) := of_event rfl rfl
theorem registerHandlerTable (q : Nat) : Statement (.registerHandlerTable q) := of_event rfl rfl
theorem placement (die core : Nat) : Statement (.placement die core) := of_event rfl rfl
theorem sliceAdvance (die : Nat) : Statement (.sliceAdvance die) := of_event rfl rfl
theorem starvePromotion (q : Nat) : Statement (.starvePromotion q) := of_event rfl rfl
theorem completionInterruptCount (fn : Nat) : Statement (.completionInterruptCount fn) := of_event rfl rfl
theorem completionInterruptTimeout (fn : Nat) : Statement (.completionInterruptTimeout fn) := of_event rfl rfl
theorem ptpsetWrite (by_ : Mgr) (v : W64) : Statement (.ptpsetWrite by_ v) := of_event rfl rfl
theorem ptpadjWrite (by_ : Mgr) (v : W64) : Statement (.ptpadjWrite by_ v) := of_event rfl rfl
theorem ptprateWrite (by_ : Mgr) (v : W64) : Statement (.ptprateWrite by_ v) := of_event rfl rfl
theorem ptpholdWrite (by_ : Mgr) (v : W64) : Statement (.ptpholdWrite by_ v) := of_event rfl rfl
theorem ptpHoldoverExpiry : Statement .ptpHoldoverExpiry := of_event rfl rfl
theorem fabricForward (port : Nat) (p : Packet) : Statement (.fabricForward port p) := of_event rfl rfl
theorem fmManagement (f : FmWrite) : Statement (.fmManagement f) := of_event rfl rfl
theorem fabricRd (port : Nat) (p : Packet) : Statement (.fabricRd port p) := of_event rfl rfl
theorem fabricWr (port : Nat) (p : Packet) : Statement (.fabricWr port p) := of_event rfl rfl
theorem fabricAtomGroup (port : Nat) (p : Packet) : Statement (.fabricAtomGroup port p) := of_event rfl rfl
theorem fabricCstGroup (port : Nat) (p : Packet) : Statement (.fabricCstGroup port p) := of_event rfl rfl
theorem fabricBdata (port : Nat) (p : Packet) : Statement (.fabricBdata port p) := of_event rfl rfl
theorem fabricBreq (port : Nat) (p : Packet) : Statement (.fabricBreq port p) := of_event rfl rfl
theorem fabricAmsg (port : Nat) (p : Packet) : Statement (.fabricAmsg port p) := of_event rfl rfl
theorem fabricRdr (port : Nat) (p : Packet) : Statement (.fabricRdr port p) := of_event rfl rfl
theorem fabricWack (port : Nat) (p : Packet) : Statement (.fabricWack port p) := of_event rfl rfl
theorem fabricAtomr (port : Nat) (p : Packet) : Statement (.fabricAtomr port p) := of_event rfl rfl
theorem fabricCstr (port : Nat) (p : Packet) : Statement (.fabricCstr port p) := of_event rfl rfl
theorem fabricAmack (port : Nat) (p : Packet) : Statement (.fabricAmack port p) := of_event rfl rfl
theorem fabricBounce (port : Nat) (p : Packet) : Statement (.fabricBounce port p) := of_event rfl rfl
theorem fabricGrant (port : Nat) (p : Packet) : Statement (.fabricGrant port p) := of_event rfl rfl
theorem fabricReturn (port : Nat) (p : Packet) : Statement (.fabricReturn port p) := of_event rfl rfl
theorem fabricBstat (port : Nat) (p : Packet) : Statement (.fabricBstat port p) := of_event rfl rfl
theorem fabricCong (port : Nat) (p : Packet) : Statement (.fabricCong port p) := of_event rfl rfl
theorem groupTimeout (src tag gen : Nat) : Statement (.groupTimeout src tag gen) := of_event rfl rfl
theorem resendTimer (r : Nat) : Statement (.resendTimer r) := of_event rfl rfl
theorem replyCacheExpiry (src tag gen : Nat) : Statement (.replyCacheExpiry src tag gen) := of_event rfl rfl
theorem requestUnanswered (r : Nat) : Statement (.requestUnanswered r) := of_event rfl rfl
theorem destUnreachable (dev : Nat) : Statement (.destUnreachable dev) := of_event rfl rfl
theorem congestionWithdraw (port dev : Nat) : Statement (.congestionWithdraw port dev) := of_event rfl rfl
theorem tokenExpiry (src msg off : Nat) : Statement (.tokenExpiry src msg off) := of_event rfl rfl
theorem prioAging (src msg : Nat) : Statement (.prioAging src msg) := of_event rfl rfl
theorem amHandlerStart (fn core : Nat) : Statement (.amHandlerStart fn core) := of_event rfl rfl
theorem streamHandlerStart (k : EndKey) (core : Nat) : Statement (.streamHandlerStart k core) := of_event rfl rfl
theorem sitem (port : Nat) (p : Packet) : Statement (.sitem port p) := of_event rfl rfl
theorem smoveMove (port : Nat) (p : Packet) : Statement (.smoveMove port p) := of_event rfl rfl
theorem smoveCtx (port : Nat) (p : Packet) : Statement (.smoveCtx port p) := of_event rfl rfl
theorem smoveAdopt (port : Nat) (p : Packet) : Statement (.smoveAdopt port p) := of_event rfl rfl
theorem smovePlace (port : Nat) (p : Packet) : Statement (.smovePlace port p) := of_event rfl rfl
theorem smoveItems (port : Nat) (p : Packet) : Statement (.smoveItems port p) := of_event rfl rfl
theorem sack (port : Nat) (p : Packet) : Statement (.sack port p) := of_event rfl rfl
theorem smack (port : Nat) (p : Packet) : Statement (.smack port p) := of_event rfl rfl
theorem scred (port : Nat) (p : Packet) : Statement (.scred port p) := of_event rfl rfl
theorem sloc (port : Nat) (p : Packet) : Statement (.sloc port p) := of_event rfl rfl
theorem sorph (port : Nat) (p : Packet) : Statement (.sorph port p) := of_event rfl rfl
theorem contextIdleTimeout (k : EndKey) : Statement (.contextIdleTimeout k) := of_event rfl rfl
theorem contextEvictionDone (k : EndKey) : Statement (.contextEvictionDone k) := of_event rfl rfl
theorem contextReloadDone (k : EndKey) : Statement (.contextReloadDone k) := of_event rfl rfl
theorem hostSnoop (line : Nat) (inval : Bool) : Statement (.hostSnoop line inval) := of_event rfl rfl
theorem hostMemWrite (fn pa : Nat) (bytes : List Byte) : Statement (.hostMemWrite fn pa bytes) := of_event rfl rfl
theorem hostMemRead (fn pa n : Nat) : Statement (.hostMemRead fn pa n) := of_event rfl rfl
theorem functionReset (vf : Nat) : Statement (.functionReset vf) := of_event rfl rfl
theorem functionResetComplete (vf : Nat) : Statement (.functionResetComplete vf) := of_event rfl rfl
theorem scrubLine (line : Nat) : Statement (.scrubLine line) := of_event rfl rfl
theorem deviceReset : Statement .deviceReset := of_event rfl rfl
theorem selfTestStageDone (pass : Bool) (part : FailPart × Nat) : Statement (.selfTestStageDone pass part) := of_event rfl rfl
theorem coolantFault : Statement .coolantFault := of_event rfl rfl
theorem openq (by_ : Mgr) (rec_ : QueueRec) : Statement (.openq by_ rec_) := of_event rfl rfl
theorem closeq (by_ : Mgr) (q : Nat) : Statement (.closeq by_ q) := of_event rfl rfl
theorem faultlog (by_ : Mgr) : Statement (.faultlog by_) := of_event rfl rfl
theorem attest (by_ : Mgr) (nonce : BitVec 256) : Statement (.attest by_ nonce) := of_event rfl rfl
theorem postreport (by_ : Mgr) (page : Nat) : Statement (.postreport by_ page) := of_event rfl rfl
theorem retest (by_ : Mgr) (pass : Bool) : Statement (.retest by_ pass) := of_event rfl rfl
theorem substitute (by_ : Mgr) (kind : SpareKind) (part : Nat) : Statement (.substitute by_ kind part) := of_event rfl rfl
theorem retire (by_ : Mgr) : Statement (.retire by_) := of_event rfl rfl
theorem fwupdate (by_ : Mgr) (img : Image) : Statement (.fwupdate by_ img) := of_event rfl rfl
theorem frameinfo (by_ : Mgr) (frame : Nat) : Statement (.frameinfo by_ frame) := of_event rfl rfl
theorem assign (by_ : Mgr) (frame owner : Nat) : Statement (.assign by_ frame owner) := of_event rfl rfl
theorem spareTrigger (kind : SpareKind) (part : Nat) : Statement (.spareTrigger kind part) := of_event rfl rfl
theorem spareSubstitution (kind : SpareKind) (part phys : Nat) : Statement (.spareSubstitution kind part phys) := of_event rfl rfl
theorem hostPortFailover : Statement .hostPortFailover := of_event rfl rfl
theorem xunlockWrite (by_ : Mgr) (v : W32) : Statement (.xunlockWrite by_ v) := of_event rfl rfl
theorem residBWrite (by_ : Mgr) (v : W32) : Statement (.residBWrite by_ v) := of_event rfl rfl
theorem residXWrite (by_ : Mgr) (v : W32) : Statement (.residXWrite by_ v) := of_event rfl rfl
theorem replayqBWrite (by_ : Mgr) (v : W32) : Statement (.replayqBWrite by_ v) := of_event rfl rfl
theorem replayqXWrite (by_ : Mgr) (v : W32) : Statement (.replayqXWrite by_ v) := of_event rfl rfl
theorem rowguardBWrite (by_ : Mgr) (v : W32) : Statement (.rowguardBWrite by_ v) := of_event rfl rfl
theorem rowguardXWrite (by_ : Mgr) (v : W32) : Statement (.rowguardXWrite by_ v) := of_event rfl rfl
theorem bulkBWrite (by_ : Mgr) (v : W32) : Statement (.bulkBWrite by_ v) := of_event rfl rfl
theorem bulkXWrite (by_ : Mgr) (v : W32) : Statement (.bulkXWrite by_ v) := of_event rfl rfl
theorem ctxstoreBWrite (by_ : Mgr) (v : W32) : Statement (.ctxstoreBWrite by_ v) := of_event rfl rfl
theorem ctxstoreXWrite (by_ : Mgr) (v : W32) : Statement (.ctxstoreXWrite by_ v) := of_event rfl rfl
theorem powerBWrite (by_ : Mgr) (v : W32) : Statement (.powerBWrite by_ v) := of_event rfl rfl
theorem powerXWrite (by_ : Mgr) (v : W32) : Statement (.powerXWrite by_ v) := of_event rfl rfl
theorem vfbudBWrite (by_ : Mgr) (vf : Nat) (v : W32) : Statement (.vfbudBWrite by_ vf v) := of_event rfl rfl
theorem vfbudXWrite (by_ : Mgr) (vf : Nat) (v : W32) : Statement (.vfbudXWrite by_ vf v) := of_event rfl rfl
theorem vfscopeBWrite (by_ : Mgr) (vf : Nat) (v : W32) : Statement (.vfscopeBWrite by_ vf v) := of_event rfl rfl
theorem vfscopeXWrite (by_ : Mgr) (vf : Nat) (v : W32) : Statement (.vfscopeXWrite by_ vf v) := of_event rfl rfl
theorem icoalBWrite (by_ : Mgr) (fn : Nat) (v : W32) : Statement (.icoalBWrite by_ fn v) := of_event rfl rfl
theorem icoalXWrite (by_ : Mgr) (fn : Nat) (v : W32) : Statement (.icoalXWrite by_ fn v) := of_event rfl rfl
theorem arbguardBWrite (by_ : Mgr) (fn : Nat) (v : W32) : Statement (.arbguardBWrite by_ fn v) := of_event rfl rfl
theorem arbguardXWrite (by_ : Mgr) (fn : Nat) (v : W32) : Statement (.arbguardXWrite by_ fn v) := of_event rfl rfl
theorem parkBWrite (by_ : Mgr) (fn : Nat) (v : W32) : Statement (.parkBWrite by_ fn v) := of_event rfl rfl
theorem parkXWrite (by_ : Mgr) (fn : Nat) (v : W32) : Statement (.parkXWrite by_ fn v) := of_event rfl rfl
theorem stidleBWrite (by_ : Mgr) (fn : Nat) (v : W32) : Statement (.stidleBWrite by_ fn v) := of_event rfl rfl
theorem stidleXWrite (by_ : Mgr) (fn : Nat) (v : W32) : Statement (.stidleXWrite by_ fn v) := of_event rfl rfl
theorem registerWrite (by_ : Mgr) (off width : Nat) (v : W64) : Statement (.registerWrite by_ off width v) := of_event rfl rfl
theorem ptmRequest : Statement .ptmRequest := of_event rfl rfl
theorem softError (site : UpsetSite) (correctable : Bool) : Statement (.softError site correctable) := of_event rfl rfl
theorem linkTrainingComplete (port lane : Nat) : Statement (.linkTrainingComplete port lane) := of_event rfl rfl
theorem destinationCongested (port dev : Nat) : Statement (.destinationCongested port dev) := of_event rfl rfl
theorem frozenRecordRelease (k : EndKey) : Statement (.frozenRecordRelease k) := of_event rfl rfl

end Sys2Proof.Laws.Width
end

