-- ==== Sys2Proof/Tests/Slice0.lean ====
section
/-! SUPPORT. The model's own tests: ill-formed terms that the well-formedness check refuses, words written out from the encodings of the specification, single steps with results taken from its text, and for each statement that has hypotheses a state and operands that meet them. -/

namespace Sys2Proof.Tests

open Sys2Proof.Machine
set_option Elab.async false

/-! ## Helpers -/

/-- A loaded warp at its first scalar instruction, and at its first lane instruction. -/
def scW : Warp := loadedWarp (loadedWg 0 1) false
def lnW : Warp := loadedWarp (loadedWg 0 1) true

/-- Warp 0, now `w`, alone on the device, at the issuing position with its stream `st`. -/
def sole (w : Warp) (st : Stream) : State :=
  { State.reset with
    cur := some (0, st)
    warps := [(0, w)]
    wgs := [(0, loadedWg 0 1)]
    pages := [loadedPage]
    boot := { Boot.reset with stage := 6 } }

/-- The same, with another workgroup. -/
def soleG (w : Warp) (st : Stream) (g : Wg) : State := { sole w st with wgs := [(0, g)] }

def h0 : LaneHdr := ⟨⟨false, 0⟩, ⟨false, 0⟩, false, 0, false, 0, 0⟩
def lr (d a b c e : Opnd) (mod : BitVec 14) : LaneReg := ⟨h0, d, a, b, c, e, mod⟩
def li (d a b : Opnd) (imm : BitVec 32) : LaneImm := ⟨h0, d, a, b, imm⟩

/-- A scalar register set; a lane register set in every lane. -/
def setS (w : Warp) (r : SReg) (v : W64) : Warp := w.writeS r v
def setV (w : Warp) (e : Nat) (v : W32) : Warp := { w with rg := w.rg.put e (Lanes.splat v) }

/-- The warp after one instruction; the state after one event. -/
def warpAfter (i : Instr) (s : State) : Option Warp := match exec i s with | .next t => Tbl.find t.warps 0 | _ => none
def after (i : Instr) (s : State) : Option State := match exec i s with | .next t => some t | _ => none

/-- What a lane result in flight will write, lane 0. -/
def result0 (i : Instr) (w : Warp) : Option W32 :=
  (warpAfter i (sole w .slotA)).bind fun u => u.flight.head?.bind fun r => r.regs.head?.map fun x => x.2[(0 : Fin 32)]

/-! ## Words written out from the encodings (R77 to R92, R118 to R132, R181) -/

theorem test_word_scmp : decodeTableWord 32 0b000001_001001_000011_000100_00100100 = some (.scmp .ltu 9 3 4) := by decide +kernel
theorem test_word_saddi : decodeTableWord 32 0b000010_000101_000101_00000000000001 = some (.saddi 5 5 1) := by decide +kernel
theorem test_word_slui : decodeTableWord 32 0b001101_000001_11111111111111111111 = some (.slui 1 0xFFFFF) := by decide +kernel
theorem test_word_sld : decodeTableWord 32 0b010000_000011_001010_101_00000010000 = some (.sld .i32 3 10 16) := by decide +kernel
theorem test_word_samo : decodeTableWord 32 0b010100_000111_001000_001001_000_1_011_0 = some (.samo .add true .acqrel false 7 8 9) := by decide +kernel
theorem test_word_sbr : decodeTableWord 32 0b011000_010_000101_000110_11111111100 = some (.sbr .lt 5 6 0x7FC) := by decide +kernel
theorem test_word_loop : decodeTableWord 32 0b011100_000100_0000_0000000000000011 = some (.loop 4 false 3) := by decide +kernel
theorem test_word_lgo : decodeTableWord 32 0b100000_001000_00000000000000000000 = some (.lgo 8 0) := by decide +kernel
theorem test_word_sbar : decodeTableWord 32 0b100010_000011_000000_000000_00000000 = some (.sbar 3) := by decide +kernel
theorem test_word_scsrr : decodeTableWord 32 0b111111_000000010101_000100_00000001 = some (.scsrr 0x015 4) := by decide +kernel
theorem test_word_lbr : decodeTableWord 96 0x00420000000060000DFFC000 = some (.lbr ⟨{ h0 with ga := ⟨false, 1⟩ }, 6, 13⟩) := by decide +kernel
theorem test_word_iadd : decodeTableWord 96 0x1000000000800007FFFFDC00 = some (.iadd (lr (.v 2) (.v 0) (.v 1) .none .none 0x1C00)) := by decide +kernel
theorem test_word_ffma : decodeTableWord 96 0x30C7400401C080240AFFC280 =
    some (.ffma ⟨{ h0 with ga := ⟨false, 3⟩, gb := ⟨true, 4⟩, fe := 4 }, .v 7, .v 8, .v 9, .v 10, .none, 0x0280⟩) := by decide +kernel
theorem test_word_fmul_imm : decodeTableWord 96 0x3884000000C03FFC3F000000 = some (.fmulImm ⟨{ h0 with ga := ⟨false, 2⟩ }, .v 3, .v 3, .none, 0x3F000000⟩) := by decide +kernel
theorem test_word_vote : decodeTableWord 96 0x60400000FFF03FFFFFFFC042 = some (.vote (lr .none (.p 3) .none .none .none 0x0042)) := by decide +kernel
theorem test_word_lda : decodeTableWord 96 0x808000000220201712FFE002 = some (.lda (lr (.v 8) (.x 2) (.v 5) (.k 2) .none 0x2002)) := by decide +kernel
theorem test_word_mma : decodeTableWord 96 0xA04000004000480602FFEC3A = some (.mma (lr (.a 0) (.v 4) (.x 1) (.x 2) .none 0x2C3A)) := by decide +kernel
theorem test_word_bsend : decodeTableWord 96 0xC040000001A0080602FFE100 = some (.bsend (lr (.v 6) (.x 0) (.x 1) (.x 2) .none 0x2100)) := by decide +kernel

/-! Reserved words decode to nothing (R77, R80, R85, R94). -/

theorem test_reserved_major : decodeTableWord 32 0 = none ∧ decodeTableWord 32 (0x0E * 2 ^ 26) = none := by decide +kernel
theorem test_reserved_condition : decodeTableWord 32 (0x18 * 2 ^ 26 + 6 * 2 ^ 23) = none ∧ decodeTableWord 32 (0x18 * 2 ^ 26 + 7 * 2 ^ 23) = none := by decide +kernel
theorem test_reserved_shift_field : decodeTableWord 32 (0x07 * 2 ^ 26 + 0x40) = none := by decide +kernel
theorem test_reserved_lane : decodeTableWord 96 0 = none ∧ decodeTableWord 96 (2 ^ 96 - 1) = none := by decide +kernel

/-! ## Ill-formed terms that the check refuses (check 1 of R94) -/

theorem test_wf_refuses_loop_without_body : (Instr.loop 1 false 0).wf = false := by decide +kernel
theorem test_wf_refuses_lgo_above_s60 : (Instr.lgo 61 0).wf = false ∧ (Instr.lgo 60 0).wf = true := by decide +kernel
theorem test_wf_refuses_unassigned_csr : (Instr.scsrr 0x007 1).wf = false ∧ (Instr.scsrw 0x042 1).wf = false := by decide +kernel
theorem test_wf_refuses_operand_class : (Instr.iadd (lr (.p 1) (.v 0) (.v 1) .none .none 0x1C00)).wf = false := by decide +kernel
theorem test_wf_refuses_type_code : (Instr.iadd (lr (.v 2) (.v 0) (.v 1) .none .none 0x0000)).wf = false := by decide +kernel
theorem test_wf_refuses_float_type : (Instr.fadd (lr (.v 2) (.v 0) (.v 1) .none .none 0x1C00)).wf = false := by decide +kernel
theorem test_wf_refuses_fe_of_empty_slot : (Instr.iadd ⟨{ h0 with fe := 1 }, .v 2, .v 0, .v 1, .none, .none, 0x1C00⟩).wf = false := by decide +kernel
theorem test_wf_refuses_rh : (Instr.iadd ⟨{ h0 with rh := 1 }, .v 2, .v 0, .v 1, .none, .none, 0x1C00⟩).wf = false := by decide +kernel
theorem test_wf_refuses_odd_pair : (Instr.ld (lr (.v 3) (.x 0) (.v 0) .none .none (5 * 2048))).wf = false ∧
    (Instr.ld (lr (.v 4) (.x 0) (.v 0) .none .none (5 * 2048))).wf = true := by decide +kernel
theorem test_wf_refuses_quad : (Instr.ld (lr (.v 2) (.x 0) (.v 0) .none .none (6 * 2048))).wf = false := by decide +kernel
theorem test_wf_refuses_accumulator_range : (Instr.azero (lr (.a 250) .none .none .none .none 0x0038)).wf = false := by decide +kernel
theorem test_wf_refuses_guarded_fabric : (Instr.bsend ⟨{ h0 with ga := ⟨false, 1⟩ }, .v 6, .x 0, .x 1, .x 2, .none, 0x2100⟩).wf = false := by decide +kernel

/-- One slot of a wrong class for every lane instruction of the register form: D, or A where D is none. -/
def wrongClass : List Instr :=
  let l := lr (.p 1) (.p 2) (.k 0) (.k 1) (.k 2) 0
  let m := lr (.k 3) (.p 2) (.k 0) (.k 1) (.k 2) 0x1C00
  [.lnop l, .ljoin l, .lstop l, .isub m, .imul m, .imulh m, .imad m, .imin m, .imax m, .iabs m, .icmp m, .land l, .lor l, .lxor l, .lshl m, .lshr m, .lsra m,
   .popc m, .clz m, .brev m, .bfe m, .bfi l, .fadd l, .fsub l, .fmul l, .ffma l, .fmin l, .fmax l, .fcmp m, .fclass l, .frnd l, .rcp l, .rsq l, .sqrt l, .exp2 l,
   .log2 l, .sin l, .cos l, .tanh l, .cvt l, .pack l, .unpack l, .bfpq l, .bfpd l, .mov l, .sel l, .plop m, .setvb l, .sprd l, .shfl l, .vote l, .red l, .scan l,
   .compress l, .expand l, .fusedef l, .fuse l] ++
  [.ld l, .st l, .lda l, .ldmc l, .pref l, .cread l, .cstore m, .atom .add l, .fence l, .wload l, .mma l, .azero l, .aread l, .awrite l, .cpy l, .cpym l, .rcf l,
   .rinit l, .rwaitFree l, .rwaitFilled l, .rrel l, .bpost l, .bsend l, .amsend l, .stopen l, .stsend l, .strecv l, .stxfer l, .stadopt l, .stbind l, .stclose l, .stquery l]

theorem test_wf_refuses_wrong_class : ∀ i ∈ wrongClass, i.wf = false := by decide +kernel

/-- One field out of its range, every operand of its class. -/
def wrongField : List Instr :=
  let v := Opnd.v 4
  let x := Opnd.x 0
  [.iadd (lr v v v .none .none 0x1C01), .iadd (lr v v v .none .none 0x1D00), .imulh (lr v v v .none .none 0x1C80), .iabs (lr v v .none .none .none 0x2000),
   .icmp (lr v v v .none .none 0x1C06), .icmp (lr (.p 1) v v .none .none 0x1400), .land (lr v v v .none .none 1), .lshl (lr v v v .none .none 0x1C80),
   .bfe (lr v v v v .none 0x1400), .bfi (lr v v v v v 1), .fmin (lr v v v .none .none 0x0100), .fcmp (lr v v v .none .none 14), .fcmp (lr (.p 1) v v .none .none 0x0400),
   .fclass (lr v v .none .none .none 0x0100), .rcp (lr v v .none .none .none 0x0080), .cvt (lr v v .none .none .none 0x2C00), .cvt (lr v v .none .none .none 1),
   .pack (lr v v v .none .none 0), .unpack (lr v v .none .none .none 0), .bfpq (lr v v .none .none .none 0), .bfpd (lr v v .none .none .none 0), .mov (lr v v .none .none .none 1),
   .sel (lr v v v (.p 1) .none 1), .plop (lr (.p 1) (.p 2) (.p 3) .none .none 16), .sprd (lr v .none .none .none .none 8), .shfl (lr v v v .none .none 0),
   .vote (lr (.p 1) v .none .none .none 2), .red (lr v v .none .none .none 3), .scan (lr v v .none .none .none 0x1C06), .compress (lr v v .none .none .none 2),
   .fusedef (lr .none .none .none .none .none 0x0400), .fuse (lr v v .none .none .none 0x0040), .movi ⟨{ h0 with rh := 1 }, v, .none, .none, 1⟩,
   .iaddImm ⟨{ h0 with fe := 1 }, v, v, .none, 1⟩, .waitk (li .none (.k 0) .none 65536), .qfence (li .none .none .none 0), .qfence (li .none .none .none 16)] ++
  [.ld (lr v x v .none .none 0x3800), .ld (lr v x v .none .none 0x0140), .ld (lr v x v .none .none 6), .ld (lr v x v .none .none 0x0010), .ld ⟨{ h0 with rh := 1 }, v, x, v, .none, .none, 0x0200⟩,
   .st (lr .none x v v .none 8), .lda (lr v x v (.k 0) .none 0x0020), .ldmc (lr v x v .none x 0x2200), .pref (lr .none x v .none .none 0x1800), .cread (lr v x .none .none .none 0x2000),
   .cstore (lr (.p 1) x v v v 0x3004), .atom .add (lr v x v v v 0x2000), .fence (lr .none .none .none .none .none 0), .wload (lr .none x .none .none .none 0x2C07),
   .mma (lr (.a 254) v x x .none 0x2C00), .aread (lr v (.a 0) .none .none .none 0x2C00), .awrite (lr (.a 0) v .none .none .none 0x2C00), .cpy (lr .none x x x .none 0x0060),
   .cpym (lr .none x x x x 0x0010), .rinit (lr .none x x x .none 0x0030), .rcf (lr .none .none .none .none .none 1), .rrel (lr .none x v .none .none 1),
   .bpost (lr .none x x x .none 1), .stopen (lr v .none v .none .none 1), .stquery (lr v x .none .none .none 3), .stsend (lr .none (.x 1) x x .none 0),
   .sst .i8 1 2 0, .sstPad .i32 1 2 0, .sperf 9 1]

theorem test_wf_refuses_wrong_field : ∀ i ∈ wrongField, i.wf = false := by decide +kernel
/-! ## States that meet the statements' hypotheses: scalar instructions -/

/-- `s1` = 12, `s2` = −5; the scalar PC in the middle of its section. -/
def s12 : Warp := setS (setS { scW with sc := { scW.sc with pc := 512 } } 1 12) 2 (-5)
def sS : State := sole s12 .scalar

theorem meets_ScalarEncodeDecode : (∃ w, encodeScalar (.slui 63 0xFFFFF) = some w) ∧ (Instr.slui 63 0xFFFFF).wf = true ∧
    (∃ w, encodeScalar (.loop 63 true 0xFFFF) = some w) ∧ (Instr.loop 63 true 0xFFFF).wf = true :=
  ⟨⟨_, rfl⟩, rfl, ⟨_, rfl⟩, rfl⟩
theorem meets_LaneEncodeDecode :
    (∃ w, encodeLane (.iadd ⟨⟨⟨true, 15⟩, ⟨true, 15⟩, true, 0, true, 7, 0x1C⟩, .v 255, .sp 15, .v 255, .none, .none, 0x1C80⟩) = some w) ∧
    (Instr.iadd ⟨⟨⟨true, 15⟩, ⟨true, 15⟩, true, 0, true, 7, 0x14⟩, .v 255, .sp 15, .v 255, .none, .none, 0x1C80⟩).wf = true :=
  ⟨⟨_, rfl⟩, by decide +kernel⟩
theorem meets_WordsHaveOneReading : decodeTableWord 32 0x0490C424 = some (.scmp .ltu 9 3 4) ∧ 0x0490C424 < 2 ^ 32 ∧
    (decodeTableWord 96 0x1000000000800007FFFFDC00).isSome = true ∧ 0x1000000000800007FFFFDC00 < 2 ^ 96 := by decide +kernel
theorem meets_ScalarResults : sS.scalarReady 0 s12 [63, 1, 2] ∧ sS.scalarReady 0 s12 [63, 1] := by decide +kernel
theorem meets_ScalarLongResults : sS.scalarReady 0 s12 [3, 1, 2] ∧
    (let w := setS (setS s12 1 (BitVec.intMin 64)) 2 (BitVec.allOnes 64)
     (sole w .scalar).scalarReady 0 w [3, 1, 2] ∧ w.sr 1 = BitVec.intMin 64 ∧ w.sr 2 = BitVec.allOnes 64) := by decide +kernel
theorem meets_ScalarRegisterStates :
    (let w := s12.longS 63 7
     Tbl.find (sole w .scalar).warps 0 = some w ∧ w.sc.fill = [(63, 7)] ∧ (63 : SReg) ≠ 0 ∧ (sole w .scalar).issues 0 w .scalar ∧ w.sc.ready [63, 1, 2] = false) := by decide +kernel
theorem meets_ScalarBranchesAndJumps :
    sS.issues 0 s12 .scalar ∧ s12.sc.ready [1, 2] = true ∧ SCond.holds .lt (s12.sr 2) (s12.sr 1) = true ∧ SCond.holds .lt (s12.sr 1) (s12.sr 2) = false ∧
    sS.scalarReady 0 s12 [1, 2] ∧ (sS.wg 0).inScalar (512 + 4#64 * (127#11).signExtend 64) = true ∧ (sS.wg 0).inScalar (512 + 4#64 * (128#11).signExtend 64) = false ∧
    (sS.wg 0).inScalar (512 + 4#64 * (0x780#11).signExtend 64) = true ∧ (sS.wg 0).inScalar (512 + 4#64 * (0x77F#11).signExtend 64) = false ∧
    (0x18 * 2 ^ 26 + 5 * 2 ^ 23) / 2 ^ 23 % 8 < 6 ∧ 6 ≤ (0x18 * 2 ^ 26 + 6 * 2 ^ 23) / 2 ^ 23 % 8 ∧
    (let t := State.reset.withFetchWord 32 (0x18 * 2 ^ 26 + 6 * 2 ^ 23)
     let w := loadedWarp (loadedWg 0 1) false
     Tbl.find t.warps 0 = some w ∧ (t.wg (wgOf 0)).inScalar w.sc.pc = true ∧ leNat (t.scalarBytes (t.wg (wgOf 0)) w) = 0x18 * 2 ^ 26 + 6 * 2 ^ 23) := by decide +kernel
theorem meets_LoopInstructions :
    sS.issues 0 s12 .scalar ∧ s12.handler = none ∧ s12.sc.ready [1] = true ∧ s12.sr 1 &&& 0xFFFFFFFF#64 ≠ 0 ∧ s12.sr 0 = 0 ∧ s12.sc.ready [0] = true ∧
    (sS.wg 0).inScalar (512 + 4#64 * (1#16).setWidth 64 + 4) = true ∧ s12.sc.loops = [] ∧ s12.sc.loops.length ≠ 4 ∧ (sS.wg 0).inScalar (512 + 4) = true ∧
    (let deep := { s12 with sc := { s12.sc with loops := List.replicate 4 ⟨0, 1000, 5⟩ } }
     (sole deep .scalar).issues 0 deep .scalar ∧ deep.sc.loops.length = 4 ∧ deep.sc.loops = ⟨0, 1000, 5⟩ :: List.replicate 3 ⟨0, 1000, 5⟩ ∧ (sS.wg 0).inScalar (1000 + 4) = true) ∧
    (let out := { s12 with sc := { s12.sc with loops := [⟨0, 512, 5⟩] } }
     (sole out .scalar).issues 0 out .scalar ∧ ¬ (∀ t ∈ out.sc.loops.head?, (516 : W64).toNat ≤ t.endPc.toNat)) := by decide +kernel
theorem meets_LaneLinkAndSystem :
    s12.handler = none ∧ sS.scalarReady 0 s12 [60, 61, 62, 63] ∧ (60 : SReg).toNat ≤ 60 ∧ 60 < (61 : SReg).toNat ∧ s12.sc.ready [60, 61, 62, 63] = true ∧
    (sS.wg 0).inLane 0 = true ∧ (sS.wg 0).inLane 127 = true ∧ (sS.wg 0).inLane 128 = false ∧ s12.blocks.length < 16 ∧
    (let w := { s12 with blocks := List.replicate 16 ⟨5, Vector.replicate 8 0, 3⟩ }
     (sole w .scalar).scalarReady 0 w [60, 61, 62, 63] ∧ 16 ≤ w.blocks.length ∧ (sole w .scalar).scalarReady 0 w [3] ∧ w.rq = [] ∧ w.neverPushes = false) ∧
    (let w := { s12 with rq := [7] }
     (sole w .scalar).scalarReady 0 w [3] ∧ w.rq = 7 :: []) := by decide +kernel
theorem meets_LaneLinkAndSystem_rest :
    (sS.issues 0 s12 .scalar ∧ s12.sc.ready [3] = true ∧ s12.rq = [] ∧ s12.blocks = [] ∧ s12.running = false ∧ s12.flight = []) ∧
    sS.scalarReady 0 s12 [] ∧ sS.scalarReady 0 s12 [1] ∧ s12.sr 1 ≠ 0 ∧ sS.scalarReady 0 s12 [0] ∧ s12.sr 0 = 0 ∧ (8 : BitVec 12).toNat ≤ 8 ∧ 8 < (9 : BitVec 12).toNat := by decide +kernel
theorem meets_ControlAndStatusRegisters :
    0x000 ∈ csrNumbers ∧ 0x200 ∈ csrNumbers ∧ 0x007 ∉ csrNumbers ∧ 0x201 ∉ csrNumbers ∧ 0x000 ∉ csrWritable ∧ sS.scalarReady 0 s12 [3] ∧ sS.scalarReady 0 s12 [1] ∧ sS.issues 0 s12 .scalar ∧
    s12.sc.ready [3] = true ∧ (s12.sr 1).toNat % 1024 ≤ s12.rg.nreg ∧ s12.rg.allFull = true ∧
    (let w := setS s12 1 512
     (w.sr 1).toNat % 1024 ≤ w.rg.nreg ∧ (sole w .scalar).scalarReady 0 w [1]) ∧
    (let w := { s12 with rg := s12.rg.setEmpty 0 true }
     (sole w .scalar).scalarReady 0 w [1] ∧ w.rg.allFull = false) ∧
    (let w := setS s12 1 513
     (sole w .scalar).issues 0 w .scalar ∧ w.sc.ready [1] = true ∧ w.rg.nreg < (w.sr 1).toNat % 1024) ∧
    s12.handler = none ∧ (s12.enterHandler).handler ≠ none := by decide +kernel
theorem meets_Joins :
    (sS.joinReady 0 s12 = true ∧ sS.scalarReady 0 s12 [] ∧ sS.scalarReady 0 s12 [3, 0] ∧ sS.scalarCheck 0 0 (s12.sr 0) 64 false = 0 ∧ s12.triggered = false ∧ s12.handler = none) ∧
    (let w := { s12 with running := true }
     (sole w .scalar).joinReady 0 w = false ∧ (sole w .scalar).scalarReady 0 w [] ∧ (sole w .scalar).scalarReady 0 w [3, 0] ∧ (sole w .scalar).scalarCheck 0 0 (w.sr 0) 64 false = 0) := by decide +kernel

/-- A warp that delegates its user traps to a handler at 256. -/
def deleg : Warp := { s12 with trap := { s12.trap with vec := 257, deleg := BitVec.allOnes 64 } }
/-- A warp in its handler. -/
def inside : Warp := { s12.enterHandler with sc := { s12.sc with pc := 256 }, trap := { s12.trap with cause := causeWord 0 0 false 1, pc := 512 } }

theorem meets_StrapTakesTheTrap : sS.issues 0 s12 .scalar ∧ s12.handler = none ∧ s12.halt = .run ∧ ¬ (s12.trap.vec.getLsbD 0 = true) ∧
    (sole deleg .scalar).issues 0 deleg .scalar ∧ deleg.handler = none ∧ deleg.halt = .run ∧ deleg.trap.deleg.getLsbD 0x20 = true ∧ deleg.trap.vec.getLsbD 0 = true := by decide +kernel
theorem meets_HandlerMode :
    (sole inside .scalar).issues 0 inside .scalar ∧ inside.handler = some s12.setAside ∧ (sole inside .scalar).returnsInside 0 inside = true ∧
    ((sole inside .scalar).barrier 0 16).arrived = [] ∧ trapPend inside.trap.cause = false ∧ trapSrc inside.trap.cause = 0 ∧ inside.sc.empty = 0 ∧
    (sS.issues 0 s12 .scalar ∧ s12.handler = none) ∧
    (let w := { inside with trap := { inside.trap with cause := causeWord 0 3 false 1 } }
     (sole w .scalar).returnsInside 0 w = true ∧ trapSrc w.trap.cause = 3) := by decide +kernel
theorem meets_TrapEntry :
    Tbl.find sS.warps 0 = some s12 ∧ s12.halt = .run ∧ s12.delegates 0x20 = false ∧ deleg.delegates 0x20 = true ∧ deleg.handler = none ∧
    Tbl.find (sole deleg .scalar).warps 0 = some deleg ∧ (let w := { s12 with halt := .skid 3 12 }; Tbl.find (sole w .scalar).warps 0 = some w ∧ w.halt = .skid 3 12 ∧ 3 ≠ (sole w .scalar).cyc) ∧
    (let w := { s12 with halt := .skid 0 9 }
     let s := { soleG w .scalar { loadedWg 0 1 with warps := 2, trapper := some 1 } with warps := [(0, w), (1, s12)] }
     Tbl.find s.warps 0 = some w ∧ w.halt = .skid 0 9 ∧ 0 = s.cyc ∧ (s.wg (wgOf 0)).trapper = some 1 ∧ 0 < 1 ∧ wgOf 1 = wgOf 0 ∧ Tbl.find s.warps 1 = some s12 ∧
       (Tbl.find s.wgs (wgOf 0)).isSome = true) := by decide +kernel
theorem meets_UndecodedWordsAreIllegal : Tbl.find sS.warps 0 = some s12 ∧ (sS.wg 0).inScalar s12.sc.pc = true ∧ decodeScalar (leNat (sS.scalarBytes (sS.wg 0) s12)) = none ∧
    (let w := { s12 with sc := { s12.sc with pc := 1024 } }
     Tbl.find (sole w .scalar).warps 0 = some w ∧ ((sole w .scalar).wg 0).inScalar w.sc.pc = false) ∧
    (let t := sole lnW .slotA
     Tbl.find t.warps 0 = some lnW ∧ (t.wg 0).inLane (lnW.slot .slotA).pc.toNat = true ∧ decodeLane (leNat (t.laneBytes (t.wg 0) (lnW.slot .slotA).pc.toNat)) = none) ∧
    (let w := { lnW with slotA := { lnW.slotA with pc := 128 } }
     Tbl.find (sole w .slotA).warps 0 = some w ∧ ((sole w .slotA).wg 0).inLane (w.slot .slotA).pc.toNat = false) := by decide +kernel

/-- The page at 0 may be read only, and the core's TLB holds its entry. -/
def readOnly : PageEntry := { loadedPage with write := false }
def guarded : State := { sS with pages := [readOnly], cores := [(1, { Core.reset 1 with tlb := [⟨readOnly, 0⟩] })] }

theorem meets_ScalarAccessChecks :
    sS.issues 0 s12 .scalar ∧ s12.sc.ready [3, 1, 2] = true ∧
    (s12.sr 1 + (1#11).signExtend 64).toNat % ssizeBytes .i32 ≠ 0 ∧ (s12.sr 1 + (4#11).signExtend 64).toNat % ssizeBytes .i32 = 0 ∧
    (let w := setS s12 1 (BitVec.ofNat 64 (2 ^ 57))
     (sole w .scalar).issues 0 w .scalar ∧ (w.sr 1 + (0#11).signExtend 64).toNat % ssizeBytes .i32 = 0 ∧ canonical (w.sr 1 + (0#11).signExtend 64) = false ∧
       (w.sr 1).toNat % 4 = 0 ∧ canonical (w.sr 1) = false) ∧
    (let w := setS s12 1 65536
     (sole w .scalar).issues 0 w .scalar ∧ (sS.wg 0).padSize < (w.sr 1 + (0#11).signExtend 64).toNat + ssizeBytes .i32) ∧
    (let w := setS s12 1 13
     (w.sr 1).toNat % 4 ≠ 0 ∧ (sole w .scalar).issues 0 w .scalar) ∧
    (guarded.issues 0 s12 .scalar ∧ (s12.sr 1 + (4#11).signExtend 64).toNat % ssizeBytes .i32 = 0 ∧ canonical (s12.sr 1 + (4#11).signExtend 64) = true ∧
      guarded.xlate ((guarded.wg 0).coreKey) 0 0 (s12.sr 1 + (4#11).signExtend 64).toNat true = .refused) := by decide +kernel
theorem meets_ScalarMemory :
    sS.scalarReady 0 s12 [3, 1, 2] ∧ sS.memBlocked 0 .scalar 0 s12.joined = false ∧ sS.scalarCheck 0 0 (s12.sr 1 + (4#11).signExtend 64) 4 false = 0 ∧
    sS.onCinnabar 0 0 (s12.sr 1 + (4#11).signExtend 64).toNat = false ∧ sS.scalarCheck 0 0 (s12.sr 1 + (4#11).signExtend 64) 4 true = 0 ∧
    (s12.sr 1 + (4#11).signExtend 64).toNat % 4 = 0 ∧ (s12.sr 1 + (4#11).signExtend 64).toNat + 4 ≤ (sS.wg 0).padSize ∧
    (setS s12 1 65532 |> fun w => (sole w .scalar).scalarReady 0 w [3, 1] ∧ (w.sr 1 + (0#11).signExtend 64).toNat + 4 ≤ (sS.wg 0).padSize) ∧
    sS.scopePolicy 0 2 = some (2, false) ∧ sS.scopePolicy 0 4 = some (4, false) ∧ sS.scalarCheck 0 0 (s12.sr 1) 4 true = 0 ∧
    sS.onCinnabar 0 0 (s12.sr 1).toNat = false ∧ sS.reqs = [] ∧ (sS.wg 0).status = .resident ∧ (sS.wg 0).padSize < 2 ^ 64 := by decide +kernel
/-! ## States that meet the statements' hypotheses: lane instructions -/

/-- `v0` = 6 and `v1` = −3 in every lane, `x0` = 0 and `x1` = 128. -/
def lW : Warp := { setV (setV lnW 0 6) 1 (-3) with x := #v[0, 128, 0, 0, 0, 0, 0, 0] }
def lS : State := sole lW .slotA
/-- Its slot B is not idle, so it is not converged. -/
def split : Warp := { lW with slotB := { lW.slotA with mask := 0xFFFF0000#32 }, slotA := { lW.slotA with mask := 0xFFFF#32 }, dstack := [⟨true, 0xFFFFFF#24, 8, 0xFFFFFFFF#32⟩] }
def l3 : LaneReg := lr (.v 2) (.v 0) (.v 1) (.v 0) (.v 1) 0x1C00
def i3 : LaneImm := li (.v 2) (.v 0) .none 5

theorem meets_LaneIntegers : lS.laneReady 0 lW .slotA h0 (LaneReg.uses1 l3) ∧ l3.d.isP = false ∧
    lS.laneReady 0 lW .slotA h0 (LaneReg.uses1 (lr (.p 15) (.v 0) (.v 1) .none .none 0x1C00)) ∧ lS.laneReady 0 lW .slotA h0 (LaneImm.uses i3) ∧
    (let top := lr (.v 255) (.v 0) (.v 1) .none .none 0x1C00; lS.laneReady 0 lW .slotA h0 (LaneReg.uses1 top)) := by decide +kernel
theorem meets_LaneLogicAndBits : lS.laneReady 0 lW .slotA h0 (LaneReg.uses1 l3) ∧ (0 < min (31 + 1) 32 - 31 ∧ (31 : Nat) < 32) ∧ (0x80 : Nat) < 2 ^ 8 := by decide +kernel
theorem meets_LaneFloatResults : floatTy (lr (.v 2) (.v 0) (.v 1) (.v 0) .none 0).ty = true ∧ lS.laneReady 0 lW .slotA h0 (LaneReg.uses1 (lr (.v 2) (.v 0) (.v 1) (.v 0) .none 0)) ∧
    lS.laneReady 0 lW .slotA h0 (LaneReg.uses1 (lr (.p 2) (.v 0) (.v 1) .none .none 0)) ∧ lS.laneReady 0 lW .slotA h0 (LaneImm.uses i3) := by decide +kernel
theorem meets_FloatEdgeCases : fval 0 0x7F800001 = .nan ∧ fval 0 0xFFC00000 = .nan ∧ fval 0 0x3F800000 ≠ .nan ∧ 0xFFC00000 < 2 ^ fltWidth 0 ∧ fval 1 0x7C01 = .nan ∧ fval 2 0x7F81 = .nan ∧
    13 ≤ 13 := by decide +kernel
theorem meets_LaneConversionResults : lS.laneReady 0 lW .slotA h0 (LaneReg.uses1 (lr (.v 2) (.v 0) (.v 1) (.v 0) (.v 1) 0)) := by decide +kernel
theorem meets_LaneMovesAndPredicates :
    lS.laneReady 0 lW .slotA h0 (LaneReg.uses1 (lr (.v 2) (.v 0) .none .none .none 0)) ∧ lS.laneReady 0 lW .slotA h0 (LaneReg.uses1 (lr (.p 2) (.v 0) .none .none .none 0)) ∧
    lS.laneReady 0 lW .slotA h0 (LaneReg.uses1 (lr (.k 15) (.v 0) .none .none .none 0)) ∧ (lW.active .slotA h0).lanes = 0 :: (List.finRange 32).tail := by decide +kernel
theorem meets_LaneMovesAndPredicates_rest :
    lS.flagsOwed 0 .slotA = false ∧ (lr (.k 15) (.v 0) .none .none .none 0).low = 0 ∧
    ((let c := { (Core.reset 1) with matq := [{ lS.matOp 0 .slotA lW.slotA 1 .mma with id := 3 }] }; ({ lS with cores := [(1, c)] } : State).flagsOwed 0 .slotA = true)) ∧
    (let l := lr .none (.x 1) .none .none .none 0
     lS.laneReady 0 lW .slotA h0 (LaneReg.uses1 l) ∧ lW.slotB.st = .idle ∧ lW.dstack = [] ∧ lW.active .slotA h0 ≠ 0 ∧ lW.rg.allFull = true ∧ (lS.rd 0 lW .slotA l.a 0)[(0 : Fin 32)].toNat ≤ lW.rg.nreg ∧
       (sole split .slotA).laneReady 0 split .slotA h0 (LaneReg.uses1 l) ∧ split.slotB.st ≠ .idle) ∧
    (lS.laneReady 0 lW .slotA h0 (LaneImm.uses (li (.k 0) .none .none 9)) ∧ lS.laneReady 0 lW .slotA h0 (LaneImm.uses (li (.p 3) .none .none 9))) := by decide +kernel

/-- A result that has been computed, for pool entry 2 of every lane. -/
def done_ : Result := { Result.blank 1 .slotA 0xFFFFFFFF#32 with regs := [(2, Lanes.splat 9)], flags := 1, push := some 4 }

theorem meets_LaneResultLands :
    (let w := { lW with flight := [done_] }
     Tbl.find (sole w .slotA).warps 0 = some w ∧ w.flight = done_ :: [] ∧ done_.need = 0 ∧ done_.fusing = false ∧ ((sole w .slotA).wg (wgOf 0)).status ≠ .out ∧ done_.keep = false ∧ done_.fills = false ∧
       done_.regs = [(2, Lanes.splat 9)] ∧ done_.preds = [] ∧ done_.ctrs = []) ∧
    (let x := { done_ with preds := [(15, 5)], ctrs := [(15, 0xFFFF)] }; let w := { lW with flight := [x] }
     Tbl.find (sole w .slotA).warps 0 = some w ∧ x.need = 0 ∧ x.keep = false ∧ x.fills = false ∧ (15 : Nat) < 16) ∧
    (let x := { done_ with keep := true, fills := true, kctr := some 15 }; let w := { lW with flight := [x] }
     Tbl.find (sole w .slotA).warps 0 = some w ∧ x.need = 0 ∧ x.keep = true ∧ x.fills = true ∧ x.kctr = some 15 ∧ x.ctrs = [] ∧ x.regs = [(2, Lanes.splat 9)] ∧ (2 : Nat) < 512) ∧
    (let x := { done_ with need := 1 }; let w := { lW with flight := [x] }
     Tbl.find (sole w .slotA).warps 0 = some w ∧ w.flight = x :: [] ∧ x.need ≠ 0 ∧ x.fusing = false ∧
       ((soleG w .slotA { loadedWg 0 1 with status := .out }).wg (wgOf 0)).status = .out) ∧
    (let f : FuseRun := ⟨0, [[]]⟩; let x := { done_ with fuse := some f }; let w := { lW with flight := [x] }
     Tbl.find (sole w .slotA).warps 0 = some w ∧ w.flight = x :: [] ∧ x.fuse = some f ∧ f.next < f.steps.length ∧ ((sole w .slotA).wg (wgOf 0)).status ≠ .out) := by decide +kernel

/-- Pool entry 0 is empty; is poisoned; the warp has no register above `v255`. -/
def empty0 : Warp := { lW with rg := lW.rg.setEmpty 0 true }
def poison0 : Warp := { lW with rg := lW.rg.setPoison 0 true }
def narrow : Warp := { lW with rg := { lW.rg with nreg := 2, vb := 2 } }

theorem meets_LaneChecksInOrder :
    (sole narrow .slotA).issues 0 narrow .slotA ∧ (∃ u ∈ LaneReg.uses1 (lr (.v 2) (.v 0) .none .none .none 0), u.inRange narrow.rg = false) ∧
    (sole empty0 .slotA).issues 0 empty0 .slotA ∧ ¬ (∃ u ∈ LaneReg.uses1 l3, u.inRange empty0.rg = false) ∧
    (∃ u ∈ LaneReg.uses1 { l3 with hdr := { h0 with fe := 8 } }, u.fe = true ∧ ∃ e ∈ u.entries empty0.rg, empty0.rg.isEmpty e = true) ∧
    ¬ (∃ u ∈ LaneReg.uses1 l3, u.fe = true ∧ ∃ e ∈ u.entries empty0.rg, empty0.rg.isEmpty e = true) ∧
    (∃ u ∈ LaneReg.uses1 l3, u.fe = false ∧ ∃ e ∈ u.entries empty0.rg, empty0.rg.isEmpty e = true) ∧
    (sole poison0 .slotA).issues 0 poison0 .slotA ∧ ¬ (∃ u ∈ LaneReg.uses1 l3, u.fe = false ∧ ∃ e ∈ u.entries poison0.rg, poison0.rg.isEmpty e = true) ∧
    poison0.interlocked .slotA (poison0.slot .slotA).mask h0 (LaneReg.uses1 l3) = false ∧ (∃ u ∈ LaneReg.uses1 l3, u.dst = false ∧ ∃ e ∈ u.entries poison0.rg, poison0.rg.isPoison e = true) := by decide +kernel

theorem meets_CrossLane :
    lS.laneReady 0 lW .slotA h0 (LaneReg.uses1 (lr (.v 2) (.v 0) (.v 1) .none .none 0x1C14)) ∧ (Opnd.v 2).isV = true ∧ (Opnd.p 2).isP = true ∧
    lS.laneReady 0 lW .slotA h0 (LaneReg.uses1 (lr .none (.v 0) .none .none .none 0x1C40)) ∧ lW.bothHold = false ∧ lW.rqFull = false ∧
    split.bothHold = true ∧ (sole split .slotA).laneReady 0 split .slotA h0 (LaneReg.uses1 (lr .none (.v 0) .none .none .none 0x1C40)) ∧
    lW.slotB.st = .idle ∧ lW.dstack = [] ∧ split.slotB.st ≠ .idle ∧ (intMin 7 ≤ (-5 : Int) ∧ (-5 : Int) ≤ intMax 7) ∧ intMin 10 ≤ (5 : Int) := by decide +kernel

/-- A chain of one `IADD.i32 e4, e0, e1`, defined at lane PC 4. -/
def fdef : LaneReg := lr .none .none .none .none .none 0x0003
def chained : State :=
  { lS with
    wgs := [(0, { loadedWg 0 1 with chains := [(3, 4)] })]
    mem := Memory.writeN (Memory.writeN [] 48 12 (0x1C0 * 2 ^ 86 + fdef.bits)) 60 12 (0x040 * 2 ^ 86 + (lr (.v 4) (.v 0) (.v 1) .none .none 0x1C00).bits) }

theorem meets_FusedChains :
    chained.laneReady 0 lW .slotA h0 (LaneReg.uses1 (lr (.v 2) (.v 0) (.v 1) .none .none 3)) ∧ Tbl.find (chained.wg 0).chains 3 = some 4 ∧
    decodeLaneBytes (chained.laneBytes (chained.wg 0) 4) = some (.fusedef fdef) ∧ (chained.bodyOp (chained.wg 0) 5).isSome = true ∧
    Tbl.find (lS.wg 0).chains 3 = none ∧ Tbl.find chained.wgs 0 = some (chained.wg 0) ∧
    (let w := { lW with slotA := { lW.slotA with pc := 4 } }
     (sole w .slotA).laneReady 0 w .slotA h0 (LaneReg.uses1 fdef) ∧ (chained.wg 0).inLane (4 + 1 + 1) = true ∧ modBits fdef.mod 9 6 + 1 = 1) := by decide +kernel

/-- Slot A diverged from a join at 8. -/
def joined : Warp := { lW with slotA := { lW.slotA with join := 8 } }
def g1 : LaneHdr := { h0 with ga := ⟨false, 1⟩ }
/-- `p1` holds in half of the lanes. -/
def half : Warp := { lW with rg := { lW.rg with p := lW.rg.p.set 1 0xFFFF#32 } }
def branch : LaneBr := ⟨h0, 6, 13⟩
def stack (n : Nat) : List DivEnt := List.replicate n ⟨true, 8, 8, 0⟩

def rejoin : Warp := { half with slotA := joined.slotA }
def half62 : Warp := { half with slotB := lW.slotA, dstack := stack 62 }
def half63 : Warp := { half with slotB := lW.slotA, dstack := stack 63 }
def half64 : Warp := { half with dstack := stack 64 }
def ctl : LaneReg := lr .none .none .none .none .none 0

theorem meets_LaneControl :
    lS.laneReady 0 lW .slotA h0 (LaneReg.uses1 ctl) ∧
    ((sole joined .slotA).laneReady 0 joined .slotA h0 (LaneReg.uses1 ctl) ∧ joined.active .slotA h0 = joined.slotA.mask ∧ joined.active .slotA h0 ≠ 0 ∧
      joined.slotA.join ≠ 0xFFFFFF#24 ∧ (lS.wg 0).inLane joined.slotA.join.toNat = true) ∧
    ((sole rejoin .slotA).laneReady 0 rejoin .slotA g1 [] ∧ rejoin.active .slotA g1 ≠ rejoin.slotA.mask ∧ rejoin.active .slotA g1 ≠ 0) ∧
    (lW.active .slotA h0 ≠ 0 ∧ lW.slotA.join = 0xFFFFFF#24 ∧ lW.active .slotA { h0 with ga := ⟨true, 0⟩ } = 0) ∧
    (lW.slotB.st = .idle ∧ lW.dstack = [] ∧ lW.slotA.mask = lW.launch) ∧ split.slotB.st ≠ .idle := by decide +kernel
theorem meets_LaneControl_branch :
    ((lS.wg 0).inLane 6 = true ∧ (lS.wg 0).inLane 13 = true ∧ lS.laneReady 0 lW .slotA h0 []) ∧
    ((sole half .slotA).laneReady 0 half .slotA g1 [] ∧ half.active .slotA g1 ≠ 0 ∧ half.slotA.mask &&& ~~~half.active .slotA g1 ≠ 0 ∧ half.slotB.st = .idle ∧ half.dstack.length < 64) ∧
    ((sole half62 .slotA).laneReady 0 half62 .slotA g1 [] ∧ half62.slotB.st ≠ .idle ∧ half62.dstack.length < 63) ∧
    ((sole half64 .slotA).laneReady 0 half64 .slotA g1 [] ∧ 64 ≤ half64.dstack.length) ∧
    ((sole half63 .slotA).laneReady 0 half63 .slotA g1 [] ∧ 63 ≤ half63.dstack.length ∧ half63.slotB.st ≠ .idle) := by decide +kernel

def mW : Warp := setV lW 0 64
def mS : State := sole mW .slotA
def ml (d c e : Opnd) : LaneReg := lr d (.x 1) (.v 0) c e 0x2000

theorem meets_LaneMemoryRequests :
    mW.active .slotA h0 ≠ 0 ∧ mS.laneHeld 0 mW .slotA mW.slotA = false ∧ mS.scopePolicy 0 0 = some (0, false) ∧ mS.scopePolicy 0 4 = some (4, false) ∧
    (let l := ml (.v 8) (.k 2) .none
     mS.laneReady 0 mW .slotA h0 (LaneReg.uses l (grpRegs l.size) 1 1 1 1) ∧ mS.laneCheck 0 l.space (sizeBytes l.size) false (mW.active .slotA h0) (mS.ea 0 mW .slotA l) = none) ∧
    (let l := ml (.v 8) .none .none
     l.c = .none ∧ mS.laneReady 0 mW .slotA h0 (LaneReg.uses l (grpRegs l.size) 1 1 1 1)) ∧
    (let l := ml .none (.v 1) .none
     mS.laneReady 0 mW .slotA h0 (LaneReg.uses l 1 1 1 (grpRegs l.size) 1) ∧ mS.laneCheck 0 l.space (sizeBytes l.size) true (mW.active .slotA h0) (mS.ea 0 mW .slotA l) = none) ∧
    (let l := ml (.v 8) (.v 1) (.v 0)
     mS.laneReady 0 mW .slotA h0 (LaneReg.uses l 1 1 1 1 1) ∧ mS.laneCheck 0 l.space (sizeBytes l.size) true (mW.active .slotA h0) (mS.ea 0 mW .slotA l) = none) ∧
    (let l := ml (.v 8) .none (.x 0)
     mS.laneReady 0 mW .slotA h0 (LaneReg.uses l 1 1 1 1 1) ∧ (mS.mcTargets 0 (mS.rd 0 mW .slotA l.e 0)[(0 : Fin 32)].toNat).isSome = true ∧
       mS.laneCheck 0 0 (sizeBytes l.size) false (mW.active .slotA h0) (mS.ea 0 mW .slotA l) = none) := by decide +kernel
theorem meets_VersionedLineAccesses :
    (let l := lr (.v 2) (.x 1) .none .none .none 0x2800
     let a := mW.x64 l.a
     mS.laneReady 0 mW .slotA h0 (LaneReg.uses l 2 1 1 1 1) ∧ mW.slotB.st = .idle ∧ mW.dstack = [] ∧ mS.scopePolicy 0 l.scope = some (0, false) ∧ mW.active .slotA h0 ≠ 0 ∧
       mS.laneHeld 0 mW .slotA mW.slotA = false ∧ mS.laneCheck 0 0 128 false (mW.active .slotA h0) (fun _ => a) = none) ∧
    (let l := lr (.p 1) (.x 1) (.v 2) (.v 4) (.v 1) 0x3010
     let n := l.amode + 1
     mS.laneReady 0 mW .slotA h0 (LaneReg.uses l 1 1 1 n 1) ∧
       mS.laneCheck 0 0 128 true (BitVec.ofNat 32 (2 ^ n - 1)) (fun i => mW.x64 l.a + (mS.rd 0 mW .slotA l.b 0)[i].setWidth 64) = none) ∧
    split.slotB.st ≠ .idle ∧ (sole split .slotA).laneReady 0 split .slotA h0 (LaneReg.uses (lr (.v 2) (.x 1) .none .none .none 0x2800) 2 1 1 1 1) ∧
    (sole split .slotA).laneReady 0 split .slotA h0 (LaneReg.uses (lr (.p 1) (.x 1) (.v 2) (.v 4) (.v 1) 0x3010) 1 1 1 1 1) := by decide +kernel

def held (x : LWait) : Warp := { lW with slotA := { lW.slotA with wait := x } }

theorem meets_SlotWaits :
    (let l := li .none (.k 0) .none 0
     lS.laneReady 0 lW .slotA h0 (LaneImm.uses l) ∧ l.a = .k 0 ∧ l.imm.toNat ≤ (lW.rg.kr 0).toNat) ∧
    (let l := li .none (.k 0) .none 65535
     lS.laneReady 0 lW .slotA h0 (LaneImm.uses l) ∧ l.imm.toNat < 65536 ∧ (lW.rg.kr 0).toNat < l.imm.toNat) ∧
    (lS.laneReady 0 lW .slotA h0 (LaneImm.uses (li .none .none .none 15)) ∧ (15 : W32).toNat < 16) ∧
    (let r := lr .none .none .none .none .none 0x00A0
     lS.laneReady 0 lW .slotA h0 (LaneReg.uses1 r) ∧ lS.scopePolicy 0 r.scope = some (2, false) ∧ lS.laneHeld 0 lW .slotA lW.slotA = false) ∧
    (let w := held (.waitk 3 0)
     Tbl.find (sole w .slotA).warps 0 = some w ∧ w.live = true ∧ (w.slot .slotA).wait = .waitk 3 0 ∧ 0 ≤ (w.rg.kr 3).toNat) ∧
    (let w := held (.qfence 15 9)
     Tbl.find (sole w .slotA).warps 0 = some w ∧ w.live = true ∧ (w.slot .slotA).wait = .qfence 15 9 ∧ (sole w .slotA).qfenceReady 0 15 9 = true) ∧
    (let w := held (.fence 5)
     let s := (sole w .slotA).putReq { Req.blank 5 with kind := .fence, rel := 0 }
     Tbl.find s.warps 0 = some w ∧ w.live = true ∧ (w.slot .slotA).wait = .fence 5 ∧ (Tbl.find s.reqs 5).isSome = true ∧ ({ Req.blank 5 with kind := .fence, rel := 0 } : Req).relDone = true) := by decide +kernel

/-! ## States that meet the statements' hypotheses: engines, copies and the fabric group -/

/-- Bank 0 holds a tile of width 2. -/
def tiled : Core := (Core.reset 1).putBank 0 ⟨some 0, List.replicate (tileBytes 2) 0, 2, false⟩
def onTile (s : State) : State := { s with cores := [(1, tiled)] }

/-- `x1` = 128, `x2` = 1024, `x3` = 1040: operands of the matrix instructions; every other extended register is 0. -/
def matW : Warp := { setV lnW 0 2 with x := #v[0, 128, 1024, 1040, 0, 0, 0, 0] }
def matS : State := onTile (sole matW .slotA)
def acc64 : Opnd := .a 0
def wl : LaneReg := lr .none (.x 1) .none .none .none 0
def mm : LaneReg := lr acc64 (.v 0) (.x 2) (.x 3) .none 0
def mv (d a : Opnd) : LaneReg := lr d a .none .none .none 0

theorem meets_MatrixInstructions :
    matW.qfenced 2 = false ∧
    (matS.laneReady 0 matW .slotA h0 (LaneReg.uses1 wl) ∧ matS.bankMine 0 0 = true ∧ matS.memBlocked 0 .slotA matW.slotA.mask matW.after = false ∧
      Tbl.find matS.wgs 0 = some (loadedWg 0 1) ∧ (loadedWg 0 1).coreKey < 240 ∧ (matW.x64 wl.a).toNat % 128 = 0 ∧
      (matW.x64 wl.a).toNat + (2048 + 8192 * (LaneReg.wei wl + 2)) ≤ (loadedWg 0 1).padSize) := by decide +kernel
theorem meets_MatrixInstructions_mma :
    matS.laneReady 0 matW .slotA h0 (LaneReg.uses mm 0 1 1 1 1) ∧ Use.inRange matW.rg ⟨mm.d, 64 * (modBits mm.mod 5 4 + 1), false, true⟩ = true ∧
    matS.accWaits 0 matW matW.slotA.mask (Use.entries matW.rg ⟨mm.d, 64, false, true⟩) = false ∧
    ((Use.entries matW.rg ⟨mm.d, 64, false, true⟩).all fun e => !matW.rg.isPoison e) = true ∧ matS.bankReady 0 0 = true ∧ matW.active .slotA h0 ≠ 0 ∧
    ((List.finRange 32).all fun i => decide ((matW.x64 mm.b).toNat % 2 ^ 32 + (matS.rd 0 matW .slotA mm.a 0)[i].toNat * ((matW.x64 mm.c).toNat % 2 ^ 32) = 1024 + 2 * 1040)) = true ∧
    (1024 + 2 * 1040) % 4 = 0 ∧ 1024 + 2 * 1040 + (8 + 32 * 2) ≤ (loadedWg 0 1).padSize := by decide +kernel
theorem meets_MatrixInstructions_moves :
    matS.laneReady 0 matW .slotA h0 (LaneReg.uses (mv (.a 0) .none) (mv (.a 0) .none).accCount 1 1 1 1) ∧
    (let l := mv (.v 8) (.a 0); matS.laneReady 0 matW .slotA h0 (LaneReg.uses l (moveRegs l.ty (LaneReg.wei l + 2) l.accCount) l.accCount 1 1 1)) ∧
    (let l := mv (.a 0) (.v 8); matS.laneReady 0 matW .slotA h0 (LaneReg.uses l l.accCount (moveRegs l.ty (LaneReg.wei l + 2) l.accCount) 1 1 1)) := by decide +kernel

/-- A row of 64 bytes, from global memory to the scratchpad; the records stand in the core's cache, at 128 and at 1024. -/
def shapeAt (space base : Nat) : Shape := ⟨true, false, 0, space, 1, 1, [0, 0, 0, 0], 0, [64, 1, 1, 1, 1], base⟩
def recs : Core := { tiled with records := [(0, 0, 128, shapeAt 0 4096, 0), (0, 0, 1024, shapeAt 1 2048, 0)] }
/-- A ring of two slots of 128 bytes from 4096 on, its header at 256; slot 0 is free, slot 1 given back to nobody yet. -/
def ring2 : Ring := ⟨4096, 128, 0, 0, 0, 0, 0, 0, 2, 0, true⟩
def padRing (slot0 slot1 : SyncWord) : Memory :=
  Memory.writeN (Memory.writeN (Memory.writeN [] 256 16 ring2.bits) 272 8 slot0.bits) 280 8 slot1.bits
/-- Warp 0 is the producer. -/
def prodWg (slot0 slot1 : SyncWord) : Wg := { loadedWg 0 1 with producer := some 0, pad := padRing slot0 slot1 }
/-- `x1` = 128, `x2` = 1024, `x3` = 2^32 · 0 + 0, `x4` = 256. -/
def cpW : Warp := { lnW with x := #v[0, 128, 1024, 0, 256, 0, 0, 0] }
def cpS (g : Wg) (w : Warp := cpW) : State := { soleG w .slotA g with cores := [(1, recs)] }
def freeRing : Wg := prodWg ⟨0, 0, 128, 0⟩ ⟨0, 0, 128, 0⟩
/-- The same with slot 0 claimed for 64 bytes. -/
def takenRing : Wg := prodWg ⟨1, 0, 64, 0⟩ ⟨0, 0, 128, 0⟩
def filledRing : Wg := prodWg ⟨2, 1, 64, 64⟩ ⟨3, 0, 128, 0⟩
def cpl (e : Opnd) : LaneReg := lr .none (.x 1) (.x 2) (.x 3) e 0

theorem meets_CopyAndRingInstructions_copy :
    (let s := cpS freeRing
     s.laneReady 0 cpW .slotA h0 (LaneReg.uses1 (cpl .none)) ∧ s.isProducer 0 = true ∧ s.memBlocked 0 .slotA cpW.slotA.mask cpW.after = false ∧ cpW.qfenced 1 = false ∧
     (cpW.x64 (.x 1)).toNat % 64 = 0 ∧ (cpW.x64 (.x 2)).toNat % 64 = 0 ∧ canonical (cpW.x64 (.x 1)) = true ∧ canonical (cpW.x64 (.x 2)) = true ∧
     s.xlate 1 0 0 128 false ≠ .refused ∧ s.xlate 1 0 0 1024 false ≠ .refused ∧ s.cached 1 0 0 128 = some (shapeAt 0 4096) ∧ s.cached 1 0 0 1024 = some (shapeAt 1 2048) ∧
     shapesOk (shapeAt 0 4096) (shapeAt 1 2048) 0 0 false 0 0 false = true ∧ s.extentFault (s.laneCopy 0 cpW cpW.slotA (cpl .none) (shapeAt 0 4096) (shapeAt 1 2048)) = 0) := by decide +kernel

/-- The destination of the ring copy is named from the slot's start. -/
def ringW : Warp := { cpW with rings := [(256, (0, 0))] }
def ringS : State := { cpS takenRing ringW with cores := [(1, { tiled with records := [(0, 0, 128, shapeAt 0 4096, 0), (0, 0, 1024, shapeAt 1 0, 0)] })] }
theorem meets_CopyAndRingInstructions_ring :
    ringS.laneReady 0 ringW .slotA h0 (LaneReg.uses1 (cpl (.x 4))) ∧ shapesOk (shapeAt 0 4096) (shapeAt 1 0) 0 0 false 0 0 true = true ∧
    (let c := ringS.laneCopy 0 ringW ringW.slotA (cpl (.x 4)) (shapeAt 0 4096) (shapeAt 1 0)
     (match ringS.ringCopy ringW c 256 with | .ok c1 => decide (ringS.extentFault c1 = 0) | .error _ => false) = true) := by decide +kernel

/-- A follow-on descriptor: one row of stride 128, width 2, bank 0, 64 columns from `a0` on, consumer warp 0. -/
def folW : Warp := { cpW with x := #v[0, 128, 1024, 0, 128 * 2 ^ 24, 0, 0, 0] }
theorem meets_CopyAndRingInstructions_follow :
    (let s := cpS freeRing folW
     let f := followOf (folW.x64 (.x 4)).toNat
     s.laneReady 0 folW .slotA h0 (LaneReg.uses1 (cpl (.x 4))) ∧ s.followFault 0 f = 0 ∧ (shapeAt 1 2048).space = 1 ∧ s.bankReady 0 f.bank = true ∧
     (s.consumer 0 f).isSome = true ∧ (f.entries folW.rg).isSome = true ∧
     rowFault (lowLanes f.nrow) (fun i => 2048 + i.val * f.stride) (f.wa + 2) (loadedWg 0 1).padSize = none) := by decide +kernel
theorem meets_CopyAndRingInstructions_rings :
    (let w := { cpW with x := #v[0, 256, 4096, 128, 128, 0, 0, 0] }
     let s := cpS freeRing w
     let r : Ring := ⟨4096, 128, 0, 0, 0, 0, 0, 0, 2, 0, true⟩
     s.laneReady 0 w .slotA h0 (LaneReg.uses1 (lr .none (.x 1) (.x 2) (.x 3) .none 1)) ∧ (w.x64 (.x 1)).toNat < 2 ^ 20 ∧ r.ok 256 (loadedWg 0 1).padSize = true ∧ modBits 1 3 0 + 1 = 2 ∧
       ¬ (256 < 4096 + 2 * 128 ∧ 4096 < 256 + 16 + 8 * 2) ∧
       s.laneReady 0 w .slotA h0 (LaneReg.uses1 (lr (.v 8) (.x 1) (.x 4) .none .none 0)) ∧ s.ringFault 0 256 = 0 ∧ (128 : Nat) % 2 ^ 24 ≠ 0 ∧ 128 % 2 ^ 24 ≤ (s.ring 0 256).size) ∧
    (let w := { setV cpW 0 1 with x := #v[0, 256, 0, 0, 0, 0, 0, 0] }
     let s := cpS filledRing w
     s.laneReady 0 w .slotA h0 (LaneReg.uses1 (lr (.v 8) (.x 1) .none .none .none 0)) ∧ s.laneReady 0 w .slotA h0 (LaneReg.uses1 (lr .none (.x 1) (.v 0) .none .none 0)) ∧ s.ringFault 0 256 = 0 ∧
       w.slotA.mask.lanes.head? = some 0 ∧ (s.rd 0 w .slotA (.v 0) 0)[(0 : Fin 32)].toNat = 1 ∧ 1 < (s.ring 0 256).slots ∧ (s.sync 0 256 1).state = 3) := by decide +kernel

/-- `x1` = 0, `x2` = one piece of 16 bytes: operands of the fabric instructions. -/
def fabW : Warp := { setV lnW 0 0 with x := #v[0, 128, 16, 256, 0, 0, 0, 0] }
def fabS : State := sole fabW .slotA
theorem meets_FabricInstructions :
    fabS.scopePolicy 0 0 = some (0, false) ∧ fabS.memBlocked 0 .slotA fabW.slotA.mask fabW.after = false ∧ fabW.qfenced 3 = false ∧
    (let l := lr (.v 4) (.x 1) (.x 2) (.x 3) .none 0
     fabS.laneReady 0 fabW .slotA h0 (LaneReg.uses1 l) ∧ fabS.fabCheck 0 [⟨false, 128, 16, 128, true⟩, ⟨false, 256, 16, 16, true⟩] = 0 ∧ fabS.fabCheck 0 [⟨false, 128, 16, 1, false⟩] = 0) ∧
    (let l := lr (.v 4) (.x 1) (.x 2) (.x 2) .none 0
     fabS.laneReady 0 fabW .slotA h0 (LaneReg.uses1 l) ∧ fabS.fabCheck 0 [⟨false, 16, 16, 1, false⟩] = 0 ∧ (fabW.x64 l.c).toNat ≤ 256) := by decide +kernel
theorem meets_FabricInstructions_streams :
    (let l := lr (.v 4) (.v 8) (.x 2) (.x 2) .none 0
     fabS.laneReady 0 fabW .slotA h0 [⟨l.d, 4, false, true⟩, ⟨.v 8, 4, false, true⟩] ∧ fabS.laneReady 0 fabW .slotA h0 (LaneReg.uses l 1 (handleRegs l.a) 1 1 1) ∧
       fabS.laneReady 0 fabW .slotA h0 (LaneReg.uses l 2 (handleRegs l.a) 1 1 1) ∧ fabS.laneReady 0 fabW .slotA h0 (LaneReg.uses l 4 (handleRegs l.a) 1 1 1) ∧
       fabS.fabCheck 0 [⟨false, 16, 16, 1, true⟩] = 0 ∧ fabS.fabCheck 0 [⟨true, 16, 16, 1, true⟩] = 0) ∧
    (let l := lr (.v 4) (.v 8) (.v 12) .none .none 0
     fabS.laneReady 0 fabW .slotA h0 (LaneReg.uses l 1 (handleRegs l.a) (handleRegs l.b) 1 1) ∧ fabS.fabCheck 0 [] = 0) := by decide +kernel

/-! ## States that meet the statements' hypotheses: waits, engines and workgroups -/

/-- A `BPOST` that has not begun. -/
def bp0 : FabOp := ⟨7, 0, 0, .slotA, 0xFFFFFFFF#32, 3, [4], 128, 16, 256, true, 0, 0, 0, 0, [], [], 0, 0, none, false⟩
def scWait (x : SWait) : Warp := { lnW with sc := { lnW.sc with wait := x } }
def idle_ : Warp := { scW with running := false }

theorem meets_WarpWaitsEnd_scalar :
    (let w := { scW with blocks := [⟨5, Vector.replicate 8 0, 3⟩] }; Tbl.find (sole w .slotA).warps 0 = some w ∧ w.blocks = [⟨5, Vector.replicate 8 0, 3⟩] ∧ w.running = false ∧ w.handler = none ∧ w.halt = .run) ∧
    (let w := { scWait (.lgo 5 (Vector.replicate 8 0)) with blocks := List.replicate 15 ⟨5, Vector.replicate 8 0, 3⟩ }
     w.sc.wait = .lgo 5 (Vector.replicate 8 0) ∧ w.blocks.length < 16) ∧
    (let w := { scWait (.spop 63) with rq := [9] }; w.sc.wait = .spop 63 ∧ w.rq = 9 :: []) ∧
    (let w := { idle_ with sc := { idle_.sc with wait := .join .lwait } }; w.sc.wait = .join .lwait ∧ (sole w .scalar).joinReady 0 w = true) ∧
    (let w := scWait (.release 5 .lwait); let s := (sole w .scalar).putReq { Req.blank 5 with kind := .fence, rel := 3 }
     w.sc.wait = .release 5 .lwait ∧ (Tbl.find s.reqs 5).isSome = true ∧ ({ Req.blank 5 with kind := .fence, rel := 3 } : Req).rel = 3) ∧
    (let w := scWait (.setvb 512); w.live = true ∧ w.sc.wait = .setvb 512 ∧ w.rg.allFull = true) ∧
    (let w := held (.setvb 512); w.live = true ∧ (w.slot .slotA).wait = .setvb 512 ∧ w.rg.allFull = true ∧ 512 ≤ w.rg.nreg ∧ (lS.wg (wgOf 0)).inLane ((w.slot .slotA).pc.toNat + 1) = true) := by decide +kernel
theorem meets_WarpWaitsEnd_rings :
    (let w := held (.rwaitFree 256 0 0 128 (some 8)); let s := soleG w .slotA freeRing
     w.live = true ∧ (w.slot .slotA).wait = .rwaitFree 256 0 0 128 (some 8) ∧ (s.ring 0 256).ok 256 (s.wg 0).padSize = true ∧ (s.sync 0 256 0).state = 0 ∧ (s.sync 0 256 0).gen = 0) ∧
    (let w := held (.rwaitFilled 256 0 0 (some 8)); let s := soleG w .slotA filledRing
     (w.slot .slotA).wait = .rwaitFilled 256 0 0 (some 8) ∧ w.live = true ∧ s.ringWg (wgOf 0) = 0 ∧ (s.sync 0 256 0).state = 2 ∧ (s.sync 0 256 0).gen = (0 + 1) % 256) ∧
    (lnW.sleep ≤ lS.cyc ∧ (lS.wg (wgOf 0)).status ≠ .out ∧ ({ lnW with elig := some 0 } : Warp).elig = some 0 ∧ 0 + 128 ≤ ({ lS with cyc := 128 } : State).cyc) ∧
    (let w := { lnW with fabq := [bp0] }; let s := sole w .slotA
     (s.wg 0).status ≠ .out ∧ w.msgs = [] ∧ w.amWaiting = [] ∧ w.fabHead = some bp0 ∧ bp0.wait = [] ∧ s.fenceEnded bp0 = true) := by decide +kernel

def mo (id : Nat) (kind : MatKind) : MatOp := { fabS.matOp 0 .slotA fabW.slotA 1 kind with id := id }
def withMat (c : Core) (w : Warp) : State := { sole w .slotA with cores := [(1, c)] }
def copy0 : Copy := { matS.laneCopy 0 cpW cpW.slotA (cpl .none) (shapeAt 0 4096) (shapeAt 1 2048) with id := 3 }

theorem meets_EngineOperations_matrix : (withMat tiled lnW).off = false ∧
    (let m := mo 3 .wload; let c := { tiled with matq := [{ mo 2 .mma with bank := 1 }, m] }
     c.matFind 3 = some m ∧ m.started = false ∧ m.kind = .wload ∧ ((c.matAhead 3).all fun o => o.bank != m.bank) = true ∧ (c.matAhead 3).length = 1) ∧
    (let m := mo 3 .mma; let c := { tiled with matq := [mo 2 .mma, m] }
     c.matFind 3 = some m ∧ m.started = false ∧ m.kind = .mma ∧ ((c.matAhead 3).all fun o => decide (o.kind ≠ .wload)) = true ∧ (c.matAhead 3).length = 1) ∧
    (let m := { mo 3 .wload with started := true, width := 2, addr := 128, pad := true }; let c := { tiled with matq := [m] }
     c.matq = m :: [] ∧ m.kind = .wload ∧ m.started = true ∧ m.res ≤ (withMat c lnW).cyc ∧ (withMat c lnW).tilePoisoned m = false ∧ m.done = 0 ∧ m.done + 128 < tileBytes m.width) ∧
    (let m := { mo 3 .wload with started := true, width := 2, addr := 128, pad := true, done := tileBytes 2 - 128 }; let c := { tiled with matq := [m] }
     (withMat c lnW).tilePoisoned m = false ∧ (c.bank m.bank).poison = false ∧ m.done ≤ tileBytes m.width ∧ tileBytes m.width ≤ m.done + 128 ∧ (1 : Nat) < 240) ∧
    (let m := { mo 3 .azero with res := 1 }; let c := { tiled with matq := [m] }; let w := { lnW with flight := [done_] }
     c.matq = m :: [] ∧ m.kind = .azero ∧ Tbl.find (withMat c w).warps m.warp = some w ∧ w.flight.find? (fun r => r.id == m.res) = some done_) := by decide +kernel
theorem meets_EngineOperations_copies :
    ({ tiled with copies := [copy0] } : Core).laneHead copy0.laneKey = some copy0 ∧ copy0.started = false ∧ copy0.stopped = false ∧ copy0.wait = [] ∧ copy0.done < copy0.total ∧ copy0.warp = some 0 ∧
    copy0.total ≤ ({ copy0 with done := 64 } : Copy).done ∧
    (let c := { tiled with copies := [{ copy0 with started := true }], laneAt := copy0.laneKey }
     c.laneHead copy0.laneKey = some { copy0 with started := true } ∧ c.laneTurn = some copy0.laneKey ∧ c.laneReady copy0.laneKey = true) := by decide +kernel

/-- A multiply-accumulate with one row, in lane 0, at offset 2048. -/
def mma1 : MatOp := { mo 3 .mma with started := true, width := 2, rows := [(0, 2048)], accs := [256, 257] }
/-- The same with a second row in lane 31, the first of them done or not. -/
def mma2 (n : Nat) : MatOp := { mma1 with rows := [(0, 2048), (31, 2112)], done := n }
theorem meets_MatrixMultiplyResult :
    (let c := { tiled with matq := [mma1] }; let s := withMat c lnW
     (s.core 1).matq = mma1 :: [] ∧ mma1.kind = .mma ∧ mma1.started = true ∧ s.matPoison mma1 (c.bank mma1.bank) = false ∧ Tbl.find s.warps mma1.warp = some lnW ∧ mma1.accs.Nodup ∧
       mma1.accs[1]? = some 257 ∧ mma1.rows.drop mma1.done = (0, 2048) :: [] ∧ 256 ∉ (c.dropMat 3).pendingAccs 0) ∧
    (mma2 0).rows.drop (mma2 0).done = (0, 2048) :: [(31, 2112)] ∧ (mma2 1).rows.drop (mma2 1).done = (31, 2112) :: [] := by decide +kernel

/-- An open queue of the physical function, its ring at 4096, with 4 entries. -/
def q0 : Queue := ⟨0, 4096, 8192, 2, 0, 0, false, 0, 1, 0, 0, 0, 0, [], false, []⟩
/-- Packet 0, of a kind, started. -/
def pkt (bytes : Nat) : QPacket := ⟨0, 0, bytes, 0, some 0, some (shapeAt 0 4096, shapeAt 0 8192), some [], false, true, false, false, false, false, 1, 0, none⟩
def onQ (p : QPacket) : Queue := { q0 with packets := [p] }

def grid1 : Grid := ⟨1, 1, 5, 64, 65536, 0, 512, 32, 1, 1, 1, [], 0, false, 0, false⟩
def bundle1 : Bundle := ⟨0, 0, 0, 0, 0, false, 0, 0, 1024, 1536, 0, [grid1], [], true, false, false, [], 0⟩
def rec1 : Bind := .workgroup 0 1 0 512 0 65536
/-- Workgroup 0, placed on core 1 and not yet dispatched. -/
def placed : State := { State.reset with wgs := [(0, { loadedWg 0 1 with status := .placed })], bundles := [(0, bundle1)], cores := [(1, { Core.reset 1 with binds := [rec1] })] }
/-- Its one warp, done; halted by an unhandled trap; the workgroup leaving; out. -/
def doneW : Warp := { scW with exited := true }
def retiring : State := sole doneW .scalar
def halted : State := soleG scW .scalar { loadedWg 0 1 with status := .halted }
def leaving : State := soleG scW .scalar { loadedWg 0 1 with leave := 1 }
def away : State := { soleG scW .scalar { loadedWg 0 1 with status := .out, leave := 2 } with
  dies := [(0, Die.reset)], bundles := [(0, bundle1)], cmdq := [(0, onQ (pkt 1))] }

theorem meets_WorkgroupLifetime :
    ((placed.core 1).binds[0]? = some rec1 ∧ Tbl.find placed.wgs 0 = some { loadedWg 0 1 with status := .placed } ∧ (((placed.core 1).binds.take 0).all fun y => !y.overlaps rec1) = true ∧
      Tbl.find placed.bundles 0 = some bundle1 ∧ bundle1.grid 0 = some grid1 ∧ rec1.slots[0]? = some 0) ∧
    (Tbl.find retiring.wgs 0 = some (loadedWg 0 1) ∧ (loadedWg 0 1).status = .resident ∧ ((retiring.warpsOf 0).all fun y => y.2.exited && y.2.deferred.isEmpty) = true ∧ (retiring.warpsOf 0).length = 1 ∧
      retiring.owes 0 = false ∧ retiring.lastBlocked 0 = false) ∧
    (let w := { scW with deferred := [⟨0x30, 0, 0⟩] }; let s := sole w .scalar
     Tbl.find s.warps 0 = some w ∧ w.landKept.deferred = ⟨0x30, 0, 0⟩ :: [] ∧ w.landKept.halt ≠ .stopped ∧ (s.wg 0).status = .resident) ∧
    (let w := { scW with halt := .skid 3 12 }; let s := { sole w .scalar with cyc := 4 }; Tbl.find s.warps 0 = some w ∧ w.halt = .skid 3 12 ∧ 3 < s.cyc) ∧
    ((halted.wg 0).status = .halted ∧ halted.skidding 0 = false ∧ (halted.discardWg 0).owes 0 = false ∧ (halted.discardWg 0).lastBlocked 0 = false) := by decide +kernel
theorem meets_WorkgroupLifetime_switch :
    ((leaving.gang 0).all fun j => decide ((leaving.wg j).status = .resident ∧ (leaving.wg j).leave ≠ 0) && leaving.quiet j) = true ∧ leaving.gang 0 = [0] ∧
    (away.off = false ∧ 1 % 60 ≠ 0 ∧ 1 / 60 = (away.wg 0).die ∧ ((0 :: (away.gang 0).filter fun j => j != 0).all away.outReady) = true ∧
      (away.backTurn 0 0 [0]).isSome = true ∧ ((away.fitOut [0] [] away.bindsAt 0 1).bind fun l => l.head?.map (·.1)) = some 1) := by decide +kernel

/-- Four parked warps, all resident, with another workgroup waiting out. -/
def parkedW : Warp := { scW with parked := true }
def crowded : State := { sole parkedW .scalar with
  cyc := 100000, wgs := [(0, loadedWg 0 1), (1, { loadedWg 1 1 with status := .out, leave := 2 })], warps := [(0, parkedW), (16, scW)]
  fns := [(0, { Fn.reset with park := { Fn.reset.park with code := 1 } })]
  cores := [(1, { Core.reset 1 with parkSince := [(0, 0)] })] }
theorem meets_WorkgroupLifetime_park :
    Tbl.find (crowded.core 1).parkSince 0 = some 0 ∧ 0 + Config.usec 2 ≤ crowded.cyc ∧ crowded.atThreshold 1 0 = true ∧
    parkLimit (crowded.fn 0).park (crowded.residentWarps 1 0).length = some 1 ∧
    crowded.workFits 1 (crowded.takeParked 1 0 1 (crowded.ranked 1 0) []) = true := by decide +kernel

/-! ## States that meet the statements' hypotheses: translation, requests and homes -/

theorem meets_HomeWriteIsOneWrite : (∀ b ∈ [(896, (1 : Byte)), (1023, 2)], b.1 / 128 = 7) ∧ ([(896, (1 : Byte)), (1023, 2)].map Prod.fst).Nodup := by decide +kernel

def walk0 : Walk := ⟨0, 0, 0, false, false⟩
def onWalk (x : Walk) (ps : List PageEntry) : State := { State.reset with dies := [(0, { Die.reset with walks := [x] })], pages := ps }
theorem meets_TranslationEvents :
    ((((onWalk walk0 [loadedPage]).die 0).walking.find? fun y => y.fn == 0 && y.va == 65535 / 65536 * 65536) = some walk0 ∧ (onWalk walk0 [loadedPage]).page 0 0 0 = some loadedPage ∧
      (onWalk walk0 []).page 0 0 0 = none ∧ walk0.pref = false ∧ (((onWalk { walk0 with pref := true } []).die 0).walking.find? fun y => y.fn == 0 && y.va == 0) = some { walk0 with pref := true }) ∧
    State.reset.pageOk loadedPage = true ∧
    (let s := onWalk { walk0 with asked := true } []
     ∃ d ∈ Tbl.values s.dies, ∃ y ∈ d.walks, (y.asked && y.fn == 0 && y.va == 0) = true) ∧
    (({ State.reset with pages := [loadedPage] } : State).page 0 0 65535 = some loadedPage) ∧
    (({ State.reset with inval := [loadedPage] } : State).inval.find? (fun q => pageCovers q 0 0 65535) = some loadedPage ∧ ({ State.reset with inval := [loadedPage] } : State).reqList = []) := by
  decide +kernel

/-- A load of 4 bytes at address 0 by warp 0. -/
def ld0 : Req := { Req.blank 1 with core := 1, accs := [⟨0, 0, 0, 4, 0, 0, 0⟩], xl := true }
def at_ (x : Stage) : Req := { ld0 with stage := x }
def withReq (r : Req) : State := { lS with reqs := [(r.id, r)], nextId := 9 }
def qs0 : Nat := qCode (.sliceIn 0)
def fullQ : State := (withReq (at_ (.transit qs0))).putQueue qs0 { Shq.blank with ord := List.replicate (qOrdinary qs0) 2 }
def lastFree : State := (withReq (at_ (.transit qs0))).putQueue qs0 { Shq.blank with ord := List.replicate (qOrdinary qs0 - 1) 2 }

theorem meets_NoHoldRule_entry :
    Tbl.find (withReq (at_ .issued)).reqs 1 = some (at_ .issued) ∧ (at_ .issued).stage = .issued ∧ (at_ (.transit qs0)).resv = false ∧
    lastFree.ownerBounce qs0 (at_ (.transit qs0)) = none ∧ (lastFree.queue qs0).ord.length < qOrdinary qs0 ∧ qKind qs0 ≠ 5 ∧
    fullQ.ownerBounce qs0 (at_ (.transit qs0)) = none ∧ qOrdinary qs0 ≤ (fullQ.queue qs0).ord.length ∧
    (let q := qCode (.egress 0)
     let r := { at_ (.transit q) with dev := some 7 }
     let s := { withReq r with fab := { (withReq r).fab with cong := [⟨0, 7, 0, 0⟩] } }
     (s.ownerBounce q r).isSome = true) := by decide +kernel
theorem meets_NoHoldRule_leave :
    (let q := qCode (.egress 0); qKind q = 5 ∧ (at_ (.queued q false)).stage = .queued q false) ∧
    (let q := qCode (.ingress 127); qKind q = 6 ∧ (withReq (at_ (.queued q false))).bufferUse .ingress (at_ (.queued q false)).source < 256 ∧ (withReq (at_ (.queued q false))).heads (at_ (.queued q false)) = true) ∧
    (let q := qCode (.coreOut 1); qKind q ≠ 5 ∧ qKind q ≠ 6 ∧ (withReq (at_ (.queued q false))).nextQueue (at_ (.queued q false)) q = some (qCode (.sliceIn (homeSlice 0)))) ∧
    (let r := { at_ (.queued qs0 false) with entered := 0, bound := 512 }; r.stage = .queued qs0 false ∧ r.entered + r.bound ≤ ({ withReq r with cyc := 512 } : State).cyc) ∧
    (at_ (.bounced 3 (.cleared qs0 9))).stage = .bounced 3 (.cleared qs0 9) ∧ (at_ .issued).cls = .warp ∧
    ((at_ (.replay 3 (.cleared qs0 0))).stage = .replay 3 (.cleared qs0 0) ∧ 0 ≤ lS.cyc) := by decide +kernel
theorem meets_NoHoldRule_grants :
    ((let r := at_ (.replay 3 .ready); let s := withReq r
      s.eligible r = true ∧ r.store ∉ s.reissued ∧ s.answerDue r = false ∧ s.reqList = [r]) ∧
     let r := at_ (.replay 7 (.grant qs0))
     let s := (withReq r).putQueue qs0 { Shq.blank with grants := [(clsCode .warp, r.src, 10)] }
     r.store ∉ s.reissued ∧ (s.queue qs0).grants.find? (fun g => g.1 == clsCode .warp) = some (clsCode .warp, r.src, 10) ∧
       s.reqList.find? (fun y => y.cls == .warp && y.src == r.src && decide (y.stage = .replay 7 (.grant qs0)) && s.heads y) = some r) ∧
    (let s := { (withReq ld0).putQueue qs0 { Shq.blank with grants := [(0, 0, 10)] } with cyc := 10 }
     (s.queue qs0).grants.find? (fun g => g.1 == clsCode .warp && g.2.2 ≤ s.cyc) = some (0, 0, 10)) ∧
    (let r := { at_ (.replay 6 .budget) with fn := 1 }
     r.stage = .replay 6 .budget ∧ r.fn = 1 ∧ (withReq r).affords 1 128 = true) ∧
    (at_ (.replay 3 (.time 0))).stage = .replay 3 (.time 0) := by decide +kernel

def inSlice : Req := at_ (.queued qs0 false)
def msc0 : Nat := qCode (.msc 0)
def hbm0 : Nat := qCode (.hbm 0)
def homeAt (r : Req) (x : HomeLine) : State := { withReq r with lines := [(0, x)] }
theorem meets_HomesAndReplies_home :
    (let s := homeAt inSlice { HomeLine.blank with place := .l2 }
     Tbl.find s.reqs 1 = some inSlice ∧ inSlice.stage = .queued qs0 false ∧ qKind qs0 = 1 ∧ s.missLine inSlice = none ∧ inSlice.headOnly = false ∧ s.foreign inSlice = false ∧ s.lateWrite inSlice = false ∧
       inSlice.gang = false ∧ inSlice.kind ≠ .victim) ∧
    (let r := { inSlice with gang := true }; let s := homeAt r { HomeLine.blank with place := .l2 }
     r.clear = false ∧ s.missLine r = none ∧ s.foreign r = false ∧ s.lateWrite r = false ∧ s.racesOf r [] = [] ∧ s.checked r = false ∧ ({ r with clear := true } : Req).clear = true) ∧
    (let r := { inSlice with gang := true, cinnabar := true, kind := .store, accs := [⟨0, 0, 0, 4, 1, 0, 15⟩] }
     let s := homeAt r { HomeLine.blank with place := .l2, owners := [(0, 77, 2)] }
     let t := homeAt r { HomeLine.blank with place := .l2, sharers := [5] }
     s.foreign r = false ∧ s.lateWrite r = false ∧ s.racesOf r [] ≠ [] ∧ t.racesOf r [] = [] ∧ t.checked r = true ∧ r.writes = true ∧ t.sharersOf r = [5] ∧ r.probes = none) ∧
    (let r := { inSlice with fn := 3 }; (homeAt r { HomeLine.blank with place := .l2 }).foreign r = true ∧ r.headOnly = false) ∧
    (let r := { inSlice with kind := .store, accs := [⟨0, 0, 0, 4, 1, 0, 15⟩] }
     let s := { homeAt r { HomeLine.blank with place := .l2, epoch := 1 } with frames := [(0, ⟨0, 1, false, 1⟩)] }
     s.foreign r = false ∧ s.lateWrite r = true ∧ s.missLine r = none) ∧
    (let r := at_ (.queued msc0 false); let s := homeAt r { HomeLine.blank with place := .msc }
     r.stage = .queued msc0 false ∧ qKind msc0 = 3 ∧ s.missLine r = some 0 ∧ (s.line 0).place = .msc) ∧
    (let r := at_ (.queued hbm0 false); let s := homeAt r HomeLine.blank
     r.stage = .queued hbm0 false ∧ qKind hbm0 = 4 ∧ s.missLine r = some 0 ∧ s.ownerBounce hbm0 r = none ∧ (s.fetchLine 0 r.rh).isSome = true ∧ s.bankBusy 0 (Config.hbmBank (paOf 0)) = false ∧ (s.line 0).place = .hbm) ∧
    (let r := { inSlice with gang := true, cinnabar := true, kind := .store, accs := [⟨0, 0, 0, 4, 1, 0, 15⟩], probes := some [5] }
     let s := homeAt r { HomeLine.blank with place := .l2, sharers := [5] }
     let t := { s with cores := [(5, { Core.reset 5 with l1 := [(0, ⟨none, 0, 0, 0, [77], false⟩)] })] }
     r.probes = some [5] ∧ 5 ∈ [5] ∧ s.racesOf r [5] = [] ∧ t.racesOf r [5] ≠ [] ∧ ([5].filter fun c => c != 5) = ([] : List Nat)) := by decide +kernel
theorem meets_HomesAndReplies_reply :
    (let r := at_ .performed; r.stage = .performed ∧ r.cls ≠ .ingress ∧ r.fault = 0 ∧ r.snap = [] ∧ Tbl.find (withReq r).reqs 1 = some r) ∧
    (let r := at_ .granted; r.stage = .granted ∧ Tbl.find (withReq r).reqs 1 = some r ∧ (withReq r).roomL1 r.core r.line = true) ∧
    ({ at_ .performed with cls := .ingress } : Req).cls = .ingress ∧ ({ at_ .performed with fault := cMEMERR } : Req).fault ≠ 0 ∧
    (let r := { ld0 with kind := .fence, rel := 1, scope := 0 }; let s := withReq r; s.oldestRelease 0 = some r ∧ s.releaseReady 0 r = true) ∧
    (let r := { ld0 with kind := .fence, rel := 1, scope := 2 }; let s := withReq r; s.oldestRelease 0 = some r ∧ s.releaseReady 0 r = true ∧ r.scope ≠ 0) ∧
    (let r := { ld0 with kind := .fence, rel := 2 }; let s := withReq r; s.oldestRelease 0 = some r ∧ r.rel = 2 ∧ (s.reqList.all fun y => decide (y.kind ≠ .wback)) = true) := by decide +kernel
theorem meets_DramMaintenance :
    (let s := { lS.putChan 0 { Chan.blank with count := 8 } with cyc := 5460 }; 8 ≤ (s.chan 0).count ∧ Tbl.getD (s.chan 0).due 3 0 ≠ s.cyc / 5460) ∧
    (let s := lS.putChan 0 { Chan.blank with due := [(3, 0)] }; Tbl.getD (s.chan 0).due 3 0 = s.cyc / 5460) ∧
    (let s := { lS with cyc := 5460 }; (s.chan 0).count < 8 ∧ Tbl.getD (s.chan 0).due 3 0 ≠ s.cyc / 5460 ∧ s.pendingAt 0 3 = []) ∧
    (let s := lS.putChan 0 { Chan.blank with count := 1, owing := [(3, 1)] }
     Tbl.getD (s.chan 0).owing 3 0 = 0 + 1 ∧ s.pendingAt 0 3 = [] ∧ s.bankBusy 0 3 = false) := by decide +kernel
theorem meets_DramMaintenance_read : ((withReq (at_ (.queued hbm0 false))).chan 0).count < 8 ∧
    ∃ y ∈ (withReq (at_ (.queued hbm0 false))).pendingAt 0 (Config.hbmBank (paOf 0)), y.isRead = true := by
  refine ⟨by decide +kernel, at_ (.queued hbm0 false), List.mem_filter.mpr ⟨by decide +kernel, ?_⟩, by decide +kernel⟩
  show (true && (Config.hbmBank (paOf 0) == Config.hbmBank (paOf 0))) = true
  simp
theorem meets_DramMaintenance_row :
    (let s := lS.putChan 0 { Chan.blank with acts := [(32, 3, 9, 2048)] }
     s.rowguard.lo ≤ 2048 ∧ (32, 3, 9, 2048) ∈ (s.chan 0).acts ∧ (s.chan 0).gated = [] ∧ ¬ (s.chan 0).cleared < s.cyc / Config.msec 32) ∧
    (let s := { lS.putChan 0 { Chan.blank with acts := [(32, 3, 9, 2048)] } with cyc := Config.msec 32 }; (s.chan 0).cleared < s.cyc / Config.msec 32) := by decide +kernel

/-! ## States that meet the statements' hypotheses: the command front end -/

def withQ (x : Queue) : State := { sole scW .scalar with cmdq := [(0, x)] }
/-- A packet that begins and commits its batch: an interrupt packet (kind 6) of queue 0; one without BEGIN. -/
def commit6 : Nat := 6 + 2 ^ 8 + 2 ^ 9 + 2 * 2 ^ 11
def ringHolds (p : Nat) : State := { withQ { q0 with tail := 1 } with mem := Memory.writeL [] 4096 (leBytes 64 p) }
theorem meets_CommandQueues :
    Tbl.find (withQ q0).cmdq 0 = some q0 ∧ (withQ q0).off = false ∧ mgrFn .pf = q0.fn ∧ q0.state ≠ 0 ∧
    ((4 : W32).toNat + 2 ^ 32 - q0.head) % 2 ^ 32 ≤ 2 ^ q0.logn ∧ 2 ^ q0.logn < ((5 : W32).toNat + 2 ^ 32 - q0.head) % 2 ^ 32 ∧ mgrFn (.vf 3) ≠ q0.fn ∧
    (let p := { pkt 6 with started := false, index := 1 }; let x := { q0 with packets := [pkt 6, p] }
     x.nextStart = some ([pkt 6], p) ∧ (withQ x).mayStart [pkt 6] p = true) := by decide +kernel
def isBatch (x : Scan) (ps : List (Nat × Nat)) : Bool := match x with | .batch l => l == ps | _ => false
def isBad (x : Scan) : Bool := match x with | .bad _ _ => true | _ => false
theorem meets_CommandQueues_batch :
    (let x := { q0 with tail := 1 }; let s := ringHolds commit6
     Tbl.find s.cmdq 0 = some x ∧ x.state = 1 ∧ s.off = false ∧ isBatch (s.scan 0 x 65 []) [(0, commit6)] = true ∧ s.named x commit6 = [] ∧ s.verdict 0 x [(0, commit6)] = none) ∧
    (let x := { q0 with tail := 1 }; let p := commit6 + 2 ^ 511; let s := ringHolds p
     isBatch (s.scan 0 x 65 []) [(0, p)] = true ∧ (s.verdict 0 x [(0, p)]).isSome = true) ∧
    (let x := { q0 with tail := 1 }; let s := ringHolds (6 + 2 ^ 9)
     isBad (s.scan 0 x 65 []) = true) := by decide +kernel

/-- A bundle of one workgroup, started and not yet placed; its launch packet of kind 1, and the timed one. -/
def waiting : Bundle := { bundle1 with grids := [{ grid1 with placed := 0, low := 0 }] }
def withBundle (b : Bundle) (x : Queue) : State := { withQ x with bundles := [(0, b)], wgs := [], warps := [], nextWg := 1 }
def unit0 : Sys2Proof.Machine.PUnit := ⟨0, pkt 1, 0, [(0, 0)], [waiting.needOf (0, 0)], false, false⟩
theorem meets_CommandQueues_places :
    (let s := { withBundle waiting (onQ (pkt 1)) with cyc := 1 + Config.msec 10 }
     s.unitOf 0 (onQ (pkt 1)) = some unit0 ∧ Tbl.find s.bundles 0 = some waiting ∧ (waiting.grids.all fun g => decide (g.placed = 0)) = true ∧ (onQ (pkt 1)).starved = false ∧
       unit0.pkt.ready + Config.msec (s.fn 0).arb.lo ≤ s.cyc) ∧
    (let s := withBundle waiting (onQ (pkt 1))
     (match s.choose 0 with | some (.work (.unit u) _) => decide (u = unit0) | _ => false) = true ∧ (unit0.fit s.bindsAt 0 1).isSome = true ∧ ((unit0.fit s.bindsAt 0 1).bind fun l => l.head?.map (·.1)) = some (coreKey 0 1) ∧ s.isLate unit0 = false) := by decide +kernel
theorem meets_CommandQueues_timers :
    (let s := { State.reset with fns := [(0, { Fn.reset with held := List.replicate 32 0 })] }
     (s.fn 0).held ≠ [] ∧ (s.fn 0).icoal.lo ≤ (s.fn 0).held.length) ∧
    (let s := { State.reset with cyc := Config.usec 20, fns := [(0, { Fn.reset with held := [0] })] }
     (s.fn 0).held = 0 :: [] ∧ 0 + Config.usec (s.fn 0).icoal.hi ≤ s.cyc) ∧
    (let s := { State.reset with cyc := Config.usec 1000, slices := State.reset.slices.set 1 (0x00010001#32) }
     s.sliceList[(s.die 0).slice % s.sliceList.length]? = some (0, 1000, false) ∧ (s.die 0).sliceAt + Config.usec 1000 ≤ s.cyc ∧
       s.sliceList[((s.die 0).slice % s.sliceList.length + 1) % s.sliceList.length]? = some (1, 1, false)) := by decide +kernel

theorem meets_PacketKinds :
    Tbl.find (withQ (onQ (pkt 1))).cmdq 0 = some (onQ (pkt 1)) ∧
    (let s := withBundle { waiting with started := false } (onQ (pkt 1))
     (onQ (pkt 1)).pick (fun y => pktKind y.bytes == 1 && !((s.bundleOfPkt y).elim true (·.started))) = some (pkt 1) ∧ (pkt 1).bundle = some 0) ∧
    (onQ (pkt 2)).pick (fun y => pktKind y.bytes == 2 && y.timed == 0) = some (pkt 2) ∧
    (let p := { pkt 2 with timed := 1 }
     (onQ p).pick (fun y => pktKind y.bytes == 2 && y.timed == 1 && pktWord y.bytes 2 ≤ (withQ q0).ptp.now) = some p) ∧
    ((pkt 3).shapes = some (shapeAt 0 4096, shapeAt 0 8192) ∧ (onQ (pkt 3)).pick (fun y => pktKind y.bytes == 3 && !y.fired) = some (pkt 3) ∧
      (onQ (pkt 4)).pick (fun y => pktKind y.bytes == 4 && !y.fired) = some (pkt 4)) ∧
    (onQ (pkt 6)).pick (fun y => pktKind y.bytes == 6) = some (pkt 6) ∧ (onQ (pkt 7)).pick (fun y => pktKind y.bytes == 7) = some (pkt 7) := by decide +kernel
theorem meets_PacketKinds_timed :
    (let p := { pkt 2 with timed := 1 }
     let s := withBundle waiting (onQ p)
     let t2 := (s.onPacket 0 0 fun y => { y with timed := 2, ready := s.cyc + 1, unsync := !s.ptp.sync }).startBundle 0
     (match Tbl.find t2.cmdq 0 with | some y => (match (t2.unitsOf 0 y).find? (fun u => u.pkt.index == p.index) with | some u => (t2.offered u 0).isSome | none => false) | none => false) = true) := by decide +kernel
/-- A barrier-and-signal packet: wait for the word at 1024 to reach 0, and for 1; add 5 to the word at 2048. -/
def p5 (v : Nat) : QPacket := pkt (5 + 1024 * 2 ^ 64 + v * 2 ^ 128 + 2048 * 2 ^ 192 + 5 * 2 ^ 256)
theorem meets_PacketKinds_signal :
    (let p := p5 0; let s := withQ (onQ p)
     pktKind p.bytes = 5 ∧ (onQ p).pick (fun y => pktKind y.bytes == 5 && y.timed == 0) = some p ∧ pktWord p.bytes 1 = 1024 ∧ s.wordState (onQ p) 1024 false = 0 ∧
       pktWord p.bytes 2 ≤ s.vread 0 0 1024 8 ∧ pktWord p.bytes 3 ≠ 0 ∧ s.wordState (onQ p) 2048 true = 0) ∧
    (let p := p5 1; let s := withQ (onQ p)
     pktWord p.bytes 1 ≠ 0 ∧ s.wordState (onQ p) 1024 false = 0 ∧ s.vread 0 0 1024 8 < pktWord p.bytes 2) ∧
    (let p := { p5 0 with timed := 1 }; let s := withQ (onQ p)
     (onQ p).pick (fun y => pktKind y.bytes == 5 && y.timed == 1 && (pktWord y.bytes 1 == 0 || s.wordState (onQ p) (pktWord y.bytes 1) false != 0 || pktWord y.bytes 2 ≤ s.vread 0 0 (pktWord y.bytes 1) 8)) = some p) ∧
    (let p := pkt 5; pktWord p.bytes 1 = 0 ∧ pktWord p.bytes 3 = 0) := by decide +kernel

theorem meets_DeviceTime : (0 : Nat) ≤ (5 : W64).toNat ∧ (5 : W64).toNat < 6 ∧ (0 : Int) ≤ (5 : W64).toInt ∧ (-5 : W64).toInt < 0 ∧ (0x10000 : W64).toNat % 65536 = 0 ∧ (0xFFFF : W64).toNat % 65536 ≠ 0 ∧
    State.reset.ptp.frac < 1400000000000 ∧ State.reset.ptp.rate ≤ 1000000000 ∧ State.reset.ptp.now < 2 ^ 64 - 1 ∧ ({ State.reset.ptp with sync := true } : Ptp).last + Config.msec 2000 ≤ 2800000000 := by decide +kernel

/-! ## States that meet the statements' hypotheses: the fabric -/

/-- The device 5 with data on; a packet for it from device 7, with tag 3 and generation 1. -/
def fabD : State := { lS with devid := 5 }
def fabPk (op osa osb : Nat) (flits : List (BitVec 256)) : Packet := ⟨5, 7, 0, BitVec.ofNat 5 op, 3, 1, 0, 0, 0, 0, BitVec.ofNat 50 osa, BitVec.ofNat 128 osb, flits⟩
theorem arrives (s : State) (p : Packet) (op : Nat) (h : (!s.dataOff && !badPacket p && p.dst == s.devid && p.op.toNat == op) = true) : arrivesHere s p op := by
  simpa [arrivesHere, and_assoc] using h
theorem arrives_fabD (op osa osb : Nat) (flits : List (BitVec 256)) (h : (opLegal op && decide (op < 32)) = true) : arrivesHere fabD (fabPk op osa osb flits) op := by
  refine ⟨by decide +kernel, ?_, by rfl, ?_⟩
  · simp only [Bool.and_eq_true, decide_eq_true_eq] at h
    simp [badPacket, fabPk, Nat.mod_eq_of_lt h.2, h.1]
  · simp only [Bool.and_eq_true, decide_eq_true_eq] at h
    simp [fabPk, Nat.mod_eq_of_lt h.2]

/-- Fields of OSA [177:128] and OSB [127:0]. -/
def osa (lo v : Nat) : Nat := v * 2 ^ (lo - 128)

theorem meets_FabricRequestsArrive :
    (badPacket (fabPk 9 0 0 []) = true ∧ badPacket { fabPk 0 0 0 [] with hop := 6 } = true ∧ badPacket { fabPk 0 0 0 [] with rsv := 1 } = true ∧ fabD.dataOff = false) ∧
    (let p := { fabPk 0 0 0 [] with dst := 8, hop := 5 }; badPacket p = false ∧ p.dst ≠ fabD.devid ∧ p.hop.toNat = 5) ∧
    ((fabD.queue (qCode (.ingress 127))).ord.length < qOrdinary (qCode (.ingress 127)) ∧ fabD.cachedReply (fabPk 1 0 0 []) = none ∧ fabD.underWay (fabPk 1 0 0 []) = false ∧ fabD.bankFull (fabPk 1 0 0 []) = false ∧
      fabD.fab.groups = [] ∧ atomReduce (fabPk 2 0 0 []) = none ∧ (atomReduce (fabPk 2 0 0 [BitVec.ofNat 256 (2 ^ 125)])).isSome = true ∧ fieldOf (fabPk 2 0 0 []).osb.toNat 82 81 = 0 ∧ fieldOf (fabPk 3 0 0 []).osb.toNat 77 76 = 0 ∧ fabD.affords (fabPk 0 0 0 []).vf.toNat 160 = true) ∧
    (let s := { fabD with fab := { fabD.fab with route := [(8, 3 + 2 ^ 11 + 2 ^ 15)] } }; s.hopOf 8 = some 3 ∧ ({ fabPk 0 0 0 [] with dst := 8 } : Packet).hop.toNat ≠ 5) ∧
    (let x : Transit := ⟨9, 3, fabPk 0 0 0 [], 0, false⟩; ({ fabD with fab := { fabD.fab with transit := [x] } } : State).fab.transit.find? (fun y => y.id == 9) = some x ∧ Tbl.find fabD.reqs 9 = none) ∧
    (let s := { fabD with fab := { fabD.fab with cache := [⟨7, 3, 1, [fabPk 17 0 0 []], 9⟩] } }
     s.cachedReply (fabPk 1 0 0 []) = some [fabPk 17 0 0 []]) := by decide +kernel
theorem meets_FabricRequestsArrive_ops : ∀ op ∈ [0, 1, 2, 3], arrivesHere fabD (fabPk op 0 0 []) op := by
  intro op h; exact arrives_fabD op 0 0 [] (by revert op; decide)

/-- A tag held for request 1, sent once; the request waits at the fabric. -/
def tag1 : TagRec := ⟨7, 3, 1, 1, 0, 1, [fabPk 0 0 0 []]⟩
def sentReq : Req := { at_ .sent with dev := some 7 }
def tagged : State := { withReq sentReq with devid := 5, fab := { lS.fab with tags := [tag1] } }
def mineOf (p : Packet) (x : TagRec) : Bool := x.dev == p.src.toNat && x.tag == p.tag.toNat && x.gen == p.gen.toNat

theorem meets_FabricResponses :
    fabD.fab.tags.find? (mineOf (fabPk 16 0 0 [])) = none ∧
    (tagged.fab.tags.find? (mineOf (fabPk 16 0 0 [])) = some tag1 ∧ Tbl.find tagged.reqs tag1.req = some sentReq ∧ (∀ x ∈ tagged.fab.tags, x.req = sentReq.id → x.dev = tag1.dev ∧ x.tag = tag1.tag)) ∧
    (sentReq.kind ≠ .cread ∧ ({ sentReq with kind := .cread } : Req).kind = .cread ∧ sentReq.kind ≠ .reduce ∧ sentReq.sd = none ∧ sentReq.accs = [⟨0, 0, 0, 4, 0, 0, 0⟩]) ∧
    osbField (fabPk 21 0 0 []) 3 0 = 0 ∧ osbField (fabPk 21 0 15 []) 3 0 = 15 ∧ osbField (fabPk 21 0 6 []) 3 0 = 6 ∧ osbField (fabPk 21 0 7 []) 3 0 = 7 := by decide +kernel
theorem meets_FabricResponses_ops : ∀ op ∈ [16, 17, 18, 19, 20, 21, 27], ∀ b ∈ [0, 6, 7, 15], arrivesHere fabD (fabPk op 0 b []) op ∧ arrivesHere tagged (fabPk op 0 b []) op := by
  intro op h b _
  exact ⟨arrives_fabD op 0 b [] (by revert op; decide), arrives tagged _ op (by revert b op; decide +kernel)⟩
theorem meets_FabricTimers :
    (let s := { tagged with cyc := Config.usec 120 }
     Tbl.find s.reqs 1 = some sentReq ∧ sentReq.stage = .sent ∧ (∃ x ∈ s.fab.tags, x.req = 1 ∧ x.sends ≠ 0 ∧ x.sentAt + Config.usec 120 ≤ s.cyc) ∧ sentReq.mayRepeat = true ∧ s.fab.dead = [] ∧
       sentReq.dev.getD noDev = 7) ∧
    ({ sentReq with kind := .atom } : Req).mayRepeat = false ∧ (let r := { sentReq with kind := .packet }; r.mayRepeat = false ∧ r.kind = .packet) ∧ (7 : Nat) ≠ fabD.own ∧
    (let r := { at_ (.queued (qCode (.egress 0)) false) with dev := some 7 }
     let s := { withReq r with cyc := 1000 }
     ∃ x ∈ s.standingAt 0 7, x.entered + s.bound / 2 < s.cyc) ∧
    (let c : Cong := ⟨0, 7, 0, 0⟩; let s := { fabD with cyc := Config.usec 10, fab := { fabD.fab with cong := [c] } }
     s.fab.cong.find? (fun c => c.port == 0 && c.dev == 7) = some c ∧ c.last + Config.usec 10 ≤ s.cyc ∧ s.standingAt 0 7 = []) := by decide +kernel

/-- A message of 64 bytes from device 7, numbered 2, with one token. -/
def rmsg : RecvMsg := ⟨7, 2, 0, 0, 1, 1, 64, .active, [], [⟨0, 64, 0, 0⟩], 0, 0, 0, 0⟩
def bulkPk (op osb : Nat) : Packet := fabPk op (osa 162 2) (osb + 64 * 2 ^ 96) [0, 0]
def gotMsg (m : RecvMsg) : State := { fabD with fab := { fabD.fab with msgs := [m] }, fns := [(0, { Fn.reset with slots := [(0, ⟨0, 0, 64, 0⟩)] })] }
/-- A handler-table entry for a warp of one lane; a message for it. -/
def hent : HandlerEnt := ⟨false, 0, 0, 1024, 1536, 0, 4096, 0, 32, 32, 1, 0, 0⟩
def amsg : AmMsg := ⟨7, 0, 0, [1, 2]⟩
def withAm (l : List AmMsg) : State := { fabD with fns := [(0, { Fn.reset with table_ := some [hent], ams := l })] }
def openMsg0 : OpenMsg := ⟨9, 2, 7, 0, 1, 64, 128, [], 3, .slotA, [4], 1, 0, 0, [], [], 0, false⟩
def sender (m : OpenMsg) : State := { sole { lW with msgs := [m] } .slotA with devid := 5 }

theorem meets_Messages :
    (fabD.cachedReply (bulkPk 4 0) = none ∧ fabD.underWay (bulkPk 4 0) = false ∧ fabD.bankFull (bulkPk 4 0) = false ∧ msgidOf (bulkPk 4 0) = 2 ∧
      ((gotMsg rmsg).openRecord (bulkPk 4 0)).msg 7 2 = some rmsg ∧ rmsg.state ≠ .waitbuf ∧
      (((fabD.openRecord (bulkPk 4 0)).msg 7 2).all fun m => decide (m.state = .waitbuf)) = true) ∧
    osbField (bulkPk 8 0) 81 81 = 0 ∧ osbField (bulkPk 8 (2 ^ 81)) 81 81 = 1 ∧
    ((withAm []).amAccept 0 7 0 0 [1, 2]).isSome = true ∧ ((withAm (List.replicate 1024 amsg)).amAccept 0 7 0 0 [1, 2]).isNone = true ∧ (fabD.amAccept 0 7 0 0 []).isSome = true ∧
    (let s := { gotMsg rmsg with cyc := Config.usec 25 }
     s.msg 7 2 = some rmsg ∧ rmsg.state = .active ∧ rmsg.tokens.find? (fun t => t.off == 0 && t.at_ + Config.usec 25 ≤ s.cyc) = some ⟨0, 64, 0, 0⟩ ∧ rmsg.fails + 1 < 8 ∧ 8 ≤ ({ rmsg with fails := 7 } : RecvMsg).fails + 1) ∧
    (let m := { rmsg with tokens := [] }; let s := { gotMsg m with cyc := Config.usec 100 }
     s.msg 7 2 = some m ∧ m.tokens = [] ∧ (m.gap s.cyc).2 ≠ 0 ∧ m.eff < 3 ∧ m.since + Config.usec 100 ≤ s.cyc) := by decide +kernel
theorem meets_Messages_sender :
    (sender openMsg0).openMsg 7 2 = some (0, openMsg0) ∧ openMsg0.paused = false ∧ ({ openMsg0 with paused := true } : OpenMsg).paused = true ∧
    (sender { openMsg0 with paused := true }).openMsg 7 2 = some (0, { openMsg0 with paused := true }) ∧
    ((gotMsg rmsg).openMsg 7 2 = none ∧ (gotMsg rmsg).msg 7 2 = some rmsg ∧ osbField (fabPk 26 (osa 162 2) 3 []) 7 0 = 3) ∧
    (let s := { withAm [amsg] with devid := 5 }
     (s.fn 0).ams = [amsg] ∧ tableEnt (s.fn 0).table_ amsg.hidx = some hent ∧ (s.handlerPlace 1 hent).isSome = true ∧ s.handlersTurn (1 / 60) 0 = true ∧ s.off = false ∧ 1 % 60 ≠ 0 ∧ (1 : Nat) < 240 ∧ (s.fn 0).resetStep = 0) := by decide +kernel
theorem meets_Messages_ops : ∀ op ∈ [4, 5, 8, 24, 25, 26], arrivesHere fabD (fabPk op 0 0 []) op ∧ arrivesHere (gotMsg rmsg) (bulkPk op 0) op ∧
    arrivesHere (sender openMsg0) (bulkPk op 0) op ∧ arrivesHere (withAm []) (bulkPk op 0) op := by
  intro op h
  exact ⟨arrives_fabD op 0 0 [] (by revert op; decide), arrives _ _ op (by revert op; decide +kernel), arrives _ _ op (by revert op; decide +kernel), arrives _ _ op (by revert op; decide +kernel)⟩

/-- The consumer end of stream 3 of device 7, held here and bound; an item of it. -/
def endK : EndKey := ⟨7, 3, true⟩
def item0 : Item := ⟨0, 0, 0, [1], none⟩
def bind0 (st : CtxState) : Binding := ⟨0, 1, 0, [], [], [], st, 0, 0⟩
def end0 (b : Option Binding) : EndRec := ⟨endK, 1, 0, 0, 0, 0, 0, [item0], b, none, false, false, false, false, false, 7, 0, 1⟩
def withEnd (e : EndRec) : State := { withAm [] with ends := [e] }
def handlePk (op osb : Nat) (phase : Nat := 0) : Packet := fabPk op (osa 154 3 + osa 153 1 + osa 134 1 + osa 131 phase) osb [0, 0, 0, 0, 0, 0, 0, 0]

theorem meets_Streams_items :
    (let r := fabD.freshPiece ⟨5, 3, true⟩ ⟨5, 3, 0, 0, 0, 0, 0, 32, flitBytes (handlePk 6 0) 32⟩; r.2.isSome = true) ∧
    (let r := fabD.freshPiece ⟨5, 3, true⟩ ⟨5, 3, 0, 0, 0, 0, 0, 300, flitBytes (handlePk 6 0) 256⟩; r.2 = none) ∧
    (tagged.fab.tags.find? (fun x => x.dev == 7 && x.tag == 3 && x.gen == 1) = some tag1 ∧ Tbl.find tagged.reqs 1 = some sentReq ∧ osbField (handlePk 22 0) 7 0 = 0 ∧ smPhase (handlePk 23 0) = 0 ∧
      smPhase (handlePk 23 0 2) = 2 ∧ (handlePk 23 0 2).osb = 0 ∧ (handlePk 23 1 2).osb ≠ 0) ∧
    (let e := { end0 none with key := ⟨7, 3, false⟩ }
     (withEnd e).ends.find? (fun y => !y.key.cons && y.key.stream == 3 && (y.peer == 7 || y.key.home == 7)) = some e) ∧
    ((withEnd { end0 none with key := ⟨7, 3, false⟩ }).endRec ⟨7, 3, !(osaField (handlePk 29 0) 153 153 == 1)⟩).isSome = true ∧ fabD.ends = [] := by decide +kernel
/-- The home of stream 3, whose consumer end is in transit and placed; the adopter of the end, waiting for it. -/
def moved0 : Moved := { Moved.blank 1 with placed := true }
def homeS : State := { fabD with streams := [(3, ⟨true, ⟨.resident 5, 1, none, []⟩, ⟨.transit, 1, some moved0, []⟩, 0, 0⟩)] }
def adopter : State := { fabD with moves := [(endK, Moved.blank 1)] }
theorem meets_Streams_moves :
    smPhase (handlePk 7 0 1) = 1 ∧ smPhase (handlePk 7 0 2) = 2 ∧ smPhase (handlePk 7 0 3) = 3 ∧ smPhase (handlePk 7 0 4) = 4 ∧ smEnd (handlePk 7 0) 7 = endK ∧
    adopter.adopting endK = true ∧ fabD.adopting endK = false ∧ (match (homeS.homeAdopt (smEnd (handlePk 7 0 2) 5) 1 7 false).2 with | .granted _ => true | _ => false) = true ∧
    (homeS.homeAdopt (smEnd (handlePk 7 0 2) 5) 2 7 false).2 = .refused stBADH ∧ (fabD.homeAdopt (smEnd (handlePk 7 0 2) 5) 1 7 false).2 = .refused stBADH ∧
    (({ homeS with streams := [(3, ⟨true, ⟨.resident 5, 1, none, []⟩, ⟨.transit, 1, some (Moved.blank 1), []⟩, 0, 0⟩)] } : State).homeAdopt (smEnd (handlePk 7 0 2) 5) 1 7 false).2 = .waits ∧
    homeS.adoptDone (smEnd (handlePk 7 0 2) 5) 1 = false ∧
    ({ homeS with streams := [(3, ⟨true, ⟨.resident 5, 1, none, []⟩, ⟨.transit, 1, some moved0, [(1, 2)]⟩, 0, 0⟩)] } : State).adoptDone (smEnd (handlePk 7 0 2) 5) 1 = true ∧
    (keyOfHandle (leNat (flitBytes (handlePk 7 0 3) 16))).home ≠ noDev ∧ (keyOfHandle (nullHandle stNORES)).home = noDev ∧
    (adopter.freshPiece endK ⟨7, 3, 1, 0, 0, 0, 0, 32, flitBytes (handlePk 7 0 4) 32⟩).2.isSome = true ∧ (adopter.freshPiece endK ⟨7, 3, 1, 0, 0, 0, 0, 300, flitBytes (handlePk 7 0 4) 256⟩).2 = none ∧
    (adopter.freshPiece endK ⟨7, 3, 1, 0, 0, 0, 0, 32, flitBytes (handlePk 7 0 4) 32⟩).1.adopting endK = true := by decide +kernel
theorem meets_Streams_contexts :
    (let e := { end0 none with frozen := true }; let s := { withEnd e with cyc := Config.usec 120 }
     s.endRec endK = some e ∧ e.frozen = true ∧ e.frozenAt + Config.usec 120 ≤ s.cyc ∧ s.reqList = []) ∧
    (let s := { withEnd (end0 (some (bind0 .idle))) with cyc := Config.msec 400 }
     s.endRec endK = some (end0 (some (bind0 .idle))) ∧ (bind0 .idle).since + Config.msec (s.fn 0).stidle.lo ≤ s.cyc) ∧
    (bind0 .evicting).st = .evicting ∧ (bind0 .reloading).st = .reloading ∧
    (let e := end0 (some (bind0 .active)); let s := withEnd e
     e.due = some item0 ∧ s.startable e (bind0 .active) = true ∧ s.off = false ∧ 1 % 60 ≠ 0 ∧ 1 / 60 = e.die ∧ tableEnt (s.fn 0).table_ 0 = some hent ∧ (s.startPlace e hent 0 1).isSome = true ∧ item0.kind ≠ 1 ∧
       tableEnt (s.fn 0).table_ 1 = none) := by decide +kernel
theorem meets_Streams_ops : ∀ op ∈ [6, 7, 22, 23, 28, 29, 30], ∀ ph ∈ [0, 1, 2, 3, 4], arrivesHere fabD (handlePk op 0 ph) op ∧ arrivesHere tagged (handlePk op 0 ph) op ∧ arrivesHere tagged (handlePk op 1 ph) op ∧
    arrivesHere homeS (handlePk op 0 ph) op ∧ arrivesHere adopter (handlePk op 0 ph) op ∧ arrivesHere (withEnd (end0 none)) (handlePk op 0 ph) op := by
  intro op h ph h2
  refine ⟨arrives _ _ op ?_, arrives _ _ op ?_, arrives _ _ op ?_, arrives _ _ op ?_, arrives _ _ op ?_, arrives _ _ op ?_⟩ <;> (revert ph op; decide +kernel)

/-! ## States that meet the statements' hypotheses: host, mailbox, settings and the machine -/

/-- Frame 0 is the virtual function 1's. -/
def vf1 : State := { State.reset with frames := [(0, ⟨1, 0, false, 0⟩)] }
def resetting : State := { vf1 with fns := [(1, { Fn.reset with resetStep := 4 })] }
def staleS : State := { State.reset with frames := [(0, ⟨0, 1, true, 0⟩)] }

theorem meets_HostAndReset :
    (homeOf (5 * 128) ≠ 1) ∧ (homeOf (2 ^ 50 * 128) = 1 ∧ Tbl.find ({ State.reset with hostLines := [(2 ^ 50, true)] } : State).hostLines (2 ^ 50) = some true ∧ Tbl.find State.reset.hostLines (2 ^ 50) = none) ∧
    (vf1.inHdm 1 65528 8 = true ∧ vf1.bufferUse .host 0 + (cutLines 65528 8).length ≤ hostEntries) ∧ (State.reset.fn 32).resetStep = 0 ∧
    ((resetting.fn 1).resetStep ≠ 0 ∧ resetting.resetWaits 1 = false) ∧
    (let s := { resetting with reqs := [(1, { ld0 with fn := 1 })] }; s.resetWaits 1 = true) ∧
    (staleS.stale (511 * 128) = true ∧ staleS.stale (512 * 128) = false) ∧
    (let b := { Boot.reset with running := true }
     b.running = true ∧ b.repeat_ = false ∧ b.spareLeft .core 1 = true ∧ b.spareFree .core 1 60 = true ∧ b.spareFree .core 1 63 = true ∧ b.spareFree .core 1 64 = false ∧
       ({ b with repeat_ := true } : Boot).repeat_ = true ∧ Boot.reset.running = false) ∧
    Boot.reset.spareLeft .core 1 = true ∧ (let b := { Boot.reset with pending := [(.core, 1)] }; (.core, 1) ∈ b.pending ∧ ({ State.reset with boot := b } : State).quiescent .core 1 = true ∧ b.spareFree .core 1 60 = true) ∧
    (({ State.reset with boot := Boot.reset } : State).quiescent .tlb 0 = false) ∧
    (let b := { Boot.reset with spares := List.replicate 64 (.core, 1, 0) }; b.spareLeft .core 1 = false ∧ (SpareKind.core, 1) ∉ b.pending) ∧
    (State.reset.sitePart (.l1 1 0) = some (.core, 1) ∧ (State.reset.putLine 0 { HomeLine.blank with place := .msc }).sitePart (.memory 0) = none) ∧
    Boot.reset.hostPort = 0 ∧ State.reset.reqs = [] ∧ ({ Boot.reset with hostPort := 1 } : Boot).hostPort ≠ 0 := by decide +kernel

def queueRec : QueueRec := ⟨4096, 8192, 16, 3, 7, 0, 65535, 255, List.replicate 41 0⟩
/-- The doorbell has started a command of the physical function, whose request these bytes are; the record of a queue, of a part, of a frame and its owner. -/
def rung (code : Nat) (bytes : List Byte) : State := { State.reset with fns := [(0, { Fn.reset with doorbell := busyWord code, request := bytes })] }
def recBytes : List Byte := bytesLE 8 4096 ++ bytesLE 8 8192 ++ [16, 3, 7, 0] ++ bytesLE 2 65535 ++ [255] ++ List.replicate 41 0
theorem meets_MailboxCommands_started :
    (∀ c ∈ [1, 2, 3, 4, 0x10, 0x11, 0x12, 0x13, 0x14, 0x15, 0x16], (rung c []).started .pf c = true ∧ State.reset.started .pf c = false) ∧
    (rung 1 recBytes).requestRec .pf = queueRec ∧ (rung 2 (bytesLE 4 4095)).requestN .pf 0 4 = 4095 ∧ (rung 4 (bytesLE 32 (2 ^ 256 - 1))).requestN .pf 0 32 = (BitVec.allOnes 256).toNat ∧
    (rung 0x10 (bytesLE 4 1)).requestN .pf 0 4 = 1 ∧ (rung 0x10 []).requestN .pf 0 4 = 0 ∧
    (let s := rung 0x12 (bytesLE 8 0 ++ bytesLE 8 1); s.requestN .pf 0 1 = SpareKind.code .core ∧ s.requestN .pf 8 8 = 1) ∧
    (let s := rung 0x16 (bytesLE 8 (frameCount - 1) ++ bytesLE 4 32); s.requestN .pf 0 8 = frameCount - 1 ∧ s.requestN .pf 8 4 = 32) ∧
    (rung 0x15 (bytesLE 8 frameCount)).requestN .pf 0 8 = frameCount ∧
    ((rung 1 []).fn 0).doorbell.getLsbD 31 = true ∧ (State.reset.fn 0).doorbell.getLsbD 31 = false ∧
    ((5 : W64).toNat % 256 = 5 ∧ (0 : W64).toNat % 256 = 0 ∧ (0x17 : W64).toNat % 256 = 0x17 ∧ isFunction .fw = false ∧ Mgr.vf 1 ≠ .pf) := by decide +kernel
theorem meets_MailboxCommands :
    recOk queueRec = true ∧ queueRec.flags ≠ 1 ∧ recOk { queueRec with flags := 1 } = true ∧ State.reset.ringLocal 0 queueRec = false ∧
    (let small := { queueRec with logn := 4, proc := 0, flags := 1 }; recOk small = true ∧ ({ State.reset with pages := [loadedPage] } : State).ringLocal 0 small = true) ∧ recOk { queueRec with logn := 17 } = false ∧ recOk { queueRec with logn := 3 } = false ∧ (State.reset.fn 0).resetStep = 0 ∧ State.reset.freeQueue = some 0 ∧ isFunction (.vf 32) = true ∧ isFunction .pf = true ∧
    (let s := withQ q0; Tbl.find s.cmdq 0 = some q0 ∧ q0.fn = mgrFn .pf ∧ q0.fn ≠ mgrFn (.vf 1) ∧ q0.state ≠ 0) ∧ (State.reset.fn 0).log = [] ∧
    (let b := { Boot.reset with safe := true }; b.safe = true ∧ b.retired = false) ∧ ({ Boot.reset with retired := true } : Boot).retired = true ∧ Boot.reset.spareLeft .core 1 = true ∧
    frameCount ≤ frameCount ∧ frameCount - 1 < frameCount ∧ (State.reset.frame 0).scrub = false ∧ State.reset.pages = [] ∧
    (let f : Frame := ⟨0, 256, true, 255⟩; f.scrub = true ∧ 255 ≤ f.rises) := by decide +kernel
theorem meets_MailboxCommands_faults : (withQ { q0 with state := 1 }).off = false ∧ (∃ r : LogRec, (({ State.reset with fns := [(0, { Fn.reset with log := [r] })] } : State).fn 0).log = r :: []) :=
  ⟨by decide +kernel, ⟨⟨0, 0x20, 0, 0, 0, 0, 0⟩, rfl⟩⟩
/-- A function whose expert view of every group is open. -/
def unlocked (m : Mgr) (g : Nat) : State := State.reset.onUnlock m fun _ => ⟨g, false, false, true⟩
theorem meets_SettingsWrites :
    SetReg.reachable .resid .pf 0 = true ∧ SetReg.reachable .resid (.vf 1) 0 = false ∧ SetReg.reachable .icoal (.vf 1) 1 = true ∧ (SetReg.preset .resid 2).isSome = true ∧ (SetReg.preset .resid 14).isNone = true ∧
    State.reset.openFor_ .pf (SetReg.group .resid) = false ∧ (unlocked .pf (SetReg.group .resid)).openFor_ .pf (SetReg.group .resid) = true ∧
    (0x5A6E0101 : W32).toNat / 65536 = 0x5A6E ∧ (0x5A6D0101 : W32).toNat / 65536 ≠ 0x5A6E ∧ mayUnlock .pf 1 = true ∧ mayUnlock (.vf 1) 1 = false ∧
    (2 : Nat) % 4 ≠ 0 ∧ 0x200000 ≤ 0x200000 ∧ (State.reset.fn 0).unlock.group ≤ 255 ∧ Mgr.vf 1 ≠ .fw ∧ (63 : Nat) < 64 ∧ (4095 : Nat) < 4096 ∧
    Tbl.find (withQ q0).cmdq 0 = some q0 ∧ q0.fn = mgrFn .pf := by decide +kernel

/-- The machine that fetches `SCMP.LTU s9, s3, s4` next. -/
def fetching : State := State.reset.withFetchWord 32 0x0490C424
def idleMachine : State := { sole scW .scalar with warps := [(0, { scW with exited := true })], agenda := [], cur := none }
theorem meets_StepRunsDecodedInstruction :
    fetching.agenda = [(0, .issue 0 .scalar)] ∧
    (let q := { fetching with agenda := [] }
     q.isChosen 0 .scalar = true ∧ Tbl.find (q.selected 0 .scalar).warps 0 = some (loadedWarp (loadedWg 0 1) false) ∧
      ((q.selected 0 .scalar).instrAt 0 (loadedWarp (loadedWg 0 1) false) .scalar).isSome = true ∧ q.isChosen 0 .slotA = false ∧ (loadedWarp (loadedWg 0 1) false).halt = .run ∧ q.internal.isNone = true ∧ q.selection = some (0, .scalar)) ∧
    (idleMachine.selection = none) := by decide +kernel
theorem meets_FetchReadsTheWord : (0x0490C424 : Nat) < 2 ^ 32 ∧ 2 ^ 32 - 1 < 2 ^ 32 ∧ 0x1000000000800007FFFFDC00 < 2 ^ 96 := by decide
theorem meets_NoInstructionStops : sS.issues 0 s12 .scalar ∧ State.reset.issuer = none := by decide +kernel
/-- What follows where a step completes. -/
def completes (x : Out) : Bool := match x with | .next _ => true | _ => false
theorem completes_next {x : Out} (h : completes x = true) : ∃ t : State, x = .next t := by
  cases x with
  | next t => exact ⟨t, rfl⟩
  | fault f => cases h
  | refused r => cases h
theorem meets_StepKeepsMemoryCanonical : State.reset.Inv ∧ fetching.Inv ∧ (∃ t : State, step State.reset = .next t) ∧ ∃ t : State, step fetching = .next t :=
  ⟨by decide +kernel, by decide +kernel, completes_next (by decide +kernel), completes_next (by decide +kernel)⟩
theorem meets_ScalarFrame : sS.issues 0 s12 .scalar ∧ (sS.wg 0).inScalar s12.sc.fall.pc = true ∧ ∃ t : State, exec (.sadd 3 1 2) sS = .next t :=
  ⟨by decide +kernel, by decide +kernel, completes_next (by decide +kernel)⟩
theorem meets_LaneFrame : lS.laneReady 0 lW .slotA h0 (LaneReg.uses1 l3) ∧ ¬ (Instr.iadd l3 = .sprd l3 ∧ l3.low = 0 ∧ lS.flagsOwed 0 .slotA = true) ∧ ∃ t : State, exec (.iadd l3) lS = .next t := ⟨by decide +kernel, by decide +kernel, completes_next (by decide +kernel)⟩

/-! ## Single steps, with results taken from the rules or worked by hand from them -/

/-- A scalar register and the PC after one instruction, with `s1` = a and `s2` = b at PC 512. -/
def sStep (a b : W64) (d : SReg) (i : Instr) : Option (W64 × W64) :=
  (warpAfter i (sole (setS (setS s12 1 a) 2 b) .scalar)).map fun w => (w.sr d, w.sc.pc)
/-- The value on its way to a scalar register that the instruction marked empty. -/
def sFill (a b : W64) (i : Instr) : Option (SReg × W64) :=
  (warpAfter i (sole (setS (setS s12 1 a) 2 b) .scalar)).bind fun w => w.sc.fill.head?
/-- The trap that the instruction raises: code, source, pending; and `TRAPPC`. -/
def sTrap (w : Warp) (i : Instr) : Option (Nat × Nat × Bool × W64) :=
  (warpAfter i (sole w .scalar)).map fun w => (trapCode w.trap.cause, trapSrc w.trap.cause, trapPend w.trap.cause, w.trap.pc)

theorem test_sadd_wraps : sStep (BitVec.allOnes 64) 2 3 (.sadd 3 1 2) = some (1, 516) := by decide +kernel
theorem test_ssub : sStep 3 5 3 (.ssub 3 1 2) = some (-2, 516) := by decide +kernel
theorem test_s0_ignores_writes : sStep 3 5 0 (.sadd 0 1 2) = some (0, 516) := by decide +kernel
theorem test_smul : sFill (2 ^ 63) 3 (.smul 4 1 2) = some (4, 2 ^ 63) := by decide +kernel
theorem test_smulh : sFill (-1) 5 (.smulh 4 1 2) = some (4, -1) := by decide +kernel
theorem test_smulh_u : sFill (-1) 5 (.smulhU 4 1 2) = some (4, 4) := by decide +kernel
theorem test_sdiv_zero : sFill 7 0 (.sdiv 4 1 2) = some (4, -1) := by decide +kernel
theorem test_sdiv_least : sFill (BitVec.intMin 64) (-1) (.sdiv 4 1 2) = some (4, BitVec.intMin 64) := by decide +kernel
theorem test_sdiv_truncates : sFill (-7) 2 (.sdiv 4 1 2) = some (4, -3) := by decide +kernel
theorem test_srem_sign : sFill (-7) 2 (.srem 4 1 2) = some (4, -1) := by decide +kernel
theorem test_srem_u_zero : sFill 9 0 (.sremU 4 1 2) = some (4, 9) := by decide +kernel
theorem test_sandi_extends : sStep 0x12345678 0 3 (.sandi 3 1 0x3FF0) = some (0x12345670, 516) := by decide +kernel
theorem test_ssra : sStep (-5) 1 3 (.ssra 3 1 2) = some (-3, 516) := by decide +kernel
theorem test_sshl_by_64 : sStep 5 64 3 (.sshl 3 1 2) = some (5, 516) := by decide +kernel
theorem test_smini : sStep (-5) 0 3 (.smini 3 1 2) = some (-5, 516) := by decide +kernel
theorem test_scmp_ltu : sStep 1 (-1) 3 (.scmp .ltu 3 1 2) = some (1, 516) ∧ sStep 1 (-1) 3 (.scmp .lt 3 1 2) = some (0, 516) := by decide +kernel
theorem test_slui : sStep 0 0 3 (.slui 3 0x80000) = some (0xFFFFFFFF80000000, 516) := by decide +kernel
theorem test_sbr_back : sStep 1 2 0 (.sbr .lt 1 2 0x7FC) = some (0, 496) ∧ sStep 2 1 0 (.sbr .lt 1 2 0x7FC) = some (0, 516) := by decide +kernel
theorem test_sbr_leaves : sTrap s12 (.sbr .eq 1 1 0x400) = some (cFETCHF, 0, false, 512) := by decide +kernel
theorem test_sld_misaligned : sTrap (setS s12 1 2) (.sld .i32 3 1 0) = some (cALIGNF, 0, false, 512) := by decide +kernel
theorem test_lbrk_empty : sTrap s12 .lbrk = some (cLOOPF, 0, false, 512) := by decide +kernel
theorem test_loop : (warpAfter (.loop 1 false 2) sS).map (fun w => (w.sc.loops, w.sc.pc)) = some ([⟨516, 520, 12⟩], 516) := by decide +kernel
theorem test_loop_zero_skips : (warpAfter (.loop 0 false 2) sS).map (fun w => (w.sc.loops, w.sc.pc)) = some ([], 524) := by decide +kernel
theorem test_strap : sTrap s12 (.strap 0x1FFF) = some (cUTRAP, 0, false, 512) := by decide +kernel
theorem test_lgo_enqueues : (warpAfter (.lgo 1 5) sS).map (fun w => w.blocks.map (·.pc)) = some [5] := by decide +kernel

/-- The result on its way of a lane instruction with `v0` = a and `v1` = b in every lane: lane 0 of its first register, and its flags. -/
def lStep (a b : W32) (i : Instr) : Option (W32 × Flags) :=
  (warpAfter i (sole (setV (setV lnW 0 a) 1 b) .slotA)).bind fun u => u.flight.head?.bind fun r => r.regs.head?.map fun x => (x.2[(0 : Fin 32)], r.flags)
def r2 (mod : BitVec 14) : LaneReg := lr (.v 2) (.v 0) (.v 1) .none .none mod
def r1 (mod : BitVec 14) : LaneReg := lr (.v 2) (.v 0) .none .none .none mod
/-- The trap of a lane instruction: code and `TRAPPC`. -/
def lTrap (w : Warp) (i : Instr) : Option (Nat × W64) := (warpAfter i (sole w .slotA)).map fun w => (trapCode w.trap.cause, w.trap.pc)

theorem test_iadd_saturates : lStep 0x7FFFFFFF 1 (.iadd (r2 0x1C80)) = some (0x7FFFFFFF, 0) ∧ lStep 0x7FFFFFFF 1 (.iadd (r2 0x1C00)) = some (0x80000000, 0) := by decide +kernel
theorem test_isub_bytes : lStep 0x00010280 0x01010101 (.isub (r2 0x1480)) = some (0xFF000180, 0) := by decide +kernel
theorem test_lshl_by_width : lStep 1 32 (.lshl (r2 0x2800)) = some (0, 0) := by decide +kernel
theorem test_lsra_by_width : lStep 0x80000000 40 (.lsra (r2 0x1C00)) = some (0xFFFFFFFF, 0) := by decide +kernel
theorem test_clz_zero : lStep 0 0 (.clz (r1 0x2800)) = some (32, 0) := by decide +kernel
theorem test_brev : lStep 1 0 (.brev (r1 0x2800)) = some (0x80000000, 0) := by decide +kernel
theorem test_fadd_ties_even : lStep 0x3F800000 0x33800000 (.fadd (r2 0)) = some (0x3F800000, 1) := by decide +kernel
theorem test_fadd_up : lStep 0x3F800000 0x33800000 (.fadd (r2 0x0200)) = some (0x3F800001, 1) := by decide +kernel
theorem test_fsub_infinities : lStep 0x7F800000 0x7F800000 (.fsub (r2 0)) = some (0x7FC00000, 16) := by decide +kernel
theorem test_fmul_overflow : lStep 0x7F7FFFFF 0x40000000 (.fmul (r2 0)) = some (0x7F800000, 5) := by decide +kernel
theorem test_fmin_nan : lStep 0x7FC00001 0x3F800000 (.fmin (r2 0)) = some (0x3F800000, 0) := by decide +kernel
theorem test_rcp_zero : lStep 0 0 (.rcp (r1 0)) = some (0x7F800000, 8) := by decide +kernel
theorem test_sqrt_negative : lStep 0xBF800000 0 (.sqrt (r1 0)) = some (0x7FC00000, 16) := by decide +kernel
/-- R155: 500.0 to e4m3, with and without saturation. -/
theorem test_cvt_e4m3 : lStep 0x43FA0000 0 (.cvt (r1 0x0C80)) = some (0x7E, 5) ∧ lStep 0x43FA0000 0 (.cvt (r1 0x0C00)) = some (0x7F, 5) := by decide +kernel
/-- R69: −0.3 to `n8` gives 0 with NX only; −0.7 gives 0 with OF only; 300.7 to `i8` gives 127 with OF only. -/
theorem test_cvt_to_n8 : lStep 0xBE99999A 0 (.cvt (r1 0x2000)) = some (0, 1) ∧ lStep 0xBF333333 0 (.cvt (r1 0x2000)) = some (0, 4) := by decide +kernel
theorem test_cvt_to_i8 : lStep 0x4396599A 0 (.cvt (r1 0x1400)) = some (127, 4) := by decide +kernel
/-- R64: with w = 4 and E = 0x7F an element is m / 8. -/
theorem test_bfpd : lStep 0x7F07 0 (.bfpd (r1 (11 * 8 + 2))) = some (0x3F600000, 0) ∧ lStep 0x7F08 0 (.bfpd (r1 (11 * 8 + 2))) = some (0xBF800000, 0) := by decide +kernel
/-- R163: `PLOP p4, p1, p2, 0x4` is `p1` and not `p2`. -/
theorem test_plop : (let w := { lnW with rg := { lnW.rg with p := (lnW.rg.p.set 1 0xCCCCCCCC#32).set 2 0xAAAAAAAA#32 } }
    (warpAfter (.plop (lr (.p 4) (.p 1) (.p 2) .none .none 4)) (sole w .slotA)).bind fun u => u.flight.head?.bind fun r => r.preds.head?) = some (4, 0x44444444#32) := by decide +kernel
/-- R171: the vote of no active lane. -/
theorem test_vote_none : (warpAfter (.vote ⟨{ h0 with ga := ⟨true, 0⟩ }, .none, .p 3, .none, .none, .none, 0x0042⟩) lS).bind (fun u => u.flight.head?.bind fun r => r.push) = some 0 := by decide +kernel
/-- R94: a register above `VB` traps before anything else, whatever the guard. -/
theorem test_regrange : lTrap narrow (.iadd ⟨{ h0 with ga := ⟨true, 0⟩ }, .v 2, .v 0, .v 1, .none, .none, 0x1C00⟩) = some (cREGRANGE, 0) := by decide +kernel
theorem test_lstop : (warpAfter (.lstop (lr .none .none .none .none .none 0)) lS).map (fun w => (w.running, w.slotA.st)) = some (false, .idle) := by decide +kernel
/-- R193: PA 0x1_0000_0080 is at home in slice 0.3. -/
theorem test_home_slice : homeSlice 0x100000080 = 3 := by decide +kernel
/-- R335 and R336: a packet for another device goes out through its route, one level higher. -/
theorem test_forward : (let s := { fabD with fab := { fabD.fab with route := [(8, 3 + 2 ^ 11 + 2 ^ 15)] } }
    match exec (.fabricForward 0 { fabPk 0 0 0 [] with dst := 8 }) s with | .next t => t.fab.transit.map (fun x => x.pkt.hop) | _ => []) = [1] := by decide +kernel
/-- R338: a packet of a reserved operation is counted. -/
theorem test_bad_packet : (match exec (.fabricForward 0 (fabPk 9 0 0 [])) fabD with | .next t => t.fab.bad | _ => 9) = 1 := by decide +kernel
/-- FIPS 202: the first bytes of SHAKE256 of the empty message; and of the key bytes 0 to 31 with upper bytes 100 to 107, worked with another implementation. -/
theorem test_shake : (shake256 []).take 8 = [0x46, 0xB9, 0xDD, 0x2B, 0x0B, 0xA8, 0x8D, 0x13] ∧
    shakeChk (BitVec.ofNat 256 (leNat ((List.range 32).map (BitVec.ofNat 8)))) (leNat ((List.range 8).map fun i => BitVec.ofNat 8 (100 + i))) = 0x34CDD71B4F4FF6B6 := by decide +kernel
/-- R38, R85: a lane word placed for the next fetch is what the next step runs. -/
theorem test_lane_word_runs_next : (match step (State.reset.withFetchWord 96 0x1000000000800007FFFFDC00) with
    | .next t => (Tbl.find t.warps 0).map (fun w => (w.flight.length, w.slotA.pc, w.sc.pc)) | _ => none) = some (1, 1, 0) := by decide +kernel
/-- R405: a device reset leaves compute off. -/
theorem test_device_reset : (match exec .deviceReset lS with | .next t => (t.off, t.warps.length, t.boot.stage) | _ => (false, 9, 9)) = (true, 0, 0) := by decide +kernel
end Sys2Proof.Tests
end

section
/-! SUPPORT. Operations that leave memory alone: one lemma for each, so that a proof about memory never looks into them. Those that hold by definition are proved `by rfl`, not stated as definitional: simp then keeps them as rewrites, which it can use under the binder of `State.foldl_mem`. -/

namespace Sys2Proof.Machine

/-! ### Traps, folds and choices -/

@[simp] theorem State.raise_mem (s : State) (k src code info : Nat) (pc : W64) (inst : W32) : (s.raise k src code info pc inst).mem = s.mem :=
  (s.raise_frame k src code info pc inst).1
theorem State.foldl_mem {α : Type} {f : State → α → State} (hf : ∀ b a, (f b a).mem = b.mem) (l : List α) (s : State) : (l.foldl f s).mem = s.mem :=
  foldl_keeps (p := fun b => b.mem = s.mem) (fun b a h => (hf b a).trans h) l rfl
@[simp] theorem State.ite_mem (c : Prop) [Decidable c] (s t : State) : (if c then s else t).mem = if c then s.mem else t.mem := apply_ite State.mem c s t
theorem State.foldl_Inv {α : Type} {f : State → α → State} (hf : ∀ b a, b.Inv → (f b a).Inv) (l : List α) {s : State} (h : s.Inv) : (l.foldl f s).Inv :=
  foldl_keeps (p := State.Inv) hf l h

/-! ### Shared operations: traps, waits, caches -/

@[simp] theorem State.raiseScalar_mem (s : State) (k : Nat) (w : Warp) (code info : Nat) : (s.raiseScalar k w code info).mem = s.mem := by
  simp [State.raiseScalar]

@[simp] theorem State.raiseLane_mem (s : State) (k : Nat) (w : Warp) (st : Stream) (code info : Nat) : (s.raiseLane k w st code info).mem = s.mem := by
  simp [State.raiseLane]

@[simp] theorem State.takePend_mem (s : State) (k : Nat) : (s.takePend k).mem = s.mem := by unfold State.takePend; split <;> simp
@[simp] theorem State.resume_mem (s : State) (g : Nat) : (s.resume g).mem = s.mem := by rfl

@[simp] theorem State.leave_mem (s : State) (k : Nat) (w : Warp) (a : SetAside) : (s.leave k w a).mem = s.mem := by
  unfold State.leave
  dsimp only
  repeat' split
  all_goals simp

/-! ### Operands -/

@[simp] theorem State.trapHeld_mem (s : State) (k : Nat) (w : Warp) (st : Stream) (code info : Nat) : (s.trapHeld k w st code info).mem = s.mem := by
  simp [State.trapHeld]

@[simp] theorem State.passHeld_mem (s : State) (k : Nat) (st : Stream) : (s.passHeld k st).mem = s.mem := by unfold State.passHeld; split <;> simp
@[simp] theorem State.passScalar_mem (s : State) (k : Nat) : (s.passScalar k).mem = s.mem := by unfold State.passScalar; split <;> simp

@[simp] theorem State.endScalarWait_mem (s : State) (k : Nat) (p : SWait → Bool) : (s.endScalarWait k p).mem = s.mem := by
  unfold State.endScalarWait
  repeat' split
  all_goals simp

/-! ### Memory and the caches -/

@[simp] theorem State.install_mem (s : State) (core : Nat) (e : TlbEnt) : (s.install core e).mem = s.mem := by simp [State.install]
@[simp] theorem State.installL2_mem (s : State) (die : Nat) (p : PageEntry) : (s.installL2 die p).mem = s.mem := by rfl
@[simp] theorem State.register_mem (s : State) (word g core : Nat) : (s.register word g core).mem = s.mem := by rfl
@[simp] theorem State.sendVictim_mem (s : State) (l source q : Nat) : (s.sendVictim l source q).mem = s.mem := by rfl

@[simp] theorem State.getD_evictL2_mem (s : State) (l : Nat) : ((s.evictL2 l).getD s).mem = s.mem := by
  cases h : s.evictL2 l with
  | none => rfl
  | some t => exact State.evictL2_mem h

@[simp] theorem State.trimL2_mem (s : State) (die : Nat) : (s.trimL2 die).mem = s.mem := by
  unfold State.trimL2
  refine State.foldl_mem (fun b y => ?_) _ s
  split
  · rfl
  · split
    · simp
    · rfl

@[simp] theorem State.touchL2_mem (s : State) (l rh : Nat) : (s.touchL2 l rh).mem = s.mem := by rfl
@[simp] theorem State.voidFills_mem (s : State) (core : Nat) (ws : List Nat) : (s.voidFills core ws).mem = s.mem := by rfl
@[simp] theorem State.dropWords_mem (s : State) (core : Nat) (ws : List Nat) : (s.dropWords core ws).mem = s.mem := by simp [State.dropWords]
@[simp] theorem State.dropFilled_mem (s : State) (core l : Nat) : (s.dropFilled core l).mem = s.mem := by simp [State.dropFilled]
@[simp] theorem State.acquire_mem (s : State) (core scope : Nat) : (s.acquire core scope).mem = s.mem := by simp [State.acquire]
@[simp] theorem State.evict_mem (s : State) (core l : Nat) : (s.evict core l).mem = s.mem := by simp [State.evict]

@[simp] theorem State.touchL1_mem (s : State) (core l rh : Nat) : (s.touchL1 core l rh).mem = s.mem := by
  unfold State.touchL1
  dsimp only
  repeat' split
  all_goals simp

@[simp] theorem State.fill_mem (s : State) (core : Nat) (r : Req) (multi : Bool) : (s.fill core r multi).mem = s.mem := by simp [State.fill]
@[simp] theorem State.openWords_mem (s : State) (core g : Nat) (ws : List Nat) : (s.openWords core g ws).mem = s.mem := by simp [State.openWords]

@[simp] theorem State.storeL1_mem (s : State) (core g epoch rh : Nat) (whole : Bool) (word : Nat) (bs : List (Nat × Byte)) : (s.storeL1 core g epoch rh whole word bs).mem = s.mem := by
  simp [State.storeL1]

@[simp] theorem State.putEnd_mem (s : State) (e : EndRec) : (s.putEnd e).mem = s.mem := by rfl
@[simp] theorem State.padWrite_mem (s : State) (g a : Nat) (b : Byte) : (s.padWrite g a b).mem = s.mem := by rfl

@[simp] theorem State.localPut_mem (s : State) (g space : Nat) (a : W64) (b : Byte) : (s.localPut g space a b).mem = s.mem := by
  unfold State.localPut
  repeat' split
  all_goals simp

@[simp] theorem State.localPutN_mem (s : State) (g space : Nat) (a : W64) (n v : Nat) : (s.localPutN g space a n v).mem = s.mem := by
  induction n generalizing s a v with
  | zero => rfl
  | succ n ih => simp [State.localPutN, ih]

@[simp] theorem State.padHeal_mem (s : State) (g space : Nat) (addrs : List Nat) : (s.padHeal g space addrs).mem = s.mem := by
  unfold State.padHeal
  repeat' split
  all_goals simp

/-! ### Tags and ends -/

@[simp] theorem State.countBad_mem (s : State) : (s.countBad).mem = s.mem := by rfl
@[simp] theorem State.countLate_mem (s : State) : (s.countLate).mem = s.mem := by rfl
@[simp] theorem State.charge_mem (s : State) (fn n : Nat) : (s.charge fn n).mem = s.mem := by simp [State.charge]

@[simp] theorem State.emit_mem (s0 : State) (p : Packet) : (s0.emit p).mem = s0.mem := by
  unfold State.emit
  dsimp only
  repeat' split
  all_goals simp

@[simp] theorem State.freeTags_mem (s : State) (p : TagRec → Bool) : (s.freeTags p).mem = s.mem := by rfl
@[simp] theorem State.sendTagged_mem (s : State) (r : Req) : (s.sendTagged r).mem = s.mem := by simp [State.sendTagged, State.foldl_mem]

/-! ### Requests and queues -/

@[simp] theorem State.noticed_mem (s : State) (r : Req) (reason : Nat) (wake : Wake) : (s.noticed r reason wake).mem = s.mem := by simp [State.noticed]
@[simp] theorem State.addWalk_mem (s : State) (die fn space va : Nat) (pref : Bool) : (s.addWalk die fn space va pref).mem = s.mem := by rfl

@[simp] theorem State.missWalk_mem (s : State) (die fn space va : Nat) (pref : Bool) : (s.missWalk die fn space va pref).mem = s.mem := by
  simp [State.missWalk]

@[simp] theorem State.clearCongestion_mem (s : State) (q : Nat) : (s.clearCongestion q).mem = s.mem := by simp [State.clearCongestion]
@[simp] theorem State.wakeCleared_mem (s : State) (q : Nat) : (s.wakeCleared q).mem = s.mem := by rfl

@[simp] theorem State.grantResv_mem (s : State) (q c : Nat) : (s.grantResv q c).mem = s.mem := by
  unfold State.grantResv
  dsimp only
  repeat' split
  all_goals simp

@[simp] theorem State.leaveQueue_mem (s : State) (r : Req) : (s.leaveQueue r).mem = s.mem := by unfold State.leaveQueue; split <;> simp
@[simp] theorem State.dropReq_mem (s : State) (r : Req) : (s.dropReq r).mem = s.mem := by simp [State.dropReq]
@[simp] theorem State.cancel_mem (s : State) (iid : Nat) : (s.cancel iid).mem = s.mem := by simp [State.cancel, State.foldl_mem]

@[simp] theorem State.stopCopy_mem (s : State) (core copy cause : Nat) : (s.stopCopy core copy cause).mem = s.mem := by
  unfold State.stopCopy
  repeat' split
  all_goals simp

@[simp] theorem State.faultCopy_mem (s : State) (core copy cause : Nat) : (s.faultCopy core copy cause).mem = s.mem := by
  unfold State.faultCopy
  repeat' split
  all_goals simp

@[simp] theorem State.cancelParent_mem (s : State) (id : Nat) : (s.cancelParent id).mem = s.mem := by simp [State.cancelParent, State.foldl_mem]
@[simp] theorem State.bstat_mem (s : State) (dev msgid vf status : Nat) : (s.bstat dev msgid vf status).mem = s.mem := by simp [State.bstat]

@[simp] theorem State.fabFault_mem (s : State) (r : Req) (code : Nat) : (s.fabFault r code).mem = s.mem := by
  unfold State.fabFault
  repeat' split
  all_goals simp

@[simp] theorem State.parentFault_mem (s : State) (r : Req) (code : Nat) : (s.parentFault r code).mem = s.mem := by simp [State.parentFault]

@[simp] theorem State.performLoad_mem (s : State) (r : Req) : (s.performLoad r).mem = s.mem := by
  unfold State.performLoad
  dsimp only
  repeat' split
  all_goals simp [State.foldl_mem]

@[simp] theorem State.countLoad_mem (s : State) (r : Req) (i : Fin 9) : (s.countLoad r i).mem = s.mem := by simp [State.countLoad]
@[simp] theorem State.performPref_mem (s : State) (r : Req) : (s.performPref r).mem = s.mem := by simp [State.performPref]

@[simp] theorem State.performLocal_mem (s : State) (r : Req) : (s.performLocal r).mem = s.mem := by
  unfold State.performLocal
  dsimp only
  split
  · rfl
  · simp [State.foldl_mem]
  · split
    · rfl
    · refine foldl_keeps (p := fun x : State × List (Nat × Nat) => x.1.mem = s.mem) (fun x a hx => ?_) _ rfl
      dsimp only
      split <;> simp [hx]

@[simp] theorem State.releaseHeld_mem (s : State) (r : Req) : (s.releaseHeld r).mem = s.mem := by
  unfold State.releaseHeld
  repeat' split
  all_goals simp

@[simp] theorem State.memRace_mem (s : State) (r : Req) (xs : List Race) : (s.memRace r xs).mem = s.mem := by unfold State.memRace; split <;> simp

@[simp] theorem State.bounce_mem (s : State) (q : Nat) (r : Req) (reason : Nat) (wake : Wake) : (s.bounce q r reason wake).mem = s.mem := by
  unfold State.bounce
  repeat' split
  all_goals simp

/-! ### Tags and ends -/

theorem State.takeTags_mem {s t : State} {r : Req} (h : s.takeTags r = some t) : t.mem = s.mem := by
  unfold State.takeTags at h
  dsimp only at h
  split at h
  · cases h
  · cases h; rfl

theorem State.mem_of_tagged {s t : State} {r : Req} {c : Prop} [Decidable c] (h : (if c then s.takeTags r else some s) = some t) : t.mem = s.mem := by
  split at h
  · exact State.takeTags_mem h
  · cases h; rfl

/-! ### Requests and queues -/

@[simp] theorem State.arriveAs_mem (s : State) (q : Nat) (r : Req) (resv : Bool) : (s.arriveAs q r resv).mem = s.mem := by
  unfold State.arriveAs
  dsimp only
  split
  · simp
  · split
    · split
      · rename_i h; simpa using State.mem_of_tagged h
      · rfl
    · split
      · split
        · rename_i h; simpa using State.mem_of_tagged h
        · rfl
      · split <;> simp

@[simp] theorem State.arrive_mem (s : State) (q : Nat) (r : Req) : (s.arrive q r).mem = s.mem := by simp [State.arrive]
@[simp] theorem State.moveOn_mem (s : State) (r : Req) (q' : Nat) (resv : Bool) : (s.moveOn r q' resv).mem = s.mem := by simp [State.moveOn]
@[simp] theorem State.endAcquire_mem (s : State) (r : Req) : (s.endAcquire r).mem = s.mem := by simp [State.endAcquire]
@[simp] theorem State.dropFault_mem (s : State) (r : Req) (code : Nat) : (s.dropFault r code).mem = s.mem := by simp [State.dropFault]
@[simp] theorem State.csliceTrap_mem (s : State) (r : Req) : (s.csliceTrap r).mem = s.mem := by unfold State.csliceTrap; split <;> simp
@[simp] theorem State.offer_mem (s : State) (r : Req) : (s.offer r).mem = s.mem := by simp [State.offer]
@[simp] theorem State.ganged_mem (s : State) (r : Req) : (s.ganged r).mem = s.mem := by simp [State.ganged]

@[simp] theorem State.lookAhead_mem (s : State) (r : Req) : (s.lookAhead r).mem = s.mem := by
  unfold State.lookAhead
  repeat' split
  all_goals simp [State.foldl_mem]

@[simp] theorem State.joinChain_mem (s : State) (r : Req) : (s.joinChain r).mem = s.mem := by unfold State.joinChain; split <;> simp

@[simp] theorem State.addReqs_mem (s : State) (proto : Req) (groups : List (List Access)) : (s.addReqs proto groups).mem = s.mem := by
  induction groups generalizing s with
  | nil => rfl
  | cons g rest ih => simp [State.addReqs, ih]

/-! ### Scalar control -/

@[simp] theorem State.putBarrier_mem (s : State) (g b : Nat) (x : Barrier) : (s.putBarrier g b x).mem = s.mem := by simp [State.putBarrier]
@[simp] theorem State.tryBarrier_mem (s : State) (g b : Nat) : (s.tryBarrier g b).mem = s.mem := by simp [State.tryBarrier, State.foldl_mem]

@[simp] theorem State.countTrigger_mem (s : State) (k : Nat) : (s.countTrigger k).mem = s.mem := by
  unfold State.countTrigger
  dsimp only
  repeat' split
  all_goals simp

@[simp] theorem State.exitWarp_mem (s : State) (k : Nat) : (s.exitWarp k).mem = s.mem := by
  unfold State.exitWarp
  split
  · rfl
  · dsimp only
    split <;> simp [State.foldl_mem]

@[simp] theorem State.scalarRelease_mem (s : State) (k scope : Nat) (j : Join) : (s.scalarRelease k scope j).mem = s.mem := by
  unfold State.scalarRelease; split <;> rfl

@[simp] theorem State.continueJoin_mem (s : State) (k : Nat) (j : Join) : (s.continueJoin k j).mem = s.mem := by
  unfold State.continueJoin
  repeat' split
  all_goals simp

/-! ### Copies and rings -/

@[simp] theorem State.onCopy_mem (s : State) (core id : Nat) (f : Copy → Copy) : (s.onCopy core id f).mem = s.mem := by simp [State.onCopy]

@[simp] theorem State.sideWrite_mem (s : State) (c : Copy) (x : Shape) (a n v : Nat) : (s.sideWrite c x a n v).mem = s.mem := by
  unfold State.sideWrite
  split
  · rfl
  · dsimp only
    generalize (if x.space == 1 then 1 else 2) = code
    split
    · simp
    · rfl

@[simp] theorem State.putRing_mem (s : State) (g h : Nat) (r : Ring) : (s.putRing g h r).mem = s.mem := by rfl
@[simp] theorem State.putSync_mem (s : State) (g h i : Nat) (x : SyncWord) : (s.putSync g h i x).mem = s.mem := by rfl
@[simp] theorem State.countRing_mem (s : State) (g h i n : Nat) : (s.countRing g h i n).mem = s.mem := by simp [State.countRing]

@[simp] theorem State.copyAdvance_mem (s : State) (core : Nat) (c : Copy) : (s.copyAdvance core c).mem = s.mem := by
  unfold State.copyAdvance; split <;> simp

@[simp] theorem State.copyReply_mem (s : State) (r : Req) : (s.copyReply r).mem = s.mem := by simp [State.copyReply]

/-! ### The command front end -/

@[simp] theorem State.queueError_mem (s : State) (q : Nat) (x : Queue) (code idx : Nat) : (s.queueError q x code idx).mem = s.mem := by rfl

@[simp] theorem State.acceptPacket_mem (s : State) (q : Nat) (x : Queue) (idx p : Nat) : (s.acceptPacket q x idx p).mem = s.mem := by
  simp [State.acceptPacket]

@[simp] theorem State.onPacket_mem (s : State) (q idx : Nat) (f : QPacket → QPacket) : (s.onPacket q idx f).mem = s.mem := by rfl
@[simp] theorem State.fireCompletion_mem (s : State) (fn : Nat) (cookie : W64) : (s.fireCompletion fn cookie).mem = s.mem := by rfl
@[simp] theorem State.packetFault_mem (s : State) (fn code idx : Nat) : (s.packetFault fn code idx).mem = s.mem := by rfl

@[simp] theorem State.givePacket_mem (s : State) (q kind : Nat) : (s.givePacket q kind).mem = s.mem := by
  unfold State.givePacket
  repeat' split
  all_goals simp

/-! ### Lane memory instructions -/

@[simp] theorem State.fenceReq_mem (s : State) (r : Req) (rel acq : Bool) (scope : Nat) : (s.fenceReq r rel acq scope).mem = s.mem := by rfl

/-! ### The matrix engine -/

@[simp] theorem State.enqueueMat_mem (s : State) (core : Nat) (m : MatOp) : (s.enqueueMat core m).mem = s.mem := by simp [State.enqueueMat]
@[simp] theorem State.onMat_mem (s : State) (core n : Nat) (f : MatOp → MatOp) : (s.onMat core n f).mem = s.mem := by simp [State.onMat]
@[simp] theorem State.deferTo_mem (s : State) (k : Nat) (d : Deferred) : (s.deferTo k d).mem = s.mem := by rfl
@[simp] theorem State.matLeave_mem (s : State) (core : Nat) (m : MatOp) : (s.matLeave core m).mem = s.mem := by rfl

@[simp] theorem State.queueMove_mem (s : State) (k : Nat) (st : Stream) (x : Slot) (act : LaneMask) (kind : MatKind) (accs : List Nat) (r : Result) : (s.queueMove k st x act kind accs r).mem = s.mem := by
  simp [State.queueMove]

/-! ### Copies and rings as instructions -/

@[simp] theorem State.touchRecord_mem (s : State) (core fn space a : Nat) : (s.touchRecord core fn space a).mem = s.mem := by simp [State.touchRecord]

@[simp] theorem State.cacheRecord_mem (s : State) (core fn space a : Nat) (x : Shape) : (s.cacheRecord core fn space a x).mem = s.mem := by
  simp [State.cacheRecord]

@[simp] theorem State.acceptCopy_mem (s : State) (core : Nat) (c : Copy) : (s.acceptCopy core c).mem = s.mem := by simp [State.acceptCopy]

@[simp] theorem State.ringResult_mem (s : State) (k : Nat) (st : Stream) (d : Option Nat) (v : Nat) : (s.ringResult k st d v).mem = s.mem := by
  unfold State.ringResult; split <;> rfl

@[simp] theorem State.tryRwaitFree_mem (s : State) (k : Nat) (st : Stream) : (s.tryRwaitFree k st).mem = s.mem := by
  unfold State.tryRwaitFree
  split
  · rfl
  split
  · dsimp only
    split
    · rfl
    split
    · simp
    split
    · rw [State.passHeld_mem, State.ringResult_mem, State.acquire_mem, State.onWarp_mem, State.putRing_mem, State.putSync_mem]
    · rfl
  · rfl

@[simp] theorem State.tryRwaitFilled_mem (s : State) (k : Nat) (st : Stream) : (s.tryRwaitFilled k st).mem = s.mem := by
  unfold State.tryRwaitFilled
  repeat' split
  all_goals simp

@[simp] theorem State.followOn_mem (s : State) (core : Nat) (c : Copy) : (s.followOn core c).mem = s.mem := by unfold State.followOn; split <;> simp

/-! ### Placement -/

@[simp] theorem State.placeMember_mem (s : State) (u : PUnit) (m : Nat × Nat) (core : Nat) (x : Bind) : (s.placeMember u m core x).mem = s.mem := by
  unfold State.placeMember
  repeat' split
  all_goals simp

@[simp] theorem State.makeWarps_mem (s : State) (n : Nat) (g : Wg) (slots : List Nat) (poolb entry : Nat) (garg : W64) : (s.makeWarps n g slots poolb entry garg).mem = s.mem := by
  unfold State.makeWarps
  exact State.foldl_mem (fun b x => b.putWarp_mem _ _) _ s

@[simp] theorem State.sendAway_mem (s : State) (gs : List Nat) : (s.sendAway gs).mem = s.mem := by
  unfold State.sendAway
  exact State.foldl_mem (fun b g => b.onWg_mem _ _) _ s

@[simp] theorem State.roomFor_mem (s : State) (x : Queue) (u : PUnit) : (s.roomFor x u).mem = s.mem := by simp [State.roomFor]

/-! ### The fabric: shared operations -/

@[simp] theorem State.onEnd_mem (s : State) (k : EndKey) (f : EndRec → EndRec) : (s.onEnd k f).mem = s.mem := by rfl
@[simp] theorem State.dropEnd_mem (s : State) (k : EndKey) : (s.dropEnd k).mem = s.mem := by rfl
@[simp] theorem State.evictCtx_mem (s : State) (k : EndKey) : (s.evictCtx k).mem = s.mem := by rfl
@[simp] theorem State.claimRoom_mem (s : State) (die n : Nat) : (s.claimRoom die n).mem = s.mem := by simp [State.claimRoom, State.foldl_mem]

@[simp] theorem State.wakeEnd_mem (s : State) (k : EndKey) : (s.wakeEnd k).mem = s.mem := by
  unfold State.wakeEnd
  repeat' split
  all_goals simp

@[simp] theorem State.ensureStanding_mem (s : State) (die fn h : Nat) : (s.ensureStanding die fn h).mem = s.mem := by
  unfold State.ensureStanding
  dsimp only
  repeat' split
  all_goals simp

@[simp] theorem State.trimStanding_mem (s : State) (die fn h : Nat) : (s.trimStanding die fn h).mem = s.mem := by simp [State.trimStanding]
@[simp] theorem State.unbind_mem (s : State) (e : EndRec) : (s.unbind e).mem = s.mem := by unfold State.unbind; split <;> simp
@[simp] theorem State.onHome_mem (s : State) (k : EndKey) (f : HomeEnd → HomeEnd) : (s.onHome k f).mem = s.mem := by rfl
@[simp] theorem State.tryFree_mem (s : State) (n : Nat) : (s.tryFree n).mem = s.mem := by unfold State.tryFree; split <;> simp

@[simp] theorem State.tellHolder_mem (s : State) (moved : EndKey) (dev : Nat) : (s.tellHolder moved dev).mem = s.mem := by
  unfold State.tellHolder
  repeat' split
  all_goals simp

@[simp] theorem State.onMove_mem (s : State) (k : EndKey) (f : Moved → Moved) : (s.onMove k f).mem = s.mem := by rfl

@[simp] theorem State.creditIn_mem (s : State) (p : EndKey) (n : Nat) : (s.creditIn p n).mem = s.mem := by
  unfold State.creditIn
  dsimp only
  repeat' split
  all_goals simp

@[simp] theorem State.release_mem (s : State) (e : EndRec) (n : Nat) : (s.release e n).mem = s.mem := by simp [State.release]
@[simp] theorem State.orphanHere_mem (s : State) (k : EndKey) (last : Nat) : (s.orphanHere k last).mem = s.mem := by simp [State.orphanHere]
@[simp] theorem State.leaveEnd_mem (s : State) (k : EndKey) (lost : Bool) : (s.leaveEnd k lost).mem = s.mem := by simp [State.leaveEnd]
@[simp] theorem State.closeAtHome_mem (s : State) (k : EndKey) : (s.closeAtHome k).mem = s.mem := by simp [State.closeAtHome]

@[simp] theorem State.homeMove_mem (s : State) (k : EndKey) (gen : Nat) (m : Moved) : (s.homeMove k gen m).mem = s.mem := by
  unfold State.homeMove; split <;> simp

@[simp] theorem State.settleStore_mem (s : State) (die : Nat) : (s.settleStore die).mem = s.mem := by
  unfold State.settleStore; split <;> simp [State.foldl_mem]

/-! ### The fabric: instructions -/

@[simp] theorem State.onOp_mem (s : State) (k id : Nat) (f : FabOp → FabOp) : (s.onOp k id f).mem = s.mem := by rfl
@[simp] theorem State.fabDone_mem (s : State) (k : Nat) (o : FabOp) (vals : List Nat) : (s.fabDone k o vals).mem = s.mem := by rfl
@[simp] theorem State.failed_mem (s : State) (k : Nat) (o : FabOp) (lo n st : Nat) : (s.failed k o lo n st).mem = s.mem := by rfl
@[simp] theorem State.opFault_mem (s : State) (k : Nat) (o : FabOp) (code : Nat) : (s.opFault k o code).mem = s.mem := by simp [State.opFault]
@[simp] theorem State.fabReply_mem (s : State) (r : Req) : (s.fabReply r).mem = s.mem := by rfl
@[simp] theorem State.onMsg_mem (s : State) (src msgid : Nat) (f : RecvMsg → RecvMsg) : (s.onMsg src msgid f).mem = s.mem := by rfl
@[simp] theorem State.dropMsg_mem (s : State) (src msgid : Nat) : (s.dropMsg src msgid).mem = s.mem := by rfl

@[simp] theorem State.grantTokens_mem (n : Nat) (s : State) : (s.grantTokens n).mem = s.mem := by
  induction n generalizing s with
  | zero => rfl
  | succ n ih =>
    unfold State.grantTokens
    split
    · rfl
    · dsimp only
      split
      · rfl
      · simp [ih]

@[simp] theorem State.grants_mem (s : State) : (s.grants).mem = s.mem := by simp [State.grants]
@[simp] theorem State.endMsg_mem (s : State) (k : Nat) (m : OpenMsg) (st : Nat) : (s.endMsg k m st).mem = s.mem := by simp [State.endMsg]
@[simp] theorem State.doStopen_mem (s : State) (k : Nat) (o : FabOp) : (s.doStopen k o).mem = s.mem := by unfold State.doStopen; split <;> rfl
@[simp] theorem State.notAppended_mem (s : State) (k : Nat) (o : FabOp) (st : Nat) : (s.notAppended k o st).mem = s.mem := by rfl
@[simp] theorem State.appended_mem (s : State) (k : Nat) (o : FabOp) : (s.appended k o).mem = s.mem := by simp [State.appended]
@[simp] theorem State.recvFails_mem (s : State) (k : Nat) (o : FabOp) (st : Nat) (it : Option Item) : (s.recvFails k o st it).mem = s.mem := by rfl
@[simp] theorem State.takeCarrier_mem (s : State) (o : FabOp) : (s.takeCarrier o).mem = s.mem := by unfold State.takeCarrier; split <;> simp

@[simp] theorem State.doStquery_mem (s : State) (k : Nat) (o : FabOp) : (s.doStquery k o).mem = s.mem := by
  unfold State.doStquery
  dsimp only
  repeat' split
  all_goals simp

/-! ### Time -/

@[simp] theorem State.discipline_mem (s : State) (p : Ptp) : (s.discipline p).mem = s.mem := by rfl

/-! ### Settings -/

@[simp] theorem State.setReg_mem (s : State) (r : SetReg) (fn : Nat) (x : Setting) : (s.setReg r fn x).mem = s.mem := by
  unfold State.setReg; split <;> rfl

@[simp] theorem State.onUnlock_mem (s : State) (by_ : Mgr) (f : Unlock → Unlock) : (s.onUnlock by_ f).mem = s.mem := by rfl
@[simp] theorem State.reject_mem (s : State) (by_ : Mgr) : (s.reject by_).mem = s.mem := by rfl
@[simp] theorem State.writeUnlock_mem (s : State) (by_ : Mgr) (v : W32) : (s.writeUnlock by_ v).mem = s.mem := by simp [State.writeUnlock]

@[simp] theorem State.writeB_mem (s : State) (r : SetReg) (by_ : Mgr) (fn : Nat) (v : W32) : (s.writeB r by_ fn v).mem = s.mem := by
  unfold State.writeB
  repeat' split
  all_goals simp

@[simp] theorem State.writeX_mem (s : State) (r : SetReg) (by_ : Mgr) (fn : Nat) (v : W32) : (s.writeX r by_ fn v).mem = s.mem := by simp [State.writeX]

/-! ### Walks, queues and homes -/

theorem State.eachReq_mem (s : State) (p : Req → Bool) {f : State → Req → State} (hf : ∀ b r, (f b r).mem = b.mem) : (s.eachReq p f).mem = s.mem := by
  refine State.foldl_mem (fun b r => ?_) _ s
  split
  · split
    · exact hf ..
    · rfl
  · rfl

@[simp] theorem State.dropWalk_mem (s : State) (die : Nat) (x : Walk) : (s.dropWalk die x).mem = s.mem := by rfl

@[simp] theorem State.endWalk_mem (s : State) (die : Nat) (x : Walk) : (s.endWalk die x).mem = s.mem := by
  unfold State.endWalk
  split
  · refine (State.eachReq_mem _ _ fun b r => ?_).trans ?_
    · split
      · simp
      split <;> simp
    · simp
  · split
    · simp
    · simp [State.eachReq_mem]

@[simp] theorem State.refuseBpost_mem (s : State) (fn pg : Nat) : (s.refuseBpost fn pg).mem = s.mem := by
  refine State.foldl_mem (fun b x => ?_) _ s
  dsimp only
  split
  · split <;> simp
  · rfl

@[simp] theorem State.bounceBack_mem (s : State) (r : Req) (reason : Nat) : (s.bounceBack r reason).mem = s.mem := by
  simp [State.bounceBack, State.foldl_mem]

@[simp] theorem State.intoBuffer_mem (s : State) (r : Req) : (s.intoBuffer r).mem = s.mem := by simp [State.intoBuffer]
@[simp] theorem State.passOn_mem (s : State) (n : Nat) : (s.passOn n).mem = s.mem := by unfold State.passOn; split <;> rfl
@[simp] theorem State.markReissue_mem (s : State) (r : Req) : (s.markReissue r).mem = s.mem := by rfl
@[simp] theorem State.countReissue_mem (s : State) (r : Req) : (s.countReissue r).mem = s.mem := by simp [State.countReissue]
@[simp] theorem State.waitsAgain_mem (s : State) (q : Nat) (r : Req) : (s.waitsAgain q r).mem = s.mem := by simp [State.waitsAgain]
@[simp] theorem State.recordReply_mem (s : State) (p : Packet) (reply : List Packet) : (s.recordReply p reply).mem = s.mem := by rfl
@[simp] theorem State.respond_mem (s : State) (r : Req) : (s.respond r).mem = s.mem := by simp [State.respond, State.foldl_mem]
@[simp] theorem State.openBound_mem (s : State) (r : Req) : (s.openBound r).mem = s.mem := by simp [State.openBound]
@[simp] theorem State.lateFill_mem (s : State) (c : Nat) (r : Req) : (s.lateFill c r).mem = s.mem := by rfl
@[simp] theorem State.fillFrom_mem (s : State) (r : Req) : (s.fillFrom r).mem = s.mem := by simp [State.fillFrom, State.foldl_mem]
@[simp] theorem State.deliver_mem (s : State) (r : Req) : (s.deliver r).mem = s.mem := by rfl
@[simp] theorem State.setRel_mem (s : State) (iid n : Nat) : (s.setRel iid n).mem = s.mem := by rfl
@[simp] theorem State.riseEpoch_mem (s : State) (g : Nat) : (s.riseEpoch g).mem = s.mem := by rfl
@[simp] theorem State.refuse_mem (s : State) (r : Req) : (s.refuse r).mem = s.mem := by simp [State.refuse]
@[simp] theorem State.openRow_mem (s : State) (r : Req) (l : Nat) : (s.openRow r l).mem = s.mem := by simp [State.openRow]

/-! ### Memory and the caches -/

theorem State.insertMsc_mem {s t : State} {l : Nat} (h : s.insertMsc l = some t) : t.mem = s.mem := by
  unfold State.insertMsc at h
  dsimp only at h
  split at h
  · cases h; rfl
  split at h
  · cases h; rfl
  split at h
  · cases h; rfl
  split at h
  · cases h; simp
  · cases h

/-! ### Walks, queues and homes -/

@[simp] theorem State.serveVictim_mem (s : State) (r : Req) (q : Nat) : (s.serveVictim r q).mem = s.mem := by
  unfold State.serveVictim
  dsimp only
  split
  · split
    · rfl
    split
    · rename_i h; simpa using State.insertMsc_mem h
    · rfl
  · split
    · split <;> simp
    · rfl

/-! ### Packets of the fabric -/

@[simp] theorem State.forward_mem (s : State) (p : Packet) : (s.forward p).mem = s.mem := by
  unfold State.forward
  repeat' split
  all_goals simp

@[simp] theorem State.bouncePkt_mem (s : State) (p : Packet) (reason : Nat) : (s.bouncePkt p reason).mem = s.mem := by simp [State.bouncePkt]

theorem State.recorded_mem (s : State) (p : Packet) {f : State → State} (hf : (f s).mem = s.mem) : (s.recorded p f).mem = s.mem := by
  unfold State.recorded
  split
  · simp [State.foldl_mem]
  · split
    · rfl
    split <;> simp [hf]

@[simp] theorem State.ingress_mem (s : State) (port : Nat) (r : Req) : (s.ingress port r).mem = s.mem := by simp [State.ingress, State.foldl_mem]

theorem State.gatherGroup_mem (s : State) (p : Packet) (gpos glen : Nat) {f : State → List Packet → State} (hf : ∀ b l, (f b l).mem = b.mem) :
    (s.gatherGroup p gpos glen f).mem = s.mem := by
  unfold State.gatherGroup
  dsimp only
  split
  · split <;> simp [hf]
  · split
    · exact hf ..
    split
    · simp
    split <;> simp [hf]

@[simp] theorem State.ackBulk_mem (s : State) (p : Packet) : (s.ackBulk p).mem = s.mem := by simp [State.ackBulk]
@[simp] theorem State.giveBack_mem (s : State) (m : OpenMsg) (fn off n : Nat) : (s.giveBack m fn off n).mem = s.mem := by simp [State.giveBack]

theorem State.answered_mem (s : State) (p : Packet) {f : State → TagRec → Req → State} (hf : ∀ b t r, (f b t r).mem = b.mem) : (s.answered p f).mem = s.mem := by
  unfold State.answered
  split
  · simp
  · dsimp only
    split <;> simp [hf]

@[simp] theorem State.dropRemote_mem (s : State) (r : Req) : (s.dropRemote r).mem = s.mem := by simp [State.dropRemote]
@[simp] theorem State.answerIn_mem (s : State) (r : Req) : (s.answerIn r).mem = s.mem := by simp [State.answerIn]
@[simp] theorem State.amOutcome_mem (s : State) (r : Req) (st : Nat) : (s.amOutcome r st).mem = s.mem := by rfl

@[simp] theorem State.unknownPacket_mem (s : State) (r : Req) : (s.unknownPacket r).mem = s.mem := by
  unfold State.unknownPacket
  repeat' split
  all_goals simp

@[simp] theorem State.unreachable_mem (s : State) (r : Req) : (s.unreachable r).mem = s.mem := by simp [State.unreachable]
@[simp] theorem State.flag_mem (s : State) (port dev : Nat) : (s.flag port dev).mem = s.mem := by simp [State.flag, State.foldl_mem]
@[simp] theorem State.tellSources_mem (s : State) (port dev : Nat) : (s.tellSources port dev).mem = s.mem := by simp [State.tellSources, State.foldl_mem]

@[simp] theorem State.startHandler_mem (s : State) (fn core : Nat) (e : HandlerEnt) (place : List Nat × Nat × Nat) (payload : List Byte) (regs : List Nat) (garg : W64) (why : HandlerFor) (ctx : Option EndKey) (scope : Nat) : (s.startHandler fn core e place payload regs garg why ctx scope).mem = s.mem := by
  simp [State.startHandler]

@[simp] theorem State.bindHandler_mem (s : State) (core : Nat) (e : HandlerEnt) (p : List Nat × Nat × Nat) : (s.bindHandler core e p).mem = s.mem := by
  simp [State.bindHandler]

/-! ### Stream packets -/

@[simp] theorem State.smack_mem (s : State) (p : Packet) (osb : Nat) : (s.smack p osb).mem = s.mem := by simp [State.smack]
@[simp] theorem State.faultEnd_mem (s : State) (e : EndRec) : (s.faultEnd e).mem = s.mem := by rfl

@[simp] theorem State.startItem_mem (s : State) (e : EndRec) (b : Binding) (it : Item) (h : HandlerEnt) (core : Nat) (p : Option Nat × List Nat × Nat × Nat) (bytes : List Byte) (status : Nat) : (s.startItem e b it h core p bytes status).mem = s.mem := by
  unfold State.startItem
  repeat' split
  all_goals simp

/-! ### Switching and contexts -/

@[simp] theorem State.abortMsgs_mem (s : State) (g : Nat) : (s.abortMsgs g).mem = s.mem := by simp [State.abortMsgs, State.foldl_mem]
@[simp] theorem State.freeRoom_mem (s : State) (g : Nat) : (s.freeRoom g).mem = s.mem := by simp [State.freeRoom]
@[simp] theorem State.passClaim_mem (s : State) (g b : Nat) : (s.passClaim g b).mem = s.mem := by unfold State.passClaim; split <;> simp

@[simp] theorem State.endWg_mem (s : State) (g : Nat) : (s.endWg g).mem = s.mem := by
  simp [State.endWg]

@[simp] theorem State.faultRecord_mem (s : State) (g : Nat) : (s.faultRecord g).mem = s.mem := by unfold State.faultRecord; split <;> rfl
@[simp] theorem State.countExits_mem (s : State) (g : Nat) : (s.countExits g).mem = s.mem := by simp [State.countExits, State.foldl_mem]
@[simp] theorem State.clearMask_mem (s : State) (r : Req) : (s.clearMask r).mem = s.mem := by unfold State.clearMask; split <;> simp

@[simp] theorem State.saveReq_mem (s : State) (r : Req) : (s.saveReq r).mem = s.mem := by
  unfold State.saveReq
  dsimp only
  have hd (l : List Nat) (g : Nat) : (l.foldl (fun s w => s.deregister w g) s).mem = s.mem := State.foldl_mem (fun b w => b.deregister_mem w g) l s
  split <;> split <;> simp [hd]

@[simp] theorem State.pauseMsgs_mem (s : State) (g : Nat) : (s.pauseMsgs g).mem = s.mem := by
  refine State.foldl_mem (fun b x => ?_) _ s
  simp [State.foldl_mem]

@[simp] theorem State.seatWarps_mem (s : State) (g : Nat) (b : Bind) : (s.seatWarps g b).mem = s.mem := by rfl

/-! ### The arbiter -/

@[simp] theorem State.beginSlice_mem (s : State) (die i fn : Nat) (preempt : Bool) : (s.beginSlice die i fn preempt).mem = s.mem := by
  simp [State.beginSlice]

/-! ### The host, the mailbox and the register space -/

@[simp] theorem State.killWg_mem (s : State) (g : Nat) : (s.killWg g).mem = s.mem := by
  simp [State.killWg, State.foldl_mem]

@[simp] theorem State.resetWork_mem (s : State) (fn : Nat) : (s.resetWork fn).mem = s.mem := by simp [State.resetWork, State.foldl_mem]
@[simp] theorem State.emptyWay_mem (s : State) (part : Nat) : (s.emptyWay part).mem = s.mem := by simp [State.emptyWay, State.foldl_mem]

@[simp] theorem State.awaitSpare_mem (s : State) (k : SpareKind) (part : Nat) : (s.awaitSpare k part).mem = s.mem := by
  unfold State.awaitSpare
  repeat' split
  all_goals simp

@[simp] theorem State.management_mem (s : State) (part : Nat) : (s.management part).mem = s.mem := by rfl
@[simp] theorem State.enterSafe_mem (s : State) : (s.enterSafe).mem = s.mem := by rfl
@[simp] theorem State.respondTo_mem (s : State) (by_ : Mgr) (code status : Nat) (rest : List Byte) : (s.respondTo by_ code status rest).mem = s.mem := by rfl

@[simp] theorem State.startCommand_mem (s : State) (by_ : Mgr) (code : Nat) : (s.startCommand by_ code).mem = s.mem := by
  unfold State.startCommand
  repeat' split
  all_goals simp

@[simp] theorem State.trigger_mem (s : State) (kind : SpareKind) (part : Nat) : (s.trigger kind part).mem = s.mem := by simp [State.trigger]
@[simp] theorem State.poisonAt_mem (s : State) (x : UpsetSite) : (s.poisonAt x).mem = s.mem := by unfold State.poisonAt; split <;> simp
@[simp] theorem State.strike_mem (s : State) (p : SpareKind × Nat) : (s.strike p).mem = s.mem := by simp [State.strike]

@[simp] theorem State.perFunction_mem (s : State) (by_ : Mgr) (fn off : Nat) (v : W32) : (s.perFunction by_ fn off v).mem = s.mem := by
  unfold State.perFunction; split <;> simp

@[simp] theorem State.vfReg_mem (s : State) (by_ : Mgr) (v off : Nat) (x : W32) : (s.vfReg by_ v off x).mem = s.mem := by
  unfold State.vfReg; split <;> simp

@[simp] theorem State.writeSlice_mem (s : State) (k : Nat) (v : W32) : (s.writeSlice k v).mem = s.mem := by rfl

/-! ### What comes next -/

@[simp] theorem State.illegal_mem (s : State) (k : Nat) (w : Warp) (st : Stream) : (s.illegal k w st).mem = s.mem := by
  unfold State.illegal
  repeat' split
  all_goals simp

@[simp] theorem State.selected_mem (s : State) (k : Nat) (st : Stream) : (s.selected k st).mem = s.mem := by rfl
@[simp] theorem State.tick_mem (s : State) : (s.tick).mem = s.mem := by rfl

end Sys2Proof.Machine
end

section
/-! SUPPORT. The canonical form of memory (log 4), kept by each operation that may write memory. The operations of the section before leave memory alone. -/

namespace Sys2Proof.Machine

theorem State.ite_Inv {c : Prop} [Decidable c] {s t : State} (hs : s.Inv) (ht : t.Inv) : (if c then s else t).Inv := by split <;> assumption

@[simp] theorem State.addWalks_mem (s : State) (die fn space : Nat) (pref : Bool) (vs : List Nat) :
    (vs.foldl (fun s v => s.addWalk die fn space v pref) s).mem = s.mem :=
  State.foldl_mem (fun b v => b.addWalk_mem die fn space v pref) vs s

/-! ### Requests and queues -/

@[simp] theorem State.performStore_Inv (s : State) (r : Req) (h : s.Inv) : (s.performStore r).Inv := by
  unfold State.performStore
  extract_lets g bytes words whole l1s atHome lost s0 s1 s2
  have h0 : s0.Inv := State.foldl_Inv (fun b o hb => b.writeBackLine_Inv _ _ _ hb) _ h
  have h1 : s1.Inv := State.foldl_Inv (fun b x hb => State.Inv_of_mem hb (by simp)) _ h0
  have h2 : s2.Inv := State.ite_Inv h1 (State.Inv_of_mem (s1.homeWrite_Inv _ _ _ h1) (State.dropWords_mem ..))
  simpa [State.Inv] using h2

@[simp] theorem State.performAtom_Inv (s : State) (r : Req) (h : s.Inv) : (s.performAtom r).Inv := by
  unfold State.performAtom
  extract_lets s0 op step base out bytes s1
  have h0 : s0.Inv := s.flushLine_Inv _ _ _ h
  have h1 : s1.Inv := State.ite_Inv h0 (s0.homeWrite_Inv _ _ _ h0)
  split
  · exact h0
  · simpa [State.Inv] using h1

theorem State.flushLines_Inv (s : State) (core g : Nat) (ls : List Nat) (h : s.Inv) : (ls.foldl (fun s l => s.flushLine core g l) s).Inv :=
  State.foldl_Inv (fun b l hb => b.flushLine_Inv _ _ l hb) ls h

@[simp] theorem State.performReduce_Inv (s : State) (r : Req) (h : s.Inv) : (s.performReduce r).Inv := by
  unfold State.performReduce
  extract_lets s0 old
  have h0 : s0.Inv := s.flushLines_Inv _ _ _ h
  split
  · split
    · exact h0
    · extract_lets v s1
      have h1 : s1.Inv := State.foldl_Inv (fun b a hb => b.homeWrite_Inv _ _ _ hb) _ h0
      simpa [State.Inv, State.foldl_mem] using h1
  · exact h0

@[simp] theorem State.performCread_Inv (s : State) (r : Req) (h : s.Inv) : (s.performCread r).Inv := by
  simp [State.Inv, State.performCread, h, State.flushLine_Inv]

@[simp] theorem State.cstoreBase_Inv (s : State) (r : Req) (h : s.Inv) : (s.cstoreBase r).Inv := by
  unfold State.cstoreBase
  exact State.foldl_Inv (fun b a hb => by simp [State.Inv, hb, State.flushLine_Inv]) _ h

@[simp] theorem State.performCstore_Inv (s : State) (r : Req) (h : s.Inv) : (s.performCstore r).Inv := by
  unfold State.performCstore
  extract_lets s0 ok bad s1
  have h0 : s0.Inv := s.cstoreBase_Inv r h
  have h1 : s1.Inv := State.ite_Inv (State.foldl_Inv (fun b a hb => b.homeWrite_Inv _ _ _ hb) _ h0) h0
  simpa [State.Inv, State.foldl_mem] using h1

@[simp] theorem State.performWback_Inv (s : State) (r : Req) (h : s.Inv) : (s.performWback r).Inv := by
  unfold State.performWback
  split
  · extract_lets s1 s2
    have h1 : s1.Inv := State.ite_Inv (s.homeWrite_Inv _ _ _ h) h
    exact State.Inv_of_mem h1 (State.foldl_mem (fun b a => b.deregister_mem _ _) r.accs s1 : s2.mem = s1.mem)
  · exact s.flushLine_Inv _ _ _ h

@[simp] theorem State.perform_Inv (s : State) (r : Req) (h : s.Inv) : (s.perform r).Inv := by
  unfold State.perform; split <;> simp [State.Inv, h, State.foldl_mem]

@[simp] theorem State.drainEvictions_Inv (s : State) (core : Nat) (ls : List Nat) (h : s.Inv) : (s.drainEvictions core ls).Inv := by
  unfold State.drainEvictions
  exact State.foldl_Inv (fun b a hb => by simp [State.Inv, hb]) _ h

@[simp] theorem State.performAt_Inv (s0 : State) (r : Req) (h : s0.Inv) : (s0.performAt r).Inv := by
  unfold State.performAt
  extract_lets s ws
  have hs : s.Inv := State.foldl_Inv (fun b l hb => State.Inv_of_mem hb (b.touchL2_mem _ _)) _ (State.ite_Inv (s0.drainEvictions_Inv _ _ h) h)
  split
  · exact s.perform_Inv r hs
  · simpa [State.Inv, State.foldl_mem] using hs

@[simp] theorem State.serveL1_Inv (s : State) (r : Req) (h : s.Inv) : (s.serveL1 r).Inv := by unfold State.serveL1; split <;> simp [State.Inv, h]

@[simp] theorem State.tryGang_Inv (s : State) (iid : Nat) (h : s.Inv) : (s.tryGang iid).Inv := by
  unfold State.tryGang
  extract_lets rs s1
  have h1 : s1.Inv := State.foldl_Inv (fun b r hb => by split <;> simp [State.Inv, hb]) _ h
  clear_value s1 rs
  split
  · exact h
  split
  · exact h
  split
  · exact State.ite_Inv h1 (State.Inv_of_mem h1 (State.releaseHeld_mem ..))
  · exact State.Inv_of_mem h (State.memRace_mem ..)

@[simp] theorem State.markClear_Inv (s : State) (r : Req) (h : s.Inv) : (s.markClear r).Inv := by simp [State.Inv, State.markClear, h]

@[simp] theorem State.depart_Inv (s : State) (r : Req) (h : s.Inv) : (s.depart r).Inv := by
  unfold State.depart
  repeat' split
  all_goals simp [State.Inv, h]

@[simp] theorem State.launch_Inv (s : State) (r : Req) (h : s.Inv) : (s.launch r).Inv := by
  unfold State.launch
  split
  · exact h
  split
  · simpa [State.Inv] using h
  split
  · split
    · exact h
    split <;> simpa [State.Inv] using h
  split
  · exact h
  split
  · simpa [State.Inv] using h
  split
  · split <;> simpa [State.Inv] using h
  · split
    · simpa [State.Inv] using h
    split
    · simpa [State.Inv] using h
    · exact h
  · rename_i r0 es _
    extract_lets s0 r1
    have h0 : s0.Inv := State.Inv_of_mem h (by simp [s0, State.foldl_mem])
    split
    · simpa [State.Inv] using h0
    split
    · exact h0
    split
    · exact h0
    · exact State.depart_Inv _ _ (State.ite_Inv (State.Inv_of_mem h0 (State.releaseHeld_mem ..)) h0)

@[simp] theorem State.launchAll_Inv (s : State) (iid : Nat) (h : s.Inv) : (s.launchAll iid).Inv := by
  refine State.foldl_Inv (fun b r hb => ?_) _ h
  split
  · exact State.ite_Inv (b.launch_Inv _ hb) hb
  · exact hb

@[simp] theorem State.request_Inv (s : State) (proto : Req) (as : List Access) (h : s.Inv) : (s.request proto as).Inv := by
  simp [State.Inv, State.request, h]

/-! ### Scalar control -/

@[simp] theorem State.readPacket_Inv (s : State) (k : Nat) (d a : SReg) (h : s.Inv) : (s.readPacket k d a).Inv := by
  unfold State.readPacket; split <;> simp [State.Inv, h]

@[simp] theorem State.afterRelease_Inv (s : State) (k n : Nat) (j : Join) (h : s.Inv) : (s.afterRelease k n j).Inv := by
  unfold State.afterRelease; split <;> simp [State.Inv, h]

/-! ### Copies and rings -/

@[simp] theorem State.copyAccess_Inv (s : State) (core : Nat) (c : Copy) (kind : ReqKind) (as : List Access) (h : s.Inv) : (s.copyAccess core c kind as).Inv := by
  unfold State.copyAccess; split <;> simp [State.Inv, h]

@[simp] theorem State.copyWrite_Inv (s : State) (core : Nat) (c : Copy) (h : s.Inv) : (s.copyWrite core c).Inv := by
  unfold State.copyWrite
  repeat' split
  all_goals simp [State.Inv, h, State.foldl_mem]

@[simp] theorem State.copyRead_Inv (s : State) (core : Nat) (c : Copy) (h : s.Inv) : (s.copyRead core c).Inv := by
  unfold State.copyRead
  extract_lets ps sideOf locals globals got bad s0 c1 s1
  have h1 : s1.Inv := State.Inv_of_mem (State.ite_Inv h h : s0.Inv) (s0.onCopy_mem ..)
  split
  · split <;> simpa [State.Inv] using h1
  split
  · exact s1.copyWrite_Inv _ _ h1
  · exact s1.copyAccess_Inv _ _ _ _ h1

@[simp] theorem State.copyStep_Inv (s : State) (core : Nat) (c : Copy) (h : s.Inv) : (s.copyStep core c).Inv := by
  unfold State.copyStep; split <;> simp [State.Inv, h]

/-! ### The command front end -/

@[simp] theorem State.remoteReq_Inv (s : State) (die fn : Nat) (kind : ReqKind) (op : Option AmoOp) (a : Access) (h : s.Inv) : (s.remoteReq die fn kind op a).Inv := by
  simp [State.Inv, State.remoteReq, h]

@[simp] theorem State.fwWrite_Inv (s : State) (die fn space a n v : Nat) (h : s.Inv) : (s.fwWrite die fn space a n v).Inv := by
  unfold State.fwWrite
  repeat' split
  all_goals simp [State.Inv, h, State.vwrite_Inv]

@[simp] theorem State.fwAdd_Inv (s : State) (die fn space a v : Nat) (h : s.Inv) : (s.fwAdd die fn space a v).Inv := by
  unfold State.fwAdd
  repeat' split
  all_goals simp [State.Inv, h]

@[simp] theorem State.endPacket_Inv (s : State) (q idx : Nat) (err : Bool) (h : s.Inv) : (s.endPacket q idx err).Inv := by
  -- the kernel would evaluate `accessible` on open terms: it is made opaque first
  obtain ⟨accessible, ha⟩ : ∃ f, f = s.accessible := ⟨_, rfl⟩
  unfold State.endPacket
  rw [← ha]
  split
  · exact h
  split
  · exact h
  · extract_lets status writes s1 s2
    have h1 : s1.Inv := State.ite_Inv (s.fwWrite_Inv _ _ _ _ _ _ h) h
    have h2 : s2.Inv := State.ite_Inv h1 h1
    exact h2

@[simp] theorem State.completePacket_Inv (s : State) (q idx : Nat) (err : Bool) (h : s.Inv) : (s.completePacket q idx err).Inv := by
  -- the kernel would evaluate `unmapped` on open terms: it is made opaque first
  obtain ⟨unmapped, hu⟩ : ∃ f, f = s.unmapped := ⟨_, rfl⟩
  simp only [State.completePacket, ← hu]
  split
  · exact h
  split
  · exact s.endPacket_Inv _ _ _ h
  · exact State.foldl_Inv (fun b v hb => State.Inv_of_mem hb (b.addWalk_mem ..)) _ (State.Inv_of_mem h (s.onPacket_mem ..))

@[simp] theorem State.endPackets_Inv (s : State) (h : s.Inv) : s.endPackets.Inv := by
  refine State.foldl_Inv (fun b y hb => State.foldl_Inv (fun b p hb => ?_) _ hb) _ h
  split
  · exact State.ite_Inv (b.endPacket_Inv _ _ _ hb) hb
  · exact hb

@[simp] theorem State.tryRetireBundle_Inv (s : State) (n : Nat) (h : s.Inv) : (s.tryRetireBundle n).Inv := by
  unfold State.tryRetireBundle
  repeat' split
  all_goals simp [State.Inv, h]

@[simp] theorem State.startBundle_Inv (s : State) (n : Nat) (h : s.Inv) : (s.startBundle n).Inv := by
  unfold State.startBundle
  repeat' split
  all_goals simp [State.Inv, h]

@[simp] theorem State.stopBarrier_Inv (s : State) (q : Nat) (x : Queue) (p : QPacket) (code : Nat) (h : s.Inv) : (s.stopBarrier q x p code).Inv := by
  simp [State.Inv, State.stopBarrier, h]

@[simp] theorem State.signal_Inv (s : State) (q : Nat) (x : Queue) (p : QPacket) (h : s.Inv) : (s.signal q x p).Inv := by
  unfold State.signal
  extract_lets a
  split
  · exact s.completePacket_Inv _ _ _ h
  split
  · exact State.completePacket_Inv _ _ _ _ (s.fwAdd_Inv _ _ _ _ _ h)
  · simpa [State.Inv] using h
  · exact s.stopBarrier_Inv _ _ _ _ h

@[simp] theorem State.tryBarrierPkt_Inv (s : State) (q : Nat) (x : Queue) (p : QPacket) (h : s.Inv) : (s.tryBarrierPkt q x p).Inv := by
  unfold State.tryBarrierPkt
  extract_lets a
  split
  · exact s.signal_Inv _ _ _ h
  split
  · exact State.ite_Inv (s.signal_Inv _ _ _ h) h
  · simpa [State.Inv] using h
  · exact s.stopBarrier_Inv _ _ _ _ h

@[simp] theorem State.submit_Inv (s : State) (fn p : Nat) (h : s.Inv) : (s.submit fn p).1.Inv := by
  unfold State.submit
  dsimp only
  repeat' split
  all_goals simp [State.Inv, h]

/-! ### Copies and rings as instructions -/

@[simp] theorem State.readRecords_Inv (s : State) (k : Nat) (w : Warp) (st : Stream) (x : Slot) (act : LaneMask) (l : LaneReg) (hits : List Nat) (as : List Access) (h : s.Inv) : (s.readRecords k w st x act l hits as).Inv := by
  simp [State.Inv, State.readRecords, h, State.foldl_mem]

/-! ### The fabric: shared operations -/

@[simp] theorem State.fwSend_Inv (s : State) (p : Packet) (h : s.Inv) : (s.fwSend p).Inv := by simp [State.Inv, State.fwSend, h]

@[simp] theorem State.warpSend_Inv (s : State) (k parent : Nat) (st : Stream) (mask : LaneMask) (pc : BitVec 20) (inst : W32) (p : Packet) (h : s.Inv) : (s.warpSend k parent st mask pc inst p).Inv := by
  simp [State.Inv, State.warpSend, h]

@[simp] theorem State.homeItem_Inv (s : State) (c : EndKey) (it : Item) (h : s.Inv) : (s.homeItem c it).1.Inv := by
  unfold State.homeItem
  repeat' split
  all_goals simp +contextual [State.Inv, h, State.foldl_Inv]

@[simp] theorem State.itemIn_Inv (s : State) (c : EndKey) (gen : Nat) (it : Item) (h : s.Inv) : (s.itemIn c gen it).1.Inv := by
  unfold State.itemIn
  dsimp only
  repeat' split
  all_goals simp +contextual [State.Inv, h, State.foldl_Inv]

@[simp] theorem State.orphanBehind_Inv (s : State) (k : EndKey) (last : Option Nat) (h : s.Inv) : (s.orphanBehind k last).Inv := by
  unfold State.orphanBehind
  split
  · exact State.ite_Inv (s.itemIn_Inv _ _ _ h) (State.Inv_of_mem h (s.orphanHere_mem ..))
  · exact h

@[simp] theorem State.loseEnd_Inv (s : State) (k : EndKey) (last : Option Nat) (h : s.Inv) : (s.loseEnd k last).Inv := by
  unfold State.loseEnd
  split
  · split
    · exact h
    · extract_lets s1 s2
      have h1 : s1.Inv := State.Inv_of_mem h (s.onHome_mem ..)
      have h2 : s2.Inv := by
        simp only [s2]
        split
        · split
          · split
            · simpa [State.Inv] using h1
            split
            · simpa [State.Inv] using h1
            · exact s1.orphanBehind_Inv _ _ h1
          · simpa [State.Inv] using h1
          · exact h1
        · exact h1
      simpa [State.Inv] using h2
  · exact h

@[simp] theorem State.loseHere_Inv (s : State) (e : EndRec) (h : s.Inv) : (s.loseHere e).Inv := by
  unfold State.loseHere
  repeat' split
  all_goals simp [State.Inv, h]

@[simp] theorem State.giveUp_Inv (s : State) (k : EndKey) (h : s.Inv) : (s.giveUp k).Inv := by unfold State.giveUp; split <;> simp [State.Inv, h]

@[simp] theorem State.discard_Inv (s : State) (e : EndRec) (l : List Item) (h : s.Inv) : (s.discard e l).Inv := by
  unfold State.discard
  extract_lets s1
  have h1 : s1.Inv := State.foldl_Inv (fun b i hb => by split; exacts [State.ite_Inv hb (b.giveUp_Inv _ hb), hb]) _ h
  simpa [State.Inv] using h1

@[simp] theorem State.startMove_Inv (s : State) (e : EndRec) (h : s.Inv) : (s.startMove e).Inv := by
  unfold State.startMove
  repeat' split
  all_goals simp +contextual [State.Inv, h, State.foldl_Inv]

@[simp] theorem State.tryInstall_Inv (s : State) (k : EndKey) (h : s.Inv) : (s.tryInstall k).Inv := by
  unfold State.tryInstall
  repeat' split
  all_goals simp [State.Inv, h]

@[simp] theorem State.wakeDie_Inv (s : State) (die : Nat) (h : s.Inv) : (s.wakeDie die).Inv := by
  unfold State.wakeDie
  simp +contextual [State.Inv, h, State.foldl_Inv, State.foldl_mem]

@[simp] theorem State.resizeStore_Inv (s : State) (old : Nat) (h : s.Inv) : (s.resizeStore old).Inv := by
  unfold State.resizeStore
  repeat' split
  all_goals simp +contextual [State.Inv, h, State.foldl_Inv]

@[simp] theorem State.homeAdopt_mem (s : State) (k : EndKey) (gen dev : Nat) (store : Bool) : (s.homeAdopt k gen dev store).1.mem = s.mem := by
  unfold State.homeAdopt
  dsimp only
  repeat' split
  all_goals simp

@[simp] theorem State.adopt_Inv (s : State) (k : EndKey) (gen fn die : Nat) (h : s.Inv) : (s.adopt k gen fn die).1.Inv := by
  have hh : (s.homeAdopt k gen s.own (s.ctxCap die != 0)).1.Inv := State.Inv_of_mem h (s.homeAdopt_mem ..)
  unfold State.adopt
  extract_lets store enter
  split
  · split
    · rename_i s1 m hm
      rw [hm] at hh
      exact State.tryInstall_Inv (enter s1 m) k hh
    · exact hh
  split
  · exact h
  · exact State.fwSend_Inv _ _ h

/-! ### The fabric: instructions -/

@[simp] theorem State.fabRead_Inv (s : State) (k : Nat) (o : FabOp) (pad : Bool) (a n : Nat) (h : s.Inv) : (s.fabRead k o pad a n).Inv := by
  unfold State.fabRead
  repeat' split
  all_goals simp [State.Inv, h]

@[simp] theorem State.fabStore_Inv (s : State) (k : Nat) (o : FabOp) (pad : Bool) (a : Nat) (bs : List Byte) (h : s.Inv) : (s.fabStore k o pad a bs).Inv := by
  unfold State.fabStore
  repeat' split
  all_goals simp [State.Inv, h]

@[simp] theorem State.onSync_Inv (s : State) (fn : Nat) (p : Posted) (f : Nat → Nat) (h : s.Inv) : (s.onSync fn p f).Inv := by
  unfold State.onSync; split <;> simp [State.Inv, h, State.vwrite_Inv]

@[simp] theorem State.freeSlot_Inv (s : State) (fn slot st : Nat) (h : s.Inv) : (s.freeSlot fn slot st).Inv := by
  unfold State.freeSlot; split <;> simp [State.Inv, h]

@[simp] theorem State.abortMsg_Inv (s : State) (m : RecvMsg) (tell : Bool) (h : s.Inv) : (s.abortMsg m tell).Inv := by
  unfold State.abortMsg
  repeat' split
  all_goals simp [State.Inv, h]

@[simp] theorem State.activate_Inv (s : State) (m : RecvMsg) (h : s.Inv) : (s.activate m).Inv := by
  unfold State.activate
  repeat' split
  all_goals simp [State.Inv, h]

@[simp] theorem State.doBpost_Inv (s : State) (k : Nat) (o : FabOp) (h : s.Inv) : (s.doBpost k o).Inv := by
  have hd (t : State) (ht : t.Inv) (vs : List Nat) : (t.fabDone k o vs).Inv := State.Inv_of_mem ht (t.fabDone_mem ..)
  unfold State.doBpost
  extract_lets g b n slot taken s1 s2
  split
  · exact hd s h _
  split
  · split
    · exact hd s h _
    split
    · exact hd _ (s.abortMsg_Inv _ _ h) _
    · exact hd _ (s.freeSlot_Inv _ _ _ h) _
  split
  · exact hd s h _
  split
  · exact hd s h _
  · simpa [State.Inv] using h
  split
  · exact hd s h _
  split
  · exact s.fabStore_Inv _ _ _ _ _ h
  · have h1 : s1.Inv := State.Inv_of_mem h (s.onFn_mem ..)
    have h2 : s2.Inv := by
      simp only [s2]
      split
      · exact State.Inv_of_mem (s1.activate_Inv _ h1) (State.grants_mem _)
      · exact h1
    exact hd s2 h2 _

@[simp] theorem State.sendBulk_Inv (s : State) (k : Nat) (m : OpenMsg) (off : Nat) (bs : List Byte) (h : s.Inv) : (s.sendBulk k m off bs).Inv := by
  unfold State.sendBulk
  exact State.foldl_Inv (fun b a hb => by simp [State.Inv, hb]) _ h

@[simp] theorem State.doBsend_Inv (s : State) (k : Nat) (o : FabOp) (h : s.Inv) : (s.doBsend k o).Inv := by
  unfold State.doBsend
  extract_lets b n dev pre id m s1 fab s2
  split
  · exact State.Inv_of_mem h (s.failed_mem ..)
  split
  · exact h
  split
  · exact h
  split
  · exact s.fabRead_Inv _ _ _ _ _ h
  · have h2 : s2.Inv := State.Inv_of_mem h ((State.onWarp_mem ..).trans (State.delReq_mem ..) : s1.mem = s.mem)
    exact State.ite_Inv (s2.warpSend_Inv _ _ _ _ _ _ _ h2) (s2.sendBulk_Inv _ _ _ _ h2)

@[simp] theorem State.pumpMsg_Inv (s : State) (k : Nat) (m : OpenMsg) (h : s.Inv) : (s.pumpMsg k m).Inv := by
  unfold State.pumpMsg
  repeat' split
  all_goals simp [State.Inv, h]

theorem State.amAccept_mem {s t : State} {fn src hidx scope st : Nat} {bs : List Byte} (h : s.amAccept fn src hidx scope bs = some (t, st)) : t.mem = s.mem := by
  unfold State.amAccept at h
  dsimp only at h
  split at h
  · cases h; rfl
  split at h
  · cases h; rfl
  split at h
  · cases h
  · cases h; rfl

@[simp] theorem State.doAmsend_Inv (s : State) (k : Nat) (o : FabOp) (h : s.Inv) : (s.doAmsend k o).Inv := by
  unfold State.doAmsend
  extract_lets a dev hidx n fn give
  split
  · exact State.ite_Inv (State.Inv_of_mem h (s.fabDone_mem ..)) (s.fabRead_Inv _ _ _ _ _ h)
  · simpa [State.Inv] using h
  · exact h
  · exact h
  · split
    · split
      · rename_i ha
        exact State.Inv_of_mem (State.Inv_of_mem h (State.amAccept_mem ha)) (State.fabDone_mem ..)
      · exact State.ite_Inv h (State.Inv_of_mem h (s.onOp_mem ..))
    · exact State.Inv_of_mem (s.warpSend_Inv _ _ _ _ _ _ _ h) (State.onOp_mem ..)

@[simp] theorem State.append_Inv (s : State) (k : Nat) (o : FabOp) (e : EndRec) (it : Item) (h : s.Inv) : (s.append k o e it).Inv := by
  unfold State.append
  extract_lets s1 word d r fn s2 ids
  have h1 : s1.Inv := State.Inv_of_mem h (s.onEnd_mem ..)
  split
  · have hr : r.1.Inv := s1.itemIn_Inv _ _ _ h1
    simpa [State.Inv] using hr
  · have h2 : s2.Inv := State.foldl_Inv (fun b p hb => b.warpSend_Inv _ _ _ _ _ _ _ hb) _ h1
    simpa [State.Inv] using h2

@[simp] theorem State.doStsend_Inv (s : State) (k : Nat) (o : FabOp) (h : s.Inv) : (s.doStsend k o).Inv := by
  unfold State.doStsend
  extract_lets n
  split
  · exact State.Inv_of_mem h (s.appended_mem ..)
  split
  · exact h
  split
  · exact State.Inv_of_mem h (s.notAppended_mem ..)
  split
  · exact State.Inv_of_mem h (s.notAppended_mem ..)
  · exact h
  · exact State.ite_Inv (s.fabRead_Inv _ _ _ _ _ h) (s.append_Inv _ _ _ _ h)

@[simp] theorem State.doStrecv_Inv (s : State) (k : Nat) (o : FabOp) (h : s.Inv) : (s.doStrecv k o).Inv := by
  have hd (vs : List Nat) : (s.fabDone k o vs).Inv := State.Inv_of_mem h (s.fabDone_mem ..)
  have hf (st : Nat) (it : Option Item) : (s.recvFails k o st it).Inv := State.Inv_of_mem h (s.recvFails_mem ..)
  unfold State.doStrecv
  extract_lets g n
  split
  · simpa [State.Inv] using h
  split
  · exact hf _ _
  split
  · exact hf _ _
  split
  · exact hf _ _
  split
  · exact State.ite_Inv (hf _ _) h
  split
  · exact hf _ _
  split
  · exact hd _
  split
  · exact hd _
  split
  · exact hf _ _
  · exact State.fabStore_Inv _ _ _ _ _ _ (by simpa [State.Inv] using h)

@[simp] theorem State.appendHandle_Inv (s : State) (k : Nat) (o : FabOp) (key : EndKey) (h : s.Inv) : (s.appendHandle k o key).Inv := by
  unfold State.appendHandle; split <;> simp [State.Inv, h]

@[simp] theorem State.doStxfer_Inv (s : State) (k : Nat) (o : FabOp) (h : s.Inv) : (s.doStxfer k o).Inv := by
  have hn (t : State) (ht : t.Inv) (st : Nat) : (t.notAppended k o st).Inv := State.Inv_of_mem ht (t.notAppended_mem ..)
  unfold State.doStxfer
  extract_lets find hd stays
  have hs (e : EndRec) : (stays e).Inv := State.Inv_of_mem h (s.onEnd_mem ..)
  split
  · exact State.Inv_of_mem h (s.appended_mem ..)
  · exact h
  · exact s.appendHandle_Inv _ _ _ h
  split
  · split
    · exact hn s h _
    split
    · exact hn s h _
    split
    · exact hn _ (hs _) _
    split
    · exact State.Inv_of_mem h (s.onEnd_mem ..)
    · exact State.appendHandle_Inv _ _ _ _ (State.wakeDie_Inv _ _ (s.startMove_Inv _ h))
  · exact hn _ (hs _) _
  · exact hn s h _

@[simp] theorem State.refuseAdopt_Inv (s : State) (k : EndKey) (st : Nat) (h : s.Inv) : (s.refuseAdopt k st).Inv := by
  unfold State.refuseAdopt
  extract_lets bound spoil waits s1 s2
  have h2 : s2.Inv := State.ite_Inv (s1.giveUp_Inv k h) h
  exact State.foldl_Inv (fun b x hb => State.foldl_Inv (fun b o hb => State.Inv_of_mem hb (b.onOp_mem ..)) _ hb) _ h2

@[simp] theorem State.doStadopt_Inv (s : State) (k : Nat) (o : FabOp) (h : s.Inv) : (s.doStadopt k o).Inv := by
  unfold State.doStadopt
  extract_lets g null
  have hnull (st : Nat) : (null st).Inv := State.Inv_of_mem h (s.fabDone_mem ..)
  split
  · split
    · exact State.ite_Inv h (by simpa [State.Inv] using h)
    · exact h
  · exact State.Inv_of_mem (State.ite_Inv h (State.Inv_of_mem h (s.takeCarrier_mem ..))) (State.fabDone_mem ..)
  · split
    · exact hnull _
    rename_i e _
    split
    · exact hnull _
    split
    · exact State.ite_Inv (hnull _) h
    rename_i it _
    iterate 3
      split
      · exact hnull _
    extract_lets hd key
    have ha : (s.adopt key (fieldOf hd 82 64) g.fn g.die).1.Inv := s.adopt_Inv key _ g.fn g.die h
    split
    · exact h
    split <;> rename_i hx <;> simpa [hx, State.Inv] using ha

@[simp] theorem State.doStbind_Inv (s : State) (k : Nat) (o : FabOp) (h : s.Inv) : (s.doStbind k o).Inv := by
  have hd (t : State) (ht : t.Inv) (vs : List Nat) : (t.fabDone k o vs).Inv := State.Inv_of_mem ht (t.fabDone_mem ..)
  unfold State.doStbind
  extract_lets g b hidx kib
  split
  · exact hd s h _
  split
  · exact hd s h _
  split
  · split
    · exact hd s h _
    split
    · exact h
    split
    · exact s.fabStore_Inv _ _ _ _ _ h
    · exact hd _ (State.wakeDie_Inv _ _ (State.Inv_of_mem h (s.unbind_mem _))) _
  · iterate 4
      split
      · exact hd s h _
    split
    · exact s.fabRead_Inv _ _ _ _ _ h
    split
    · exact State.Inv_of_mem h (s.claimRoom_mem ..)
    · exact hd _ (by simpa [State.Inv] using h) _

@[simp] theorem State.doStclose_Inv (s : State) (k : Nat) (o : FabOp) (h : s.Inv) : (s.doStclose k o).Inv := by
  unfold State.doStclose
  split
  · rename_i e _
    have hd := s.discard_Inv e e.items h
    exact State.Inv_of_mem (State.wakeDie_Inv _ _ (by simpa [State.Inv] using hd)) (State.fabDone_mem ..)
  · extract_lets it d s1
    have h1 : s1.Inv := State.ite_Inv h (State.ite_Inv (s.itemIn_Inv _ _ _ h) (State.foldl_Inv (fun b p hb => b.fwSend_Inv _ hb) _ h))
    simpa [State.Inv] using h1
  · simpa [State.Inv] using h

@[simp] theorem State.advanceOp_Inv (s : State) (k : Nat) (o : FabOp) (h : s.Inv) : (s.advanceOp k o).Inv := by
  unfold State.advanceOp; split <;> simp [State.Inv, h]

/-! ### Walks, queues and homes -/

@[simp] theorem State.recordRead_Inv (s : State) (r : Req) (h : s.Inv) : (s.recordRead r).Inv := by
  have hs : (s.submit r.fn (r.boundAt 32)).1.Inv := s.submit_Inv _ _ h
  unfold State.recordRead
  split
  · split <;> rename_i hx <;> simpa [hx, State.Inv] using hs
  · extract_lets s0 s1
    have h0 : s0.Inv := State.foldl_Inv (fun b a hb => State.Inv_of_mem hb (b.touchRecord_mem ..)) _ h
    have h1 : s1.Inv := State.Inv_of_mem (State.foldl_Inv (fun b a hb => State.Inv_of_mem hb (b.cacheRecord_mem ..)) _ h0) (State.delReq_mem ..)
    exact State.ite_Inv h1 h1

@[simp] theorem State.accept_Inv (s : State) (r : Req) (h : s.Inv) : (s.accept r).Inv := by
  unfold State.accept
  repeat' split
  all_goals simp [State.Inv, h]

@[simp] theorem State.finish_Inv (s : State) (r : Req) (h : s.Inv) : (s.finish r).Inv := by
  unfold State.finish
  repeat' split
  all_goals simp [State.Inv, h]

@[simp] theorem State.releaseWrites_Inv (s : State) (k : Nat) (f : Req) (h : s.Inv) : (s.releaseWrites k f).Inv := by
  unfold State.releaseWrites
  exact State.foldl_Inv (fun b a hb => by simp [State.Inv, hb]) _ h

@[simp] theorem State.endRelease_Inv (s : State) (k : Nat) (f : Req) (h : s.Inv) : (s.endRelease k f).Inv := by
  unfold State.endRelease
  extract_lets s1 s2
  have h1 : s1.Inv := State.Inv_of_mem h (s.setRel_mem ..)
  have h2 : s2.Inv := State.ite_Inv h1 (State.Inv_of_mem h1 (s1.riseEpoch_mem _))
  split
  · exact State.Inv_of_mem h2 ((State.delReq_mem ..).trans (State.putSync_mem ..))
  · exact s2.launchAll_Inv _ h2

@[simp] theorem State.homePerform_Inv (s : State) (r : Req) (h : s.Inv) : (s.homePerform r).Inv := by
  unfold State.homePerform
  repeat' split
  all_goals simp [State.Inv, h]

@[simp] theorem State.fetched_Inv (s : State) (r : Req) (l : Nat) (resv : Bool) (h : s.Inv) : (s.fetched r l resv).Inv := by
  unfold State.fetched
  split
  · exact h
  · rename_i s1 hf
    have h1 : s1.Inv := State.Inv_of_mem h (State.fetchLine_mem hf)
    exact State.ite_Inv (State.Inv_of_mem h1 (s1.moveOn_mem ..)) (s1.homePerform_Inv r h1)

@[simp] theorem State.serve_Inv (s : State) (r : Req) (q : Nat) (resv : Bool) (h : s.Inv) : (s.serve r q resv).Inv := by
  unfold State.serve
  split
  · exact State.Inv_of_mem h (s.serveVictim_mem ..)
  split
  · simpa [State.Inv] using h
  · exact State.ite_Inv h (State.ite_Inv h (s.homePerform_Inv r h))
  · split
    · exact State.ite_Inv (s.fetched_Inv _ _ _ h) h
    · exact s.fetched_Inv _ _ _ h
  · split
    · have ho (l : Nat) : (s.openRow r l).Inv := State.Inv_of_mem h (s.openRow_mem ..)
      exact State.ite_Inv h (State.ite_Inv h (State.ite_Inv (State.ite_Inv (State.fetched_Inv _ _ _ _ (ho _)) h) (s.fetched_Inv _ _ _ h)))
    · exact s.fetched_Inv _ _ _ h
  · exact State.ite_Inv h (State.fetched_Inv _ _ _ _ h)
  · exact h

/-! ### Packets of the fabric -/

@[simp] theorem State.openRecord_Inv (s : State) (p : Packet) (h : s.Inv) : (s.openRecord p).Inv := by
  unfold State.openRecord
  split
  · exact h
  · extract_lets m fab s1
    have h1 : s1.Inv := h
    exact State.ite_Inv (State.Inv_of_mem h1 (s1.onMsg_mem ..)) (s1.activate_Inv m h1)

@[simp] theorem State.bulkBytes_Inv (s : State) (m : RecvMsg) (off : Nat) (bs : List Byte) (h : s.Inv) : (s.bulkBytes m off bs).Inv := by
  unfold State.bulkBytes
  split
  · exact h
  · extract_lets had new s1 n s2 toks m1
    have h1 : s1.Inv := State.foldl_Inv (fun b x hb => b.vwrite_Inv _ _ _ _ hb) _ h
    have h2 : s2.Inv := State.ite_Inv h1 (s1.onSync_Inv _ _ _ h1)
    split
    · exact s.abortMsg_Inv _ _ h
    split
    · simpa [State.Inv] using h2
    · exact State.freeSlot_Inv _ _ _ _ (by simpa [State.Inv] using h2)

@[simp] theorem State.loseHeldBy_Inv (s : State) (dev : Nat) (h : s.Inv) : (s.loseHeldBy dev).Inv := by
  refine State.foldl_Inv (fun b x hb => ?_) _ h
  extract_lets lose
  have hl (cons : Bool) (t : State) (ht : t.Inv) : (lose cons t).Inv := by
    simp only [lose]
    split
    · exact State.ite_Inv (t.loseEnd_Inv _ _ ht) ht
    · exact ht
  exact hl true _ (hl false _ hb)

@[simp] theorem State.homeLost_Inv (s : State) (dev : Nat) (moving : List EndKey) (h : s.Inv) : (s.homeLost dev moving).Inv := by
  refine State.foldl_Inv (fun b e hb => ?_) _ h
  split
  · extract_lets s1
    have h1 : s1.Inv := State.Inv_of_mem hb (b.dropEnd_mem _)
    exact State.ite_Inv h1 (State.Inv_of_mem h1 (s1.emit_mem _))
  · exact State.ite_Inv (b.orphanBehind_Inv _ _ hb) hb

/-! ### Stream packets -/

@[simp] theorem State.adopted_Inv (s : State) (it : Item) (fn die : Nat) (h : s.Inv) : (s.adopted it fn die).1.Inv := by
  unfold State.adopted
  extract_lets hd here
  split
  · exact h
  · rename_i k _
    have ha : (s.adopt k (fieldOf hd 82 64) fn die).1.Inv := s.adopt_Inv k _ fn die h
    split
    · exact h
    split
    · exact h
    split <;> rename_i hx <;> simpa only [hx] using ha

@[simp] theorem State.loseCarried_Inv (s : State) (it : Item) (status : Nat) (h : s.Inv) : (s.loseCarried it status).Inv := by
  unfold State.loseCarried
  repeat' split
  all_goals simp [State.Inv, h]

/-! ### Switching and contexts -/

@[simp] theorem State.releaseWg_Inv (s : State) (g : Nat) (h : s.Inv) : (s.releaseWg g).Inv := by
  unfold State.releaseWg
  exact State.foldl_Inv (fun b a hb => by simp [State.Inv, hb, State.flushLine_Inv]) _ h

@[simp] theorem State.retireInGrid_Inv (s : State) (g : Nat) (err : Bool) (h : s.Inv) : (s.retireInGrid g err).Inv := by
  have hr (b : State) (n : Nat) (hb : b.Inv) : ((b.releaseWg n).riseEpoch n).Inv := State.Inv_of_mem (b.releaseWg_Inv n hb) (State.riseEpoch_mem ..)
  unfold State.retireInGrid
  extract_lets x
  split
  · exact hr s g h
  split
  · exact h
  · extract_lets last s1 s2
    have h1 : s1.Inv := State.ite_Inv (State.foldl_Inv (fun b n hb => hr b n hb) _ h) h
    have h2 : s2.Inv := State.tryRetireBundle_Inv _ _ (State.Inv_of_mem h1 (s1.putBundle_mem ..))
    exact State.ite_Inv h2 h2

@[simp] theorem State.retireHandler_Inv (s : State) (g : Nat) (fault : Bool) (h : s.Inv) : (s.retireHandler g fault).Inv := by
  unfold State.retireHandler
  repeat' split
  all_goals simp [State.Inv, h]

@[simp] theorem State.discardWg_Inv (s : State) (g : Nat) (h : s.Inv) : (s.discardWg g).Inv := by
  unfold State.discardWg
  extract_lets s1 s2 s3
  have h1 : s1.Inv := State.Inv_of_mem h (s.abortMsgs_mem g)
  have h2 : s2.Inv := State.Inv_of_mem h1 (State.foldl_mem (fun b r => b.dropReq_mem r) _ s1)
  have h3 : s3.Inv := State.foldl_Inv (fun b o hb => by split; exacts [b.giveUp_Inv _ hb, State.Inv_of_mem hb (b.onEnd_mem ..)]) _ h2
  exact h3

@[simp] theorem State.switchOut_Inv (s : State) (g : Nat) (h : s.Inv) : (s.switchOut g).Inv := by
  simp [State.Inv, State.switchOut, h, State.foldl_mem]

@[simp] theorem State.resumeMsgs_Inv (s : State) (g : Nat) (h : s.Inv) : (s.resumeMsgs g).Inv :=
  State.foldl_Inv (fun _ _ hb => State.foldl_Inv (fun b _ hb => State.warpSend_Inv _ _ _ _ _ _ _ _ (State.Inv_of_mem hb (b.onWarp_mem ..))) _ hb) _ h

@[simp] theorem State.switchIn_Inv (s : State) (g core : Nat) (b : Bind) (h : s.Inv) : (s.switchIn g core b).Inv := by
  simp [State.Inv, State.switchIn, h]

/-! ### The host, the mailbox and the register space -/

@[simp] theorem State.hostReq_Inv (s : State) (fn : Nat) (kind : ReqKind) (as : List Access) (h : s.Inv) : (s.hostReq fn kind as).Inv := by
  simp [State.Inv, State.hostReq, h]

@[simp] theorem State.resetMemory_Inv (s : State) (fn : Nat) (h : s.Inv) : (s.resetMemory fn).Inv := by simp [State.Inv, State.resetMemory, h]

@[simp] theorem State.resetFabric_Inv (s : State) (fn : Nat) (h : s.Inv) : (s.resetFabric fn).Inv := by
  unfold State.resetFabric
  extract_lets s1 s2
  have h1 : s1.Inv := State.foldl_Inv (fun b e hb => b.loseHere_Inv e hb) _ h
  have h2 : s2.Inv := State.foldl_Inv (fun b m hb => b.abortMsg_Inv m true hb) _ h1
  exact State.Inv_of_mem h2 (s2.onFn_mem ..)

@[simp] theorem State.putSpare_Inv (s : State) (k : SpareKind) (part phys : Nat) (h : s.Inv) : (s.putSpare k part phys).Inv := by
  unfold State.putSpare
  split
  · extract_lets owners words s1
    have h1 : s1.Inv := State.foldl_Inv (fun b g hb => b.flushLines_Inv _ _ _ hb) _ h
    exact State.Inv_of_mem h1 (s1.onCore_mem ..)
  all_goals simpa [State.Inv] using h

@[simp] theorem State.substitute_Inv (s : State) (k : SpareKind) (part phys : Nat) (h : s.Inv) : (s.substitute k part phys).Inv := by
  simp [State.Inv, State.substitute, h]

@[simp] theorem State.deviceReg_Inv (s : State) (by_ : Mgr) (off : Nat) (v : W32) (h : s.Inv) : (s.deviceReg by_ off v).Inv := by
  unfold State.deviceReg; split <;> simp [State.Inv, h]

@[simp] theorem State.pfReg4_Inv (s : State) (by_ : Mgr) (off : Nat) (v : W32) (h : s.Inv) : (s.pfReg4 by_ off v).Inv := by
  unfold State.pfReg4; split <;> simp [State.Inv, h]

end Sys2Proof.Machine
end

section
/-! SUPPORT. Sound answers: an instruction stops only for want of an issuer, nothing is refused, and a next state keeps the canonical form of memory. The wrappers that issue an instruction or take a packet answer soundly where their bodies do. -/

namespace Sys2Proof.Machine

/-- An answer is sound: it keeps the canonical form of memory, stops only for want of an issuer, and refuses nothing. -/
def Out.Sound (s : State) : Out → Prop
  | .next t => s.Inv → t.Inv
  | .fault f => s.issuer = none ∧ f = .noIssuer
  | .refused _ => False

@[simp] theorem Out.sound_next (s t : State) : Out.Sound s (.next t) ↔ (Memory.wf s.mem = true → Memory.wf t.mem = true) := Iff.rfl

/-- What a scalar instruction does at its issue keeps the canonical form of memory; a trap keeps it whatever its code. -/
def SOut.Sound (s : State) : SOut → Prop
  | .done t | .jump t _ | .stay t | .final t => s.Inv → t.Inv
  | .trap _ _ => True

@[simp] theorem SOut.sound_done (s t : State) : SOut.Sound s (.done t) ↔ (Memory.wf s.mem = true → Memory.wf t.mem = true) := Iff.rfl
@[simp] theorem SOut.sound_jump (s t : State) (pc : W64) : SOut.Sound s (.jump t pc) ↔ (Memory.wf s.mem = true → Memory.wf t.mem = true) := Iff.rfl
@[simp] theorem SOut.sound_stay (s t : State) : SOut.Sound s (.stay t) ↔ (Memory.wf s.mem = true → Memory.wf t.mem = true) := Iff.rfl
@[simp] theorem SOut.sound_final (s t : State) : SOut.Sound s (.final t) ↔ (Memory.wf s.mem = true → Memory.wf t.mem = true) := Iff.rfl
@[simp] theorem SOut.sound_trap (s : State) (c i : Nat) : SOut.Sound s (.trap c i) := trivial

/-- The same for a lane instruction. -/
def LOut.Sound (s : State) : LOut → Prop
  | .done t | .stay t | .final t => s.Inv → t.Inv
  | .trap _ _ => True

@[simp] theorem LOut.sound_done (s t : State) : LOut.Sound s (.done t) ↔ (Memory.wf s.mem = true → Memory.wf t.mem = true) := Iff.rfl
@[simp] theorem LOut.sound_stay (s t : State) : LOut.Sound s (.stay t) ↔ (Memory.wf s.mem = true → Memory.wf t.mem = true) := Iff.rfl
@[simp] theorem LOut.sound_final (s t : State) : LOut.Sound s (.final t) ↔ (Memory.wf s.mem = true → Memory.wf t.mem = true) := Iff.rfl
@[simp] theorem LOut.sound_trap (s : State) (c i : Nat) : LOut.Sound s (.trap c i) := trivial

theorem scalarIssue_sound {s : State} {us : List SReg} {f : Nat → Warp → SOut} (hf : ∀ k w, (f k w).Sound s) : Out.Sound s (scalarIssue s us f) := by
  unfold scalarIssue
  split
  · exact ⟨by assumption, rfl⟩
  · rename_i k w st _
    have hk := hf k w
    split
    · cases hx : f k w with
      | trap c i => simp
      | final t => simpa [hx] using hk
      | jump t pc | done t | stay t =>
        rw [hx] at hk
        dsimp only
        split
        · simpa using hk
        · simp
    · simp

theorem laneIssue_sound {s : State} {hd : LaneHdr} {us : List Use} {f : Nat → Warp → Stream → Slot → LaneMask → LOut}
    (hf : ∀ k w st x act, (f k w st x act).Sound s) : Out.Sound s (laneIssue s hd us f) := by
  unfold laneIssue
  split
  · exact ⟨by assumption, rfl⟩
  · rename_i k w st _
    have hk := hf k w st (w.slot st) ((w.slot st).mask &&& guardMask w.rg hd)
    dsimp only
    iterate 5
      split
      · simp
    cases hx : f k w st (w.slot st) ((w.slot st).mask &&& guardMask w.rg hd) with
    | trap c i => simp
    | stay t | final t => simpa [hx] using hk
    | done t =>
      rw [hx] at hk
      dsimp only
      split
      · simpa using hk
      · simp

theorem scalarUser_sound {s : State} {us : List SReg} {f : Nat → Warp → SOut} (hf : ∀ k w, (f k w).Sound s) : Out.Sound s (scalarUser s us f) :=
  scalarIssue_sound fun k w => by split <;> simp [hf]

theorem scalarAlu_sound (s : State) (us : List SReg) (d : SReg) (f : Warp → W64) : Out.Sound s (scalarAlu s us d f) :=
  scalarIssue_sound fun k w => by simp

theorem scalarLong_sound (s : State) (us : List SReg) (d : SReg) (f : Warp → W64) : Out.Sound s (scalarLong s us d f) :=
  scalarIssue_sound fun k w => by simp

theorem laneWise_sound (s : State) (l : LaneReg) (draws : Bool) (f : LaneSrc → W32 × Flags) : Out.Sound s (laneWise s l draws f) :=
  laneIssue_sound fun k w st x act => by simp

theorem laneWiseImm_sound (s : State) (l : LaneImm) (f : LaneSrc → W32 × Flags) : Out.Sound s (laneWiseImm s l f) :=
  laneIssue_sound fun k w st x act => by simp

theorem laneCompare_sound (s : State) (l : LaneReg) (test : W32 → W32 → Bool) (f : LaneSrc → W32 × Flags) : Out.Sound s (laneCompare s l test f) := by
  unfold laneCompare
  split
  · exact laneIssue_sound fun k w st x act => by simp
  · exact laneWise_sound ..

theorem crossWhole_sound (l : LaneReg) (s : State) (f : Lanes → List Nat → Fin 32 → Option W32) : Out.Sound s (crossWhole l s f) :=
  laneIssue_sound fun k w st x act => by split <;> simp +contextual

@[simp] theorem scalarAccess_sound (s : State) (k : Nat) (w : Warp) (r : Req) (a : Access) : (s.scalarAccess k w r a).Sound s := by
  unfold State.scalarAccess
  dsimp only
  split <;> simp +contextual [State.Inv]

theorem scalarLoad_sound (sz : SSize) (lspace : Nat) (d a : SReg) (off : BitVec 11) (s : State) : Out.Sound s (scalarLoad sz lspace d a off s) :=
  scalarIssue_sound fun k w => by
    dsimp only
    split
    · split
      · simp +contextual
      · exact scalarAccess_sound ..
    · simp +contextual

theorem scalarStore_sound (sz : SSize) (lspace : Nat) (d a : SReg) (off : BitVec 11) (s : State) : Out.Sound s (scalarStore sz lspace d a off s) :=
  scalarIssue_sound fun k w => by
    dsimp only
    split
    · split
      · simp +contextual
      · exact scalarAccess_sound ..
    · simp +contextual

theorem scalarJoin_sound (j : Join) (s : State) : Out.Sound s (scalarJoin j s) :=
  scalarUser_sound fun k w => by split <;> simp +contextual

@[simp] theorem laneAccess_sound (s : State) (k : Nat) (w : Warp) (st : Stream) (h : LaneHdr) (act : LaneMask) (res : Option Result) (r : Req) (as : List Access) (hold : Bool) :
    (s.laneAccess k w st h act res r as hold).Sound s := by
  unfold State.laneAccess
  cases res <;> dsimp only
  · split
    · split <;> simp +contextual [State.Inv]
    · simp +contextual [State.Inv]
  · split
    · split <;> simp +contextual [State.Inv]
    · simp +contextual [State.Inv]

theorem laneLoad_sound (l : LaneReg) (split : Bool) (s : State) : Out.Sound s (laneLoad l split s) := by
  unfold laneLoad
  refine laneIssue_sound fun k w st x act => ?_
  dsimp only
  repeat' split
  all_goals simp

theorem fabIssue_sound (s : State) (l : LaneReg) (code : Nat) (us : List Use) (f : Nat → Warp → Stream → Slot → FabArgs) : Out.Sound s (fabIssue s l code us f) :=
  laneIssue_sound fun k w st x act => by
    dsimp only
    repeat' split
    all_goals simp +contextual

/-- The body of a copy runs after its records are in the cache, which changes no byte. -/
theorem copyIssue_sound {s : State} (l : LaneReg) (range pre : Nat → Warp → Nat) {f : State → Nat → Warp → Copy → Nat → LOut}
    (hf : ∀ t k w c a, t.mem = s.mem → (f t k w c a).Sound s) : Out.Sound s (copyIssue s l range pre f) :=
  laneIssue_sound fun k w st x act => by
    dsimp only
    repeat' split
    all_goals simp +contextual [State.Inv, hf]

theorem inbound_sound {s : State} (p : Packet) (op : Nat) {f : State → State} (hf : s.Inv → (f s).Inv) : Out.Sound s (s.inbound p op f) := by
  unfold State.inbound
  repeat' split
  all_goals simp +contextual
  exact hf

theorem onSmove_sound {s : State} (p : Packet) (ph : Nat) {f : State → State} (hf : s.Inv → (f s).Inv) : Out.Sound s (s.onSmove p ph f) :=
  inbound_sound p 7 fun h => by split; exact hf h; exact h

theorem hostAccess_sound (s : State) (fn pa n : Nat) (kind : ReqKind) (f : Nat → Nat → Access) : Out.Sound s (s.hostAccess fn pa n kind f) := by
  unfold State.hostAccess
  dsimp only
  split
  · simp +contextual
  · exact fun h => State.foldl_Inv (fun b p hb => by simp [State.Inv, hb]) _ h

theorem mailbox_sound {s : State} (by_ : Mgr) (code : Nat) (same : Bool) {f : State → State × Nat × List Byte} (hf : s.Inv → (f s).1.Inv) : Out.Sound s (mailbox s by_ code same f) := by
  unfold mailbox
  split
  · simp +contextual
  · simp; exact hf

end Sys2Proof.Machine
end

section
/-! SUPPORT. Every instruction and event answers soundly: one lemma for each meaning, and the dispatch from them. -/

namespace Sys2Proof.Machine

/-! ### Parts that several meanings share -/

@[simp] theorem moveLane_sound (s : State) (k : Nat) (w : Warp) (st : Stream) (h : LaneHdr) (pc : Nat) : (s.moveLane k w st h pc).Sound s := by
  unfold State.moveLane
  split <;> simp

@[simp] theorem scalarDest_sound (s : State) (k : Nat) (w : Warp) (st : Stream) (act : LaneMask) (l : LaneReg) (r : W32) (wide : W64) (f : Flags) :
    (scalarDest s k w st act l r wide f).Sound s := by
  unfold scalarDest
  repeat' split
  all_goals simp

@[simp] theorem State.turnedBack_mem (s t : State) (q : Nat) (r : Req) (h : s.turnedBack q r = some t) : t.mem = s.mem := by
  obtain ⟨x, -, rfl⟩ := Option.map_eq_some_iff.1 h
  split <;> simp

theorem State.recorded_Inv (s : State) (p : Packet) {f : State → State} (h : s.Inv) (hf : (f s).Inv) : (s.recorded p f).Inv := by
  unfold State.recorded
  repeat' split
  · exact State.Inv_of_mem h (by simp [State.foldl_mem])
  · exact h
  · exact State.Inv_of_mem h (by simp)
  · exact hf

@[simp] theorem State.piece_mem (s : State) (x : ItemPart) : (s.piece x).1.mem = s.mem := by
  unfold State.piece
  extract_lets
  split <;> rfl

@[simp] theorem State.freshPiece_mem (s : State) (c : EndKey) (x : ItemPart) : (s.freshPiece c x).1.mem = s.mem := by
  unfold State.freshPiece
  split <;> simp

/-! ### Lane arithmetic -/

@[simp] theorem execIcmp_sound (l : LaneReg) (s : State) : Out.Sound s (execIcmp l s) := laneCompare_sound ..
@[simp] theorem execFcmp_sound (l : LaneReg) (s : State) : Out.Sound s (execFcmp l s) := laneCompare_sound ..

/-! ### Conversions -/

@[simp] theorem execBfpq_sound (l : LaneReg) (s : State) : Out.Sound s (execBfpq l s) :=
  laneIssue_sound fun k w st x act => by simp

@[simp] theorem execMov_sound (l : LaneReg) (s : State) : Out.Sound s (execMov l s) := by
  unfold execMov
  refine laneIssue_sound fun k w st x act => ?_
  repeat' split
  all_goals simp

@[simp] theorem execMovi_sound (l : LaneImm) (s : State) : Out.Sound s (execMovi l s) := by
  unfold execMovi
  refine laneIssue_sound fun k w st x act => ?_
  repeat' split
  all_goals simp

@[simp] theorem execPlop_sound (l : LaneReg) (s : State) : Out.Sound s (execPlop l s) :=
  laneIssue_sound fun k w st x act => by simp

@[simp] theorem execSetvb_sound (l : LaneReg) (s : State) : Out.Sound s (execSetvb l s) := by
  unfold execSetvb
  refine laneIssue_sound fun k w st x act => ?_
  dsimp only
  repeat' split
  all_goals simp

@[simp] theorem execSprd_sound (l : LaneReg) (s : State) : Out.Sound s (execSprd l s) := by
  refine laneIssue_sound fun k w st x act => ?_
  split <;> simp

@[simp] theorem execLaneResultWrite_sound (k n : Nat) (s : State) : Out.Sound s (execLaneResultWrite k n s) := by
  unfold execLaneResultWrite
  split <;> simp

/-! ### Scalar arithmetic -/

@[simp] theorem execScalarResultFill_sound (k : Nat) (d : SReg) (s : State) : Out.Sound s (execScalarResultFill k d s) := by simp [execScalarResultFill]

/-! ### Scalar memory -/

@[simp] theorem execSld_sound (sz : SSize) (d a : SReg) (off : BitVec 11) (s : State) : Out.Sound s (execSld sz d a off s) := scalarLoad_sound ..

@[simp] theorem execSldPad_sound (sz : SSize) (d a : SReg) (off : BitVec 11) (s : State) : Out.Sound s (execSldPad sz d a off s) :=
  scalarLoad_sound ..

@[simp] theorem execSst_sound (sz : SSize) (d a : SReg) (off : BitVec 11) (s : State) : Out.Sound s (execSst sz d a off s) := scalarStore_sound ..

@[simp] theorem execSstPad_sound (sz : SSize) (d a : SReg) (off : BitVec 11) (s : State) : Out.Sound s (execSstPad sz d a off s) :=
  scalarStore_sound ..

@[simp] theorem execSamo_sound (op : AmoOp) (wide : Bool) (ord : MemOrder) (sys : Bool) (d a b : SReg) (s : State) : Out.Sound s (execSamo op wide ord sys d a b s) := by
  unfold execSamo
  refine scalarIssue_sound fun k w => ?_
  dsimp only
  repeat' split
  all_goals simp

/-! ### Scalar control -/

@[simp] theorem execSbr_sound (cc : SCond) (a b : SReg) (off : BitVec 11) (s : State) : Out.Sound s (execSbr cc a b off s) := by
  refine scalarIssue_sound fun k w => ?_
  split <;> simp

@[simp] theorem execSj_sound (off : BitVec 26) (s : State) : Out.Sound s (execSj off s) :=
  scalarIssue_sound fun k w => by simp

@[simp] theorem execSjal_sound (d : SReg) (off : BitVec 20) (s : State) : Out.Sound s (execSjal d off s) :=
  scalarIssue_sound fun k w => by simp

@[simp] theorem execSjr_sound (d a : SReg) (imm : BitVec 14) (s : State) : Out.Sound s (execSjr d a imm s) :=
  scalarIssue_sound fun k w => by simp

@[simp] theorem execLoop_sound (a : SReg) (c64 : Bool) (off : BitVec 16) (s : State) : Out.Sound s (execLoop a c64 off s) := by
  unfold execLoop
  refine scalarUser_sound fun k w => ?_
  dsimp only
  repeat' split
  all_goals simp

@[simp] theorem execLbrk_sound (s : State) : Out.Sound s (execLbrk s) := by
  refine scalarUser_sound fun k w => ?_
  split <;> simp

@[simp] theorem execLgo_sound (a : SReg) (pc : BitVec 20) (s : State) : Out.Sound s (execLgo a pc s) := by
  unfold execLgo
  refine scalarUser_sound fun k w => ?_
  repeat' split
  all_goals simp

@[simp] theorem execLgoUnstall_sound (k : Nat) (s : State) : Out.Sound s (execLgoUnstall k s) := by
  unfold execLgoUnstall
  repeat' split
  all_goals simp

@[simp] theorem execLarg_sound (i : BitVec 2) (a : SReg) (s : State) : Out.Sound s (execLarg i a s) :=
  scalarUser_sound fun k w => by simp

@[simp] theorem execLwaitDone_sound (k : Nat) (s : State) : Out.Sound s (execLwaitDone k s) := by
  unfold execLwaitDone
  repeat' split
  all_goals simp +contextual [State.Inv]

@[simp] theorem execLwait_sound (s : State) : Out.Sound s (execLwait s) := scalarJoin_sound ..
@[simp] theorem execSbar_sound (b : BitVec 4) (s : State) : Out.Sound s (execSbar b s) := scalarJoin_sound ..
@[simp] theorem execSbarC_sound (s : State) : Out.Sound s (execSbarC s) := scalarJoin_sound ..
@[simp] theorem execStrig_sound (s : State) : Out.Sound s (execStrig s) := scalarJoin_sound ..

@[simp] theorem execShalt_sound (s : State) : Out.Sound s (execShalt s) :=
  scalarUser_sound fun k w => by simp

@[simp] theorem execSlaunch_sound (d a : SReg) (s : State) : Out.Sound s (execSlaunch d a s) := by
  refine scalarUser_sound fun k w => ?_
  split <;> simp

@[simp] theorem execSpop_sound (d : SReg) (s : State) : Out.Sound s (execSpop d s) := by
  unfold execSpop
  refine scalarUser_sound fun k w => ?_
  repeat' split
  all_goals simp

@[simp] theorem execSpopDone_sound (k : Nat) (s : State) : Out.Sound s (execSpopDone k s) := by
  unfold execSpopDone
  repeat' split
  all_goals simp

@[simp] theorem execScsrr_sound (n : BitVec 12) (d : SReg) (s : State) : Out.Sound s (execScsrr n d s) := by
  refine scalarIssue_sound fun k w => ?_
  split <;> simp

@[simp] theorem execScsrw_sound (n : BitVec 12) (a : SReg) (s : State) : Out.Sound s (execScsrw n a s) := by
  unfold execScsrw
  refine scalarIssue_sound fun k w => ?_
  dsimp only
  repeat' split
  all_goals simp

@[simp] theorem execSetvbDone_sound (k : Nat) (st : Stream) (s : State) : Out.Sound s (execSetvbDone k st s) := by
  unfold execSetvbDone
  dsimp only
  repeat' split
  all_goals simp

@[simp] theorem execStrap_sound (code : BitVec 12) (s : State) : Out.Sound s (execStrap code s) :=
  scalarUser_sound fun k w => by simp

@[simp] theorem execSeret_sound (s : State) : Out.Sound s (execSeret s) := by
  unfold execSeret
  refine scalarIssue_sound fun k w => ?_
  repeat' split
  all_goals simp

@[simp] theorem execSnop_sound (s : State) : Out.Sound s (execSnop s) :=
  scalarIssue_sound fun k w => by simp

@[simp] theorem execSyield_sound (s : State) : Out.Sound s (execSyield s) :=
  scalarUser_sound fun k w => by simp

@[simp] theorem execSsleep_sound (a : SReg) (s : State) : Out.Sound s (execSsleep a s) :=
  scalarUser_sound fun k w => by simp

@[simp] theorem execSleepExpiry_sound (k : Nat) (s : State) : Out.Sound s (execSleepExpiry k s) := by simp [execSleepExpiry]

@[simp] theorem execSperf_sound (sel : BitVec 12) (d : SReg) (s : State) : Out.Sound s (execSperf sel d s) := by
  refine scalarUser_sound fun k w => ?_
  split <;> simp

@[simp] theorem execStime_sound (d : SReg) (s : State) : Out.Sound s (execStime d s) :=
  scalarUser_sound fun k w => by simp

@[simp] theorem execLaneBlockStart_sound (k : Nat) (s : State) : Out.Sound s (execLaneBlockStart k s) := by simp [execLaneBlockStart]

/-! ### The command front end -/

@[simp] theorem execQdoorWrite_sound (by_ : Mgr) (q : Nat) (tail : W32) (s : State) : Out.Sound s (execQdoorWrite by_ q tail s) := by
  unfold execQdoorWrite
  repeat' split
  all_goals simp

@[simp] theorem execQstatReset_sound (by_ : Mgr) (q : Nat) (s : State) : Out.Sound s (execQstatReset by_ q s) := by
  unfold execQstatReset
  repeat' split
  all_goals simp

@[simp] theorem execBatchCommit_sound (q : Nat) (s : State) : Out.Sound s (execBatchCommit q s) := by
  unfold execBatchCommit
  split
  · split
    · simp
    · cases s.scan q _ 65 [] with
      | wait => simp
      | walk vs => simp +contextual [State.foldl_mem]
      | bad c i => simp
      | batch ps =>
        dsimp only
        split
        · simp +contextual [State.foldl_mem]
        · split <;> simp +contextual [State.foldl_mem]
  · simp

@[simp] theorem execPacketStart_sound (q : Nat) (s : State) : Out.Sound s (execPacketStart q s) := by
  unfold execPacketStart
  repeat' split
  all_goals simp

@[simp] theorem execCompletionInterruptCount_sound (fn : Nat) (s : State) : Out.Sound s (execCompletionInterruptCount fn s) := by
  unfold execCompletionInterruptCount
  dsimp only
  repeat' split
  all_goals simp

@[simp] theorem execCompletionInterruptTimeout_sound (fn : Nat) (s : State) : Out.Sound s (execCompletionInterruptTimeout fn s) := by
  unfold execCompletionInterruptTimeout
  repeat' split
  all_goals simp

@[simp] theorem execLaunchBundle_sound (q : Nat) (s : State) : Out.Sound s (execLaunchBundle q s) := by
  unfold execLaunchBundle
  repeat' split
  all_goals simp +contextual [State.Inv]

@[simp] theorem execCopyPacket_sound (q : Nat) (s : State) : Out.Sound s (execCopyPacket q s) := by simp [execCopyPacket]
@[simp] theorem execWsWritePacket_sound (q : Nat) (s : State) : Out.Sound s (execWsWritePacket q s) := by simp [execWsWritePacket]

@[simp] theorem execBarrierAndSignal_sound (q : Nat) (s : State) : Out.Sound s (execBarrierAndSignal q s) := by
  unfold execBarrierAndSignal
  repeat' split
  all_goals simp +contextual [State.Inv]

@[simp] theorem execBarrierSignalWake_sound (q : Nat) (s : State) : Out.Sound s (execBarrierSignalWake q s) := by
  unfold execBarrierSignalWake
  repeat' split
  all_goals simp +contextual [State.Inv]

@[simp] theorem execInterruptPacket_sound (q : Nat) (s : State) : Out.Sound s (execInterruptPacket q s) := by
  unfold execInterruptPacket
  repeat' split
  all_goals simp +contextual [State.Inv]

@[simp] theorem execRegisterHandlerTable_sound (q : Nat) (s : State) : Out.Sound s (execRegisterHandlerTable q s) := by
  unfold execRegisterHandlerTable
  repeat' split
  all_goals simp +contextual [State.Inv]

/-! ### Lane memory instructions -/

@[simp] theorem execLd_sound (l : LaneReg) (s : State) : Out.Sound s (execLd l s) := laneLoad_sound ..
@[simp] theorem execLda_sound (l : LaneReg) (s : State) : Out.Sound s (execLda l s) := laneLoad_sound ..

@[simp] theorem execSt_sound (l : LaneReg) (s : State) : Out.Sound s (execSt l s) := by
  unfold execSt
  refine laneIssue_sound fun k w st x act => ?_
  dsimp only
  repeat' split
  all_goals simp

@[simp] theorem execWaitk_sound (l : LaneImm) (s : State) : Out.Sound s (execWaitk l s) := by
  unfold execWaitk
  refine laneIssue_sound fun k w st x act => ?_
  dsimp only
  repeat' split
  all_goals simp

@[simp] theorem execWaitkDone_sound (k : Nat) (st : Stream) (s : State) : Out.Sound s (execWaitkDone k st s) := by
  unfold execWaitkDone
  repeat' split
  all_goals simp

@[simp] theorem execLdmc_sound (l : LaneReg) (s : State) : Out.Sound s (execLdmc l s) := by
  unfold execLdmc
  refine laneIssue_sound fun k w st x act => ?_
  dsimp only
  repeat' split
  all_goals simp

@[simp] theorem execPref_sound (l : LaneReg) (s : State) : Out.Sound s (execPref l s) := by
  refine laneIssue_sound fun k w st x act => ?_
  split <;> simp +contextual [State.Inv]

@[simp] theorem execCread_sound (l : LaneReg) (s : State) : Out.Sound s (execCread l s) := by
  unfold execCread
  refine laneIssue_sound fun k w st x act => ?_
  dsimp only
  repeat' split
  all_goals simp

@[simp] theorem execCstore_sound (l : LaneReg) (s : State) : Out.Sound s (execCstore l s) := by
  unfold execCstore
  refine laneIssue_sound fun k w st x act => ?_
  dsimp only
  repeat' split
  all_goals simp

@[simp] theorem execAtom_sound (op : AmoOp) (l : LaneReg) (s : State) : Out.Sound s (execAtom op l s) := by
  unfold execAtom
  refine laneIssue_sound fun k w st x act => ?_
  dsimp only
  repeat' split
  all_goals simp

@[simp] theorem execFence_sound (l : LaneReg) (s : State) : Out.Sound s (execFence l s) := by
  unfold execFence
  refine laneIssue_sound fun k w st x act => ?_
  repeat' split
  all_goals simp

@[simp] theorem execFenceDone_sound (k : Nat) (st : Stream) (s : State) : Out.Sound s (execFenceDone k st s) := by
  unfold execFenceDone
  repeat' split
  all_goals simp

@[simp] theorem execQfence_sound (l : LaneImm) (s : State) : Out.Sound s (execQfence l s) := by
  refine laneIssue_sound fun k w st x act => ?_
  split <;> simp

@[simp] theorem execQfenceDone_sound (k : Nat) (st : Stream) (s : State) : Out.Sound s (execQfenceDone k st s) := by
  unfold execQfenceDone
  repeat' split
  all_goals simp

/-! ### The matrix engine -/

@[simp] theorem execWload_sound (l : LaneReg) (s : State) : Out.Sound s (execWload l s) := by
  unfold execWload
  refine laneIssue_sound fun k w st x act => ?_
  dsimp only
  repeat' split
  all_goals simp

@[simp] theorem execMma_sound (l : LaneReg) (s : State) : Out.Sound s (execMma l s) := by
  unfold execMma
  split
  · exact ⟨by assumption, rfl⟩
  · split
    · simp
    · refine laneIssue_sound fun k w st x act => ?_
      dsimp only
      repeat' split
      all_goals simp

@[simp] theorem execMmaStart_sound (core n : Nat) (s : State) : Out.Sound s (execMmaStart core n s) := by
  unfold execMmaStart
  dsimp only
  repeat' split
  all_goals simp

@[simp] theorem execMmaDone_sound (core n : Nat) (s : State) : Out.Sound s (execMmaDone core n s) := by
  unfold execMmaDone
  dsimp only
  repeat' split
  all_goals simp

@[simp] theorem execWloadStart_sound (core n : Nat) (s : State) : Out.Sound s (execWloadStart core n s) := by
  unfold execWloadStart
  dsimp only
  repeat' split
  all_goals simp

@[simp] theorem execWloadDone_sound (core n : Nat) (s : State) : Out.Sound s (execWloadDone core n s) := by
  unfold execWloadDone
  dsimp only
  repeat' split
  all_goals simp

@[simp] theorem execAzero_sound (l : LaneReg) (s : State) : Out.Sound s (execAzero l s) := by
  unfold execAzero
  refine laneIssue_sound fun k w st x act => ?_
  repeat' split
  all_goals simp

@[simp] theorem execAread_sound (l : LaneReg) (s : State) : Out.Sound s (execAread l s) := by
  unfold execAread
  refine laneIssue_sound fun k w st x act => ?_
  dsimp only
  split
  · simp
  · split <;> simp

@[simp] theorem execAwrite_sound (l : LaneReg) (s : State) : Out.Sound s (execAwrite l s) := by
  unfold execAwrite
  refine laneIssue_sound fun k w st x act => ?_
  repeat' split
  all_goals simp

@[simp] theorem execAccumMoveDone_sound (core n : Nat) (s : State) : Out.Sound s (execAccumMoveDone core n s) := by
  unfold execAccumMoveDone
  dsimp only
  repeat' split
  all_goals simp

/-! ### Copies and rings as instructions -/

@[simp] theorem execCpy_sound (l : LaneReg) (s : State) : Out.Sound s (execCpy l s) := by
  refine copyIssue_sound _ _ _ fun t k w c a ht => ?_
  dsimp only
  repeat' split
  all_goals simp [ht]

@[simp] theorem execCpym_sound (l : LaneReg) (s : State) : Out.Sound s (execCpym l s) := by
  refine copyIssue_sound _ _ _ fun t k w c a ht => ?_
  dsimp only
  repeat' split
  all_goals simp [ht]

@[simp] theorem execRcf_sound (l : LaneReg) (s : State) : Out.Sound s (execRcf l s) := by
  refine laneIssue_sound fun k w st x act => ?_
  split <;> simp

@[simp] theorem execRinit_sound (l : LaneReg) (s : State) : Out.Sound s (execRinit l s) := by
  refine laneIssue_sound fun k w st x act => ?_
  dsimp only
  repeat' split
  all_goals simp [State.foldl_mem]

@[simp] theorem execRwaitFree_sound (l : LaneReg) (s : State) : Out.Sound s (execRwaitFree l s) := by
  unfold execRwaitFree
  refine laneIssue_sound fun k w st x act => ?_
  dsimp only
  repeat' split
  all_goals simp

@[simp] theorem execRwaitFilled_sound (l : LaneReg) (s : State) : Out.Sound s (execRwaitFilled l s) := by
  refine laneIssue_sound fun k w st x act => ?_
  dsimp only
  split
  · repeat' split
    · simp
    · simp
    · exact fun h => State.Inv_of_mem h ((State.tryRwaitFilled_mem ..).trans ((State.putWarp_mem ..).trans (State.putRing_mem ..)))
  · simp

@[simp] theorem execRrel_sound (l : LaneReg) (s : State) : Out.Sound s (execRrel l s) := by
  unfold execRrel
  refine laneIssue_sound fun k w st x act => ?_
  dsimp only
  repeat' split
  all_goals simp

@[simp] theorem execRwaitFreeDone_sound (k : Nat) (st : Stream) (s : State) : Out.Sound s (execRwaitFreeDone k st s) := by simp [execRwaitFreeDone]
@[simp] theorem execRwaitFilledDone_sound (k : Nat) (st : Stream) (s : State) : Out.Sound s (execRwaitFilledDone k st s) := by simp [execRwaitFilledDone]

@[simp] theorem execCopyStart_sound (core g : Nat) (s : State) : Out.Sound s (execCopyStart core g s) := by
  unfold execCopyStart
  repeat' split
  all_goals simp

@[simp] theorem execCopyBytesPerformed_sound (core g : Nat) (s : State) : Out.Sound s (execCopyBytesPerformed core g s) := by
  unfold execCopyBytesPerformed
  repeat' split
  all_goals simp +contextual [State.Inv]

@[simp] theorem execCopyDone_sound (core g : Nat) (s : State) : Out.Sound s (execCopyDone core g s) := by
  unfold execCopyDone
  repeat' split
  all_goals simp +contextual [State.Inv]

/-! ### Placement -/

@[simp] theorem execDispatchWorkgroup_sound (core idx : Nat) (s : State) : Out.Sound s (execDispatchWorkgroup core idx s) := by
  unfold execDispatchWorkgroup
  dsimp only
  repeat' split
  all_goals simp

@[simp] theorem execTimedLaunch_sound (q : Nat) (s : State) : Out.Sound s (execTimedLaunch q s) := by
  unfold execTimedLaunch
  split <;> simp

@[simp] theorem execTimedLaunchEligible_sound (q : Nat) (s : State) : Out.Sound s (execTimedLaunchEligible q s) := by
  unfold execTimedLaunchEligible
  dsimp only
  repeat' split
  all_goals simp +contextual [State.Inv]

@[simp] theorem execStarvePromotion_sound (q : Nat) (s : State) : Out.Sound s (execStarvePromotion q s) := by
  unfold execStarvePromotion
  dsimp only
  repeat' split
  all_goals simp

/-! ### The fabric: instructions -/

@[simp] theorem execBpost_sound (l : LaneReg) (s : State) : Out.Sound s (execBpost l s) := fabIssue_sound ..
@[simp] theorem execBsend_sound (l : LaneReg) (s : State) : Out.Sound s (execBsend l s) := fabIssue_sound ..
@[simp] theorem execAmsend_sound (l : LaneReg) (s : State) : Out.Sound s (execAmsend l s) := fabIssue_sound ..
@[simp] theorem execStopen_sound (l : LaneReg) (s : State) : Out.Sound s (execStopen l s) := fabIssue_sound ..
@[simp] theorem execStsend_sound (l : LaneReg) (s : State) : Out.Sound s (execStsend l s) := fabIssue_sound ..
@[simp] theorem execStrecv_sound (l : LaneReg) (s : State) : Out.Sound s (execStrecv l s) := fabIssue_sound ..
@[simp] theorem execStxfer_sound (l : LaneReg) (s : State) : Out.Sound s (execStxfer l s) := fabIssue_sound ..
@[simp] theorem execStadopt_sound (l : LaneReg) (s : State) : Out.Sound s (execStadopt l s) := fabIssue_sound ..
@[simp] theorem execStbind_sound (l : LaneReg) (s : State) : Out.Sound s (execStbind l s) := fabIssue_sound ..
@[simp] theorem execStclose_sound (l : LaneReg) (s : State) : Out.Sound s (execStclose l s) := fabIssue_sound ..
@[simp] theorem execStquery_sound (l : LaneReg) (s : State) : Out.Sound s (execStquery l s) := fabIssue_sound ..

@[simp] theorem execFabricOpComplete_sound (k : Nat) (s : State) : Out.Sound s (execFabricOpComplete k s) := by
  unfold execFabricOpComplete
  split
  · simp
  · split
    · simp
    · rename_i w _ _
      extract_lets s1
      have h1 (h : s.Inv) : s1.Inv :=
        State.foldl_Inv (fun b o hb => b.doAmsend_Inv k o hb) _ (State.foldl_Inv (fun b m hb => b.pumpMsg_Inv k m hb) _ h)
      split
      · exact h1
      · split
        · exact h1
        · exact fun h => s1.advanceOp_Inv k _ (h1 h)

/-! ### Time -/

@[simp] theorem execPtpsetWrite_sound (by_ : Mgr) (v : W64) (s : State) : Out.Sound s (execPtpsetWrite by_ v s) := by
  unfold execPtpsetWrite
  repeat' split
  all_goals simp

@[simp] theorem execPtpadjWrite_sound (by_ : Mgr) (v : W64) (s : State) : Out.Sound s (execPtpadjWrite by_ v s) := by
  unfold execPtpadjWrite
  repeat' split
  all_goals simp

@[simp] theorem execPtprateWrite_sound (by_ : Mgr) (v : W64) (s : State) : Out.Sound s (execPtprateWrite by_ v s) := by
  unfold execPtprateWrite
  split <;> simp

@[simp] theorem execPtpholdWrite_sound (by_ : Mgr) (v : W64) (s : State) : Out.Sound s (execPtpholdWrite by_ v s) := by
  unfold execPtpholdWrite
  dsimp only
  repeat' split
  all_goals simp

@[simp] theorem execPtpHoldoverExpiry_sound (s : State) : Out.Sound s (execPtpHoldoverExpiry s) := by
  unfold execPtpHoldoverExpiry
  split <;> simp

@[simp] theorem execPtmRequest_sound (s : State) : Out.Sound s (execPtmRequest s) := by simp [execPtmRequest]

/-! ### Settings -/

@[simp] theorem execXunlockWrite_sound (by_ : Mgr) (v : W32) (s : State) : Out.Sound s (execXunlockWrite by_ v s) := by simp [execXunlockWrite]
@[simp] theorem execResidBWrite_sound (by_ : Mgr) (v : W32) (s : State) : Out.Sound s (execResidBWrite by_ v s) := by simp [execResidBWrite]
@[simp] theorem execResidXWrite_sound (by_ : Mgr) (v : W32) (s : State) : Out.Sound s (execResidXWrite by_ v s) := by simp [execResidXWrite]
@[simp] theorem execReplayqBWrite_sound (by_ : Mgr) (v : W32) (s : State) : Out.Sound s (execReplayqBWrite by_ v s) := by simp [execReplayqBWrite]
@[simp] theorem execReplayqXWrite_sound (by_ : Mgr) (v : W32) (s : State) : Out.Sound s (execReplayqXWrite by_ v s) := by simp [execReplayqXWrite]
@[simp] theorem execRowguardBWrite_sound (by_ : Mgr) (v : W32) (s : State) : Out.Sound s (execRowguardBWrite by_ v s) := by simp [execRowguardBWrite]
@[simp] theorem execRowguardXWrite_sound (by_ : Mgr) (v : W32) (s : State) : Out.Sound s (execRowguardXWrite by_ v s) := by simp [execRowguardXWrite]
@[simp] theorem execBulkBWrite_sound (by_ : Mgr) (v : W32) (s : State) : Out.Sound s (execBulkBWrite by_ v s) := by simp [execBulkBWrite]
@[simp] theorem execBulkXWrite_sound (by_ : Mgr) (v : W32) (s : State) : Out.Sound s (execBulkXWrite by_ v s) := by simp [execBulkXWrite]
@[simp] theorem execPowerBWrite_sound (by_ : Mgr) (v : W32) (s : State) : Out.Sound s (execPowerBWrite by_ v s) := by simp [execPowerBWrite]
@[simp] theorem execPowerXWrite_sound (by_ : Mgr) (v : W32) (s : State) : Out.Sound s (execPowerXWrite by_ v s) := by simp [execPowerXWrite]
@[simp] theorem execVfbudBWrite_sound (by_ : Mgr) (vf : Nat) (v : W32) (s : State) : Out.Sound s (execVfbudBWrite by_ vf v s) := by simp [execVfbudBWrite]
@[simp] theorem execVfbudXWrite_sound (by_ : Mgr) (vf : Nat) (v : W32) (s : State) : Out.Sound s (execVfbudXWrite by_ vf v s) := by simp [execVfbudXWrite]

@[simp] theorem execVfscopeBWrite_sound (by_ : Mgr) (vf : Nat) (v : W32) (s : State) : Out.Sound s (execVfscopeBWrite by_ vf v s) := by
  simp [execVfscopeBWrite]

@[simp] theorem execVfscopeXWrite_sound (by_ : Mgr) (vf : Nat) (v : W32) (s : State) : Out.Sound s (execVfscopeXWrite by_ vf v s) := by
  simp [execVfscopeXWrite]

@[simp] theorem execIcoalBWrite_sound (by_ : Mgr) (fn : Nat) (v : W32) (s : State) : Out.Sound s (execIcoalBWrite by_ fn v s) := by simp [execIcoalBWrite]
@[simp] theorem execIcoalXWrite_sound (by_ : Mgr) (fn : Nat) (v : W32) (s : State) : Out.Sound s (execIcoalXWrite by_ fn v s) := by simp [execIcoalXWrite]

@[simp] theorem execArbguardBWrite_sound (by_ : Mgr) (fn : Nat) (v : W32) (s : State) : Out.Sound s (execArbguardBWrite by_ fn v s) := by
  simp [execArbguardBWrite]

@[simp] theorem execArbguardXWrite_sound (by_ : Mgr) (fn : Nat) (v : W32) (s : State) : Out.Sound s (execArbguardXWrite by_ fn v s) := by
  simp [execArbguardXWrite]

@[simp] theorem execParkBWrite_sound (by_ : Mgr) (fn : Nat) (v : W32) (s : State) : Out.Sound s (execParkBWrite by_ fn v s) := by simp [execParkBWrite]
@[simp] theorem execParkXWrite_sound (by_ : Mgr) (fn : Nat) (v : W32) (s : State) : Out.Sound s (execParkXWrite by_ fn v s) := by simp [execParkXWrite]
@[simp] theorem execStidleBWrite_sound (by_ : Mgr) (fn : Nat) (v : W32) (s : State) : Out.Sound s (execStidleBWrite by_ fn v s) := by simp [execStidleBWrite]
@[simp] theorem execStidleXWrite_sound (by_ : Mgr) (fn : Nat) (v : W32) (s : State) : Out.Sound s (execStidleXWrite by_ fn v s) := by simp [execStidleXWrite]
@[simp] theorem execBudgetRefill_sound (vf : Nat) (s : State) : Out.Sound s (execBudgetRefill vf s) := by simp [execBudgetRefill]

/-! ### Walks, queues and homes -/

@[simp] theorem execWalkComplete_sound (die fn va : Nat) (s : State) : Out.Sound s (execWalkComplete die fn va s) := by
  unfold execWalkComplete
  split <;> simp

@[simp] theorem execPageMapped_sound (p : PageEntry) (s : State) : Out.Sound s (execPageMapped p s) := by
  unfold execPageMapped
  split <;> simp +contextual [State.Inv]

@[simp] theorem execPageMapRefused_sound (fn va : Nat) (s : State) : Out.Sound s (execPageMapRefused fn va s) := by
  unfold execPageMapRefused
  extract_lets pg asked spaces s1 s2
  split
  · refine fun h => State.endPackets_Inv _ (State.Inv_of_mem h ?_)
    exact (State.foldl_mem (fun b x => b.eachReq_mem _ fun b r => b.dropFault_mem r _) _ _).trans (s.refuseBpost_mem fn pg)
  · simp

@[simp] theorem execTlbInvalidation_sound (fn : Nat) (x : SpaceAddr) (s : State) : Out.Sound s (execTlbInvalidation fn x s) := by
  unfold execTlbInvalidation
  split <;> simp

@[simp] theorem execInvalidationComplete_sound (fn : Nat) (x : SpaceAddr) (s : State) : Out.Sound s (execInvalidationComplete fn x s) := by
  unfold execInvalidationComplete
  repeat' split
  all_goals simp

@[simp] theorem execSharedQueueArrival_sound (n : Nat) (s : State) : Out.Sound s (execSharedQueueArrival n s) := by
  unfold execSharedQueueArrival
  repeat' split
  all_goals simp +contextual [State.Inv]

@[simp] theorem execQueueDeparture_sound (n : Nat) (s : State) : Out.Sound s (execQueueDeparture n s) := by
  unfold execQueueDeparture
  split
  · split
    · split
      · rename_i ht
        simp [s.turnedBack_mem _ _ _ ht]
      · repeat' split
        all_goals simp
    · simp
  · simp

@[simp] theorem execResidencyExpired_sound (n : Nat) (s : State) : Out.Sound s (execResidencyExpired n s) := by
  unfold execResidencyExpired
  repeat' split
  all_goals simp

@[simp] theorem execBounceNotice_sound (n : Nat) (s : State) : Out.Sound s (execBounceNotice n s) := by
  unfold execBounceNotice
  repeat' split
  all_goals simp

@[simp] theorem execCongestionCleared_sound (q : QId) (s : State) : Out.Sound s (execCongestionCleared q s) := by simp [execCongestionCleared]

@[simp] theorem execBackoffExpiry_sound (n : Nat) (s : State) : Out.Sound s (execBackoffExpiry n s) := by
  unfold execBackoffExpiry
  repeat' split
  all_goals simp

@[simp] theorem execReservationGranted_sound (q : QId) (cls : OwnerClass) (s : State) : Out.Sound s (execReservationGranted q cls s) := by
  unfold execReservationGranted
  repeat' split
  all_goals simp +contextual [State.Inv]

@[simp] theorem execGrantLapse_sound (q : QId) (cls : OwnerClass) (s : State) : Out.Sound s (execGrantLapse q cls s) := by
  unfold execGrantLapse
  dsimp only
  repeat' split
  all_goals simp

@[simp] theorem execReplayReissue_sound (n : Nat) (s : State) : Out.Sound s (execReplayReissue n s) := by
  unfold execReplayReissue
  repeat' split
  all_goals simp +contextual [State.Inv]

@[simp] theorem execRequestReply_sound (n : Nat) (s : State) : Out.Sound s (execRequestReply n s) := by
  unfold execRequestReply
  repeat' split
  all_goals simp +contextual [State.Inv]

@[simp] theorem execReleasePart_sound (k : Nat) (s : State) : Out.Sound s (execReleasePart k s) := by
  unfold execReleasePart
  dsimp only
  repeat' split
  all_goals simp +contextual [State.Inv]

@[simp] theorem execHomeAccess_sound (n : Nat) (s : State) : Out.Sound s (execHomeAccess n s) := by
  unfold execHomeAccess
  split
  · split
    · split
      · rename_i ht
        simp [s.turnedBack_mem _ _ _ ht]
      · exact s.serve_Inv _ _ _
    · simp
  · simp

@[simp] theorem execHomeProbe_sound (n core : Nat) (s : State) : Out.Sound s (execHomeProbe n core s) := by
  unfold execHomeProbe
  dsimp only
  repeat' split
  all_goals simp +contextual [State.Inv]

@[simp] theorem execHbmRefreshDue_sound (ch bank : Nat) (s : State) : Out.Sound s (execHbmRefreshDue ch bank s) := by
  unfold execHbmRefreshDue
  dsimp only
  repeat' split
  all_goals simp

@[simp] theorem execPostponedRefresh_sound (ch bank : Nat) (s : State) : Out.Sound s (execPostponedRefresh ch bank s) := by
  unfold execPostponedRefresh
  dsimp only
  repeat' split
  all_goals simp

@[simp] theorem execRowThresholdReached_sound (vf ch bank row : Nat) (s : State) : Out.Sound s (execRowThresholdReached vf ch bank row s) := by
  unfold execRowThresholdReached
  dsimp only
  repeat' split
  all_goals simp

@[simp] theorem execRowCountClear_sound (edge : Nat) (s : State) : Out.Sound s (execRowCountClear edge s) := by simp [execRowCountClear]
@[simp] theorem execWeightRefreshWindow_sound (die : Nat) (s : State) : Out.Sound s (execWeightRefreshWindow die s) := by simp [execWeightRefreshWindow]

/-! ### Packets of the fabric -/

@[simp] theorem execFabricForward_sound (port : Nat) (p : Packet) (s : State) : Out.Sound s (execFabricForward port p s) := by
  unfold execFabricForward
  repeat' split
  all_goals simp

@[simp] theorem execFmManagement_sound (f : FmWrite) (s : State) : Out.Sound s (execFmManagement f s) := by
  unfold execFmManagement
  repeat' split
  all_goals simp

@[simp] theorem execFabricRd_sound (port : Nat) (p : Packet) (s : State) : Out.Sound s (execFabricRd port p s) := by
  refine inbound_sound _ _ fun h => ?_
  simp [State.Inv, h]

@[simp] theorem execFabricWr_sound (port : Nat) (p : Packet) (s : State) : Out.Sound s (execFabricWr port p s) :=
  inbound_sound _ _ fun h => State.recorded_Inv s p h (by simp [State.Inv, h])

@[simp] theorem execFabricAtomGroup_sound (port : Nat) (p : Packet) (s : State) : Out.Sound s (execFabricAtomGroup port p s) :=
  inbound_sound _ _ fun h => State.Inv_of_mem h <| s.recorded_mem p <| s.gatherGroup_mem _ _ _ fun b l => by simp

@[simp] theorem execFabricCstGroup_sound (port : Nat) (p : Packet) (s : State) : Out.Sound s (execFabricCstGroup port p s) :=
  inbound_sound _ _ fun h => State.Inv_of_mem h <| s.recorded_mem p <| s.gatherGroup_mem _ _ _ fun b l => by simp

@[simp] theorem execGroupTimeout_sound (src tag gen : Nat) (s : State) : Out.Sound s (execGroupTimeout src tag gen s) := by simp [execGroupTimeout]

@[simp] theorem execFabricBdata_sound (port : Nat) (p : Packet) (s : State) : Out.Sound s (execFabricBdata port p s) := by
  refine inbound_sound _ _ fun h => State.recorded_Inv s p h ?_
  dsimp only
  split
  · split <;> simp [State.Inv, h]
  · simp [State.Inv, h]

@[simp] theorem execFabricBreq_sound (port : Nat) (p : Packet) (s : State) : Out.Sound s (execFabricBreq port p s) := by
  refine inbound_sound _ _ fun h => State.recorded_Inv s p h ?_
  dsimp only
  split <;> simp [State.Inv, h]

@[simp] theorem execFabricAmsg_sound (port : Nat) (p : Packet) (s : State) : Out.Sound s (execFabricAmsg port p s) := by
  refine inbound_sound _ _ fun h => State.recorded_Inv s p h ?_
  split
  · rename_i hs
    exact State.Inv_of_mem h (by simp [State.amAccept_mem hs])
  · simp [State.Inv, h]

@[simp] theorem execFabricReturn_sound (port : Nat) (p : Packet) (s : State) : Out.Sound s (execFabricReturn port p s) := by
  refine inbound_sound _ _ fun h => ?_
  simp [State.Inv, h]

@[simp] theorem execTokenExpiry_sound (src msg off : Nat) (s : State) : Out.Sound s (execTokenExpiry src msg off s) := by
  unfold execTokenExpiry
  dsimp only
  repeat' split
  all_goals simp +contextual [State.Inv]

@[simp] theorem execPrioAging_sound (src msg : Nat) (s : State) : Out.Sound s (execPrioAging src msg s) := by
  unfold execPrioAging
  repeat' split
  all_goals simp

@[simp] theorem execFabricGrant_sound (port : Nat) (p : Packet) (s : State) : Out.Sound s (execFabricGrant port p s) := by
  unfold execFabricGrant
  refine inbound_sound _ _ fun h => ?_
  repeat' split
  all_goals simp [State.Inv, h]

@[simp] theorem execFabricBstat_sound (port : Nat) (p : Packet) (s : State) : Out.Sound s (execFabricBstat port p s) := by
  unfold execFabricBstat
  refine inbound_sound _ _ fun h => ?_
  dsimp only
  repeat' split
  all_goals simp [State.Inv, h]

@[simp] theorem execFabricRdr_sound (port : Nat) (p : Packet) (s : State) : Out.Sound s (execFabricRdr port p s) :=
  inbound_sound _ _ fun h => State.Inv_of_mem h <| s.answered_mem p fun b t r => by simp

@[simp] theorem execFabricWack_sound (port : Nat) (p : Packet) (s : State) : Out.Sound s (execFabricWack port p s) :=
  inbound_sound _ _ fun h => State.Inv_of_mem h <| s.answered_mem p fun b t r => by simp

@[simp] theorem execFabricAtomr_sound (port : Nat) (p : Packet) (s : State) : Out.Sound s (execFabricAtomr port p s) :=
  inbound_sound _ _ fun h => State.Inv_of_mem h <| s.answered_mem p fun b t r => by simp

@[simp] theorem execFabricCstr_sound (port : Nat) (p : Packet) (s : State) : Out.Sound s (execFabricCstr port p s) :=
  inbound_sound _ _ fun h => State.Inv_of_mem h <| s.answered_mem p fun b t r => by simp

@[simp] theorem execFabricAmack_sound (port : Nat) (p : Packet) (s : State) : Out.Sound s (execFabricAmack port p s) :=
  inbound_sound _ _ fun h => State.Inv_of_mem h <| s.answered_mem p fun b t r => by simp

@[simp] theorem execFabricBounce_sound (port : Nat) (p : Packet) (s : State) : Out.Sound s (execFabricBounce port p s) :=
  inbound_sound _ _ fun h => State.Inv_of_mem h <| s.answered_mem p fun b t r => by dsimp only; split <;> simp

@[simp] theorem execResendTimer_sound (n : Nat) (s : State) : Out.Sound s (execResendTimer n s) := by simp [State.foldl_mem, execResendTimer]

@[simp] theorem execReplyCacheExpiry_sound (src tag gen : Nat) (s : State) : Out.Sound s (execReplyCacheExpiry src tag gen s) := by
  simp [execReplyCacheExpiry]

@[simp] theorem execRequestUnanswered_sound (n : Nat) (s : State) : Out.Sound s (execRequestUnanswered n s) := by
  unfold execRequestUnanswered
  repeat' split
  all_goals simp

@[simp] theorem execDestUnreachable_sound (dev : Nat) (s : State) : Out.Sound s (execDestUnreachable dev s) := by
  unfold execDestUnreachable
  split
  · simp
  · extract_lets fab s0 s1 s2 s3
    intro h
    have h1 : s1.Inv := State.foldl_Inv (fun b x hb => b.refuseAdopt_Inv x.1 stORPHAN hb) _ (s := s0) h
    have h2 : s2.Inv := State.Inv_of_mem h1 (s1.eachReq_mem _ State.unreachable_mem)
    have h3 : s3.Inv := State.Inv_of_mem h2 (State.foldl_mem (fun b (x : Nat × Warp) => State.foldl_mem (fun c m => c.endMsg_mem x.1 m _) _ _) _ _)
    exact State.homeLost_Inv _ _ _ (s3.loseHeldBy_Inv dev h3)

@[simp] theorem execDestinationCongested_sound (port dev : Nat) (s : State) : Out.Sound s (execDestinationCongested port dev s) := by
  unfold execDestinationCongested
  split <;> simp

@[simp] theorem execFabricCong_sound (port : Nat) (p : Packet) (s : State) : Out.Sound s (execFabricCong port p s) := by
  unfold execFabricCong
  refine inbound_sound _ _ fun h => ?_
  simp [State.Inv, State.foldl_mem, h]

@[simp] theorem execCongestionWithdraw_sound (port dev : Nat) (s : State) : Out.Sound s (execCongestionWithdraw port dev s) := by
  unfold execCongestionWithdraw
  repeat' split
  all_goals simp

/-! ### Stream packets -/

@[simp] theorem execSitem_sound (port : Nat) (p : Packet) (s : State) : Out.Sound s (execSitem port p s) := by
  refine inbound_sound _ _ fun h => ?_
  dsimp only
  split <;> simp [State.Inv, h]

@[simp] theorem execSack_sound (port : Nat) (p : Packet) (s : State) : Out.Sound s (execSack port p s) :=
  inbound_sound _ _ fun h => State.Inv_of_mem h <| s.answered_mem p fun b t r => by dsimp only; split <;> simp

@[simp] theorem execScred_sound (port : Nat) (p : Packet) (s : State) : Out.Sound s (execScred port p s) := by
  refine inbound_sound _ _ fun h => ?_
  simp [State.Inv, h]

@[simp] theorem execSloc_sound (port : Nat) (p : Packet) (s : State) : Out.Sound s (execSloc port p s) := by
  unfold execSloc
  refine inbound_sound _ _ fun h => ?_
  dsimp only
  repeat' split
  all_goals simp [State.Inv, h]

@[simp] theorem execSorph_sound (port : Nat) (p : Packet) (s : State) : Out.Sound s (execSorph port p s) := by
  unfold execSorph
  refine inbound_sound _ _ fun h => ?_
  dsimp only
  repeat' split
  all_goals simp [State.Inv, h]

@[simp] theorem execSmoveMove_sound (port : Nat) (p : Packet) (s : State) : Out.Sound s (execSmoveMove port p s) := by
  refine onSmove_sound _ _ fun h => ?_
  simp [State.Inv, h]

@[simp] theorem execSmoveCtx_sound (port : Nat) (p : Packet) (s : State) : Out.Sound s (execSmoveCtx port p s) := by
  unfold execSmoveCtx
  refine onSmove_sound _ _ fun h => ?_
  dsimp only
  repeat' split
  all_goals simp [State.Inv, h]

@[simp] theorem execSmoveAdopt_sound (port : Nat) (p : Packet) (s : State) : Out.Sound s (execSmoveAdopt port p s) := by
  refine onSmove_sound _ _ fun h => ?_
  extract_lets k dev gen
  split
  · simpa [State.Inv] using h
  · have hm := s.homeAdopt_mem k gen dev (osbField p 76 69 != 0)
    split <;> rename_i heq <;> rw [heq] at hm
    · exact State.Inv_of_mem h hm
    · exact State.fwSend_Inv _ _ (State.Inv_of_mem h ((State.smack_mem ..).trans hm))
    · exact State.foldl_Inv (fun b q hb => b.fwSend_Inv q hb) _ (State.Inv_of_mem h ((State.smack_mem ..).trans hm))

@[simp] theorem execSmovePlace_sound (port : Nat) (p : Packet) (s : State) : Out.Sound s (execSmovePlace port p s) := by
  unfold execSmovePlace
  refine onSmove_sound _ _ fun h => ?_
  dsimp only
  repeat' split
  all_goals simp [State.Inv, h]

@[simp] theorem execSmoveItems_sound (port : Nat) (p : Packet) (s : State) : Out.Sound s (execSmoveItems port p s) := by
  refine onSmove_sound _ _ fun h => ?_
  dsimp only
  repeat' split
  all_goals simp [State.Inv, h]

@[simp] theorem execSmack_sound (port : Nat) (p : Packet) (s : State) : Out.Sound s (execSmack port p s) :=
  inbound_sound _ _ fun h => State.Inv_of_mem h <| s.answered_mem p fun b t r => by dsimp only; split <;> simp

@[simp] theorem execFrozenRecordRelease_sound (k : EndKey) (s : State) : Out.Sound s (execFrozenRecordRelease k s) := by
  unfold execFrozenRecordRelease
  dsimp only
  repeat' split
  all_goals simp

@[simp] theorem execContextIdleTimeout_sound (k : EndKey) (s : State) : Out.Sound s (execContextIdleTimeout k s) := by
  unfold execContextIdleTimeout
  repeat' split
  all_goals simp

@[simp] theorem execContextEvictionDone_sound (k : EndKey) (s : State) : Out.Sound s (execContextEvictionDone k s) := by
  unfold execContextEvictionDone
  repeat' split
  all_goals simp +contextual [State.Inv]

@[simp] theorem execContextReloadDone_sound (k : EndKey) (s : State) : Out.Sound s (execContextReloadDone k s) := by
  unfold execContextReloadDone
  repeat' split
  all_goals simp

@[simp] theorem execCtxstoreBWrite_sound (by_ : Mgr) (v : W32) (s : State) : Out.Sound s (execCtxstoreBWrite by_ v s) := by
  simp +contextual [State.Inv, execCtxstoreBWrite]

@[simp] theorem execCtxstoreXWrite_sound (by_ : Mgr) (v : W32) (s : State) : Out.Sound s (execCtxstoreXWrite by_ v s) := by
  simp +contextual [State.Inv, execCtxstoreXWrite]

/-! ### Switching and contexts -/

@[simp] theorem execStarvationPrecedence_sound (k : Nat) (s : State) : Out.Sound s (execStarvationPrecedence k s) := by simp [execStarvationPrecedence]

@[simp] theorem execWorkgroupRetire_sound (g : Nat) (s : State) : Out.Sound s (execWorkgroupRetire g s) := by
  unfold execWorkgroupRetire
  repeat' split
  all_goals simp +contextual [State.Inv]

@[simp] theorem execDeferredTrap_sound (k : Nat) (s : State) : Out.Sound s (execDeferredTrap k s) := by
  unfold execDeferredTrap
  dsimp only
  repeat' split
  all_goals simp

@[simp] theorem execSkidStop_sound (k : Nat) (s : State) : Out.Sound s (execSkidStop k s) := by
  unfold execSkidStop
  repeat' split
  all_goals simp

@[simp] theorem execFirmwareEndWorkgroup_sound (g : Nat) (s : State) : Out.Sound s (execFirmwareEndWorkgroup g s) := by
  unfold execFirmwareEndWorkgroup
  split
  · simp
  · extract_lets s1 s2
    have h1 (h : s.Inv) : Memory.wf s1.mem = true := s.discardWg_Inv g h
    have h2 (h : s.Inv) : Memory.wf s2.mem = true := by simp [s2, h1 h]
    split
    · exact h1
    · exact fun h => by simp [State.Inv, h2 h]

@[simp] theorem execContextSwitchOut_sound (g : Nat) (s : State) : Out.Sound s (execContextSwitchOut g s) := by
  unfold execContextSwitchOut
  dsimp only
  repeat' split
  all_goals simp +contextual [State.Inv, State.foldl_Inv]

/-! ### The arbiter -/

@[simp] theorem execPlacement_sound (die core : Nat) (s : State) : Out.Sound s (execPlacement die core s) := by
  unfold execPlacement
  repeat' split
  all_goals simp +contextual [State.foldl_mem]

@[simp] theorem execAmHandlerStart_sound (fn core : Nat) (s : State) : Out.Sound s (execAmHandlerStart fn core s) := by
  unfold execAmHandlerStart
  dsimp only
  repeat' split
  all_goals simp

@[simp] theorem execStreamHandlerStart_sound (k : EndKey) (core : Nat) (s : State) : Out.Sound s (execStreamHandlerStart k core s) := by
  unfold execStreamHandlerStart
  split
  · simp
  · rename_i e _
    split
    · rename_i b it _ _
      have ha (h : s.Inv) : (s.adopted it e.fn e.die).1.Inv := s.adopted_Inv it _ _ h
      split
      · simp
      · split
        · simp
        · split
          · simp
          · split
            · split <;> rename_i heq <;> rw [heq] at ha
              · exact ha
              · exact fun h => State.loseCarried_Inv _ it _ (State.Inv_of_mem (ha h) (State.startItem_mem ..))
            · simp
    · simp

@[simp] theorem execContextSwitchIn_sound (g core : Nat) (s : State) : Out.Sound s (execContextSwitchIn g core s) := by
  unfold execContextSwitchIn
  dsimp only
  repeat' split
  all_goals simp +contextual [State.Inv, State.foldl_Inv]

@[simp] theorem execParkThresholdHold_sound (core fn : Nat) (s : State) : Out.Sound s (execParkThresholdHold core fn s) := by
  unfold execParkThresholdHold
  dsimp only
  repeat' split
  all_goals simp +contextual [State.Inv, State.foldl_Inv]

@[simp] theorem execSliceAdvance_sound (die : Nat) (s : State) : Out.Sound s (execSliceAdvance die s) := by
  unfold execSliceAdvance
  dsimp only
  repeat' split
  all_goals simp

/-! ### Lane control -/

@[simp] theorem execLnop_sound (l : LaneReg) (s : State) : Out.Sound s (execLnop l s) :=
  laneIssue_sound fun k w st x act => by simp

@[simp] theorem execLbr_sound (l : LaneBr) (s : State) : Out.Sound s (execLbr l s) := by
  refine laneIssue_sound fun k w st x t => ?_
  dsimp only
  split
  · simp
  · split
    · simp
    · split
      · exact moveLane_sound ..
      · split
        · simp
        · split
          · exact fun h => State.mirrorStack_Inv _ k (State.Inv_of_mem h (s.putWarp_mem ..))
          · simp

@[simp] theorem execLjoin_sound (l : LaneReg) (s : State) : Out.Sound s (execLjoin l s) := by
  refine laneIssue_sound fun k w st x t => ?_
  repeat' split
  all_goals simp

@[simp] theorem execLstop_sound (l : LaneReg) (s : State) : Out.Sound s (execLstop l s) := by
  refine laneIssue_sound fun k w st x act => ?_
  split <;> simp

/-! ### Cross-lane instructions -/

@[simp] theorem execShfl_sound (l : LaneReg) (s : State) : Out.Sound s (execShfl l s) :=
  laneIssue_sound fun k w st x act => by simp

@[simp] theorem execVote_sound (l : LaneReg) (s : State) : Out.Sound s (execVote l s) := laneIssue_sound fun _ _ _ _ _ => scalarDest_sound ..
@[simp] theorem execRed_sound (l : LaneReg) (s : State) : Out.Sound s (execRed l s) := laneIssue_sound fun _ _ _ _ _ => scalarDest_sound ..

@[simp] theorem execScan_sound (l : LaneReg) (s : State) : Out.Sound s (execScan l s) :=
  laneIssue_sound fun k w st x act => by simp

@[simp] theorem execCompress_sound (l : LaneReg) (s : State) : Out.Sound s (execCompress l s) := crossWhole_sound ..
@[simp] theorem execExpand_sound (l : LaneReg) (s : State) : Out.Sound s (execExpand l s) := crossWhole_sound ..

@[simp] theorem execFusedef_sound (l : LaneReg) (s : State) : Out.Sound s (execFusedef l s) := by
  refine laneIssue_sound fun k w st x act => ?_
  dsimp only
  split
  · simp
  · split
    · simp
    · exact moveLane_sound ..

@[simp] theorem execFuse_sound (l : LaneReg) (s : State) : Out.Sound s (execFuse l s) := by
  unfold execFuse
  refine laneIssue_sound fun k w st x act => ?_
  dsimp only
  repeat' split
  all_goals simp

/-! ### The host, the mailbox and the register space -/

@[simp] theorem execHostSnoop_sound (line : Nat) (inval : Bool) (s : State) : Out.Sound s (execHostSnoop line inval s) := by
  unfold execHostSnoop
  extract_lets owners s1 s2 s3 x
  split
  · simp
  · intro h
    have h1 : s1.Inv := State.foldl_Inv (fun b x hb => b.flushLine_Inv x.1 x.2 line hb) _ h
    exact State.Inv_of_mem h1 (State.foldl_mem (fun b c => b.dropFilled_mem c line) _ _)

@[simp] theorem execHostMemWrite_sound (fn pa : Nat) (bytes : List Byte) (s : State) : Out.Sound s (execHostMemWrite fn pa bytes s) :=
  hostAccess_sound ..

@[simp] theorem execHostMemRead_sound (fn pa n : Nat) (s : State) : Out.Sound s (execHostMemRead fn pa n s) := hostAccess_sound ..

@[simp] theorem execFunctionReset_sound (vf : Nat) (s : State) : Out.Sound s (execFunctionReset vf s) := by
  unfold execFunctionReset
  split <;> simp +contextual [State.Inv]

@[simp] theorem execFunctionResetComplete_sound (vf : Nat) (s : State) : Out.Sound s (execFunctionResetComplete vf s) := by
  unfold execFunctionResetComplete
  split <;> simp

@[simp] theorem execScrubLine_sound (line : Nat) (s : State) : Out.Sound s (execScrubLine line s) := by
  unfold execScrubLine
  dsimp only
  repeat' split
  all_goals simp +contextual [Memory.wf_clear]

@[simp] theorem execDeviceReset_sound (s : State) : Out.Sound s (execDeviceReset s) := fun _ => Memory.wf_nil

@[simp] theorem execSelfTestStageDone_sound (pass : Bool) (part : FailPart × Nat) (s : State) : Out.Sound s (execSelfTestStageDone pass part s) := by
  unfold execSelfTestStageDone
  dsimp only
  repeat' split
  all_goals simp +contextual [State.Inv]

@[simp] theorem execCoolantFault_sound (s : State) : Out.Sound s (execCoolantFault s) := by simp [execCoolantFault]

@[simp] theorem execOpenq_sound (by_ : Mgr) (rec_ : QueueRec) (s : State) : Out.Sound s (execOpenq by_ rec_ s) := by
  unfold execOpenq
  refine mailbox_sound _ _ _ fun h => ?_
  dsimp only
  repeat' split
  all_goals simp [State.Inv, h]

@[simp] theorem execCloseq_sound (by_ : Mgr) (q : Nat) (s : State) : Out.Sound s (execCloseq by_ q s) := by
  unfold execCloseq
  refine mailbox_sound _ _ _ fun h => ?_
  repeat' split
  all_goals simp [State.Inv, h]

@[simp] theorem execFaultlog_sound (by_ : Mgr) (s : State) : Out.Sound s (execFaultlog by_ s) := by
  unfold execFaultlog
  refine mailbox_sound _ _ _ fun h => ?_
  repeat' split
  all_goals simp [State.Inv, h]

@[simp] theorem execAttest_sound (by_ : Mgr) (nonce : BitVec 256) (s : State) : Out.Sound s (execAttest by_ nonce s) := by
  refine mailbox_sound _ _ _ fun h => ?_
  simp [State.Inv, h]

@[simp] theorem execPostreport_sound (by_ : Mgr) (page : Nat) (s : State) : Out.Sound s (execPostreport by_ page s) := by
  refine mailbox_sound _ _ _ fun h => ?_
  simp [State.Inv, h]

@[simp] theorem execRetest_sound (by_ : Mgr) (pass : Bool) (s : State) : Out.Sound s (execRetest by_ pass s) := by
  unfold execRetest
  refine mailbox_sound _ _ _ fun h => ?_
  repeat' split
  all_goals simp [State.Inv, h]

@[simp] theorem execRetire_sound (by_ : Mgr) (s : State) : Out.Sound s (execRetire by_ s) := by
  refine mailbox_sound _ _ _ fun h => ?_
  simp [State.Inv, h]

@[simp] theorem execFwupdate_sound (by_ : Mgr) (img : Image) (s : State) : Out.Sound s (execFwupdate by_ img s) := by
  refine mailbox_sound _ _ _ fun h => ?_
  simp [State.Inv, h]

@[simp] theorem execFrameinfo_sound (by_ : Mgr) (frame : Nat) (s : State) : Out.Sound s (execFrameinfo by_ frame s) := by
  unfold execFrameinfo
  refine mailbox_sound _ _ _ fun h => ?_
  repeat' split
  all_goals simp [State.Inv, h]

@[simp] theorem execAssign_sound (by_ : Mgr) (frame owner : Nat) (s : State) : Out.Sound s (execAssign by_ frame owner s) := by
  unfold execAssign
  refine mailbox_sound _ _ _ fun h => ?_
  dsimp only
  repeat' split
  all_goals simp [State.Inv, h]

@[simp] theorem execSpareTrigger_sound (kind : SpareKind) (part : Nat) (s : State) : Out.Sound s (execSpareTrigger kind part s) := by simp [execSpareTrigger]

@[simp] theorem execSubstitute_sound (by_ : Mgr) (kind : SpareKind) (part : Nat) (s : State) : Out.Sound s (execSubstitute by_ kind part s) := by
  unfold execSubstitute
  refine mailbox_sound _ _ _ fun h => ?_
  repeat' split
  all_goals simp [State.Inv, h]

@[simp] theorem execSpareSubstitution_sound (kind : SpareKind) (part phys : Nat) (s : State) : Out.Sound s (execSpareSubstitution kind part phys s) := by
  unfold execSpareSubstitution
  split <;> simp +contextual [State.Inv]

@[simp] theorem execHostPortFailover_sound (s : State) : Out.Sound s (execHostPortFailover s) := by
  unfold execHostPortFailover
  dsimp only
  repeat' split
  all_goals simp +contextual [State.foldl_mem]

@[simp] theorem execLinkTrainingComplete_sound (port lane : Nat) (s : State) : Out.Sound s (execLinkTrainingComplete port lane s) := by
  simp [execLinkTrainingComplete]

@[simp] theorem execSoftError_sound (site : UpsetSite) (correctable : Bool) (s : State) : Out.Sound s (execSoftError site correctable s) := by
  unfold execSoftError
  dsimp only
  repeat' split
  all_goals simp

theorem pfReg8_sound (s : State) (by_ : Mgr) (off : Nat) (v : W64) : Out.Sound s (pfReg8 s by_ off v) := by
  unfold pfReg8
  split
  · exact execPtpsetWrite_sound ..
  · exact execPtpadjWrite_sound ..
  · exact execPtprateWrite_sound ..
  · exact execPtpholdWrite_sound ..
  · split <;> simp

@[simp] theorem execRegisterWrite_sound (by_ : Mgr) (off width : Nat) (v : W64) (s : State) : Out.Sound s (execRegisterWrite by_ off width v s) := by
  unfold execRegisterWrite
  dsimp only
  iterate 3
    split
    · simp
  split
  · exact execXunlockWrite_sound _ _ _
  split
  · simp
  split
  · split
    · exact execQdoorWrite_sound _ _ _ _
    · split
      · exact execQstatReset_sound _ _ _
      · simp
  split
  · simp
  split
  · exact s.pfReg4_Inv by_ off _
  split
  · exact pfReg8_sound ..
  · simp

/-! ### The dispatch -/

theorem exec_sound (i : Instr) (s : State) : Out.Sound s (exec i s) := by
  cases i with
  | iadd | isub | imul | imulh | imad | imin | imax | iabs | land | lor | lxor | lshl | lshr | lsra | popc | clz | brev | bfe | bfi | fadd | fsub
  | fmul | ffma | fmin | fmax | fclass | frnd | rcp | rsq | sqrt | exp2 | log2 | sin | cos | tanh | cvt | pack | unpack | bfpd | sel => exact laneWise_sound ..
  | iaddImm | imulImm | iminImm | imaxImm | landImm | lorImm | lxorImm | lshlImm | lshrImm | lsraImm | faddImm | fmulImm | fminImm | fmaxImm => exact laneWiseImm_sound ..
  | sadd | ssub | sand | sor | sxor | sshl | sshr | ssra | smin | smax | sminU | smaxU | scmp | saddi | sandi | sori | sxori | sshli | sshri | ssrai
  | smini | smaxi | scmpi | slui => exact scalarAlu_sound ..
  | smul | smulh | sdiv | srem | smulhU | sdivU | sremU | smuli => exact scalarLong_sound ..
  | sld sz d a off => exact execSld_sound sz d a off s
  | sldPad sz d a off => exact execSldPad_sound sz d a off s
  | sst sz d a off => exact execSst_sound sz d a off s
  | sstPad sz d a off => exact execSstPad_sound sz d a off s
  | samo op wide ord sys d a b => exact execSamo_sound op wide ord sys d a b s
  | sbr cc a b off => exact execSbr_sound cc a b off s
  | sj off => exact execSj_sound off s
  | sjal d off => exact execSjal_sound d off s
  | sjr d a imm => exact execSjr_sound d a imm s
  | loop a c64 off => exact execLoop_sound a c64 off s
  | lgo a pc => exact execLgo_sound a pc s
  | larg k a => exact execLarg_sound k a s
  | lwait => exact execLwait_sound s
  | spop d => exact execSpop_sound d s
  | sbar b => exact execSbar_sound b s
  | sbarC => exact execSbarC_sound s
  | slaunch d a => exact execSlaunch_sound d a s
  | strig => exact execStrig_sound s
  | snop => exact execSnop_sound s
  | scsrr csr d => exact execScsrr_sound csr d s
  | scsrw csr a => exact execScsrw_sound csr a s
  | strap code => exact execStrap_sound code s
  | seret => exact execSeret_sound s
  | syield => exact execSyield_sound s
  | ssleep a => exact execSsleep_sound a s
  | shalt => exact execShalt_sound s
  | sperf sel d => exact execSperf_sound sel d s
  | stime d => exact execStime_sound d s
  | lbrk => exact execLbrk_sound s
  | lnop l => exact execLnop_sound l s
  | lbr l => exact execLbr_sound l s
  | ljoin l => exact execLjoin_sound l s
  | lstop l => exact execLstop_sound l s
  | icmp l => exact execIcmp_sound l s
  | fcmp l => exact execFcmp_sound l s
  | bfpq l => exact execBfpq_sound l s
  | mov l => exact execMov_sound l s
  | movi l => exact execMovi_sound l s
  | plop l => exact execPlop_sound l s
  | setvb l => exact execSetvb_sound l s
  | sprd l => exact execSprd_sound l s
  | shfl l => exact execShfl_sound l s
  | vote l => exact execVote_sound l s
  | red l => exact execRed_sound l s
  | scan l => exact execScan_sound l s
  | compress l => exact execCompress_sound l s
  | expand l => exact execExpand_sound l s
  | fusedef l => exact execFusedef_sound l s
  | fuse l => exact execFuse_sound l s
  | ld l => exact execLd_sound l s
  | st l => exact execSt_sound l s
  | lda l => exact execLda_sound l s
  | waitk l => exact execWaitk_sound l s
  | ldmc l => exact execLdmc_sound l s
  | pref l => exact execPref_sound l s
  | cread l => exact execCread_sound l s
  | cstore l => exact execCstore_sound l s
  | atom op l => exact execAtom_sound op l s
  | fence l => exact execFence_sound l s
  | qfence l => exact execQfence_sound l s
  | wload l => exact execWload_sound l s
  | mma l => exact execMma_sound l s
  | azero l => exact execAzero_sound l s
  | aread l => exact execAread_sound l s
  | awrite l => exact execAwrite_sound l s
  | cpy l => exact execCpy_sound l s
  | cpym l => exact execCpym_sound l s
  | rcf l => exact execRcf_sound l s
  | rinit l => exact execRinit_sound l s
  | rwaitFree l => exact execRwaitFree_sound l s
  | rwaitFilled l => exact execRwaitFilled_sound l s
  | rrel l => exact execRrel_sound l s
  | bpost l => exact execBpost_sound l s
  | bsend l => exact execBsend_sound l s
  | amsend l => exact execAmsend_sound l s
  | stopen l => exact execStopen_sound l s
  | stsend l => exact execStsend_sound l s
  | strecv l => exact execStrecv_sound l s
  | stxfer l => exact execStxfer_sound l s
  | stadopt l => exact execStadopt_sound l s
  | stbind l => exact execStbind_sound l s
  | stclose l => exact execStclose_sound l s
  | stquery l => exact execStquery_sound l s
  | fabricOpComplete w => exact execFabricOpComplete_sound w s
  | laneBlockStart w => exact execLaneBlockStart_sound w s
  | lgoUnstall w => exact execLgoUnstall_sound w s
  | laneResultWrite w n => exact execLaneResultWrite_sound w n s
  | scalarResultFill w d => exact execScalarResultFill_sound w d s
  | spopDone w => exact execSpopDone_sound w s
  | lwaitDone w => exact execLwaitDone_sound w s
  | waitkDone w st => exact execWaitkDone_sound w st s
  | setvbDone w st => exact execSetvbDone_sound w st s
  | fenceDone w st => exact execFenceDone_sound w st s
  | qfenceDone w st => exact execQfenceDone_sound w st s
  | rwaitFreeDone w st => exact execRwaitFreeDone_sound w st s
  | rwaitFilledDone w st => exact execRwaitFilledDone_sound w st s
  | sleepExpiry w => exact execSleepExpiry_sound w s
  | starvationPrecedence w => exact execStarvationPrecedence_sound w s
  | workgroupRetire g => exact execWorkgroupRetire_sound g s
  | dispatchWorkgroup core idx => exact execDispatchWorkgroup_sound core idx s
  | deferredTrap w => exact execDeferredTrap_sound w s
  | skidStop w => exact execSkidStop_sound w s
  | firmwareEndWorkgroup g => exact execFirmwareEndWorkgroup_sound g s
  | parkThresholdHold core fn => exact execParkThresholdHold_sound core fn s
  | contextSwitchOut g => exact execContextSwitchOut_sound g s
  | contextSwitchIn g core => exact execContextSwitchIn_sound g core s
  | walkComplete die fn va => exact execWalkComplete_sound die fn va s
  | pageMapped p => exact execPageMapped_sound p s
  | pageMapRefused fn va => exact execPageMapRefused_sound fn va s
  | tlbInvalidation fn va => exact execTlbInvalidation_sound fn va s
  | invalidationComplete fn va => exact execInvalidationComplete_sound fn va s
  | sharedQueueArrival r => exact execSharedQueueArrival_sound r s
  | queueDeparture r => exact execQueueDeparture_sound r s
  | residencyExpired r => exact execResidencyExpired_sound r s
  | bounceNotice r => exact execBounceNotice_sound r s
  | congestionCleared q => exact execCongestionCleared_sound q s
  | backoffExpiry r => exact execBackoffExpiry_sound r s
  | reservationGranted q cls => exact execReservationGranted_sound q cls s
  | grantLapse q cls => exact execGrantLapse_sound q cls s
  | budgetRefill vf => exact execBudgetRefill_sound vf s
  | replayReissue r => exact execReplayReissue_sound r s
  | requestReply r => exact execRequestReply_sound r s
  | releasePart w => exact execReleasePart_sound w s
  | homeAccess r => exact execHomeAccess_sound r s
  | homeProbe r core => exact execHomeProbe_sound r core s
  | hbmRefreshDue ch bank => exact execHbmRefreshDue_sound ch bank s
  | postponedRefresh ch bank => exact execPostponedRefresh_sound ch bank s
  | rowThresholdReached vf ch bank row => exact execRowThresholdReached_sound vf ch bank row s
  | rowCountClear edge => exact execRowCountClear_sound edge s
  | weightRefreshWindow die => exact execWeightRefreshWindow_sound die s
  | wloadStart core n => exact execWloadStart_sound core n s
  | wloadDone core n => exact execWloadDone_sound core n s
  | mmaStart core n => exact execMmaStart_sound core n s
  | mmaDone core n => exact execMmaDone_sound core n s
  | accumMoveDone core n => exact execAccumMoveDone_sound core n s
  | copyStart core g => exact execCopyStart_sound core g s
  | copyBytesPerformed core g => exact execCopyBytesPerformed_sound core g s
  | copyDone core g => exact execCopyDone_sound core g s
  | qdoorWrite by_ q tail => exact execQdoorWrite_sound by_ q tail s
  | qstatReset by_ q => exact execQstatReset_sound by_ q s
  | batchCommit q => exact execBatchCommit_sound q s
  | packetStart q => exact execPacketStart_sound q s
  | launchBundle q => exact execLaunchBundle_sound q s
  | timedLaunch q => exact execTimedLaunch_sound q s
  | timedLaunchEligible q => exact execTimedLaunchEligible_sound q s
  | copyPacket q => exact execCopyPacket_sound q s
  | wsWritePacket q => exact execWsWritePacket_sound q s
  | barrierAndSignal q => exact execBarrierAndSignal_sound q s
  | barrierSignalWake q => exact execBarrierSignalWake_sound q s
  | interruptPacket q => exact execInterruptPacket_sound q s
  | registerHandlerTable q => exact execRegisterHandlerTable_sound q s
  | placement die core => exact execPlacement_sound die core s
  | sliceAdvance die => exact execSliceAdvance_sound die s
  | starvePromotion q => exact execStarvePromotion_sound q s
  | completionInterruptCount fn => exact execCompletionInterruptCount_sound fn s
  | completionInterruptTimeout fn => exact execCompletionInterruptTimeout_sound fn s
  | ptpsetWrite by_ v => exact execPtpsetWrite_sound by_ v s
  | ptpadjWrite by_ v => exact execPtpadjWrite_sound by_ v s
  | ptprateWrite by_ v => exact execPtprateWrite_sound by_ v s
  | ptpholdWrite by_ v => exact execPtpholdWrite_sound by_ v s
  | ptpHoldoverExpiry => exact execPtpHoldoverExpiry_sound s
  | fabricForward port p => exact execFabricForward_sound port p s
  | fmManagement f => exact execFmManagement_sound f s
  | fabricRd port p => exact execFabricRd_sound port p s
  | fabricWr port p => exact execFabricWr_sound port p s
  | fabricAtomGroup port p => exact execFabricAtomGroup_sound port p s
  | fabricCstGroup port p => exact execFabricCstGroup_sound port p s
  | fabricBdata port p => exact execFabricBdata_sound port p s
  | fabricBreq port p => exact execFabricBreq_sound port p s
  | fabricAmsg port p => exact execFabricAmsg_sound port p s
  | fabricRdr port p => exact execFabricRdr_sound port p s
  | fabricWack port p => exact execFabricWack_sound port p s
  | fabricAtomr port p => exact execFabricAtomr_sound port p s
  | fabricCstr port p => exact execFabricCstr_sound port p s
  | fabricAmack port p => exact execFabricAmack_sound port p s
  | fabricBounce port p => exact execFabricBounce_sound port p s
  | fabricGrant port p => exact execFabricGrant_sound port p s
  | fabricReturn port p => exact execFabricReturn_sound port p s
  | fabricBstat port p => exact execFabricBstat_sound port p s
  | fabricCong port p => exact execFabricCong_sound port p s
  | groupTimeout src tag gen => exact execGroupTimeout_sound src tag gen s
  | resendTimer r => exact execResendTimer_sound r s
  | replyCacheExpiry src tag gen => exact execReplyCacheExpiry_sound src tag gen s
  | requestUnanswered r => exact execRequestUnanswered_sound r s
  | destUnreachable dev => exact execDestUnreachable_sound dev s
  | congestionWithdraw port dev => exact execCongestionWithdraw_sound port dev s
  | tokenExpiry src msg off => exact execTokenExpiry_sound src msg off s
  | prioAging src msg => exact execPrioAging_sound src msg s
  | amHandlerStart fn core => exact execAmHandlerStart_sound fn core s
  | streamHandlerStart k core => exact execStreamHandlerStart_sound k core s
  | sitem port p => exact execSitem_sound port p s
  | smoveMove port p => exact execSmoveMove_sound port p s
  | smoveCtx port p => exact execSmoveCtx_sound port p s
  | smoveAdopt port p => exact execSmoveAdopt_sound port p s
  | smovePlace port p => exact execSmovePlace_sound port p s
  | smoveItems port p => exact execSmoveItems_sound port p s
  | sack port p => exact execSack_sound port p s
  | smack port p => exact execSmack_sound port p s
  | scred port p => exact execScred_sound port p s
  | sloc port p => exact execSloc_sound port p s
  | sorph port p => exact execSorph_sound port p s
  | contextIdleTimeout k => exact execContextIdleTimeout_sound k s
  | contextEvictionDone k => exact execContextEvictionDone_sound k s
  | contextReloadDone k => exact execContextReloadDone_sound k s
  | hostSnoop line inval => exact execHostSnoop_sound line inval s
  | hostMemWrite fn pa bytes => exact execHostMemWrite_sound fn pa bytes s
  | hostMemRead fn pa n => exact execHostMemRead_sound fn pa n s
  | functionReset vf => exact execFunctionReset_sound vf s
  | functionResetComplete vf => exact execFunctionResetComplete_sound vf s
  | scrubLine line => exact execScrubLine_sound line s
  | deviceReset => exact execDeviceReset_sound s
  | selfTestStageDone pass spare => exact execSelfTestStageDone_sound pass spare s
  | coolantFault => exact execCoolantFault_sound s
  | openq by_ rec_ => exact execOpenq_sound by_ rec_ s
  | closeq by_ q => exact execCloseq_sound by_ q s
  | faultlog by_ => exact execFaultlog_sound by_ s
  | attest by_ nonce => exact execAttest_sound by_ nonce s
  | postreport by_ page => exact execPostreport_sound by_ page s
  | retest by_ pass => exact execRetest_sound by_ pass s
  | substitute by_ kind part => exact execSubstitute_sound by_ kind part s
  | retire by_ => exact execRetire_sound by_ s
  | fwupdate by_ img => exact execFwupdate_sound by_ img s
  | frameinfo by_ frame => exact execFrameinfo_sound by_ frame s
  | assign by_ frame owner => exact execAssign_sound by_ frame owner s
  | spareTrigger kind part => exact execSpareTrigger_sound kind part s
  | spareSubstitution kind part phys => exact execSpareSubstitution_sound kind part phys s
  | hostPortFailover => exact execHostPortFailover_sound s
  | xunlockWrite by_ v => exact execXunlockWrite_sound by_ v s
  | residBWrite by_ v => exact execResidBWrite_sound by_ v s
  | residXWrite by_ v => exact execResidXWrite_sound by_ v s
  | replayqBWrite by_ v => exact execReplayqBWrite_sound by_ v s
  | replayqXWrite by_ v => exact execReplayqXWrite_sound by_ v s
  | rowguardBWrite by_ v => exact execRowguardBWrite_sound by_ v s
  | rowguardXWrite by_ v => exact execRowguardXWrite_sound by_ v s
  | bulkBWrite by_ v => exact execBulkBWrite_sound by_ v s
  | bulkXWrite by_ v => exact execBulkXWrite_sound by_ v s
  | ctxstoreBWrite by_ v => exact execCtxstoreBWrite_sound by_ v s
  | ctxstoreXWrite by_ v => exact execCtxstoreXWrite_sound by_ v s
  | powerBWrite by_ v => exact execPowerBWrite_sound by_ v s
  | powerXWrite by_ v => exact execPowerXWrite_sound by_ v s
  | vfbudBWrite by_ vf v => exact execVfbudBWrite_sound by_ vf v s
  | vfbudXWrite by_ vf v => exact execVfbudXWrite_sound by_ vf v s
  | vfscopeBWrite by_ vf v => exact execVfscopeBWrite_sound by_ vf v s
  | vfscopeXWrite by_ vf v => exact execVfscopeXWrite_sound by_ vf v s
  | icoalBWrite by_ fn v => exact execIcoalBWrite_sound by_ fn v s
  | icoalXWrite by_ fn v => exact execIcoalXWrite_sound by_ fn v s
  | arbguardBWrite by_ fn v => exact execArbguardBWrite_sound by_ fn v s
  | arbguardXWrite by_ fn v => exact execArbguardXWrite_sound by_ fn v s
  | parkBWrite by_ fn v => exact execParkBWrite_sound by_ fn v s
  | parkXWrite by_ fn v => exact execParkXWrite_sound by_ fn v s
  | stidleBWrite by_ fn v => exact execStidleBWrite_sound by_ fn v s
  | stidleXWrite by_ fn v => exact execStidleXWrite_sound by_ fn v s
  | registerWrite by_ off width v => exact execRegisterWrite_sound by_ off width v s
  | ptmRequest => exact execPtmRequest_sound s
  | softError site correctable => exact execSoftError_sound site correctable s
  | linkTrainingComplete port lane => exact execLinkTrainingComplete_sound port lane s
  | destinationCongested port dev => exact execDestinationCongested_sound port dev s
  | frozenRecordRelease k => exact execFrozenRecordRelease_sound k s

end Sys2Proof.Machine
end

section
/-! SUPPORT. The next step keeps the canonical form of memory: the events of the agents, an issue, a move of the agenda, a passing cycle. -/

namespace Sys2Proof.Machine

/-- Every meaning in the list answers soundly, in every state. -/
def AllSound (l : List (State → Out)) : Prop := ∀ f ∈ l, ∀ s, Out.Sound s (f s)

@[simp] theorem allSound_nil : AllSound [] := nofun
@[simp] theorem allSound_cons (f : State → Out) (l : List (State → Out)) : AllSound (f :: l) ↔ (∀ s, Out.Sound s (f s)) ∧ AllSound l :=
  List.forall_mem_cons
@[simp] theorem allSound_append (l r : List (State → Out)) : AllSound (l ++ r) ↔ AllSound l ∧ AllSound r := List.forall_mem_append
@[simp] theorem allSound_map {α : Type} (g : α → State → Out) (l : List α) : AllSound (l.map g) ↔ ∀ a ∈ l, ∀ s, Out.Sound s (g a s) := List.forall_mem_map
@[simp] theorem allSound_flatMap {α : Type} (g : α → List (State → Out)) (l : List α) : AllSound (l.flatMap g) ↔ ∀ a ∈ l, AllSound (g a) := List.forall_mem_flatMap
@[simp] theorem allSound_ite (c : Prop) [Decidable c] (l r : List (State → Out)) : AllSound (if c then l else r) ↔ (c → AllSound l) ∧ (¬ c → AllSound r) := by
  split <;> simp [*]

@[simp] theorem allSound_filterMap {α : Type} (g : α → Option (State → Out)) (l : List α) :
    AllSound (l.filterMap g) ↔ ∀ a ∈ l, ∀ f, g a = some f → ∀ s, Out.Sound s (f s) := by
  simp only [AllSound, List.mem_filterMap]
  exact ⟨fun h a ha f hf => h f ⟨a, ha, hf⟩, fun h f ⟨a, ha, hf⟩ => h a ha f hf⟩

theorem trapEvents_sound (s : State) : AllSound (trapEvents s) := by simp [trapEvents]
theorem warpEvents_sound (s : State) : AllSound (warpEvents s) := by simp [warpEvents]
theorem requestEvents_sound (s : State) : AllSound (requestEvents s) := by
  unfold requestEvents
  rw [allSound_flatMap]
  intro x _
  split <;> simp
theorem refreshEvents_sound (s : State) : AllSound (refreshEvents s) := by simp [refreshEvents]
theorem holdEvents_sound (s : State) : AllSound (holdEvents s) := by simp [holdEvents, refreshEvents_sound]
theorem engineEvents_sound (s : State) : AllSound (engineEvents s) := by simp [engineEvents]
theorem queueEvents_sound (s : State) : AllSound (queueEvents s) := by simp [queueEvents]
theorem turnEvents_sound (s : State) (d : Nat) : AllSound (turnEvents s d) := by
  unfold turnEvents
  dsimp only
  split <;> simp
theorem placeEvents_sound (s : State) : AllSound (placeEvents s) := by simp [placeEvents, turnEvents_sound]
theorem handlerEvents_sound (s : State) : AllSound (handlerEvents s) := by simp [handlerEvents]
theorem fabricEvents_sound (s : State) : AllSound (fabricEvents s) := by
  simp only [fabricEvents, allSound_append, allSound_flatMap]
  refine ⟨⟨by simp, fun r _ => ?_⟩, by simp⟩
  split <;> simp
theorem scrubEvents_sound (s : State) : AllSound (scrubEvents s) := by simp [scrubEvents]
/-- A mailbox command is one of the commands' meanings, or the answer that the part named is none (R411). -/
theorem State.mailCommand_sound {s : State} {b : Mgr} {f : State → Out} (h : s.mailCommand b = some f) (u : State) : Out.Sound u (f u) := by
  unfold State.mailCommand at h
  extract_lets d at h
  split at h
  · cases h
  · split at h
    case h_6 =>
      split at h <;> cases h
      · exact execSubstitute_sound ..
      · simp
    case h_10 => cases h
    all_goals
      cases h
      simp
theorem deviceEvents_sound (s : State) : AllSound (deviceEvents s) := by
  simp only [deviceEvents, allSound_append, allSound_filterMap]
  refine ⟨⟨⟨by simp, fun x _ f hf => ?_⟩, by simp⟩, scrubEvents_sound s⟩
  split at hf
  · exact State.mailCommand_sound hf
  · cases hf
theorem agents_sound (s : State) : AllSound (agents s) := by
  simp [agents, trapEvents_sound, warpEvents_sound, holdEvents_sound, requestEvents_sound, engineEvents_sound, queueEvents_sound, placeEvents_sound,
    handlerEvents_sound, fabricEvents_sound, deviceEvents_sound]
/-- What the device's agents do by themselves keeps memory in its canonical form. -/
theorem State.internal_Inv {s t : State} (h : s.internal = some t) (hs : s.Inv) : t.Inv := by
  obtain ⟨f, hf, hx⟩ := List.exists_of_findSome?_eq_some h
  have hsound := agents_sound s f hf s
  split at hx
  · rename_i u hu
    split at hx <;> cases hx
    rw [hu] at hsound
    exact hsound hs
  · cases hx

theorem Out.Sound.next_Inv {s t : State} {o : Out} (ho : Out.Sound s o) (h : o = .next t) (hs : s.Inv) : t.Inv := by
  subst h
  exact ho hs
theorem State.issueOne_Inv {s t : State} {k : Nat} {st : Stream} (h : s.issueOne k st = .next t) (hs : s.Inv) : t.Inv := by
  obtain ⟨_, hx⟩ | ⟨w, _, ⟨i, _, hx⟩ | ⟨_, hx⟩⟩ := s.issueOne_cases k st <;> rw [hx] at h
  · cases h; exact hs
  · exact (exec_sound i _).next_Inv h hs
  · cases h; exact State.Inv_of_mem hs (State.illegal_mem ..)
theorem State.issueSelected_Inv {s t : State} {k : Nat} {st : Stream} (h : s.issueSelected k st = .next t) (hs : s.Inv) : t.Inv := by
  unfold State.issueSelected at h
  split at h
  · rename_i u hu
    cases h
    exact State.Inv_of_mem (State.issueOne_Inv hu (State.Inv_of_mem hs (s.selected_mem k st))) (u.onWarp_mem ..)
  · rename_i hn
    exact absurd h (hn t)
theorem State.move_Inv {s t : State} {m : Move} (h : s.move m = .next t) (hs : s.Inv) : t.Inv := by
  cases m with
  | event i => exact (exec_sound i s).next_Inv h hs
  | issue k st =>
    simp only [State.move] at h
    split at h
    · exact State.issueSelected_Inv h hs
    · cases h; exact hs

end Sys2Proof.Machine
end

/-- Settles O57: every meaning keeps the form (`exec_sound`), and a step is a move of the agenda, an event of an agent, an issue or a passing cycle. -/
theorem stepKeepsMemoryCanonical : Obligations.StepKeepsMemoryCanonical := by
  intro s t hs h
  obtain ⟨m, rest, _, hx⟩ | ⟨u, hi, hx⟩ | ⟨k, st, _, _, hx⟩ | ⟨_, _, hx⟩ := Sys2Proof.Machine.step_cases s <;> rw [hx] at h
  · exact Sys2Proof.Machine.State.move_Inv h hs
  · cases h; exact Sys2Proof.Machine.State.internal_Inv hi hs
  · exact Sys2Proof.Machine.State.issueSelected_Inv h hs
  · cases h; exact Sys2Proof.Machine.State.Inv_of_mem hs s.tick_mem

/-- Settles O55: every meaning answers soundly, so it stops only for want of an issuer (`exec_sound`). -/
theorem noInstructionStops : Obligations.NoInstructionStops := by
  intro i s
  have key : (∃ t, Sys2Proof.Machine.exec i s = .next t) ∨ (s.issuer = none ∧ Sys2Proof.Machine.exec i s = .fault .noIssuer) := by
    have h := Sys2Proof.Machine.exec_sound i s
    cases hx : Sys2Proof.Machine.exec i s with
    | next t => exact .inl ⟨t, rfl⟩
    | fault f =>
      rw [hx] at h
      obtain ⟨hn, rfl⟩ := h
      exact .inr ⟨hn, rfl⟩
    | refused r => rw [hx] at h; exact h.elim
  refine ⟨fun k w st hi => ?_, key⟩
  obtain h | ⟨hn, _⟩ := key
  · exact h
  · rw [Sys2Proof.Machine.State.issuer_of_issues hi] at hn
    cases hn

section
/-! SUPPORT. What a device reset leaves (R10, R309). -/

namespace Sys2Proof.Machine

/-- Every slice entry but the first belongs to no function (R309). -/
theorem slicesReset_rest (j : Fin 64) (hj : 0 < j.val) : slicesReset[j] = 0x00FF0000#32 := by
  have h : j ≠ 0 := Fin.pos_iff_ne_zero.1 hj
  simp [slicesReset, h]

/-- No group is open for any writer after a reset (R11). -/
theorem State.openFor_reset (m : Mgr) (g : Nat) : State.reset.openFor_ m g = false := rfl

end Sys2Proof.Machine
end

/-- Settles O56: the reset state is a closed term whose fields are read off it, and each function's settings are those of `Fn.reset`. -/
theorem resetState : Obligations.ResetState := by
  open Sys2Proof.Machine in
  exact ⟨rfl, rfl, rfl, rfl, rfl, rfl, rfl, rfl, rfl, rfl, rfl, rfl, rfl, fun _ => ⟨rfl, rfl, rfl, rfl, rfl, rfl⟩, State.openFor_reset, rfl, slicesReset_rest,
    rfl, rfl, rfl, rfl, rfl, rfl⟩

section
/-! SUPPORT. The control and status registers: which numbers are assigned, what a write changes, and what `SCSRR` and `SCSRW` do (R83, R125, R132). -/

namespace Sys2Proof.Machine

/-! ### The assigned numbers -/

/-- A CSR has a value where its number is assigned, and only there. -/
theorem State.csr_isSome (s : State) (k : Nat) (w : Warp) (n : Nat) : (s.csr k w n).isSome = decide (n ∈ csrNumbers) := by
  unfold State.csr
  split
  case h_38 => simp_all [csrNumbers]
  all_goals rfl

theorem State.csr_of_mem (s : State) (k : Nat) (w : Warp) {n : Nat} (h : n ∈ csrNumbers) : ∃ v, s.csr k w n = some v :=
  Option.isSome_iff_exists.1 (by simpa [State.csr_isSome] using h)

theorem State.csr_of_not_mem (s : State) (k : Nat) (w : Warp) {n : Nat} (h : n ∉ csrNumbers) : s.csr k w n = none := by
  rw [← Option.isNone_iff_eq_none, ← Option.not_isSome, s.csr_isSome]
  simpa using h

/-! ### Writes -/

theorem delegMask_getLsbD (c : Nat) : delegMask.getLsbD c = delegable c := by
  by_cases h : c < 64
  · exact (by decide : ∀ c : Fin 64, delegMask.getLsbD c.val = delegable c.val) ⟨c, h⟩
  · rw [BitVec.getLsbD_of_ge _ _ (by omega)]
    simp [delegable, show ¬ c ≤ 0x21 by omega]

/-- Every CSR but the writable ones ignores a write. -/
theorem Warp.writeCsr_of_not_writable (w : Warp) {n : Nat} (v : W64) (h : n ∉ csrWritable) : w.writeCsr n v = w := by
  unfold Warp.writeCsr
  split
  case h_8 => rfl
  all_goals exact absurd (by decide) h

/-- Outside a handler `TRAPDELEG` takes the bits of the causes that may be delegated (R320). -/
theorem Warp.writeCsr_deleg {w : Warp} (hw : w.handler = none) (v : W64) :
    w.writeCsr 0x071 v = { w with trap := { w.trap with deleg := v &&& delegMask } } := by simp [Warp.writeCsr, hw]

/-! ### `SCSRR` and `SCSRW` -/

section
variable {s : State} {k : Nat} {w : Warp}

theorem execScsrr_ready {n : BitVec 12} {d : SReg} {v : W64} (h : s.scalarReady k w [d]) (hv : s.csr k w n.toNat = some v) :
    execScsrr n d s = .next (s.fellThrough k (w.longS d v)) := by
  rw [execScsrr, scalarIssue_done h (by rw [hv]), State.onWarp_putWarp, State.fellThrough]

theorem execScsrr_unassigned {n : BitVec 12} {d : SReg} (h : s.issues k w .scalar) (hr : w.sc.ready [d] = true) (hn : n.toNat ∉ csrNumbers) :
    execScsrr n d s = .next (s.raiseScalar k w cILLOP 0) :=
  scalarIssue_trap h hr (by rw [s.csr_of_not_mem k w hn])

theorem execScsrw_ready {n : BitVec 12} {a : SReg} (h : s.scalarReady k w [a]) (hn : n.toNat ∈ csrNumbers) (hvb : n ≠ 0x010#12) :
    execScsrw n a s = .next (s.fellThrough k (w.writeCsr n.toNat (w.sr a))) := by
  obtain ⟨v, hv⟩ := s.csr_of_mem k w hn
  rw [execScsrw, scalarIssue_done h (by simp only [hv, hvb]; rfl), State.onWarp_putWarp, State.fellThrough]

theorem execScsrw_unassigned {n : BitVec 12} {a : SReg} (h : s.issues k w .scalar) (hr : w.sc.ready [a] = true) (hn : n.toNat ∉ csrNumbers) :
    execScsrw n a s = .next (s.raiseScalar k w cILLOP 0) :=
  scalarIssue_trap h hr (by rw [s.csr_of_not_mem k w hn]; rfl)

theorem execScsrw_vb {a : SReg} (h : s.scalarReady k w [a]) (hf : w.rg.allFull = true) (hb : (w.sr a).toNat % 1024 ≤ w.rg.nreg) :
    execScsrw 0x010 a s = .next (s.fellThrough k { w with rg := { w.rg with vb := (w.sr a).toNat % 1024 } }) := by
  rw [execScsrw, scalarIssue_done h (by simp [State.csr, hf, Nat.not_lt.2 hb]; rfl), State.onWarp_putWarp, State.fellThrough]

theorem execScsrw_vb_waits {a : SReg} (h : s.scalarReady k w [a]) (hf : w.rg.allFull = false) :
    execScsrw 0x010 a s = .next (s.putWarp k (w.holdS (.setvb ((w.sr a).toNat % 1024)))) :=
  scalarIssue_stay h (by simp [State.csr, hf])

theorem execScsrw_vb_range {a : SReg} (h : s.issues k w .scalar) (hr : w.sc.ready [a] = true) (hf : w.rg.allFull = true) (hb : w.rg.nreg < (w.sr a).toNat % 1024) :
    execScsrw 0x010 a s = .next (s.raiseScalar k w cREGRANGE 0) :=
  scalarIssue_trap h hr (by simp [State.csr, hf, hb])

end

end Sys2Proof.Machine
end

/-- Settles O60: the numbers with a value are the assigned ones, and the wrappers of a scalar issue give each case of `SCSRR` and `SCSRW`. -/
theorem controlAndStatusRegisters : Obligations.ControlAndStatusRegisters := by
  open Sys2Proof.Machine in
  intro s k w n a d v g top reads
  refine ⟨fun hn => ⟨fun h => ?_, fun h hvb => execScsrw_ready h hn hvb⟩, fun hn hi => ⟨fun hr => execScsrr_unassigned hi hr hn, fun hr => execScsrw_unassigned hi hr hn⟩,
    ⟨fun h => ⟨execScsrw_vb h, execScsrw_vb_waits h⟩, execScsrw_vb_range⟩, ?_, rfl, rfl, rfl, rfl, rfl, fun hw => ⟨?_, ?_, fun c => ?_⟩, fun hw => ?_,
    fun _ hn => w.writeCsr_of_not_writable v hn⟩
  · obtain ⟨u, hu⟩ := s.csr_of_mem k w hn
    exact ⟨u, hu, execScsrr_ready h hu⟩
  · repeat' constructor
  · simp [Warp.writeCsr, hw]
  · rw [Warp.writeCsr_deleg hw]
  · rw [Warp.writeCsr_deleg hw, BitVec.getLsbD_and, delegMask_getLsbD]
  · have hs : w.handler.isSome = true := Option.isSome_iff_ne_none.2 hw
    simp [Warp.writeCsr, hs]

section
/-! SUPPORT. Settings and the register space (R10 to R12, R309, R412 to R414): what each view does with a write, and which register an offset names. -/

namespace Sys2Proof.Machine

/-! ### A setting in force -/

@[simp] theorem State.fn_onFn_same (s : State) (k : Nat) (f : Fn → Fn) : (s.onFn k f).fn k = f (s.fn k) := by simp [State.fn, Tbl.getD]

@[simp] theorem State.getReg_setReg (s : State) (r : SetReg) (fn : Nat) (y : Setting) : (s.setReg r fn y).getReg r fn = y := by
  cases r <;> simp [State.setReg, State.getReg]

theorem State.setReg_warps (s : State) (r : SetReg) (fn : Nat) (y : Setting) : (s.setReg r fn y).warps = s.warps := by cases r <;> rfl

theorem SetReg.expert_code (r : SetReg) (v : Nat) : (r.expert v).code = 15 := by cases r <;> rfl

theorem SetReg.preset_code {r : SetReg} {c : Nat} {y : Setting} (h : r.preset c = some y) : y.code = c := by
  cases r <;>
  · obtain ⟨p, -, rfl⟩ := Option.map_eq_some_iff.1 h
    rfl

theorem le_clampN (lo hi n : Nat) : lo ≤ clampN lo hi n := Nat.le_max_left ..

theorem clampN_le {lo hi : Nat} (n : Nat) (h : lo ≤ hi) : clampN lo hi n ≤ hi := Nat.max_le.2 ⟨h, Nat.min_le_left ..⟩

theorem clampN_of_mem {lo hi n : Nat} (hlo : lo ≤ n) (hhi : n ≤ hi) : clampN lo hi n = n := by simp [clampN, hlo, hhi]

/-- REPLAYQ's CAP is at least its GUARANTEE, so the two are clamped together. -/
theorem SetReg.replayq_word_expert (v : Nat) :
    SetReg.replayq.expert (SetReg.replayq.word (SetReg.replayq.expert v)).toNat = SetReg.replayq.expert v := by
  have hg := le_clampN 1 8 (fieldOf v 7 0)
  have hg8 : clampN 1 8 (fieldOf v 7 0) ≤ 8 := clampN_le _ (by decide)
  have hc := le_clampN (clampN 1 8 (fieldOf v 7 0)) 256 (fieldOf v 16 8)
  have hc256 : clampN (clampN 1 8 (fieldOf v 7 0)) 256 (fieldOf v 16 8) ≤ 256 := clampN_le _ (by omega)
  simp only [SetReg.expert, SetReg.word]
  generalize clampN (clampN 1 8 (fieldOf v 7 0)) 256 (fieldOf v 16 8) = c at *
  generalize clampN 1 8 (fieldOf v 7 0) = g at *
  have hw : (BitVec.ofNat 32 (c * 2 ^ 8 + g)).toNat = c * 256 + g := by
    rw [BitVec.toNat_ofNat]
    omega
  have h1 : fieldOf (c * 256 + g) 7 0 = g := by
    simp [fieldOf]
    omega
  have h2 : fieldOf (c * 256 + g) 16 8 = c := by
    simp [fieldOf]
    omega
  rw [hw, h1, h2, clampN_of_mem hg hg8, clampN_of_mem hc hc256]

/-- An `_X` read written back keeps the setting: every clamped parameter fits its field (R10). -/
theorem SetReg.expert_word_expert (r : SetReg) (v : Nat) : r.expert (r.word (r.expert v)).toNat = r.expert v := by
  cases r
  case replayq => exact replayq_word_expert v
  all_goals
    simp [SetReg.expert, SetReg.word, fieldOf, clampN]
    omega

/-! ### The two views and the unlock -/

section
variable {s : State} {r : SetReg} {m : Mgr} {fn : Nat} {v : W32}

theorem State.writeB_unreachable (h : r.reachable m fn = false) : s.writeB r m fn v = s := by simp [State.writeB, h]
theorem State.writeX_unreachable (h : r.reachable m fn = false) : s.writeX r m fn v = s := by simp [State.writeX, h]

theorem State.writeB_preset {y : Setting} (h : r.reachable m fn = true) (hy : r.preset (v.toNat % 16) = some y) : s.writeB r m fn v = s.setReg r fn y := by
  simp [State.writeB, h, hy]

theorem State.writeB_noPreset (h : r.reachable m fn = true) (hy : r.preset (v.toNat % 16) = none) : s.writeB r m fn v = s.reject m := by
  simp [State.writeB, h, hy]

theorem State.writeX_open (h : r.reachable m fn = true) (ho : s.openFor_ m r.group = true) :
    s.writeX r m fn v = (s.setReg r fn (r.expert v.toNat)).onUnlock m fun u => { u with xdone := true } := by simp [State.writeX, h, ho]

theorem State.writeX_closed (h : r.reachable m fn = true) (ho : s.openFor_ m r.group = false) : s.writeX r m fn v = s.reject m := by
  simp [State.writeX, h, ho]

/-- Both views of a setting, by what the writer may do (R10 to R12). -/
theorem State.views_write {b x : Out} (hb : b = .next (s.writeB r m fn v)) (hx : x = .next (s.writeX r m fn v)) :
    (r.reachable m fn = false → b = .next s ∧ x = .next s) ∧
    (r.reachable m fn = true →
      (∀ y : Setting, r.preset (v.toNat % 16) = some y → b = .next (s.setReg r fn y)) ∧
      (r.preset (v.toNat % 16) = none → b = .next (s.reject m)) ∧
      (s.openFor_ m r.group = true → x = .next ((s.setReg r fn (r.expert v.toNat)).onUnlock m fun u => { u with xdone := true })) ∧
      (s.openFor_ m r.group = false → x = .next (s.reject m))) := by
  subst hb hx
  refine ⟨fun h => ⟨?_, ?_⟩, fun h => ⟨fun y hy => ?_, fun hy => ?_, fun ho => ?_, fun ho => ?_⟩⟩
  · rw [State.writeB_unreachable h]
  · rw [State.writeX_unreachable h]
  · rw [State.writeB_preset h hy]
  · rw [State.writeB_noPreset h hy]
  · rw [State.writeX_open h ho]
  · rw [State.writeX_closed h ho]

theorem State.writeUnlock_rejected (h : v.toNat / 65536 ≠ 0x5A6E ∨ (v.toNat / 256 % 256 ≠ 255 ∧ mayUnlock m (v.toNat / 256 % 256) = false)) :
    s.writeUnlock m v = s.reject m := by
  have hv : v.toNat / 65536 % 65536 = v.toNat / 65536 := by omega
  obtain hk | ⟨hg, hm⟩ := h
  · simp [State.writeUnlock, fieldOf, hv, hk]
  · simp [State.writeUnlock, fieldOf, hg, hm]

theorem State.writeUnlock_accepted (hk : v.toNat / 65536 = 0x5A6E) (hg : v.toNat / 256 % 256 = 255 ∨ mayUnlock m (v.toNat / 256 % 256) = true) :
    s.writeUnlock m v = s.onUnlock m fun u => ⟨v.toNat / 256 % 256, u.xrej && !v.getLsbD 2, u.xdone && !v.getLsbD 0, v.getLsbD 0⟩ := by
  obtain hg | hg := hg <;> simp [State.writeUnlock, fieldOf, hk, hg]

theorem Unlock.word_toNat {u : Unlock} (h : u.group ≤ 255) :
    u.word.toNat = u.group * 256 + (if u.xrej then 4 else 0) + (if u.xdone then 2 else 0) + (if u.opened then 1 else 0) := by
  have hx : (if u.xrej then 4 else 0) ≤ 4 := by split <;> decide
  have hd : (if u.xdone then 2 else 0) ≤ 2 := by split <;> decide
  have ho : (if u.opened then 1 else 0) ≤ 1 := by split <;> decide
  rw [Unlock.word, BitVec.toNat_ofNat, Nat.mod_eq_of_lt (by omega), Nat.mod_eq_of_lt (by omega)]

end

/-! ### The register space, region by region -/

section
variable (s : State) (m : Mgr) {off width : Nat}

theorem execRegisterWrite_misaligned (v : W64) (h : off % width ≠ 0 ∨ width = 0) : execRegisterWrite m off width v s = .next s := by
  have hc : (width == 0 || off % width != 0) = true := by simpa [or_comm] using h
  simp [execRegisterWrite, hc]

theorem execRegisterWrite_perFunction (v : W64) (hlo : 0x1100 ≤ off) (hhi : off < 0x1120) (ha : off % 4 = 0) :
    execRegisterWrite m off 4 v s = .next (s.perFunction m (mgrFn m) (off - 0x1100) (v.setWidth 32)) := by
  simp only [execRegisterWrite]
  rw [if_neg (by simp [ha]), if_neg (by simp; omega), if_neg (by simp; omega), if_neg (by simp; omega), if_pos (by simp; omega)]

/-- The registers past the queues are those of the physical function's region. -/
theorem execRegisterWrite_region (v : W64) (h : 0x200000 ≤ off) (ha : off % width = 0) (hw : width ≠ 0) :
    execRegisterWrite m off width v s =
      if !deviceWide m then .next s
      else if width == 4 then .next (s.pfReg4 m off (v.setWidth 32)) else if width == 8 then pfReg8 s m off v else .next s := by
  simp only [execRegisterWrite]
  rw [if_neg (by simp [ha, hw]), if_neg (by simp; omega), if_neg (by simp; omega), if_neg (by simp; omega), if_neg (by simp; omega), if_neg (by simp; omega)]

/-- A virtual function's space ends before that region (R414). -/
theorem execRegisterWrite_beyond (f : Nat) (v : W64) (h : 0x200000 ≤ off) : execRegisterWrite (.vf f) off width v s = .next s := by
  by_cases hc : off % width ≠ 0 ∨ width = 0
  · exact execRegisterWrite_misaligned s _ v hc
  · rw [execRegisterWrite_region s _ v h (by tauto) (by tauto)]
    rfl

theorem State.readReg_misaligned (h : off % width ≠ 0 ∨ width = 0) : s.readReg m off width = 0 := by
  have hc : (width == 0 || off % width != 0) = true := by simpa [or_comm] using h
  simp only [State.readReg, hc, if_true]

theorem State.readReg_unlock : s.readReg m 0x1000 4 = (s.fn (mgrFn m)).unlock.word.setWidth 64 := rfl

theorem State.readReg_perFunction (hlo : 0x1100 ≤ off) (hhi : off < 0x1120) (ha : off % 4 = 0) :
    s.readReg m off 4 = s.readPair perFunctionRegs (mgrFn m) (off - 0x1100) := by
  simp only [State.readReg]
  rw [if_neg (by simp [ha]), if_neg (by simp; omega), if_neg (by simp; omega), if_neg (by simp; omega), if_pos (by simp; omega)]

theorem State.readReg_qdoor (hlo : 0x10000 ≤ off) (hhi : off < 0x20000) (ha : off % 16 = 0) : s.readReg m off 8 = 0 := by
  simp only [State.readReg]
  rw [if_neg (by simp; omega), if_neg (by simp; omega), if_neg (by simp), if_neg (by simp), if_neg (by simp), if_neg (by simp [ha])]
  split
  · rfl
  · rw [if_neg (by decide), if_pos (by decide)]
    unfold State.pfRead8
    split
    case h_4 => rw [if_neg (by simp; omega)]
    all_goals exact absurd hhi (by decide)

theorem State.readReg_qstat (hlo : 0x10000 ≤ off) (hhi : off < 0x20000) (ha : off % 16 = 8) {x : Queue} (hx : Tbl.find s.cmdq ((off - 0x10000) / 16) = some x) :
    s.readReg m off 8 = if x.fn = mgrFn m then x.stat else 0 := by
  simp only [State.readReg]
  rw [if_neg (by simp; omega), if_neg (by simp; omega), if_neg (by simp), if_neg (by simp), if_neg (by simp), if_pos (by simp [ha]; omega), hx]
  simp

theorem State.readReg_region (h : 0x200000 ≤ off) (ha : off % width = 0) (hw : width ≠ 0) :
    s.readReg m off width = if !deviceWide m then 0 else if width == 4 then s.pfRead4 off else if width == 8 then s.pfRead8 off else 0 := by
  simp only [State.readReg]
  rw [if_neg (by simp [ha, hw]), if_neg (by simp; omega), if_neg (by simp; omega), if_neg (by simp; omega), if_neg (by simp; omega), if_neg (by simp; omega)]

theorem State.readReg_beyond (f : Nat) (h : 0x200000 ≤ off) : s.readReg (.vf f) off width = 0 := by
  by_cases hc : off % width ≠ 0 ∨ width = 0
  · exact s.readReg_misaligned _ hc
  · rw [s.readReg_region _ h (by tauto) (by tauto)]
    rfl

theorem State.readReg_pf4 (h : 0x200000 ≤ off) (ha : off % 4 = 0) : s.readReg .pf off 4 = s.pfRead4 off := by
  rw [s.readReg_region .pf h ha (by decide)]
  rfl

theorem State.readReg_device (hlo : 0x200000 ≤ off) (hhi : off < 0x200030) (ha : off % 4 = 0) :
    s.readReg .pf off 4 = s.readPair deviceRegs 0 (off - 0x200000) := by
  rw [s.readReg_pf4 hlo ha]
  simp [State.pfRead4, hlo, hhi]

/-- The registers of virtual function `n` in the physical function's region. -/
theorem State.readReg_function {n : Nat} (hn : 1 ≤ n) (h32 : n ≤ 32) (h : off < 64) (ha : off % 4 = 0) :
    s.readReg .pf (0x201000 + (n - 1) * 64 + off) 4 = s.readPair (vfRegs ++ perFunctionRegs) n off := by
  have hd : (0x201000 + (n - 1) * 64 + off - 0x201000) / 64 + 1 = n := by omega
  have hm : (0x201000 + (n - 1) * 64 + off - 0x201000) % 64 = off := by omega
  rw [s.readReg_pf4 (by omega) (by omega)]
  simp only [State.pfRead4, hd, hm]
  rw [if_neg (by simp; omega), if_pos (by simp; omega)]

theorem State.readReg_slice {k : Nat} (h : k < 64) : s.readReg .pf (0x202000 + 4 * k) 4 = (s.slices[k]).setWidth 64 := by
  have hd : (0x202000 + 4 * k - 0x202000) / 4 = k := by omega
  rw [s.readReg_pf4 (by omega) (by omega)]
  simp only [State.pfRead4, hd]
  rw [if_neg (by simp; omega), if_neg (by simp; omega), if_pos (by simp; omega)]
  simp [h]

end

end Sys2Proof.Machine
end

/-- Reads, region by region of the register space. -/
theorem registerReads : claimRegisterReads := by
  open Sys2Proof.Machine in
  intro s m off width v f u
  refine ⟨s.readReg_misaligned m, ?_, fun hu => ?_, ?_, ?_, ?_, fun r => r.expert_word_expert v.toNat, ?_, ?_, fun q hq => ⟨?_, fun x hx => ?_⟩⟩
  · rintro vf rfl h
    exact s.readReg_beyond vf h
  · rw [s.readReg_unlock, BitVec.toNat_setWidth, Unlock.word_toNat hu, Nat.mod_eq_of_lt]
    repeat' split
    all_goals omega
  · intro _ x hx
    simp only [List.mem_cons, List.not_mem_nil, or_false] at hx
    obtain rfl | rfl | rfl | rfl := hx <;> exact ⟨s.readReg_perFunction m (by decide) (by decide) (by decide), s.readReg_perFunction m (by decide) (by decide) (by decide)⟩
  · rintro rfl x hx
    simp only [List.mem_cons, List.not_mem_nil, or_false] at hx
    obtain rfl | rfl | rfl | rfl | rfl | rfl := hx <;> exact ⟨s.readReg_device (by decide) (by decide) (by decide), s.readReg_device (by decide) (by decide) (by decide)⟩
  · rintro rfl n hn h32 x hx
    simp only [List.mem_cons, List.not_mem_nil, or_false] at hx
    obtain rfl | rfl | rfl | rfl | rfl | rfl := hx <;> exact ⟨s.readReg_function hn h32 (by decide) (by decide), s.readReg_function (off := _ + 4) hn h32 (by decide) (by decide)⟩
  · rintro rfl k hk
    rw [State.readReg_slice _ hk]
    simp [State.writeSlice]
  · rintro rfl
    exact ⟨rfl, rfl, rfl⟩
  · exact s.readReg_qdoor m (by omega) (by omega) (by omega)
  · exact s.readReg_qstat m (by omega) (by omega) (by omega) (by rwa [show (0x10008 + 16 * q - 0x10000) / 16 = q by omega])

/-- Settles O52: a write is told apart by what its view, its writer and the unlock allow, and a read by the region of its offset. -/
theorem settingsWrites : Obligations.SettingsWrites := by
  open Sys2Proof.Machine in
  refine ⟨?_, fun s r fn y => ⟨s.getReg_setReg r fn y, s.setReg_mem r fn y, s.setReg_warps r fn y⟩, fun r v => ⟨r.expert_code v, fun _ _ => SetReg.preset_code⟩,
    fun s m v => ⟨fun h => ?_, fun hk hg => ?_⟩, fun s m off width v => ⟨execRegisterWrite_misaligned s m v, ?_, rfl, ⟨rfl, rfl, rfl, rfl, rfl⟩, ?_⟩, registerReads⟩
  · intro s m n v x hx
    simp only [List.mem_cons, List.not_mem_nil, or_false] at hx
    obtain rfl | rfl | rfl | rfl | rfl | rfl | rfl | rfl | rfl | rfl | rfl := hx <;> exact State.views_write rfl rfl
  · exact congrArg Host.Outcome.next (State.writeUnlock_rejected h)
  · exact congrArg Host.Outcome.next (State.writeUnlock_accepted hk hg)
  · rintro f rfl h
    exact execRegisterWrite_beyond s f v h
  · rintro rfl
    exact ⟨rfl, rfl, rfl, rfl⟩

section
/-! SUPPORT. Rules that several of the proofs below share: folds, one bit of a mask, and the change of one warp. -/

namespace Sys2Proof.Machine

/-- What no element of the list changes, the fold does not change. -/
theorem foldl_proj {α β γ : Type} (p : β → γ) {f : β → α → β} {l : List α} (hf : ∀ b, ∀ a ∈ l, p (f b a) = p b) (b : β) : p (l.foldl f b) = p b := by
  induction l generalizing b with
  | nil => rfl
  | cons a l ih =>
    rw [List.foldl_cons, ih fun b x hx => hf b x (List.mem_cons_of_mem _ hx)]
    exact hf b a List.mem_cons_self

theorem getLsbD_setBit {n : Nat} (x : BitVec n) {i j : Nat} (hi : i < n) : (x ||| (1#n <<< i)).getLsbD j = (x.getLsbD j || decide (i = j)) := by
  rw [← BitVec.twoPow_eq, BitVec.getLsbD_or, BitVec.getLsbD_twoPow]
  simp [hi]

theorem getLsbD_clearBit {n : Nat} (x : BitVec n) (i j : Nat) : (x &&& ~~~(1#n <<< i)).getLsbD j = (x.getLsbD j && !decide (i = j)) := by
  rw [← BitVec.twoPow_eq, BitVec.getLsbD_and, BitVec.getLsbD_not, BitVec.getLsbD_twoPow]
  by_cases hj : j < n
  · by_cases h : i = j <;> simp [h, hj]
  · simp [BitVec.getLsbD_of_ge x j (by omega)]

@[simp] theorem State.putWarp_putWarp (s : State) (k : Nat) (u v : Warp) : (s.putWarp k u).putWarp k v = s.putWarp k v := by
  simp [State.putWarp]

/-- A change of one warp that is there. -/
theorem next_onWarp {s : State} {k : Nat} {w u : Warp} {f : Warp → Warp} (hw : Tbl.find s.warps k = some w) (hf : f w = u) : (.next (s.onWarp k f) : Out) = .next (s.putWarp k u) := by
  rw [State.onWarp_of_find hw, hf]

end Sys2Proof.Machine
end

section
/-! SUPPORT. The scalar registers: what a write, a mark and a result in flight leave of each register, and the frame of the operations that write one (R36, R49, R114). -/

namespace Sys2Proof.Machine

/-! ### One register -/

section
variable {c : Scalar} {w : Warp} {d : SReg} {v : W64}

@[simp] theorem Warp.sr_zero (w : Warp) : w.sr 0 = 0 := rfl
@[simp] theorem Warp.writeS_zero (w : Warp) (v : W64) : w.writeS 0 v = w := rfl
@[simp] theorem Warp.longS_zero (w : Warp) (v : W64) : w.longS 0 v = w := rfl

theorem Scalar.put_of_ne (hd : d ≠ 0) : c.put d v = { c with s := c.s.set d.toNat v, empty := c.empty &&& ~~~(1#64 <<< d.toNat) } := if_neg hd

theorem Scalar.mark_of_ne (hd : d ≠ 0) : c.mark d = { c with empty := c.empty ||| (1#64 <<< d.toNat) } := if_neg hd
theorem Warp.longS_of_ne (hd : d ≠ 0) : w.longS d v = { w with sc := { w.sc.mark d with fill := w.sc.fill ++ [(d, v)] } } := if_neg hd

theorem Scalar.full_put (hd : d ≠ 0) (e : SReg) : (c.put d v).full e = (c.full e || decide (e = d)) := by
  rw [Scalar.put_of_ne hd]
  simp only [Scalar.full, getLsbD_clearBit, Bool.not_and, Bool.not_not, ← BitVec.toNat_inj, eq_comm (a := e.toNat)]

theorem Scalar.full_mark (hd : d ≠ 0) (e : SReg) : (c.mark d).full e = (c.full e && !decide (e = d)) := by
  rw [Scalar.mark_of_ne hd]
  simp only [Scalar.full, getLsbD_setBit _ (show d.toNat < 64 from d.isLt), Bool.not_or, ← BitVec.toNat_inj, eq_comm (a := e.toNat)]

/-- The oldest result in flight lands (R114). -/
theorem landScalar_oldest {r : List (SReg × W64)} (h : c.fill = (d, v) :: r) : landScalar c d = { c with fill := r }.put d v := by
  simp [landScalar, h]

theorem Warp.sr_put (hd : d ≠ 0) (c : Scalar) (e : SReg) : { w with sc := c.put d v }.sr e = if e = d then v else { w with sc := c }.sr e := by
  rw [Scalar.put_of_ne hd]
  simp only [Warp.sr, Vector.getElem_set, BitVec.toNat_inj, eq_comm (a := d)]
  by_cases he : e = d
  · subst he
    simp [show ¬ e = 0#6 from hd]
  · simp [he]

theorem Warp.sr_writeS (hd : d ≠ 0) (e : SReg) : (w.writeS d v).sr e = if e = d then v else w.sr e := Warp.sr_put hd w.sc e

@[simp] theorem Scalar.mark_s (c : Scalar) (d : SReg) : (c.mark d).s = c.s := by unfold Scalar.mark; split <;> rfl

@[simp] theorem Warp.sr_longS (w : Warp) (d : SReg) (v : W64) (e : SReg) : (w.longS d v).sr e = w.sr e := by
  unfold Warp.longS
  split
  · rfl
  · simp [Warp.sr]

theorem Warp.full_longS (hd : d ≠ 0) (e : SReg) : (w.longS d v).sc.full e = (w.sc.full e && !decide (e = d)) := by
  rw [← Scalar.full_mark hd, Warp.longS_of_ne hd]
  rfl

end

/-! ### The frame of an operation with one destination -/

/-- Warp `u` is `w` but for register `d`, whether it is full, and the results in flight. -/
def Warp.sameBut (w u : Warp) (d : SReg) : Prop :=
  u = { w with sc := { w.sc with s := u.sc.s, empty := u.sc.empty, fill := u.sc.fill } } ∧ ∀ e : SReg, e ≠ d → u.sr e = w.sr e ∧ u.sc.full e = w.sc.full e

theorem Warp.sameBut_writeS (w : Warp) (d : SReg) (v : W64) : w.sameBut (w.writeS d v) d := by
  by_cases hd : d = 0
  · subst hd
    exact ⟨rfl, fun _ _ => ⟨rfl, rfl⟩⟩
  · refine ⟨?_, fun e he => ⟨?_, ?_⟩⟩
    · rw [Warp.writeS, Scalar.put_of_ne hd]
    · rw [Warp.sr_writeS hd, if_neg he]
    · rw [Warp.writeS, Scalar.full_put hd]
      simp [he]

theorem Warp.sameBut_longS (w : Warp) (d : SReg) (v : W64) : w.sameBut (w.longS d v) d := by
  by_cases hd : d = 0
  · subst hd
    exact ⟨rfl, fun _ _ => ⟨rfl, rfl⟩⟩
  · refine ⟨?_, fun e he => ⟨w.sr_longS d v e, ?_⟩⟩
    · rw [Warp.longS_of_ne hd, Scalar.mark_of_ne hd]
    · rw [Warp.full_longS hd]
      simp [he]

/-- What a scalar register operation with destination `d` leaves unchanged. -/
def State.keptBut (s t : State) (k : Nat) (w : Warp) (d : SReg) : Prop :=
  t = { s with warps := t.warps } ∧ (∀ c, Memory.read t.mem c = Memory.read s.mem c) ∧ (∀ e, e ≠ k → Tbl.find t.warps e = Tbl.find s.warps e) ∧
  ∃ v : Warp, Tbl.find t.warps k = some v ∧ v = { w with sc := v.sc, csr := { w.csr with perf := v.csr.perf } } ∧
    (∀ e : SReg, e ≠ d → v.sr e = w.sr e ∧ v.sc.full e = w.sc.full e) ∧ v.sr 0 = 0 ∧ v.sc.lsel = w.sc.lsel ∧ v.sc.wait = w.sc.wait

section
variable {s t : State} {k : Nat} {w : Warp} {us : List SReg} {d : SReg}

/-- The frame of the issue: a full set of registers lets the stream fall through, an empty one leaves the state alone. -/
theorem scalarIssue_keptBut {g : Warp → Warp} (hi : s.issues k w .scalar) (hp : (s.wg (wgOf k)).inScalar w.sc.fall.pc = true) (hg : w.sameBut (g w) d)
    (h : scalarIssue s us (fun k w => .done (s.putWarp k (g w))) = .next t) : s.keptBut t k w d := by
  obtain ⟨hu, hr⟩ := hg
  cases hus : w.sc.ready us with
  | false =>
    rw [scalarIssue_waits hi hus] at h
    cases h
    exact ⟨rfl, fun _ => rfl, fun _ _ => rfl, w, hi.2, rfl, fun _ _ => ⟨rfl, rfl⟩, w.sr_zero, rfl, rfl⟩
  | true =>
    rw [scalarIssue_done ⟨hi, hus, hp⟩ rfl, State.onWarp_putWarp] at h
    cases h
    refine ⟨rfl, fun _ => rfl, fun e he => State.find_putWarp_other s _ he, (g w).fallS, State.find_putWarp_same .., ?_, hr, Warp.sr_zero _, ?_, ?_⟩ <;> rw [hu] <;> rfl

theorem scalarAlu_keptBut {f : Warp → W64} (hi : s.issues k w .scalar) (hp : (s.wg (wgOf k)).inScalar w.sc.fall.pc = true) (h : scalarAlu s us d f = .next t) :
    s.keptBut t k w d := scalarIssue_keptBut hi hp (w.sameBut_writeS d (f w)) h

theorem scalarLong_keptBut {f : Warp → W64} (hi : s.issues k w .scalar) (hp : (s.wg (wgOf k)).inScalar w.sc.fall.pc = true) (h : scalarLong s us d f = .next t) :
    s.keptBut t k w d := scalarIssue_keptBut hi hp (w.sameBut_longS d (f w)) h

end

end Sys2Proof.Machine
end

/-- Settles O58: every operation of the list is one of the two forms with destination `d`, whose frame is that of the issue. -/
theorem scalarFrame : Obligations.ScalarFrame := by
  open Sys2Proof Sys2Proof.Machine in
  intro s t k w cc d a b i j n u hi hp
  have alu {us : List SReg} {f : Warp → W64} : scalarAlu s us d f = .next t → s.keptBut t k w d := scalarAlu_keptBut hi hp
  have long {us : List SReg} {f : Warp → W64} : scalarLong s us d f = .next t → s.keptBut t k w d := scalarLong_keptBut hi hp
  simp only [List.forall_mem_cons]
  exact ⟨alu, alu, long, long, long, long, alu, alu, alu, alu, alu, alu, alu, alu, long, long, long, alu, alu, alu,
    alu, long, alu, alu, alu, alu, alu, alu, alu, alu, alu, alu, fun _ h => absurd h List.not_mem_nil⟩

/-- Settles O7: the laws of one register, of its mark and of the oldest result in flight; an empty register keeps the issue waiting. -/
theorem scalarRegisterStates : Obligations.ScalarRegisterStates := by
  open Sys2Proof Sys2Proof.Machine in
  refine ⟨fun s k w d v r hw hf hd => ?_, fun s k w cc d a b hi hr => ?_, fun w d v => ⟨w.sr_zero, w.writeS_zero v, w.longS_zero v, fun hd => ?_, fun e he => ?_, w.sr_longS d v⟩⟩
  · refine ⟨_, _, congrArg Host.Outcome.next (State.onWarp_of_find hw _), State.find_putWarp_same .., ?_⟩
    rw [landScalar_oldest hf]
    refine ⟨?_, ?_, ?_, fun e he => ⟨?_, ?_⟩⟩
    · rw [Warp.sr_put hd, if_pos rfl]
    · simp [Scalar.full_put hd]
    · rw [Scalar.put_of_ne hd]
    · rw [Warp.sr_put hd, if_neg he]
      rfl
    · rw [Scalar.full_put hd, decide_eq_false he, Bool.or_false]
      rfl
  · have alu {f : Warp → W64} : scalarAlu s [d, a, b] d f = .next s := scalarIssue_waits hi hr
    have long {f : Warp → W64} : scalarLong s [d, a, b] d f = .next s := scalarIssue_waits hi hr
    simp only [List.forall_mem_cons]
    exact ⟨alu, alu, long, long, long, long, alu, alu, alu, alu, alu, alu, alu, alu, long, long, long, alu, alu, alu,
      fun _ h => absurd h List.not_mem_nil⟩
  · exact ⟨by rw [Warp.sr_writeS hd, if_pos rfl], by simp [Warp.writeS, Scalar.full_put hd], by simp [Warp.full_longS hd]⟩
  · obtain ⟨-, hw⟩ := w.sameBut_writeS d v
    obtain ⟨-, hl⟩ := w.sameBut_longS d v
    exact ⟨(hw e he).1, (hw e he).2, (hl e he).2⟩

section
/-! SUPPORT. The lane link, the system group and the joins: what each does at its issue outside a handler (R37, R39, R40, R52, R53, R126 to R131, R134 to R136). -/

namespace Sys2Proof.Machine

/-! ### Issue outside a handler -/

section
variable {s t : State} {k : Nat} {w : Warp} {us : List SReg} {f : Nat → Warp → SOut}

/-- Outside a handler nothing keeps an instruction from its own part (R324). -/
theorem scalarUser_eq_scalarIssue {st : Stream} (h : s.issues k w st) (hh : w.handler = none) (us : List SReg) (f : Nat → Warp → SOut) :
    scalarUser s us f = scalarIssue s us f := by
  simp [scalarUser, scalarIssue, State.issuer_of_issues h, hh]

/-- It changes the warp and falls through. -/
theorem scalarUser_warp {u : Warp} (h : s.scalarReady k w us) (hh : w.handler = none) (hf : f k w = .done (s.putWarp k u)) :
    scalarUser s us f = .next (s.fellThrough k u) := by
  rw [scalarUser_eq_scalarIssue h.1 hh, scalarIssue_done h hf, State.onWarp_putWarp, State.fellThrough]

/-- It changes nothing and falls through. -/
theorem scalarUser_done_self (h : s.scalarReady k w us) (hh : w.handler = none) (hf : f k w = .done s) : scalarUser s us f = .next (s.fellThrough k w) := by
  rw [scalarUser_eq_scalarIssue h.1 hh, scalarIssue_done h hf, State.onWarp_of_find h.1.2, State.fellThrough]

theorem scalarUser_stay (h : s.scalarReady k w us) (hh : w.handler = none) (hf : f k w = .stay t) : scalarUser s us f = .next t := by
  rw [scalarUser_eq_scalarIssue h.1 hh, scalarIssue_stay h hf]

theorem scalarUser_trap {code info : Nat} (h : s.issues k w .scalar) (hh : w.handler = none) (hr : w.sc.ready us = true) (hf : f k w = .trap code info) :
    scalarUser s us f = .next (s.raiseScalar k w code info) := by
  rw [scalarUser_eq_scalarIssue h hh, scalarIssue_trap h hr hf]

theorem scalarUser_final (h : s.issues k w .scalar) (hh : w.handler = none) (hr : w.sc.ready us = true) (hf : f k w = .final t) :
    scalarUser s us f = .next t := by
  rw [scalarUser_eq_scalarIssue h hh, scalarIssue_final h hr hf]

end

/-! ### The lane link and the return queue -/

section
variable {s : State} {k : Nat} {w : Warp} {a d : SReg} {n : BitVec 20}

theorem lgoUses {a : SReg} (ha : a.toNat ≤ 60) : (if 60 < a.toNat then [] else [a, a + 1, a + 2, a + 3]) = [a, a + 1, a + 2, a + 3] := if_neg (by omega)

theorem execLgo_queues (h : s.scalarReady k w [a, a + 1, a + 2, a + 3]) (hh : w.handler = none) (ha : a.toNat ≤ 60) (hn : (s.wg (wgOf k)).inLane n.toNat = true)
    (hb : w.blocks.length < 16) : execLgo a n s = .next (s.fellThrough k (w.enqueue n (w.snapshot a) s.nextId)) := by
  rw [execLgo, lgoUses ha]
  exact scalarUser_warp h hh (by simp [Nat.not_lt.2 ha, hn, hb])

theorem execLgo_stalls (h : s.scalarReady k w [a, a + 1, a + 2, a + 3]) (hh : w.handler = none) (ha : a.toNat ≤ 60) (hn : (s.wg (wgOf k)).inLane n.toNat = true)
    (hb : 16 ≤ w.blocks.length) : execLgo a n s = .next (s.putWarp k (w.holdS (.lgo n (w.snapshot a)))) := by
  rw [execLgo, lgoUses ha]
  exact scalarUser_stay h hh (by simp [Nat.not_lt.2 ha, hn, Nat.not_lt.2 hb])

theorem execLgo_illop (h : s.issues k w .scalar) (hh : w.handler = none) (ha : 60 < a.toNat) : execLgo a n s = .next (s.raiseScalar k w cILLOP 0) := by
  rw [execLgo, if_pos ha]
  exact scalarUser_trap h hh rfl (if_pos ha)

theorem execLgo_fetchf (h : s.issues k w .scalar) (hh : w.handler = none) (hr : w.sc.ready [a, a + 1, a + 2, a + 3] = true) (ha : a.toNat ≤ 60)
    (hn : (s.wg (wgOf k)).inLane n.toNat = false) : execLgo a n s = .next (s.raiseScalar k w cFETCHF 0) := by
  rw [execLgo, lgoUses ha]
  exact scalarUser_trap h hh hr (by simp [Nat.not_lt.2 ha, hn])

theorem execSpop_pops {v : W64} {q : List W64} (h : s.scalarReady k w [d]) (hh : w.handler = none) (hq : w.rq = v :: q) :
    execSpop d s = .next (s.fellThrough k ({ w with rq := q }.longS d v)) := scalarUser_warp h hh (by rw [hq])

theorem execSpop_waits (h : s.scalarReady k w [d]) (hh : w.handler = none) (hq : w.rq = []) (hn : w.neverPushes = false) :
    execSpop d s = .next (s.putWarp k ({ w with sc := w.sc.mark d }.holdS (.spop d))) := scalarUser_stay h hh (by simp [hq, hn])

theorem execSpop_rqempty (h : s.issues k w .scalar) (hh : w.handler = none) (hr : w.sc.ready [d] = true) (hq : w.rq = []) (hn : w.neverPushes = true) :
    execSpop d s = .next (s.raiseScalar k w cRQEMPTY 0) := scalarUser_trap h hh hr (by simp [hq, hn])

theorem Warp.neverPushes_of_idle (hb : w.blocks = []) (hr : w.running = false) (hf : ∀ y ∈ w.flight, y.push = none) : w.neverPushes = true := by
  simpa [Warp.neverPushes, hb, hr] using hf

/-! ### The system group -/

theorem execSsleep_holds (h : s.scalarReady k w [a]) (hh : w.handler = none) (ha : w.sr a ≠ 0) :
    execSsleep a s = .next (s.fellThrough k { w with sleep := s.cyc + 1 + min (w.sr a).toNat (2 ^ 32 - 1) }) := by
  have hn : (w.sr a).toNat ≠ 0 := fun hz => ha (BitVec.eq_of_toNat_eq hz)
  exact scalarUser_warp h hh (by simp only []; rw [if_neg (by omega)])

theorem execSsleep_zero (h : s.scalarReady k w [a]) (hh : w.handler = none) (ha : w.sr a = 0) : execSsleep a s = .next (s.fellThrough k w) :=
  scalarUser_done_self h hh (by simp [ha])

theorem State.perf_of_lt (s : State) (k : Nat) (w : Warp) {n : Nat} (hn : n < 8) (h4 : n ≠ 4) : s.perf k w n = some w.csr.perf[n] := by
  unfold State.perf
  split
  · exact absurd rfl h4
  · omega
  · exact dif_pos hn

/-- The counters of `SPERF` (R135): the partition share and the bounce count stand apart from the others. -/
theorem State.perf_eq (s : State) (k : Nat) (w : Warp) {p : BitVec 12} (hp : p.toNat ≤ 8) :
    s.perf k w p.toNat = some (if p = 8 then BitVec.ofNat 64 (s.partition k)
      else if p = 4 then BitVec.ofNat 64 (w.csr.bouncecnt.toNat % 2 ^ 48) else w.csr.perf.toList.getD p.toNat 0) := by
  by_cases h8 : p = 8
  · subst h8; rfl
  by_cases h4 : p = 4
  · subst h4; rfl
  have h8' : p.toNat ≠ 8 := fun h => h8 (BitVec.eq_of_toNat_eq h)
  have h4' : p.toNat ≠ 4 := fun h => h4 (BitVec.eq_of_toNat_eq h)
  rw [s.perf_of_lt k w (by omega) h4', if_neg h8, if_neg h4, List.getD_eq_getElem?_getD]
  simp [show p.toNat < 9 by omega]

theorem State.perf_none (s : State) (k : Nat) (w : Warp) {n : Nat} (hn : 8 < n) : s.perf k w n = none := by
  simp [State.perf, show n ≠ 4 by omega, show n ≠ 8 by omega, show ¬ n < 8 by omega]

theorem execSperf_reads {p : BitVec 12} {v : W64} (h : s.scalarReady k w [d]) (hh : w.handler = none) (hv : s.perf k w p.toNat = some v) :
    execSperf p d s = .next (s.fellThrough k (w.longS d v)) := scalarUser_warp h hh (by rw [hv])

theorem execSperf_illop {p : BitVec 12} (h : s.issues k w .scalar) (hh : w.handler = none) (hr : w.sc.ready [d] = true) (hp : 8 < p.toNat) :
    execSperf p d s = .next (s.raiseScalar k w cILLOP 0) := scalarUser_trap h hh hr (by rw [s.perf_none k w hp])

end

end Sys2Proof.Machine
end

/-- Settles O10: the lemmas of the lane link, of the return queue and of the system group, one for each case. -/
theorem laneLinkAndSystem : Obligations.LaneLinkAndSystem := by
  open Sys2Proof Sys2Proof.Machine in
  intro s k w a d n x v q p hh
  refine ⟨fun h ha hn => ⟨execLgo_queues h hh ha hn, execLgo_stalls h hh ha hn⟩, fun h => execLgo_illop h hh, fun h hr ha => execLgo_fetchf h hh hr ha,
    fun h => scalarUser_warp h hh rfl, fun h => ⟨execSpop_pops h hh, execSpop_waits h hh⟩, fun h hr hq hb hg hf => ?_, fun h => ⟨?_, scalarUser_warp h hh rfl⟩,
    fun h => ⟨execSsleep_holds h hh, execSsleep_zero h hh⟩, fun h => ⟨fun hp => execSperf_reads h hh (s.perf_eq k w hp), scalarUser_warp h hh rfl⟩,
    fun h hr hp => execSperf_illop h hh hr hp⟩
  · exact execSpop_rqempty h hh hr hq (Warp.neverPushes_of_idle hb hg hf)
  · exact (scalarUser_eq_scalarIssue h.1 hh [] fun _ _ => .done s).symm.trans (scalarUser_done_self h hh rfl)

section
/-! SUPPORT. The joins: what each does at its issue, what its release part is, and that a warp that has exited stays as it is while barriers complete (R34, R40, R52, R53, R130, R134). -/

namespace Sys2Proof.Machine

/-! ### At issue -/

section
variable {s t : State} {k : Nat} {w : Warp} {j : Join} {d a : SReg}

theorem scalarJoin_holds (h : s.scalarReady k w []) (hh : w.handler = none) (hj : s.joinReady k w = false) :
    scalarJoin j s = .next (s.putWarp k (w.holdS (.join j))) := scalarUser_stay h hh (by simp [hj])

theorem scalarJoin_goes (h : s.scalarReady k w []) (hh : w.handler = none) (hj : s.joinReady k w = true) :
    scalarJoin j s = .next ((s.putWarp k (w.holdS (.join j))).continueJoin k j) := scalarUser_stay h hh (by simp [hj])

theorem execSlaunch_holds (h : s.scalarReady k w [d, a]) (hh : w.handler = none) (hc : s.scalarCheck k 0 (w.sr a) 64 false = 0) (hj : s.joinReady k w = false) :
    execSlaunch d a s = .next (s.putWarp k ({ w with sc := w.sc.mark d }.holdS (.join (.slaunch d a)))) := scalarUser_stay h hh (by simp [hc, hj])

theorem execSlaunch_goes (h : s.scalarReady k w [d, a]) (hh : w.handler = none) (hc : s.scalarCheck k 0 (w.sr a) 64 false = 0) (hj : s.joinReady k w = true) :
    execSlaunch d a s = .next ((s.putWarp k ({ w with sc := w.sc.mark d }.holdS (.join (.slaunch d a)))).continueJoin k (.slaunch d a)) :=
  scalarUser_stay h hh (by simp [hc, hj])

theorem execShalt_holds (h : s.issues k w .scalar) (hh : w.handler = none) (hj : s.joinReady k w = false) :
    execShalt s = .next (s.putWarp k { w.holdS (.join .shalt) with csr := bumpPerf w.csr 1 }) := scalarUser_final h hh rfl (by simp [hj])

theorem execShalt_goes (h : s.issues k w .scalar) (hh : w.handler = none) (hj : s.joinReady k w = true) :
    execShalt s = .next ((s.putWarp k { w.holdS (.join .shalt) with csr := bumpPerf w.csr 1 }).exitWarp k) :=
  scalarUser_final h hh rfl (by simp [hj, State.continueJoin])

end

/-! ### The release part -/

section
variable {s : State} {k : Nat} {w : Warp}

theorem State.passScalar_of_inside (hw : Tbl.find s.warps k = some w) (hp : (s.wg (wgOf k)).inScalar w.sc.fall.pc = true) :
    s.passScalar k = s.putWarp k { w with sc := { w.sc.fall with wait := .none }, csr := bumpPerf w.csr 1 } := by
  simp [State.passScalar, hw, hp]

/-- The request that stands for the release part (R230). -/
def State.releaseReq (s : State) (k : Nat) (w : Warp) (scope : Nat) : Req :=
  { s.scalarReq k w .fence 0 with scope := scope, rel := 1, ord := 2, after := s.nextId, id := s.nextId, iid := s.nextId }

theorem State.scalarRelease_of_find (hw : Tbl.find s.warps k = some w) (scope : Nat) (j : Join) :
    s.scalarRelease k scope j =
      ((s.putReq (s.releaseReq k w scope)).bump).putWarp k { w with joined := s.nextId, sc := { w.sc with wait := .release s.nextId j } } := by
  rw [State.scalarRelease, hw]
  exact State.onWarp_of_find (by simpa using hw) _

theorem State.continueJoin_sbar (s : State) (k : Nat) (b : BitVec 4) : s.continueJoin k (.sbar b.toNat) = s.scalarRelease k 0 (.sbar b.toNat) := by
  have hb : (b.toNat == 16) = false := by simpa using Nat.ne_of_lt b.isLt
  simp [State.continueJoin, hb]

theorem State.continueJoin_strig (hw : Tbl.find s.warps k = some w) (ht : w.triggered = false) : s.continueJoin k .strig = s.scalarRelease k 2 .strig := by
  simp [State.continueJoin, hw, ht]

theorem State.continueJoin_lwait (hw : Tbl.find s.warps k = some w) (hp : (s.wg (wgOf k)).inScalar w.sc.fall.pc = true) :
    s.continueJoin k .lwait = s.putWarp k { w with sc := { w.sc.fall with wait := .none }, joined := s.nextId, csr := bumpPerf w.csr 1 } := by
  rw [State.continueJoin, State.onWarp_of_find hw, State.passScalar_of_inside (w := { w with joined := s.nextId }) (State.find_putWarp_same ..) hp,
    State.putWarp_putWarp]

end

/-! ### A warp that has exited -/

/-- The warp has exited at `SHALT`: its loop stack is gone and no wait or handler of it is left (R34, R134). -/
def Warp.gone (w : Warp) : Prop := w.exited = true ∧ w.halted = true ∧ w.sc.loops = [] ∧ w.sc.wait = .none ∧ w.handler = none

/-- Warp `k` is there and has exited. -/
def State.gone (s : State) (k : Nat) : Prop := ∃ w, Tbl.find s.warps k = some w ∧ w.gone

section
variable {s t : State} {k : Nat}

theorem State.gone_of_find_eq (h : s.gone k) (ht : Tbl.find t.warps k = Tbl.find s.warps k) : t.gone k := by
  obtain ⟨w, hw, hg⟩ := h
  exact ⟨w, ht.trans hw, hg⟩

theorem State.gone_putWarp_other (h : s.gone k) {j : Nat} (hj : k ≠ j) (w : Warp) : (s.putWarp j w).gone k :=
  State.gone_of_find_eq h (State.find_putWarp_other s w hj)

theorem State.gone_onWarp (h : s.gone k) (j : Nat) {f : Warp → Warp} (hf : ∀ w : Warp, w.gone → (f w).gone) : (s.onWarp j f).gone k := by
  obtain ⟨w, hw, hg⟩ := h
  by_cases hj : k = j
  · subst hj
    exact ⟨f w, by rw [State.onWarp_of_find hw, State.find_putWarp_same], hf w hg⟩
  · exact ⟨w, by rw [State.onWarp_warps, Tbl.find_adjust, if_neg hj, hw], hg⟩

/-- The halt of the siblings passes over a warp that has exited (R321). -/
theorem State.gone_broadcastHalt (h : s.gone k) (j : Nat) : (s.broadcastHalt j).gone k := by
  obtain ⟨w, hw, hg⟩ := h
  refine ⟨w, ?_, hg⟩
  simp only [State.broadcastHalt, State.drawn_warps, Tbl.find_mapVal, hw, Option.map_some]
  rw [if_neg (by simp [hg.1])]

theorem State.gone_takeTrap_other (h : s.gone k) {j : Nat} (hj : k ≠ j) (w : Warp) (code : Nat) : (s.takeTrap j w code).gone k := by
  rcases Bool.eq_false_or_eq_true (w.handler.isNone && w.delegates code) with hc | hc <;>
    exact State.gone_of_find_eq h (by simp [State.takeTrap, hc, Tbl.find_put_other _ _ hj])

theorem Warp.gone_demoted {w : Warp} (h : w.gone) : w.demoted.gone := by
  obtain ⟨he, hh, hl, hw, hn⟩ := h
  simp [Warp.gone, Warp.demoted, he, hh, hl, hw, hn]

theorem State.gone_demote (h : s.gone k) (j : Nat) : (s.demote j).gone k :=
  State.gone_of_find_eq (s := s.onWarp j Warp.demoted) (State.gone_onWarp h j fun _ => Warp.gone_demoted) rfl

/-- A trap of another warp leaves it as it is, but for the trap that it has given way to itself (R322). -/
theorem State.gone_raise_other (h : s.gone k) {j : Nat} (hj : k ≠ j) (src code info : Nat) (pc : W64) (inst : W32) : (s.raise j src code info pc inst).gone k := by
  rcases s.raise_cases j src code info pc inst with hx | ⟨w, -, ⟨-, hx⟩ | ⟨i, stop, -, -, -, hx⟩ | ⟨-, hx⟩⟩ <;> rw [hx]
  · exact h
  · exact State.gone_takeTrap_other (State.gone_broadcastHalt h j) hj _ _
  · exact State.gone_takeTrap_other (State.gone_demote h i) hj _ _
  · exact State.gone_putWarp_other h hj _

theorem State.gone_passScalar_other (h : s.gone k) {j : Nat} (hj : k ≠ j) : (s.passScalar j).gone k := by
  unfold State.passScalar
  split
  · exact h
  · split
    · exact State.gone_putWarp_other h hj _
    · exact State.gone_raise_other (State.gone_putWarp_other h hj _) hj ..

/-- No wait of it is left that an event could end; a wait of another warp ends there. -/
theorem State.gone_endScalarWait (h : s.gone k) (j : Nat) {p : SWait → Bool} (hp : p .none = false) : (s.endScalarWait j p).gone k := by
  obtain ⟨u, hu, hg⟩ := h
  unfold State.endScalarWait
  by_cases hj : k = j
  · subst hj
    obtain ⟨-, -, -, hw, hn⟩ := id hg
    simp only [hu, hn, hw, hp]
    exact ⟨u, hu, hg⟩
  · have h : s.gone k := ⟨u, hu, hg⟩
    split
    · exact h
    · split
      · split
        · exact State.gone_putWarp_other h hj _
        · split
          · exact State.gone_passScalar_other h hj
          · exact h
      · split
        · exact State.gone_passScalar_other h hj
        · exact h

@[simp] theorem State.putBarrier_warps (s : State) (g b : Nat) (x : Barrier) : (s.putBarrier g b x).warps = s.warps := by
  unfold State.putBarrier
  dsimp only
  split <;> rfl

@[simp] theorem State.acquire_warps (s : State) (core scope : Nat) : (s.acquire core scope).warps = s.warps := by
  unfold State.acquire
  split <;> simp

@[simp] theorem State.countTrigger_warps (s : State) (k : Nat) : (s.countTrigger k).warps = s.warps := by
  unfold State.countTrigger
  dsimp only
  split <;> rfl

/-- A barrier that completes ends the waits of other warps only. -/
theorem State.gone_tryBarrier (h : s.gone k) (g b : Nat) : (s.tryBarrier g b).gone k := by
  unfold State.tryBarrier
  dsimp only
  split
  · exact h
  · refine foldl_keeps (p := fun s : State => s.gone k) (fun s j hs => ?_) _ (State.gone_of_find_eq h (by simp))
    refine State.gone_endScalarWait (State.gone_onWarp (f := fun w => { w with joined := s.nextId }) (State.gone_of_find_eq hs ?_) j fun _ hw => hw) j (p := waitsAt b) rfl
    split <;> simp

theorem State.gone_exitWarp {w : Warp} (hw : Tbl.find s.warps k = some w) (hh : w.handler = none) : (s.exitWarp k).gone k := by
  have hg : (s.putWarp k { w with halted := true, exited := true, sc := { w.sc with loops := [], wait := .none } }).gone k :=
    ⟨_, State.find_putWarp_same .., rfl, rfl, rfl, rfl, hh⟩
  simp only [State.exitWarp, hw]
  refine foldl_keeps (p := fun s : State => s.gone k) (fun s b hs => State.gone_tryBarrier hs _ b) _ (State.gone_of_find_eq hg ?_)
  split <;> simp

end

end Sys2Proof.Machine
end

/-- The joins hold the stream while the warp has lane work (R40). -/
theorem joinsHoldTheStream : claimJoinsHoldTheStream := by
  open Sys2Proof.Machine in
  intro s k w b d a hh hj
  exact ⟨fun h => ⟨scalarJoin_holds h hh hj, scalarJoin_holds h hh hj, scalarJoin_holds h hh hj, scalarJoin_holds h hh hj⟩,
    fun h hc => execSlaunch_holds h hh hc hj, fun h => execShalt_holds h hh hj⟩

/-- The joins once the lane work has ended: on at once, behind a release part, or out. -/
theorem joinsComplete : claimJoinsComplete := by
  open Sys2Proof Sys2Proof.Machine in
  intro s k w b d a hh hj release
  have released {i : Instr} {j : Join} {scope : Nat} {v : Warp} (hx : exec i s = .next ((s.putWarp k v).continueJoin k j))
      (hr : (s.putWarp k v).continueJoin k j = (s.putWarp k v).scalarRelease k scope j) : release i j scope := by
    rw [hr, State.scalarRelease_of_find (State.find_putWarp_same ..)] at hx
    exact ⟨_, (s.putWarp k v).releaseReq k v scope, _, hx, Tbl.find_put_same .., State.find_putWarp_same .., rfl, rfl, rfl, rfl, rfl, rfl⟩
  refine ⟨fun h => ⟨?_, released (scalarJoin_goes h hh hj) (State.continueJoin_sbar ..), released (scalarJoin_goes h hh hj) rfl,
      fun ht => released (scalarJoin_goes h hh hj) (State.continueJoin_strig (State.find_putWarp_same ..) ht)⟩,
    fun h hc => released (execSlaunch_goes h hh hc hj) rfl, fun h => ?_⟩
  · refine ⟨_, _, (scalarJoin_goes h hh hj).trans (congrArg Host.Outcome.next (State.continueJoin_lwait (State.find_putWarp_same ..) h.2.2)),
      State.find_putWarp_same .., rfl, rfl, rfl, rfl, rfl⟩
  · obtain ⟨u, hu, he, hl, hloops, -, -⟩ := State.gone_exitWarp (s := s.putWarp k { w.holdS (.join .shalt) with csr := bumpPerf w.csr 1 }) (State.find_putWarp_same ..) hh
    exact ⟨_, u, execShalt_goes h hh hj, hu, he, hl, hloops⟩

/-- Settles O11: a join holds while the warp has lane work, and else goes on, through its release part, or to the exit. -/
theorem joins : Obligations.Joins := ⟨joinsHoldTheStream, joinsComplete⟩

section
/-! SUPPORT. Lane instructions that leave one result in flight: moves, the select, predicates, warp-state reads, and `SETVB` (R160 to R165). -/

namespace Sys2Proof.Machine

section
variable {s : State} {k : Nat} {w : Warp} {st : Stream}

/-- The whole of an instruction whose own part is one result in flight (R141). -/
theorem laneIssue_flies {hd : LaneHdr} {us : List Use} {f : Nat → Warp → Stream → Slot → LaneMask → LOut} {r : Result} (h : s.laneReady k w st hd us)
    (hf : f k w st (w.slot st) (w.active st hd) = .done (s.fly k r)) : laneIssue s hd us f = .next (s.flew k w st hd r 0) := by
  rw [laneIssue_done h hf, State.flew]
  rfl

/-! ### The kinds of a destination -/

theorem Opnd.not_isP_of_isV : ∀ {o : Opnd}, o.isV = true → o.isP = false
  | .v _, _ | .a _, _ => rfl

theorem Opnd.not_isK_of_isV : ∀ {o : Opnd}, o.isV = true → o.isK = false
  | .v _, _ | .a _, _ => rfl

/-! ### Moves (R160, R161) -/

section
variable {l : LaneReg} {m : LaneImm}

theorem execMov_word (h : s.laneReady k w st l.hdr (LaneReg.uses1 l)) (hd : l.d.isV = true) :
    execMov l s = .next (s.flew k w st l.hdr (laneResult s w st (w.active st l.hdr) l.d fun i => plain (s.rd k w st l.a 0)[i]) 0) :=
  laneIssue_flies h (by simp [Opnd.not_isP_of_isV hd, Opnd.not_isK_of_isV hd])

theorem execMov_predicate (h : s.laneReady k w st l.hdr (LaneReg.uses1 l)) (hd : l.d.isP = true) :
    execMov l s = .next (s.flew k w st l.hdr (predResult s st (w.active st l.hdr) l.d fun i => (s.rd k w st l.a 0)[i] != 0) 0) :=
  laneIssue_flies h (by simp [hd])

/-- A counter takes the value of the lowest active lane (R160). -/
theorem execMov_counter {n : BitVec 4} {j : Fin 32} {r : List (Fin 32)} (h : s.laneReady k w st l.hdr (LaneReg.uses1 l)) (hd : l.d = .k n)
    (hj : (w.active st l.hdr).lanes = j :: r) :
    execMov l s = .next (s.flew k w st l.hdr { s.blankResult st 0 with ctrs := [(n.toNat, (s.rd k w st l.a 0)[j].setWidth 16)] } 0) :=
  laneIssue_flies h (by simp [hd, Opnd.isP, Opnd.isK, firstLane, hj, ctrResult])

theorem execMovi_word (h : s.laneReady k w st m.hdr (LaneImm.uses m)) (hd : m.d.isV = true) :
    execMovi m s = .next (s.flew k w st m.hdr (laneResult s w st (w.active st m.hdr) m.d fun _ => plain m.imm) 0) :=
  laneIssue_flies h (by simp [Opnd.not_isP_of_isV hd, Opnd.not_isK_of_isV hd])

theorem execMovi_predicate (h : s.laneReady k w st m.hdr (LaneImm.uses m)) (hd : m.d.isP = true) :
    execMovi m s = .next (s.flew k w st m.hdr (predResult s st (w.active st m.hdr) m.d fun _ => m.imm != 0) 0) := laneIssue_flies h (by simp [hd])

theorem execMovi_counter {n : BitVec 4} (h : s.laneReady k w st m.hdr (LaneImm.uses m)) (hd : m.d = .k n) (ha : w.active st m.hdr ≠ 0) :
    execMovi m s = .next (s.flew k w st m.hdr { s.blankResult st 0 with ctrs := [(n.toNat, m.imm.setWidth 16)] } 0) :=
  laneIssue_flies h (by
    simp only [hd, Opnd.isP, Opnd.isK]
    exact if_neg ha)

/-! ### The select and the warp-state reads (R162, R165) -/

theorem execSel_word (h : s.laneReady k w st l.hdr (LaneReg.uses1 l)) :
    execSel l s = .next (s.flew k w st l.hdr (laneResult s w st (w.active st l.hdr) l.d fun i =>
      plain (if (s.rd k w st l.c 0)[i] = 0 then (s.rd k w st l.b 0)[i] else (s.rd k w st l.a 0)[i])) 0) := by
  refine (laneWise_ready h laneSel).trans ?_
  simp [laneSel, ite_not]

theorem execSprd_word (h : s.laneReady k w st l.hdr (LaneReg.uses1 l)) (hf : l.low ≠ 0 ∨ s.flagsOwed k st = false) :
    execSprd l s = .next (s.flew k w st l.hdr (laneResult s w st (w.active st l.hdr) l.d fun _ => plain (s.sprdValue w st l.low)) 0) := by
  have hw : (l.low == 0 && s.flagsOwed k st) = false := by rcases hf with hf | hf <;> simp [hf]
  exact laneIssue_flies h (by simp [hw])

theorem execPlop_predicate (h : s.laneReady k w st l.hdr (LaneReg.uses1 l)) :
    execPlop l s = .next (s.flew k w st l.hdr (predResult s st (w.active st l.hdr) l.d fun i =>
      l.mod.getLsbD (2 * ((s.rd k w st l.a 0)[i]).toNat + ((s.rd k w st l.b 0)[i]).toNat)) 0) := laneIssue_flies h rfl

theorem execSprd_waits (h : s.laneReady k w st l.hdr (LaneReg.uses1 l)) (hl : l.low = 0) (hf : s.flagsOwed k st = true) : execSprd l s = .next s :=
  laneIssue_final h (if_pos (by simp [hl, hf]))

/-! ### `SETVB` (R164) -/

theorem execSetvb_done (h : s.laneReady k w st l.hdr (LaneReg.uses1 l)) (hb : w.slotB.st = .idle) (hs : w.dstack = []) (ha : w.active st l.hdr ≠ 0)
    (hf : w.rg.allFull = true) (hn : ((s.rd k w st l.a 0)[(0 : Fin 32)]).toNat ≤ w.rg.nreg) :
    execSetvb l s = .next ((s.putWarp k { w with rg := { w.rg with vb := ((s.rd k w st l.a 0)[(0 : Fin 32)]).toNat } }).passed k st l.hdr (w.slot st).pc s.cyc) :=
  laneIssue_done h (by
    have ha' : ¬ w.active st l.hdr = 0#32 := ha
    have hn' : ¬ w.rg.nreg < ((s.rd k w st l.a 0)[0]).toNat := Nat.not_lt.2 hn
    simp [hb, hs, ha', hf, hn'])

theorem execSetvb_vbdiv (h : s.laneReady k w st l.hdr (LaneReg.uses1 l)) (hd : w.slotB.st ≠ .idle ∨ w.dstack ≠ []) :
    execSetvb l s = .next (s.raiseLane k w st cVBDIV (w.active st l.hdr).toNat) := laneIssue_trap h (if_pos (by simpa using hd))

end

end

end Sys2Proof.Machine
end

/-- Settles O23: the lemmas of each instruction by the kind of its destination. -/
theorem laneMovesAndPredicates : Obligations.LaneMovesAndPredicates := by
  open Sys2Proof.Machine in
  intro s k w st l m j r
  refine ⟨fun h => ⟨execMov_word h, execMov_predicate h, fun n hd hj => execMov_counter h hd hj, execSel_word h, execPlop_predicate h, execSprd_word h, execSprd_waits h,
    execSetvb_done h, execSetvb_vbdiv h⟩, fun h => ⟨execMovi_word h, execMovi_predicate h, fun n hd ha => execMovi_counter h hd ha⟩⟩

section
/-! SUPPORT. The landing of a lane result: what each of its parts leaves of the lane registers, predicates and counters (R49, R51, R63, R95, R141, R160, R203). -/

namespace Sys2Proof.Machine

/-! ### The parts of a landing -/

def Regs.landRegs (r : Regs) (x : Result) : Regs := if x.keep then r else x.regs.foldl (fun r y => r.merge x.lanes y.1 y.2) r

def Regs.landPreds (r : Regs) (x : Result) : Regs :=
  if x.keep then r else x.preds.foldl (fun r y => r.putP y.1 ((y.2 &&& x.lanes) ||| (r.pr y.1 &&& ~~~x.lanes))) r

def Regs.landCtrs (r : Regs) (x : Result) : Regs := x.ctrs.foldl (fun r y => r.writeK y.1 y.2) r

/-- Registers marked empty become full (R49). -/
def Regs.landFull (r : Regs) (x : Result) : Regs := if x.fills then r.filled (x.regs.map (·.1)) else r

/-- The arrivals of the registers filled (R51). -/
def Regs.landArrivals (r : Regs) (x : Result) : Regs :=
  if x.fills then match x.kctr with | some c => x.regs.foldl (fun r _ => r.arrive c) r | none => r else r

/-- A landing is its parts in turn. -/
theorem Regs.land_eq (r : Regs) (x : Result) : r.land x = ((((r.landRegs x).landPreds x).landCtrs x).landFull x).landArrivals x := by
  unfold Regs.land Regs.landArrivals Regs.landFull
  dsimp only
  split
  · cases x.kctr <;> rfl
  · rfl

/-! ### What each part leaves alone -/

section
variable (r : Regs) (x : Result)

/-- The registers: their lanes and their poison. -/
theorem Regs.landRegs_frame : r.landRegs x = { r with pool := (r.landRegs x).pool, poison := (r.landRegs x).poison } := by
  unfold Regs.landRegs
  split
  · rfl
  · refine foldl_keeps (p := fun b : Regs => b = { r with pool := b.pool, poison := b.poison }) (fun b y hb => ?_) _ rfl
    rw [hb]
    unfold Regs.merge
    dsimp only
    split <;> rfl

/-- The predicates: `p` alone. -/
theorem Regs.landPreds_frame : r.landPreds x = { r with p := (r.landPreds x).p } := by
  unfold Regs.landPreds
  split
  · rfl
  · refine foldl_keeps (p := fun b : Regs => b = { r with p := b.p }) (fun b y hb => ?_) _ rfl
    rw [hb]
    unfold Regs.putP
    split <;> rfl

/-- The counters: `k` alone. -/
theorem Regs.landCtrs_frame : r.landCtrs x = { r with k := (r.landCtrs x).k } := by
  refine foldl_keeps (p := fun b : Regs => b = { r with k := b.k }) (fun b y hb => ?_) _ rfl
  rw [hb]
  rfl

/-- The marks: `empty` alone. -/
theorem Regs.landFull_frame : r.landFull x = { r with empty := (r.landFull x).empty } := by
  unfold Regs.landFull
  split
  · refine foldl_keeps (p := fun b : Regs => b = { r with empty := b.empty }) (fun b y hb => ?_) _ rfl
    rw [hb]
    rfl
  · rfl

/-- The arrivals: the counters and what the cycle remembers of them. -/
theorem Regs.landArrivals_frame : r.landArrivals x = { r with k := (r.landArrivals x).k, arrs := (r.landArrivals x).arrs } := by
  unfold Regs.landArrivals
  split
  · split
    · refine foldl_keeps (p := fun b : Regs => b = { r with k := b.k, arrs := b.arrs }) (fun b y hb => ?_) _ rfl
      rw [hb]
      rfl
    · rfl
  · rfl

theorem Regs.get_land (f : Nat) : (r.land x).get f = (r.landRegs x).get f := by
  rw [Regs.land_eq, Regs.landArrivals_frame, Regs.landFull_frame, Regs.landCtrs_frame, Regs.landPreds_frame]
  rfl

theorem Regs.isPoison_land (f : Nat) : (r.land x).isPoison f = (r.landRegs x).isPoison f := by
  rw [Regs.land_eq, Regs.landArrivals_frame, Regs.landFull_frame, Regs.landCtrs_frame, Regs.landPreds_frame]
  rfl

theorem Regs.pr_land (n : Nat) : (r.land x).pr n = ((r.landRegs x).landPreds x).pr n := by
  rw [Regs.land_eq, Regs.landArrivals_frame, Regs.landFull_frame, Regs.landCtrs_frame]
  rfl

theorem Regs.pr_landRegs (n : Nat) : (r.landRegs x).pr n = r.pr n := by
  rw [Regs.landRegs_frame]
  rfl

end

/-! ### Registers -/

section
variable {r : Regs} {x : Result}

@[simp] theorem Regs.get_put (r : Regs) (e f : Nat) (v : Lanes) : (r.put e v).get f = if f = e then v else r.get f := by
  simp only [Regs.get, Regs.put, Tbl.getD, Tbl.find_put]
  split <;> rfl

theorem Regs.isPoison_setPoison_false (r : Regs) (e f : Nat) : (r.setPoison e false).isPoison f = (r.isPoison f && !decide (e = f)) := getLsbD_clearBit ..

theorem Regs.isEmpty_setEmpty_false (r : Regs) (e f : Nat) : (r.setEmpty e false).isEmpty f = (r.isEmpty f && !decide (e = f)) := getLsbD_clearBit ..

theorem Regs.get_merge (r : Regs) (m : LaneMask) (e f : Nat) (v : Lanes) : (r.merge m e v).get f = if f = e then Lanes.merge m v (r.get e) else r.get f := by
  rw [← Regs.get_put]
  unfold Regs.merge
  dsimp only
  split <;> rfl

@[simp] theorem Regs.isPoison_put (r : Regs) (e f : Nat) (v : Lanes) : (r.put e v).isPoison f = r.isPoison f := rfl

theorem Regs.isPoison_merge (r : Regs) (m : LaneMask) (e f : Nat) (v : Lanes) :
    (r.merge m e v).isPoison f = (r.isPoison f && !(m == 0xFFFFFFFF#32 && decide (e = f))) := by
  unfold Regs.merge
  dsimp only
  split
  next hm => rw [Regs.isPoison_setPoison_false, hm, Bool.true_and, Regs.isPoison_put]
  next hm => rw [Bool.eq_false_iff.2 hm, Bool.false_and, Bool.not_false, Bool.and_true, Regs.isPoison_put]

theorem Regs.get_land_of_not_mem {f : Nat} (hf : f ∉ x.regs.map (·.1)) : (r.land x).get f = r.get f := by
  rw [Regs.get_land]
  unfold Regs.landRegs
  split
  · rfl
  · exact foldl_proj (fun r : Regs => r.get f) (fun b y hy => by rw [Regs.get_merge, if_neg fun h => hf (List.mem_map.2 ⟨y, hy, h.symm⟩)]) r

theorem Regs.isPoison_land_of_not_mem {f : Nat} (hf : f ∉ x.regs.map (·.1)) : (r.land x).isPoison f = r.isPoison f := by
  rw [Regs.isPoison_land]
  unfold Regs.landRegs
  split
  · rfl
  · refine foldl_proj (fun r : Regs => r.isPoison f) (fun b y hy => ?_) r
    rw [Regs.isPoison_merge, decide_eq_false fun h : y.1 = f => hf (List.mem_map.2 ⟨y, hy, h⟩), Bool.and_false, Bool.not_false, Bool.and_true]

theorem Regs.landRegs_one {e : Nat} {v : Lanes} (hk : x.keep = false) (hx : x.regs = [(e, v)]) : r.landRegs x = r.merge x.lanes e v := by
  simp [Regs.landRegs, hk, hx]

/-- The lanes of a result take its values, the others keep theirs (R140, R141). -/
theorem Regs.get_land_one {e : Nat} {v : Lanes} (hk : x.keep = false) (hx : x.regs = [(e, v)]) (l : Fin 32) :
    ((r.land x).get e)[l] = if x.lanes.has l then v[l] else (r.get e)[l] := by
  rw [Regs.get_land, Regs.landRegs_one hk hx, Regs.get_merge, if_pos rfl, Lanes.merge_get]

/-- A register overwritten whole is no longer poisoned (R203). -/
theorem Regs.isPoison_land_one {e : Nat} {v : Lanes} (hk : x.keep = false) (hx : x.regs = [(e, v)]) (hl : x.lanes = 0xFFFFFFFF#32) :
    (r.land x).isPoison e = false := by
  rw [Regs.isPoison_land, Regs.landRegs_one hk hx, Regs.isPoison_merge]
  simp [hl]

/-- A result whose outcome is lost writes no register and no predicate. -/
theorem Regs.land_keep (hk : x.keep = true) :
    (∀ f, (r.land x).get f = r.get f ∧ (r.land x).isPoison f = r.isPoison f) ∧ ∀ n, (r.land x).pr n = r.pr n := by
  have hr : r.landRegs x = r := if_pos hk
  have hp : r.landPreds x = r := if_pos hk
  refine ⟨fun f => ⟨?_, ?_⟩, fun n => ?_⟩
  · rw [Regs.get_land, hr]
  · rw [Regs.isPoison_land, hr]
  · rw [Regs.pr_land, hr, hp]

/-! ### Full and empty -/

theorem Regs.isEmpty_filled (r : Regs) (es : List Nat) (f : Nat) : (r.filled es).isEmpty f = (r.isEmpty f && !decide (f ∈ es)) := by
  induction es generalizing r with
  | nil => simp [Regs.filled]
  | cons e es ih =>
    refine (ih (r.setEmpty e false)).trans ?_
    rw [Regs.isEmpty_setEmpty_false]
    simp [Bool.and_assoc, eq_comm (a := e)]

/-- Registers marked empty become full, and no other changes (R49). -/
theorem Regs.isEmpty_land (r : Regs) (x : Result) (f : Nat) : (r.land x).isEmpty f = (r.isEmpty f && !(x.fills && decide (f ∈ x.regs.map (·.1)))) := by
  have hq : (((r.landRegs x).landPreds x).landCtrs x).isEmpty f = r.isEmpty f := by
    rw [Regs.landCtrs_frame, Regs.landPreds_frame, Regs.landRegs_frame]
    rfl
  have hl : (r.land x).isEmpty f = ((((r.landRegs x).landPreds x).landCtrs x).landFull x).isEmpty f := by
    rw [Regs.land_eq, Regs.landArrivals_frame]
    rfl
  rw [← hq, hl]
  cases hx : x.fills with
  | false => simp [Regs.landFull, hx]
  | true =>
    simp only [Regs.landFull, hx, if_true, Bool.true_and]
    exact Regs.isEmpty_filled ..

/-! ### Predicates -/

theorem Regs.pr_putP (r : Regs) {n : Nat} (hn : n < 16) (v : LaneMask) : (r.putP n v).pr n = if n = 0 then 0xFFFFFFFF#32 else v := by
  by_cases h : n = 0
  · simp [Regs.pr, h]
  · simp [Regs.pr, Regs.putP, h, List.getD_eq_getElem?_getD, hn]

theorem Regs.pr_putP_other (r : Regs) {n m : Nat} (h : m ≠ n) (v : LaneMask) : (r.putP n v).pr m = r.pr m := by
  by_cases hn : n = 0
  · simp [Regs.putP, hn]
  · simp [Regs.pr, Regs.putP, hn, List.getD_eq_getElem?_getD, List.getElem?_set_ne (Ne.symm h)]

theorem Regs.pr_land_of_not_mem {n : Nat} (hn : n ∉ x.preds.map (·.1)) : (r.land x).pr n = r.pr n := by
  rw [← r.pr_landRegs x n, Regs.pr_land]
  unfold Regs.landPreds
  split
  · rfl
  · exact foldl_proj (fun r : Regs => r.pr n) (fun b y hy => b.pr_putP_other (fun h => hn (List.mem_map.2 ⟨y, hy, h.symm⟩)) (y.2 &&& x.lanes ||| b.pr y.1 &&& ~~~x.lanes)) _

/-- The active lanes of a predicate take their values; `p0` ignores the write (R95). -/
theorem Regs.pr_land_one {n : Nat} {m : LaneMask} (hk : x.keep = false) (hx : x.preds = [(n, m)]) (hn : n < 16) :
    (r.land x).pr n = if n = 0 then 0xFFFFFFFF#32 else (m &&& x.lanes) ||| (r.pr n &&& ~~~x.lanes) := by
  have hp (r : Regs) : r.landPreds x = r.putP n ((m &&& x.lanes) ||| (r.pr n &&& ~~~x.lanes)) := by simp [Regs.landPreds, hk, hx]
  rw [Regs.pr_land, hp, Regs.pr_putP _ hn, Regs.pr_landRegs]

/-- Lane by lane. -/
theorem Regs.getLsbD_pr_land_one {n l : Nat} {m : LaneMask} (hk : x.keep = false) (hx : x.preds = [(n, m)]) (hn : n < 16) (hl : l < 32) :
    ((r.land x).pr n).getLsbD l = if n = 0 then true else if x.lanes.getLsbD l then m.getLsbD l else (r.pr n).getLsbD l := by
  rw [Regs.pr_land_one hk hx hn, show 0xFFFFFFFF#32 = BitVec.allOnes 32 from rfl]
  split
  · rw [BitVec.getLsbD_allOnes, decide_eq_true hl]
  · rw [BitVec.getLsbD_or, BitVec.getLsbD_and, BitVec.getLsbD_and, BitVec.getLsbD_not]
    cases x.lanes.getLsbD l <;> simp [hl]

/-! ### Counters -/

theorem Regs.kr_putK (r : Regs) {c : Nat} (hc : c < 16) (v : W16) : (r.putK c v).kr c = v := by
  simp [Regs.kr, Regs.putK, List.getD_eq_getElem?_getD, hc]

theorem Regs.kr_putK_other (r : Regs) {c d : Nat} (h : d ≠ c) (v : W16) : (r.putK c v).kr d = r.kr d := by
  simp [Regs.kr, Regs.putK, List.getD_eq_getElem?_getD, List.getElem?_set_ne (Ne.symm h)]

theorem Regs.kr_arrive_other (r : Regs) {c d : Nat} (h : d ≠ c) : (r.arrive c).kr d = r.kr d := r.kr_putK_other h _

/-- A result without counters leaves them to its own arrivals. -/
theorem Regs.kr_landFull (r : Regs) {x : Result} (hx : x.ctrs = []) (c : Nat) : ((((r.landRegs x).landPreds x).landCtrs x).landFull x).kr c = r.kr c := by
  have hc (r : Regs) : r.landCtrs x = r := by simp [Regs.landCtrs, hx]
  rw [hc, Regs.landFull_frame, Regs.landPreds_frame, Regs.landRegs_frame]
  rfl

theorem Regs.landArrivals_none {r : Regs} {x : Result} (h : x.fills = false) : r.landArrivals x = r := by simp [Regs.landArrivals, h]

/-- A counter written takes the value, the arrivals of the cycle applied after it (R160). -/
theorem Regs.kr_land_written {c : Nat} {v : W16} (hf : x.fills = false) (hx : x.ctrs = [(c, v)]) (hc : c < 16) :
    (r.land x).kr c = arrived v (r.arrs.count c) := by
  have ha : ((r.landRegs x).landPreds x).arrs = r.arrs := by
    rw [Regs.landPreds_frame, Regs.landRegs_frame]
  have hl (r : Regs) : r.landCtrs x = r.writeK c v := by simp [Regs.landCtrs, hx]
  rw [Regs.land_eq, Regs.landArrivals_none hf, Regs.landFull, if_neg (by simp [hf]), hl, Regs.writeK, Regs.kr_putK _ hc, ha]

theorem Regs.kr_land_kept {c : Nat} (hx : x.ctrs = []) (h : x.fills = false ∨ x.kctr ≠ some c) : (r.land x).kr c = r.kr c := by
  rw [← r.kr_landFull hx, Regs.land_eq]
  unfold Regs.landArrivals
  split
  next hf =>
    split
    next d hd =>
      have hcd : c ≠ d := by
        rintro rfl
        exact h.elim (by simp [hf]) fun h => h hd
      exact foldl_proj (fun r : Regs => r.kr c) (fun b _ _ => b.kr_arrive_other hcd) _
    next => rfl
  next => rfl

/-- The arrival of one register filled (R51). -/
theorem Regs.kr_land_arrival {c : Nat} {y : Nat × Lanes} (hf : x.fills = true) (hk : x.kctr = some c) (hc : c < 16) (hx : x.ctrs = []) (hr : x.regs = [y]) :
    (r.land x).kr c = arrived (r.kr c) 1 := by
  rw [Regs.land_eq, Regs.landArrivals, if_pos hf, hk, hr, ← r.kr_landFull hx c]
  exact Regs.kr_putK _ hc _

end

/-! ### The event -/

section
variable {s : State} {k : Nat} {w : Warp} {x : Result} {r : List Result}

theorem execLaneResultWrite_out (h : (s.wg (wgOf k)).status = .out) (n : Nat) : execLaneResultWrite k n s = .next s := if_pos h

theorem execLaneResultWrite_oldest (hw : Tbl.find s.warps k = some w) (h : (s.wg (wgOf k)).status ≠ .out) :
    execLaneResultWrite k 0 s = .next (s.putWarp k (w.landNth 0)) := by
  rw [execLaneResultWrite, if_neg h, State.onWarp_of_find hw]

/-- The oldest result lands once it is complete (R141). -/
theorem Warp.landNth_complete (hr : w.flight = x :: r) (hn : x.need = 0) (hf : x.fusing = false) : w.landNth 0 = w.land x := by
  simp [Warp.landNth, hr, hf, Result.mayLand, hn]

theorem Warp.landNth_incomplete (hr : w.flight = x :: r) (hn : x.need ≠ 0) (hf : x.fusing = false) : w.landNth 0 = w := by
  simp [Warp.landNth, hr, hf, Result.mayLand, hn]

/-- Of a `FUSE` the next operation is performed (R179). -/
theorem Warp.landNth_fusing {f : FuseRun} (hr : w.flight = x :: r) (hx : x.fuse = some f) (hf : f.next < f.steps.length) (hid : ∀ y ∈ r, y.id ≠ x.id) :
    w.landNth 0 = { w with flight := { x with fuse := some { f with next := f.next + 1 } } :: r } := by
  have hrest : (r.map fun y => if y.id = x.id then { y with fuse := y.fuse.map fun f => { f with next := f.next + 1 } } else y) = r :=
    (List.map_congr_left fun y hy => if_neg (hid y hy)).trans (List.map_id _)
  simp [Warp.landNth, hr, Result.fusing, hx, hf, Warp.fuseStep, hrest]

end

end Sys2Proof.Machine
end

/-- Settles O24: the laws of `Regs.land` give each part of the warp after the oldest result has landed. -/
theorem laneResultLands : Obligations.LaneResultLands := by
  open Sys2Proof.Machine in
  intro s k w x r hw hr
  refine ⟨fun hn hf ho => ?_, fun ho => execLaneResultWrite_out ho 0, fun hn hf => ?_, fun f hx hf hid ho => ?_⟩
  · refine ⟨_, w.land x, execLaneResultWrite_oldest hw ho, ?_, fun e v hk hx => ⟨Regs.get_land_one hk hx, Regs.isPoison_land_one hk hx⟩, fun f hf => ?_,
      fun n m hk hx hn l hl => Regs.getLsbD_pr_land_one hk hx hn hl, fun n => Regs.pr_land_of_not_mem, Regs.land_keep, fun c v => Regs.kr_land_written, fun c => Regs.kr_land_kept,
      fun hf => ⟨fun e he _ => ?_, fun c y hk hc hx hr => Regs.kr_land_arrival hf hk hc hx hr⟩, fun hf f => ?_, rfl, ?_, rfl, rfl, fun e he => ?_⟩
    · rw [Warp.landNth_complete hr hn hf, State.find_putWarp_same]
    · exact ⟨Regs.get_land_of_not_mem hf, Regs.isPoison_land_of_not_mem hf, (w.rg.isEmpty_land x f).trans (by simp [hf])⟩
    · exact (w.rg.isEmpty_land x e).trans (by simp [hf, he])
    · exact (w.rg.isEmpty_land x f).trans (by simp [hf])
    · cases hp : x.push <;> simp [Warp.land, hp]
    · exact State.find_putWarp_other s _ he
  · by_cases ho : (s.wg (wgOf k)).status = .out
    · exact ⟨s, execLaneResultWrite_out ho 0, rfl, fun _ => rfl⟩
    · refine ⟨_, execLaneResultWrite_oldest hw ho, rfl, fun e => ?_⟩
      rw [Warp.landNth_incomplete hr hn hf, State.putWarp_warps, Tbl.find_put]
      split
      · rw [‹e = k›, hw]
      · rfl
  · exact (execLaneResultWrite_oldest hw ho).trans (congrArg (fun u => Host.Outcome.next (s.putWarp k u)) (Warp.landNth_fusing hr hx hf hid))

section
/-! SUPPORT. Lane control: what `LBR`, `LJOIN` and `LSTOP` do with the slots and the divergence stack (R41 to R44, R180 to R183). -/

namespace Sys2Proof.Machine

section
variable {s : State} {k : Nat} {w : Warp} {st : Stream} {hd : LaneHdr}

/-- An instruction that changes nothing but its slot's place. -/
theorem laneIssue_done_self {us : List Use} {f : Nat → Warp → Stream → Slot → LaneMask → LOut} (h : s.laneReady k w st hd us)
    (hf : f k w st (w.slot st) (w.active st hd) = .done s) : laneIssue s hd us f = .next (s.passed k st hd (w.slot st).pc s.cyc) := laneIssue_done h hf

theorem execLnop_ready {l : LaneReg} (h : s.laneReady k w st l.hdr (LaneReg.uses1 l)) : execLnop l s = .next (s.passed k st l.hdr (w.slot st).pc s.cyc) :=
  laneIssue_done_self h rfl

theorem State.moveLane_inside {pc : Nat} (hp : (s.wg (wgOf k)).inLane pc = true) :
    s.moveLane k w st hd pc = .final ((s.putWarp k w).onWarp k fun u => u.passLane st hd s.cyc (BitVec.ofNat 20 pc)) := if_pos hp

/-! ### The split (R41, R43) -/

section
variable {t : LaneMask} {target join : BitVec 20}

/-- The taken lanes run in slot B where that is idle and slot A issued. -/
theorem Warp.split_intoSlotB (hb : w.slotB.st = .idle) (hn : w.dstack.length < 64) :
    w.split .slotA t target join = some { w with
      slotA := { w.slotA with mask := w.slotA.mask &&& ~~~t, join := join.setWidth 24 }
      slotB := ⟨.running, target, t, join.setWidth 24, .none, w.slotB.until_, 0⟩
      dstack := ⟨true, w.slotA.join, join.setWidth 24, w.slotA.mask⟩ :: w.dstack } := by
  simp [Warp.split, hb, show ¬ 64 < w.dstack.length + 1 by omega, Warp.slot, Warp.putSlot, Slot.begins]

/-- Else they wait on the stack. -/
theorem Warp.split_ontoStack (hb : st ≠ .slotA ∨ w.slotB.st ≠ .idle) (hn : w.dstack.length < 63) :
    w.split st t target join = some { w.putSlot st { w.slot st with mask := (w.slot st).mask &&& ~~~t, join := join.setWidth 24 } with
      dstack := ⟨false, join.setWidth 24, target.setWidth 24, t⟩ :: ⟨true, (w.slot st).join, join.setWidth 24, (w.slot st).mask⟩ :: w.dstack } := by
  have hf : (decide (st = .slotA) && decide (w.slotB.st = .idle)) = false := by rcases hb with hb | hb <;> simp [hb]
  simp [Warp.split, hf, show ¬ 64 < w.dstack.length + 2 by omega]

theorem Warp.split_overflow (hn : 64 ≤ w.dstack.length ∨ (63 ≤ w.dstack.length ∧ (st ≠ .slotA ∨ w.slotB.st ≠ .idle))) : w.split st t target join = none := by
  rcases hn with hn | ⟨hn, hb⟩
  · refine if_pos ?_
    split <;> omega
  · have hf : (decide (st = .slotA) && decide (w.slotB.st = .idle)) = false := by rcases hb with hb | hb <;> simp [hb]
    refine if_pos ?_
    rw [hf]
    simp
    omega

end

/-! ### `LBR` (R181) -/

section
variable {b : LaneBr} (h : s.laneReady k w st b.hdr []) (ht : (s.wg (wgOf k)).inLane b.target.toNat = true) (hj : (s.wg (wgOf k)).inLane b.join.toNat = true)
include h ht hj

theorem execLbr_noneTaken (ha : w.active st b.hdr = 0) : execLbr b s = .next (s.passed k st b.hdr (w.slot st).pc s.cyc) :=
  laneIssue_done_self h (by simp [ht, hj, ha])

theorem execLbr_allTaken (ha : w.active st b.hdr ≠ 0) (hf : (w.slot st).mask &&& ~~~(w.active st b.hdr) = 0) :
    execLbr b s = .next ((s.putWarp k w).onWarp k fun u => u.passLane st b.hdr s.cyc (BitVec.ofNat 20 b.target.toNat)) := by
  refine laneIssue_final h ?_
  simp only [ht, hj]
  exact (if_neg ha).trans ((if_pos hf).trans (State.moveLane_inside ht))

theorem execLbr_splits {u : Warp} (ha : w.active st b.hdr ≠ 0) (hf : (w.slot st).mask &&& ~~~(w.active st b.hdr) ≠ 0)
    (hs : w.split st (w.active st b.hdr) b.target b.join = some u) :
    execLbr b s = .next ((s.putWarp k (u.passLane st b.hdr s.cyc ((w.slot st).pc + 1))).mirrorStack k) := by
  obtain ⟨-, -, -, hn⟩ := id h
  refine laneIssue_final h ?_
  simp only [ht, hj, hs, hn]
  exact (if_neg ha).trans (if_neg hf)

theorem execLbr_divovf (ha : w.active st b.hdr ≠ 0) (hf : (w.slot st).mask &&& ~~~(w.active st b.hdr) ≠ 0)
    (hs : w.split st (w.active st b.hdr) b.target b.join = none) : execLbr b s = .next (s.raiseLane k w st cDIVOVF (w.active st b.hdr).toNat) := by
  refine laneIssue_trap h ?_
  simp only [ht, hj, hs]
  exact (if_neg ha).trans (if_neg hf)

end

/-! ### `LJOIN` and `LSTOP` (R182, R183) -/

section
variable {l : LaneReg} (h : s.laneReady k w st l.hdr (LaneReg.uses1 l))
include h

theorem execLjoin_none (ha : w.active st l.hdr = 0) : execLjoin l s = .next (s.passed k st l.hdr (w.slot st).pc s.cyc) := laneIssue_done_self h (if_pos ha)

theorem execLjoin_outside (ha : w.active st l.hdr ≠ 0) (hj : (w.slot st).join = 0xFFFFFF#24) :
    execLjoin l s = .next (s.raiseLane k w st cLJOINF (w.active st l.hdr).toNat) := laneIssue_trap h ((if_neg ha).trans (if_pos hj))

theorem execLjoin_whole (he : w.active st l.hdr = (w.slot st).mask) (ha : w.active st l.hdr ≠ 0) (hj : (w.slot st).join ≠ 0xFFFFFF#24)
    (hp : (s.wg (wgOf k)).inLane (w.slot st).join.toNat = true) :
    execLjoin l s = .next ((s.putWarp k w).onWarp k fun u => u.passLane st l.hdr s.cyc (BitVec.ofNat 20 (w.slot st).join.toNat)) :=
  laneIssue_final h ((if_neg ha).trans ((if_neg hj).trans ((if_pos he).trans (State.moveLane_inside hp))))

theorem execLjoin_part (he : w.active st l.hdr ≠ (w.slot st).mask) (ha : w.active st l.hdr ≠ 0) (hj : (w.slot st).join ≠ 0xFFFFFF#24) :
    execLjoin l s = .next ((s.putWarp k (w.putSlot st { w.slot st with mask := (w.slot st).mask &&& ~~~(w.active st l.hdr) })).passed k st l.hdr (w.slot st).pc s.cyc) :=
  laneIssue_done h ((if_neg ha).trans ((if_neg hj).trans (if_neg he)))

theorem execLstop_converged (hb : w.slotB.st = .idle) (hs : w.dstack = []) (hm : w.slotA.mask = w.launch) (hx : (w.slot st).mask = w.launch) :
    execLstop l s = .next (s.putWarp k { w with
      running := false
      slotA := { Slot.idle with until_ := s.cyc + 1 + l.hdr.spc.toNat }
      yielded := w.yielded || l.hdr.yld
      csr := bumpPerf w.csr 2 }) := laneIssue_final h (if_pos (by simp [hb, hs, hm, hx]))

theorem execLstop_diverged (hd : w.slotB.st ≠ .idle ∨ w.dstack ≠ [] ∨ w.slotA.mask ≠ w.launch ∨ (w.slot st).mask ≠ w.launch) :
    execLstop l s = .next (s.raiseLane k w st cLSTOPDIV (w.active st l.hdr).toNat) := by
  refine laneIssue_trap h (if_neg ?_)
  simp only [Bool.and_eq_true, decide_eq_true_eq, List.isEmpty_iff]
  tauto

end

end

end Sys2Proof.Machine
end

/-- Settles O28: one lemma for each case of `LJOIN`, `LSTOP` and `LBR`; the split by where the taken lanes go. -/
theorem laneControl : Obligations.LaneControl := by
  open Sys2Proof.Machine in
  intro s k w st l b
  refine ⟨fun h => ⟨execLnop_ready h, execLjoin_whole h, execLjoin_part h, execLjoin_outside h, execLjoin_none h, execLstop_converged h, execLstop_diverged h⟩,
    fun h ht hj => ⟨execLbr_noneTaken h ht hj, execLbr_allTaken h ht hj, fun ha hf hst hb hn => ?_, fun ha hf hb hn => ?_, fun ha hf hn => ?_⟩⟩
  · subst hst
    exact execLbr_splits h ht hj ha hf (Warp.split_intoSlotB hb hn)
  · exact execLbr_splits h ht hj ha hf (Warp.split_ontoStack hb hn)
  · exact execLbr_divovf h ht hj ha hf (Warp.split_overflow hn)

section
/-! SUPPORT. The events that end a warp's waits: what each does once the wait is over (R38, R39, R40, R47, R54, R134, R164, R292, R293, R358). -/

namespace Sys2Proof.Machine

section
variable {s : State} {k : Nat} {w : Warp} {st : Stream} (hw : Tbl.find s.warps k = some w)
include hw

/-! ### The lane link and the return queue -/

theorem execLaneBlockStart_queued {b : Block} {r : List Block} (hb : w.blocks = b :: r) (hr : w.running = false) (hh : w.handler = none) (hl : w.halt = .run) :
    execLaneBlockStart k s = .next (s.putWarp k { w with
      blocks := r
      running := true
      after := b.after
      x := b.x
      dstack := []
      slotA := w.slotA.begins b.pc w.launch 0xFFFFFF#24
      slotB := w.slotB.cleared }) := next_onWarp hw (by simp [hr, hh, hl, Warp.startBlock, hb])

theorem execLgoUnstall_room {pc : BitVec 20} {x : Vector W64 8} (hx : w.sc.wait = .lgo pc x) (hb : w.blocks.length < 16) :
    execLgoUnstall k s = .next ((s.putWarp k (w.enqueue pc x s.nextId)).passScalar k) := by simp [execLgoUnstall, hw, hx, hb]

theorem execSpopDone_pushed {d : SReg} {v : W64} {r : List W64} (hx : w.sc.wait = .spop d) (hr : w.rq = v :: r) :
    execSpopDone k s = .next ((s.putWarp k { w with rq := r, sc := w.sc.put d v }).passScalar k) := by simp [execSpopDone, hw, hx, hr]

/-! ### Joins and releases -/

theorem execLwaitDone_lwait (hx : w.sc.wait = .join .lwait) (hj : s.joinReady k w = true) :
    execLwaitDone k s = .next ((s.putWarp k { w with joined := s.nextId }).passScalar k) := by
  simp [execLwaitDone, hw, hx, hj, State.continueJoin, State.onWarp_of_find hw]

theorem execLwaitDone_release {n : Nat} {j : Join} {q : Req} (hx : w.sc.wait = .release n j) (hq : Tbl.find s.reqs n = some q) (hr : q.rel = 3) :
    execLwaitDone k s = .next (s.afterRelease k n j) := by simp [execLwaitDone, hw, hx, hq, hr]

/-! ### The partition boundary -/

theorem execSetvbDone_scalar {n : Nat} (hh : w.halt ≠ .stopped) (hx : w.sc.wait = .setvb n) (hf : w.rg.allFull = true) (hn : n ≤ w.rg.nreg) :
    execSetvbDone k .scalar s = .next ((s.putWarp k { w with rg := { w.rg with vb := n } }).passScalar k) := by
  simp [execSetvbDone, hw, hx, hf, hh, Nat.not_lt.2 hn]

theorem execSetvbDone_lane {n : Nat} (hl : w.live = true) (hst : st ≠ .scalar) (hx : (w.slot st).wait = .setvb n) (hf : w.rg.allFull = true) (hn : n ≤ w.rg.nreg)
    (hp : (s.wg (wgOf k)).inLane ((w.slot st).pc.toNat + 1) = true) :
    execSetvbDone k st s = .next ((s.putWarp k { w with rg := { w.rg with vb := n } }).passHeld k st) := by
  obtain ⟨hh, hs⟩ : w.handler = none ∧ w.halt ≠ .stopped := by simpa [Warp.live] using hl
  cases st with
  | scalar => exact absurd rfl hst
  | slotA => simp [execSetvbDone, hw, hf, hs, hh, hx, hp, Nat.not_lt.2 hn]
  | slotB => simp [execSetvbDone, hw, hf, hs, hh, hx, hp, Nat.not_lt.2 hn]

/-! ### Rings -/

theorem execRwaitFreeDone_free {h slot round t : Nat} {d : Option Nat} (hl : w.live = true) (hx : (w.slot st).wait = .rwaitFree h slot round t d)
    (hr : (s.ring (wgOf k) h).ok h (s.wg (wgOf k)).padSize = true) (hs : (s.sync (wgOf k) h slot).state = 0) (hg : (s.sync (wgOf k) h slot).gen = round) :
    let r := s.ring (wgOf k) h
    let a := advance slot r.slots r.prnd
    execRwaitFreeDone k st s = .next ((((((s.putSync (wgOf k) h slot ⟨1, round, t, 0⟩).putRing (wgOf k) h { r with pidx := a.1, prnd := a.2 }).onWarp k
      fun w => { w with rings := Tbl.put w.rings h (slot, 0) }).acquire (s.wg (wgOf k)).coreKey r.scope).ringResult k st d slot).passHeld k st) := by
  simp [execRwaitFreeDone, State.tryRwaitFree, hw, hx, hl, hr, hs, hg]

theorem execRwaitFilledDone_filled {h slot round : Nat} {d : Option Nat} (hl : w.live = true) (hx : (w.slot st).wait = .rwaitFilled h slot round d)
    (hs : (s.sync (s.ringWg (wgOf k)) h slot).state = 2) (hg : (s.sync (s.ringWg (wgOf k)) h slot).gen = (round + 1) % 256) :
    let o := s.ringWg (wgOf k)
    execRwaitFilledDone k st s = .next
      ((((s.putSync o h slot { s.sync o h slot with state := 3 }).acquire (s.wg (wgOf k)).coreKey (s.ring o h).scope).ringResult k st d slot).passHeld k st) := by
  simp [execRwaitFilledDone, State.tryRwaitFilled, hw, hx, hl, hs, hg]

/-! ### Sleep, starvation and the fabric queue -/

theorem execSleepExpiry_over (hs : w.sleep ≤ s.cyc) (hg : (s.wg (wgOf k)).status ≠ .out) : execSleepExpiry k s = .next (s.putWarp k { w with sleep := 0 }) :=
  next_onWarp hw (by simp [hs, hg])

theorem execStarvationPrecedence_starved {t : Nat} (he : w.elig = some t) (ht : t + 128 ≤ s.cyc) :
    execStarvationPrecedence k s = .next (s.putWarp k { w with urgent := true }) := next_onWarp hw (by simp [he, ht])

theorem execFabricOpComplete_head {o : FabOp} (hg : (s.wg (wgOf k)).status ≠ .out) (hm : w.msgs = []) (ha : w.amWaiting = []) (hf : w.fabHead = some o)
    (ho : o.wait = []) (he : s.fenceEnded o = true) : execFabricOpComplete k s = .next (s.advanceOp k o) := by
  simp [execFabricOpComplete, hw, hg, hm, ha, hf, ho, he]

end

end Sys2Proof.Machine
end

/-- Settles O35: each event finds its wait over, and does what the wait was for. -/
theorem warpWaitsEnd : Obligations.WarpWaitsEnd := by
  open Sys2Proof.Machine in
  intro s k w st hw x goes
  exact ⟨fun b r => execLaneBlockStart_queued hw, fun pc y => execLgoUnstall_room hw, fun d v r => execSpopDone_pushed hw, execLwaitDone_lwait hw,
    fun n j q => execLwaitDone_release hw, fun n => execSetvbDone_scalar hw, fun n => execSetvbDone_lane hw, fun h slot round t d hl hx => execRwaitFreeDone_free hw hl hx,
    fun h slot round d hl hx => execRwaitFilledDone_filled hw hl hx, execSleepExpiry_over hw, fun t => execStarvationPrecedence_starved hw, fun o => execFabricOpComplete_head hw⟩

section
/-! SUPPORT. The life of a workgroup: its start, its retirement, the causes and halts that stop it, its end by firmware, and its way out of a core and back (R31, R34, R54, R311, R312, R319, R322, R323, R327 to R329). -/

namespace Sys2Proof.Machine

/-! ### The start -/

theorem warpKey_inj {g i j : Nat} (h : warpKey g i = warpKey g j) : i = j := Nat.add_left_cancel h

/-- Each slot of a record has its own warp, as dispatch initialises it (R312). -/
theorem State.find_makeWarps (s : State) (n : Nat) (g : Wg) (poolb entry : Nat) (garg : W64) {slots : List Nat} {i slot : Nat} (h : slots[i]? = some slot) :
    Tbl.find (s.makeWarps n g slots poolb entry garg).warps (warpKey n i) =
      some (Warp.fresh g i slot (poolb + i * g.nreg) (g.sbase + BitVec.ofNat 64 entry) garg (stackBase g.priv g.die g.core slot)) := by
  induction slots using List.reverseRecOn generalizing i with
  | nil => simp at h
  | append_singleton l a ih =>
    simp only [State.makeWarps, List.zipIdx_append, List.foldl_append, List.zipIdx_singleton, List.foldl_cons, List.foldl_nil] at ih ⊢
    by_cases hi : i < l.length
    · rw [List.getElem?_append_left hi] at h
      rw [State.find_putWarp_other _ _ fun hk => Nat.ne_of_lt hi (by simpa using warpKey_inj hk)]
      exact ih h
    · rw [List.getElem?_append_right (Nat.le_of_not_lt hi)] at h
      obtain ⟨hz, rfl⟩ : i - l.length = 0 ∧ a = slot := by simpa [List.getElem?_singleton] using h
      obtain rfl : i = l.length := by omega
      simp

section
variable {s : State} {core idx g p q n l k : Nat} {m : W32} {x : Wg} {w : Warp}

theorem State.wg_of_find (h : Tbl.find s.wgs g = some x) : s.wg g = x := by simp [State.wg, Tbl.getD, h]

/-- The record that starts its workgroup: its warps are made, the start acquires where its packet waited, and the workgroup is resident (R305, R311, R312). -/
theorem execDispatchWorkgroup_starts {b : Bundle} {r : Grid} (hb : (s.core core).binds[idx]? = some (.workgroup g m p q n l)) (hx : Tbl.find s.wgs g = some x)
    (hp : x.status = .placed) (ho : ∀ y ∈ (s.core core).binds.take idx, y.overlaps (.workgroup g m p q n l) = false)
    (hu : Tbl.find s.bundles x.bundle = some b) (hr : b.grid x.grid = some r) :
    let made := s.makeWarps g x (Bind.workgroup g m p q n l).slots p r.entry r.garg
    execDispatchWorkgroup core idx s =
      .next ((if s.startAcquires x.bundle then made.acquire core 1 else made).putWg g { x with status := .resident }) := by
  have hover : ((s.core core).binds.take idx).any (fun y => y.overlaps (.workgroup g m p q n l)) = false := by simpa using ho
  simp [execDispatchWorkgroup, hb, State.wg_of_find hx, hp, hover, hu, hr]

/-! ### Retirement and traps -/

theorem execWorkgroupRetire_ended (hx : Tbl.find s.wgs g = some x) (hp : x.status = .resident)
    (hw : ∀ y ∈ s.warpsOf g, y.2.exited = true ∧ y.2.handler = none ∧ y.2.deferred = []) (ho : s.owes g = false) (hl : s.lastBlocked g = false) :
    execWorkgroupRetire g s = .next (((s.endWg g).retireHandler g false).retireInGrid g false) := by
  have hall : ((s.warpsOf g).all fun w => w.2.exited && w.2.handler.isNone && w.2.deferred.isEmpty) = true := by
    simpa [and_assoc] using hw
  simp only [execWorkgroupRetire, hx, hp, hall, ho, hl]
  rfl

theorem execDeferredTrap_taken {d : Deferred} {r : List Deferred} (hw : Tbl.find s.warps k = some w) (hd : w.landKept.deferred = d :: r)
    (hh : w.landKept.halt ≠ .stopped) (hg : (s.wg (wgOf k)).status = .resident) :
    execDeferredTrap k s =
      .next ((s.putWarp k { w.landKept with deferred := r }).raise k 3 d.code (w.landKept.csr.pix.toNat / 2 ^ 60) d.pc d.inst) := by
  simp [execDeferredTrap, hw, hd, hh, hg]

theorem execSkidStop_stops {t stop : Nat} (hw : Tbl.find s.warps k = some w) (hh : w.halt = .skid t stop) (ht : t < s.cyc) :
    execSkidStop k s = .next (s.putWarp k (w.stop 0 w.sc.pc (s.scalarInst (s.wg (wgOf k)) w))) := by
  simp [execSkidStop, hw, hh, ht, causeWord]

theorem execFirmwareEndWorkgroup_ends (hh : (s.wg g).status = .halted) (hs : s.skidding g = false) (ho : (s.discardWg g).owes g = false)
    (hl : (s.discardWg g).lastBlocked g = false) :
    execFirmwareEndWorkgroup g s =
      .next ((((((((s.discardWg g).faultRecord g).countExits g).onWg g fun x => { x with failed := true }).endWg g).retireHandler g true).tryBarrier g 16).retireInGrid g true) := by
  simp [execFirmwareEndWorkgroup, hh, hs, ho, hl]

/-! ### Parking and switching -/

theorem execParkThresholdHold_sends {fn t limit : Nat} (ht : Tbl.find (s.core core).parkSince fn = some t) (hc : t + Config.usec 2 ≤ s.cyc)
    (ha : s.atThreshold core fn = true) (hl : parkLimit (s.fn fn).park (s.residentWarps core fn).length = some limit)
    (hf : s.workFits core (s.takeParked core fn limit (s.ranked core fn) []) = true) :
    execParkThresholdHold core fn s =
      .next ((s.takeParked core fn limit (s.ranked core fn) []).foldl (fun s g => s.onWg g fun x => { x with leave := 1 }) s) := by
  simp [execParkThresholdHold, ht, Nat.not_lt.2 hc, ha, hl, hf]

theorem execContextSwitchOut_leaves (h : ∀ j ∈ s.gang g, (s.wg j).status = .resident ∧ (s.wg j).leave ≠ 0 ∧ s.quiet j = true) :
    execContextSwitchOut g s = .next ((s.gang g).foldl State.switchOut s) := if_pos (by simpa [and_assoc] using h)

theorem execContextSwitchIn_returns {b : Bind} {r : List (Nat × Bind)} {d : Tbl Nat} (ho : s.off = false) (hc : core % 60 ≠ 0) (hd : core / 60 = (s.wg g).die)
    (hr : ∀ j ∈ g :: (s.gang g).filter fun j => j != g, s.outReady j = true)
    (ht : s.backTurn (core / 60) g (g :: (s.gang g).filter fun j => j != g) = some d)
    (hf : s.fitOut (g :: (s.gang g).filter fun j => j != g) [] s.bindsAt (core / 60) (core % 60) = some ((core, b) :: r)) :
    execContextSwitchIn g core s =
      .next (((g :: (s.gang g).filter fun j => j != g).zip ((core, b) :: r)).foldl (fun s y => s.switchIn y.1 y.2.1 y.2.2) { s with deficit := d }) := by
  have hall : ((g :: (s.gang g).filter fun j => j != g).all s.outReady) = true := List.all_eq_true.2 hr
  simp only [execContextSwitchIn, ho, hall, ht, hf]
  simp [hc, hd]

end

end Sys2Proof.Machine
end

/-- Settles O38: one lemma for each event of a workgroup's life; the start by the warps that its record makes. -/
theorem workgroupLifetime : Obligations.WorkgroupLifetime := by
  open Sys2Proof.Machine in
  intro s g k core x w goes
  refine ⟨fun idx m p q n l b r hb hx hp ho hu hr => ?_, execWorkgroupRetire_ended, fun d r => execDeferredTrap_taken, fun t stop => execSkidStop_stops,
    execFirmwareEndWorkgroup_ends, fun fn t limit ht hc ha hl hf => execParkThresholdHold_sends ht hc ha hl hf, execContextSwitchOut_leaves,
    fun b r d => execContextSwitchIn_returns⟩
  refine ⟨_, execDispatchWorkgroup_starts hb hx hp ho hu hr, Tbl.find_put_same .., ?_, fun i slot hi =>
    ⟨Warp.fresh x i slot (p + i * x.nreg) (x.sbase + BitVec.ofNat 64 r.entry) r.garg (stackBase x.priv x.die x.core slot), ?_, ?_⟩⟩
  · split <;> simp
  · rw [State.putWg_warps, apply_ite State.warps, State.acquire_warps, ite_self]
    exact s.find_makeWarps g x p r.entry r.garg hi
  · exact ⟨rfl, rfl, rfl, rfl, rfl, rfl, rfl, rfl, rfl, rfl, rfl, rfl, rfl, rfl, rfl, rfl⟩

section
/-! SUPPORT. One step by what comes next: a move of the agenda, else the device's own event, else the selected issue, else the end of the cycle (R54, R313, R322, log 1). -/

namespace Sys2Proof.Machine

section
variable {s : State} {k : Nat} {st : Stream} {w : Warp} {i : Instr}

theorem step_of_due {m : Move} {rest : List (Nat × Move)} (h : s.agenda = (0, m) :: rest) : step s = State.move { s with agenda := rest } m := by
  simp only [step, State.advance, h]

theorem step_of_noneDue (h : s.agenda = [] ∨ ∃ n m rest, s.agenda = (n + 1, m) :: rest) : step s = s.run := by
  obtain h | ⟨n, m, rest, h⟩ := h <;> simp only [step, State.advance, h]

theorem State.run_internal {t : State} (h : s.internal = some t) : s.run = .next t := by simp only [State.run, h]

theorem State.run_selection (hi : s.internal = none) (hs : s.selection = some (k, st)) : s.run = s.issueSelected k st := by simp only [State.run, hi, hs]

theorem State.run_tick (hi : s.internal = none) (hs : s.selection = none) : s.run = .next s.tick := by simp only [State.run, hi, hs]

theorem State.move_chosen (h : s.isChosen k st = true) : s.move (.issue k st) = s.issueSelected k st := if_pos h

theorem State.move_notChosen (h : s.isChosen k st = false) : s.move (.issue k st) = .next s := if_neg (by simp [h])

theorem State.issueOne_of_instr (hw : Tbl.find s.warps k = some w) (hi : s.instrAt k w st = some i) : s.issueOne k st = exec i { s with cur := some (k, st) } := by
  simp only [State.issueOne, hw, hi]

theorem Warp.countSkid_run (h : w.halt = .run) (st : Stream) (now : Nat) : w.countSkid st now = w := by simp only [Warp.countSkid, h]

end

end Sys2Proof.Machine
end

/-- Settles O53: the agenda, the device's own events and the selection tell the cases apart, and an issue is the instruction at the stream's place with its skid count. -/
theorem stepRunsDecodedInstruction : Obligations.StepRunsDecodedInstruction := by
  open Sys2Proof.Machine in
  intro s k st i w m rest q counted
  have issued {p : State} (hw : Tbl.find (p.selected k st).warps k = some w) (hi : (p.selected k st).instrAt k w st = some i) :
      p.issueSelected k st = counted p (exec i { p.selected k st with cur := some (k, st) }) := by
    rw [State.issueSelected, State.issueOne_of_instr hw hi]
    cases exec i { p.selected k st with cur := some (k, st) } <;> rfl
  refine ⟨step_of_due, fun h hc hw hi => ?_, fun h hc => ?_, fun h => ?_, fun h => Warp.countSkid_run h st s.cyc⟩
  · rw [step_of_due h, State.move_chosen hc, issued hw hi]
  · rw [step_of_due h, State.move_notChosen hc]
  · rw [step_of_noneDue (h.imp_right fun ⟨n, hn⟩ => ⟨n, m, rest, hn⟩)]
    exact ⟨fun t => State.run_internal, fun hi hs hw hx => (State.run_selection hi hs).trans (issued hw hx), State.run_tick⟩

section
/-! SUPPORT. One row of an `MMA`: its pass over each accumulator, and the events of the operation at the head of the matrix queue (R73, R269, R273, R294). -/

namespace Sys2Proof.Machine

/-! ### Registers merged one after another -/

/-- Each register of `es`, paired with its column, takes in the lanes of `m` what `g` makes of its old value. -/
def Regs.mergeEach (r : Regs) (m : LaneMask) (g : Nat → Lanes → Lanes) (es : List (Nat × Nat)) : Regs :=
  es.foldl (fun r x => r.merge m x.1 (g x.2 (r.get x.1))) r

section
variable {r : Regs} {m : LaneMask} {g : Nat → Lanes → Lanes} {es : List (Nat × Nat)} {e j : Nat}

theorem Regs.get_mergeEach_of_not_mem (h : e ∉ es.map (·.1)) : (r.mergeEach m g es).get e = r.get e :=
  foldl_proj (fun r : Regs => r.get e) (fun b x hx => by rw [Regs.get_merge, if_neg fun he => h (List.mem_map.2 ⟨x, hx, he.symm⟩)]) r

theorem Regs.get_mergeEach_of_mem (hn : (es.map (·.1)).Nodup) (h : (e, j) ∈ es) :
    (r.mergeEach m g es).get e = Lanes.merge m (g j (r.get e)) (r.get e) := by
  induction es generalizing r with
  | nil => cases h
  | cons x es ih =>
    obtain ⟨hx, hn⟩ := List.nodup_cons.1 hn
    obtain rfl | h := List.mem_cons.1 h
    · exact (Regs.get_mergeEach_of_not_mem hx).trans ((Regs.get_merge ..).trans (if_pos rfl))
    · have hne : e ≠ x.1 := fun he => hx (List.mem_map.2 ⟨_, h, he⟩)
      refine (ih hn h).trans ?_
      rw [Regs.get_merge, if_neg hne]

@[simp] theorem Regs.get_filled (r : Regs) (es : List Nat) (e : Nat) : (r.filled es).get e = r.get e :=
  foldl_proj (fun r : Regs => r.get e) (f := fun r e => r.setEmpty e false) (fun _ _ _ => rfl) r

end

/-! ### One row in one lane (R73) -/

theorem has_oneLane (lane : Nat) (l : Fin 32) : LaneMask.has (1#32 <<< lane) l = decide (l.val = lane) := by
  rw [LaneMask.has, ← BitVec.twoPow_eq, BitVec.getLsbD_twoPow]
  by_cases h : lane = l.val <;> simp [h, Ne.symm]

section
variable {wa ww : Nat} {t row : List Byte} {j lane : Nat}

/-- The lane of the row takes the pass of the row over the column. -/
theorem mmaAcc_row (old : Lanes) (l : Fin 32) :
    (mmaAcc wa ww t [(l.val, row)] j old).1[l] = BitVec.ofNat 32 (mmaPass wa ww old[l].toNat (kBlocks wa row ww t j)).1 := by
  simp [mmaAcc]

/-- Merged into that lane alone, it leaves every other lane. -/
theorem merge_mmaAcc (old : Lanes) (l : Fin 32) :
    (Lanes.merge (1#32 <<< lane) (mmaAcc wa ww t [(lane, row)] j old).1 old)[l] =
      if l.val = lane then BitVec.ofNat 32 (mmaPass wa ww old[l].toNat (kBlocks wa row ww t j)).1 else old[l] := by
  rw [Lanes.merge_get, has_oneLane, ← mmaAcc_row]
  by_cases h : l.val = lane <;> simp [h]

end

/-! ### The row in every accumulator (R273) -/

section
variable {w : Warp} {m : MatOp} {ww : Nat} {t row : List Byte} {lane : Nat}

theorem Warp.mmaLand_rg (row : Nat × List Byte) :
    (w.mmaLand m ww t row).rg = w.rg.mergeEach (1#32 <<< row.1) (fun j old => (mmaAcc m.width ww t [row] j old).1) m.accs.zipIdx :=
  (List.foldl_hom Prod.fst fun _ _ => rfl).symm

theorem Warp.get_mmaLand_of_not_mem {e : Nat} (h : e ∉ m.accs) (row : Nat × List Byte) : (w.mmaLand m ww t row).rg.get e = w.rg.get e := by
  rw [Warp.mmaLand_rg, Regs.get_mergeEach_of_not_mem]
  rwa [List.zipIdx_map_fst]

theorem Warp.get_mmaLand {e j : Nat} (hn : m.accs.Nodup) (h : m.accs[j]? = some e) (l : Fin 32) :
    ((w.mmaLand m ww t (lane, row)).rg.get e)[l] =
      if l.val = lane then BitVec.ofNat 32 (mmaPass m.width ww (w.rg.get e)[l].toNat (kBlocks m.width row ww t j)).1 else (w.rg.get e)[l] := by
  rw [Warp.mmaLand_rg, Regs.get_mergeEach_of_mem (by rwa [List.zipIdx_map_fst]) (List.mem_zipIdx_iff_getElem?.2 h), merge_mmaAcc]

end

/-! ### The event (R273, R294) -/

@[simp] theorem State.core_putCore_same (s : State) (k : Nat) (c : Core) : (s.putCore k c).core k = c := by
  simp [State.core, Tbl.getD]

@[simp] theorem State.core_putWarp (s : State) (k j : Nat) (w : Warp) : (s.putWarp k w).core j = s.core j := rfl

theorem State.onMat_of_lt {s : State} {core : Nat} (h : core < 240) (n : Nat) (f : MatOp → MatOp) :
    s.onMat core n f = s.putCore core { s.core core with matq := (s.core core).matq.map fun m => if m.id == n then f m else m } := if_pos h

section
variable {s : State} {core : Nat} {m : MatOp} {w : Warp}

/-- The warp once its `MMA` has left the queue. -/
def Warp.mmaFull (w : Warp) (c : Core) (m : MatOp) : Warp :=
  { w with rg := w.rg.filled (m.accs.filter fun e => !((c.dropMat m.id).pendingAccs m.warp).contains e) }

theorem State.matLeave_of_find (hw : Tbl.find s.warps m.warp = some w) :
    s.matLeave core m = (s.putCore core ((s.core core).dropMat m.id)).putWarp m.warp (w.mmaFull (s.core core) m) :=
  State.onWarp_of_find (s := s.putCore core ((s.core core).dropMat m.id)) hw _

theorem Core.dropMat_head {c : Core} {rest : List MatOp} (h : c.matq = m :: rest) : (c.dropMat m.id).matq = rest.filter fun o => o.id != m.id := by
  simp [Core.dropMat, h]

@[simp] theorem Warp.get_mmaFull (w : Warp) (c : Core) (m : MatOp) (e : Nat) : (w.mmaFull c m).rg.get e = w.rg.get e := Regs.get_filled ..

/-- An accumulator that no later operation fills is full. -/
theorem Warp.isEmpty_mmaFull {c : Core} {e : Nat} (he : e ∈ m.accs) (hp : e ∉ (c.dropMat m.id).pendingAccs m.warp) : (w.mmaFull c m).rg.isEmpty e = false := by
  refine (Regs.isEmpty_filled ..).trans ?_
  simp [he, hp]

section
variable {rest : List MatOp} {row : Nat × Nat} {more : List (Nat × Nat)} {u : Warp} (ho : s.off = false) (hq : (s.core core).matq = m :: rest) (hk : m.kind = .mma)
  (hs : m.started = true) (hp : s.matPoison m ((s.core core).bank m.bank) = false) (hw : Tbl.find s.warps m.warp = some w)
  (hu : w.mmaLand m ((s.core core).bank m.bank).width ((s.core core).bank m.bank).tile (s.gather m row) = u)
include ho hq hk hs hp hw hu

/-- With its last row landed, the operation leaves the queue. -/
theorem execMmaDone_last (hr : m.rows.drop m.done = [row]) :
    execMmaDone core m.id s = .next (((s.putWarp m.warp u).putCore core ((s.core core).dropMat m.id)).putWarp m.warp (u.mmaFull (s.core core) m)) := by
  rw [← s.core_putWarp m.warp core u, ← State.matLeave_of_find (s.find_putWarp_same m.warp u)]
  simp only [execMmaDone, hq, ho, hk, hs, hp, hr, State.onWarp_of_find hw, hu]
  simp

/-- With more rows to come, the operation counts the one that landed. -/
theorem execMmaDone_counts (hc : core < 240) (hr : m.rows.drop m.done = row :: more) (hm : more ≠ []) :
    execMmaDone core m.id s = .next ((s.putWarp m.warp u).putCore core
      { s.core core with matq := (s.core core).matq.map fun x => if x.id == m.id then { x with done := x.done + 1 } else x }) := by
  rw [← s.core_putWarp m.warp core u, ← State.onMat_of_lt hc]
  simp only [execMmaDone, hq, ho, hk, hs, hp, hr, State.onWarp_of_find hw, hu]
  simp [hm]

end

end

end Sys2Proof.Machine
end

/-- Settles O37: one row changes one lane of each accumulator (`Warp.get_mmaLand`), so every other register and lane keeps its value; the operation leaves the queue with its last row (`execMmaDone_last`), and counts any other (`execMmaDone_counts`). -/
theorem matrixMultiplyResult : Obligations.MatrixMultiplyResult := by
  open Sys2Proof.Machine in
  intro s core m rest w c b pad lane a more ho hq hk hs hp hw hc hn hr
  let u := w.mmaLand m b.width b.tile (s.gather m (lane, a))
  have kept {e : Nat} (he : e ∉ m.accs) : u.rg.get e = w.rg.get e := Warp.get_mmaLand_of_not_mem he _
  have other {j e : Nat} {l : Fin 32} (he : m.accs[j]? = some e) (hl : l.val ≠ lane) : (u.rg.get e)[l] = (w.rg.get e)[l] :=
    (Warp.get_mmaLand hn he l).trans (if_neg hl)
  have own {j e : Nat} {l : Fin 32} (he : m.accs[j]? = some e) (hl : l.val = lane) : (u.rg.get e)[l] =
      BitVec.ofNat 32 (mmaPass m.width b.width (w.rg.get e)[l].toNat (kBlocks m.width (Memory.readL pad a (rowBytes m.width)) b.width b.tile j)).1 :=
    (Warp.get_mmaLand hn he l).trans (if_pos hl)
  obtain rfl | hm := eq_or_ne more []
  · refine ⟨_, u.mmaFull c m, execMmaDone_last ho hq hk hs hp hw rfl hr, State.find_putWarp_same .., rfl, rfl, rfl, fun e he => ?_, fun j e l he => ⟨fun hl => ?_, fun hl => ?_⟩,
      fun h => absurd rfl h, fun _ => ⟨?_, fun e => Warp.isEmpty_mmaFull⟩⟩
    · rw [Warp.get_mmaFull, kept he]
    · rw [Warp.get_mmaFull, other he hl]
    · rw [Warp.get_mmaFull, own he hl]
    · rw [State.core_putWarp, State.core_putCore_same, Core.dropMat_head hq]
  · refine ⟨_, u, execMmaDone_counts ho hq hk hs hp hw rfl hc hr hm, State.find_putWarp_same .., rfl, rfl, rfl, fun e => kept, fun j e l he => ⟨other he, own he⟩,
      fun _ => ?_, fun h => absurd h hm⟩
    rw [State.core_putCore_same, show (s.core core).matq = m :: rest from hq, List.map_cons, if_pos (beq_self_eq_true _), List.head?_cons]

section
/-! SUPPORT. Results built element by element: what each element of a packed word is, and the lane arithmetic that leaves such a word in flight (R58, R63, R149 to R152). -/

namespace Sys2Proof.Machine

/-! ### Packed elements (R58) -/

section
variable {n : Nat}

/-- Bit `b` of element `e`. -/
theorem testBit_elem (v : W32) (e b : Nat) : (elem n v e).testBit b = (decide (b < n) && v.getLsbD (n * e + b)) := by
  rw [elem, Nat.testBit_mod_two_pow, Nat.testBit_div_two_pow, Nat.add_comm, BitVec.getLsbD]

@[simp] theorem elem_word (v : W32) : elem 32 v 0 = v.toNat := by
  simp [elem, Nat.mod_eq_of_lt v.isLt]

/-- The word after the first `k` elements. -/
def packUpTo (n : Nat) (f : Nat → Nat) (k : Nat) : W32 :=
  (List.range k).foldl (fun a e => a ||| BitVec.ofNat 32 (f e % 2 ^ n * 2 ^ (n * e))) 0#32

theorem packUpTo_succ (f : Nat → Nat) (k : Nat) : packUpTo n f (k + 1) = packUpTo n f k ||| BitVec.ofNat 32 (f k % 2 ^ n * 2 ^ (n * k)) := by
  rw [packUpTo, List.range_succ, List.foldl_append]
  rfl

/-- Its bits: those of each element at the element's place, and none beyond. -/
theorem getLsbD_packUpTo (hn : 0 < n) (f : Nat → Nat) {k : Nat} (hk : n * k ≤ 32) (i : Nat) :
    (packUpTo n f k).getLsbD i = (decide (i < n * k) && (f (i / n)).testBit (i % n)) := by
  induction k with
  | zero => simp [packUpTo]
  | succ k ih =>
    have hs : n * (k + 1) = n * k + n := Nat.mul_succ n k
    rw [packUpTo_succ, BitVec.getLsbD_or, ih (by omega), BitVec.getLsbD_ofNat, Nat.testBit_mul_two_pow, Nat.testBit_mod_two_pow]
    obtain hi | hi | hi : i < n * k ∨ (n * k ≤ i ∧ i < n * k + n) ∨ n * k + n ≤ i := by omega
    · simp [hi, show ¬ n * k ≤ i by omega, show i < n * (k + 1) by omega]
    · obtain ⟨b, rfl⟩ := Nat.exists_eq_add_of_le hi.1
      have hb : b < n := by omega
      simp [hb, hs, Nat.mul_add_div hn, Nat.mod_eq_of_lt hb, Nat.div_eq_of_lt hb, show n * k + b < 32 by omega]
    · simp [show ¬ i < n * k by omega, show ¬ i - n * k < n by omega, show ¬ i < n * (k + 1) by omega]

theorem packElems_fst (f : Nat → Nat × Flags) : (packElems n f).1 = packUpTo n (fun e => (f e).1) (32 / n) := (List.foldl_hom Prod.fst fun _ _ => rfl).symm

/-- The flags of a packed word are those of all its elements (R63). -/
theorem packElems_snd (f : Nat → Nat × Flags) : (packElems n f).2 = (List.range (32 / n)).foldl (fun a e => a ||| (f e).2) 0 :=
  (List.foldl_hom Prod.snd fun _ _ => rfl).symm

/-- Each element of a packed word is what was put there, cut to its width. -/
theorem elem_packElems (hn : 0 < n) (f : Nat → Nat × Flags) {e : Nat} (he : e < 32 / n) : elem n (packElems n f).1 e = (f e).1 % 2 ^ n := by
  refine Nat.eq_of_testBit_eq fun b => ?_
  rw [testBit_elem, packElems_fst, getLsbD_packUpTo hn _ (Nat.mul_div_le 32 n), Nat.testBit_mod_two_pow]
  by_cases hb : b < n
  · have hlt : n * e + b < n * (32 / n) := (Nat.add_lt_add_left hb _).trans_le (Nat.mul_le_mul_left n he)
    simp [hb, hlt, Nat.mul_add_div hn, Nat.div_eq_of_lt hb, Nat.mod_eq_of_lt hb]
  · simp [hb]

theorem packElems_congr {f g : Nat → Nat × Flags} (h : ∀ e, e < 32 / n → f e = g e) : packElems n f = packElems n g :=
  List.foldl_ext _ _ _ fun a e he => by rw [h e (List.mem_range.1 he)]

end

theorem fltWidth_pos (t : Nat) : 0 < fltWidth t := by rw [fltWidth]; omega

/-! ### Instructions that leave a packed word in flight (R140, R141) -/

section
variable {s : State} {k : Nat} {w : Warp} {st : Stream}

/-- A packed word in flight is its elements and their flags. -/
theorem leavesElements_of_packElems {i : Instr} {h : LaneHdr} {d : Opnd} {n : Nat} {f : Fin 32 → Nat → Nat × Flags} (hn : 0 < n)
    (hx : exec i s = .next (s.flew k w st h (laneResult s w st (w.active st h) d fun j => packElems n (f j)) 0)) : leavesElements s k w st i h d n f :=
  ⟨_, hx, fun _ => ⟨fun _ he => elem_packElems hn _ he, packElems_snd _⟩⟩

/-- The immediate form, the immediate in place of B (R89). -/
theorem laneWiseImm_ready {l : LaneImm} (h : s.laneReady k w st l.hdr (LaneImm.uses l)) (f : LaneSrc → W32 × Flags) :
    laneWiseImm s l f = .next (s.flew k w st l.hdr (laneResult s w st (w.active st l.hdr) l.d fun j => f ⟨(s.rd k w st l.a 0)[j], l.imm, 0, 0, 0⟩) 0) :=
  laneIssue_flies h rfl

/-- One f32 element is the whole word. -/
theorem fElems_word (f : Nat → Nat → Nat × Flags) (a b : W32) : (fElems 0 fun e => f (fel 0 a e) (fel 0 b e)) = packElems 32 fun _ => f a.toNat b.toNat :=
  packElems_congr fun e he => by
    obtain rfl : e = 0 := Nat.lt_one_iff.1 he
    rw [← elem_word a, ← elem_word b]
    rfl

/-- A compare into a predicate tests the lanes (R150). -/
theorem execFcmp_predicate {l : LaneReg} (h : s.laneReady k w st l.hdr (LaneReg.uses1 l)) (hd : l.d.isP = true) :
    execFcmp l s = .next (s.flew k w st l.hdr
      (predResult s st (w.active st l.hdr) l.d fun j => fCmp l.ty l.low (fel l.ty (s.rd k w st l.a 0)[j] 0) (fel l.ty (s.rd k w st l.b 0)[j] 0)) 0) :=
  (if_pos hd).trans (laneIssue_flies h rfl)

/-- Into any other destination it works element by element (R150). -/
theorem execFcmp_word {l : LaneReg} (hd : l.d.isP = false) : execFcmp l s = laneWise s l false (laneFcmp l) := if_neg (by simp [hd])

end

end Sys2Proof.Machine
end

/-- Settles O20: each register form packs its elements (`leavesElements_of_packElems`); an immediate form has one element, the whole word (`fElems_word`). -/
theorem laneFloatResults : Obligations.LaneFloatResults := by
  open Sys2Proof.Machine in
  intro s k w st l m _
  refine ⟨fun h => ?_, fun h => ?_⟩
  · have packed {i : Sys2Proof.Instr} {f : Fin 32 → Nat → Nat × Flags} := leavesElements_of_packElems (s := s) (k := k) (w := w) (st := st) (i := i) (h := l.hdr) (d := l.d) (f := f) (fltWidth_pos l.ty)
    exact ⟨packed (laneWise_ready h (laneFadd l.ty l.rm l.sat)), packed (laneWise_ready h (laneFsub l.ty l.rm l.sat)), packed (laneWise_ready h (laneFmul l.ty l.rm l.sat)),
      packed (laneWise_ready h (laneFfma l.ty l.rm l.sat)), packed (laneWise_ready h (laneFminmax false l.ty)), packed (laneWise_ready h (laneFminmax true l.ty)),
      packed (laneWise_ready h (laneFclass l.ty)), packed (laneWise_ready h (laneFrnd l.ty l.rm)),
      fun hd => packed ((execFcmp_word hd).trans (laneWise_ready h (laneFcmp l))), execFcmp_predicate h⟩
  · have packed {i : Sys2Proof.Instr} (f : Nat → Nat → Nat × Flags) := leavesElements_of_packElems (s := s) (k := k) (w := w) (st := st) (i := i) (h := m.hdr) (d := m.d)
      (f := fun j _ => f (s.rd k w st m.a 0)[j].toNat m.imm.toNat) (Nat.zero_lt_succ 31)
    simp only [← fElems_word] at packed
    exact ⟨packed (fAdd 0 0 false) (laneWiseImm_ready h (laneFadd 0 0 false)), packed (fMul 0 0 false) (laneWiseImm_ready h (laneFmul 0 0 false)),
      packed (fun a b => (fMinMax 0 false a b, 0)) (laneWiseImm_ready h (laneFminmax false 0)), packed (fun a b => (fMinMax 0 true a b, 0)) (laneWiseImm_ready h (laneFminmax true 0))⟩

section
/-! SUPPORT. Special functions and conversions as results in flight (R68 to R73, R153 to R159). -/

namespace Sys2Proof.Machine

variable {s : State} {k : Nat} {w : Warp} {st : Stream} {l : LaneReg}

/-- A lane-wise instruction that draws one free value for each lane (R71, log 7). -/
theorem laneWise_draws (h : s.laneReady k w st l.hdr (LaneReg.uses1 l)) (f : LaneSrc → W32 × Flags) :
    laneWise s l true f = .next (s.flew k w st l.hdr (laneResult s w st (w.active st l.hdr) l.d fun i =>
      f ⟨(s.rd k w st l.a 0)[i], (s.rd k w st l.b 0)[i], (s.rd k w st l.c 0)[i], (s.rd k w st l.e 0)[i], Config.freeBits (s.free + i.val)⟩) 32) := by
  rw [laneWise, laneIssue_done h rfl, State.flew]
  rfl

/-- `PACK` takes its elements from A, B, C and E in turn (R155). -/
theorem lanePack_sources (x : LaneSrc) :
    lanePack l x = packElems (tyBits l.ty) fun e => cvtLow l (if e = 0 then x.a else if e = 1 then x.b else if e = 2 then x.c else x.e) 0 :=
  packElems_congr fun e _ => match e with
    | 0 | 1 | 2 | _ + 3 => rfl

/-- `BFPQ` makes one block of the active lanes (R158). -/
theorem execBfpq_block (h : s.laneReady k w st l.hdr (LaneReg.uses1 l)) :
    let val (i : Fin 32) : FVal := fval l.st (fel l.st (s.rd k w st l.a 0)[i] 0)
    let ex := bfpExp (l.wei + 2) l.rm ((w.active st l.hdr).lanes.map val)
    execBfpq l s = .next (s.flew k w st l.hdr (laneResult s w st (w.active st l.hdr) l.d fun i =>
      let m := bfpMant (l.wei + 2) l.rm ex (val i)
      (bfpqWord ex m.1, m.2)) 0) := laneIssue_flies h rfl

end Sys2Proof.Machine
end

/-- Settles O21: a special function draws one free value for each lane (`laneWise_draws`); the conversions are lane-wise but for `BFPQ`, which makes one block of the active lanes (`execBfpq_block`). -/
theorem laneConversionResults : Obligations.LaneConversionResults := by
  open Sys2Proof.Machine in
  intro s k w st l h V special word conv
  have sp (f : SFun) (rm : Nat) := laneWise_draws h (laneSpecial f l.ty rm)
  have pack : word (.pack l) _ := laneWise_ready h (lanePack l)
  simp only [lanePack_sources] at pack
  exact ⟨sp .rcp 0, sp .rsq 0, sp .sqrt l.rm, sp .exp2 0, sp .log2 0, sp .sin 0, sp .cos 0, sp .tanh 0, laneWise_ready h (laneCvt l), laneWise_ready h (laneUnpack l), pack,
    laneWise_ready h (laneBfpd l), execBfpq_block h⟩

section
/-! SUPPORT. NaN operands, and the special functions of zeros, infinities and NaN (R60, R61, R72). -/

namespace Sys2Proof.Machine

/-! ### NaN operands (R60, R61) -/

section
variable {t rm a b c : Nat} {sat : Bool}

theorem FVal.isNaN_iff {v : FVal} : v.isNaN = true ↔ v = .nan := by cases v <;> simp [FVal.isNaN]

theorem FVal.isNaN_eq_false {v : FVal} (h : v ≠ .nan) : v.isNaN = false := Bool.eq_false_iff.2 fun hn => h (FVal.isNaN_iff.1 hn)

theorem fAddV_nan {x y : FVal} (h : x = .nan ∨ y = .nan) : fAddV t rm sat x y = (canonNaN t, 0) := by
  obtain rfl | rfl := h
  · rfl
  · cases x <;> rfl

theorem fAdd_nan (h : fval t a = .nan ∨ fval t b = .nan) : fAdd t rm sat a b = (canonNaN t, 0) := fAddV_nan h

theorem fSub_nan (h : fval t a = .nan ∨ fval t b = .nan) : fSub t rm sat a b = (canonNaN t, 0) := fAddV_nan (h.imp_right fun h => by rw [h, FVal.neg])

theorem fMul_nan (h : fval t a = .nan ∨ fval t b = .nan) : fMul t rm sat a b = (canonNaN t, 0) := by
  unfold fMul
  obtain h | h := h
  · rw [h]
  · rw [h]
    cases fval t a <;> rfl

/-- The third operand does not matter. -/
theorem fFma_nan (h : fval t a = .nan ∨ fval t b = .nan) : fFma t rm sat a b c = (canonNaN t, 0) := by
  unfold fFma
  obtain h | h := h
  · rw [h]
  · rw [h]
    cases fval t a <;> rfl

section
variable {m : Bool} (ha : fval t a = .nan)
include ha

/-- `FMIN` and `FMAX` return the other operand (R61). -/
theorem fMinMax_nan_left (hb : fval t b ≠ .nan) : fMinMax t m a b = b := by
  simp [fMinMax, FVal.isNaN_iff.2 ha, FVal.isNaN_eq_false hb]

theorem fMinMax_nan_right (hb : fval t b ≠ .nan) : fMinMax t m b a = b := by
  simp [fMinMax, FVal.isNaN_iff.2 ha, FVal.isNaN_eq_false hb]

theorem fMinMax_nan_both (hb : fval t b = .nan) : fMinMax t m a b = canonNaN t := by
  simp [fMinMax, FVal.isNaN_iff.2 ha, FVal.isNaN_iff.2 hb]

end

/-- The codes from 7 on hold of unordered operands, the others do not (R60, R93). -/
theorem fCmp_nan {cc : Nat} (h : fval t a = .nan ∨ fval t b = .nan) : fCmp t cc a b = decide (7 ≤ cc) := by
  have hu : ((fval t a).isNaN || (fval t b).isNaN) = true := by simpa [FVal.isNaN_iff] using h
  simp only [fCmp, hu]
  obtain hc | rfl | rfl | hc : cc < 6 ∨ cc = 6 ∨ cc = 7 ∨ 7 < cc := by omega
  · simp [hc, show cc ≠ 6 by omega, show cc ≠ 7 by omega, show ¬ 7 ≤ cc by omega]
  · rfl
  · rfl
  · simp [show ¬ cc < 6 by omega, show cc ≠ 6 by omega, show cc ≠ 7 by omega, show 7 ≤ cc by omega]

end

/-! ### The encodings of zeros and infinities (R56) -/

section
variable {t : Nat}

theorem fval_zero (ht : t ≤ 2) : fval t 0 = .fin false 0 (minExp t) := by
  interval_cases t <;> decide

theorem fval_negZero (ht : t ≤ 2) : fval t (signBit t true) = .fin true 0 (minExp t) := by
  interval_cases t <;> decide

theorem fval_infBits (ht : t ≤ 2) (n : Bool) : fval t (infBits t n) = .inf n := by
  interval_cases t <;> cases n <;> decide

/-- The sign bit is the highest one. -/
theorem signBit_true (t : Nat) : signBit t true = 2 ^ (fltWidth t - 1) := by
  rw [fltWidth, Nat.add_assoc, Nat.add_sub_cancel_left, signBit, if_pos rfl]

end

/-! ### The table of R72 -/

section
variable {t rm a cand : Nat} {n : Bool} {e : Int}

theorem SFun.eval_nan (f : SFun) (h : fval t a = .nan) : f.eval t rm a cand = (canonNaN t, 0) := by cases f <;> simp only [SFun.eval, h]

section
variable (h : fval t a = .inf n)
include h

theorem SFun.eval_rcp_inf : SFun.rcp.eval t rm a cand = (signBit t n, 0) := by simp only [SFun.eval, h]
theorem SFun.eval_rsq_inf : SFun.rsq.eval t rm a cand = if n then invalid t else (0, 0) := by simp only [SFun.eval, h]
theorem SFun.eval_sqrt_inf : SFun.sqrt.eval t rm a cand = if n then invalid t else (a, 0) := by simp only [SFun.eval, h]
theorem SFun.eval_exp2_inf : SFun.exp2.eval t rm a cand = if n then (0, 0) else (a, 0) := by simp only [SFun.eval, h]
theorem SFun.eval_log2_inf : SFun.log2.eval t rm a cand = if n then invalid t else (a, 0) := by simp only [SFun.eval, h]
theorem SFun.eval_sin_inf : SFun.sin.eval t rm a cand = invalid t := by simp only [SFun.eval, h]
theorem SFun.eval_cos_inf : SFun.cos.eval t rm a cand = invalid t := by simp only [SFun.eval, h]
theorem SFun.eval_tanh_inf : SFun.tanh.eval t rm a cand = (oneBits t n, 0) := by simp only [SFun.eval, h]

end

section
variable (h : fval t a = .fin n 0 e)
include h

theorem SFun.eval_rcp_zero : SFun.rcp.eval t rm a cand = (infBits t n, flagDZ) := by simp [SFun.eval, h]
theorem SFun.eval_rsq_zero : SFun.rsq.eval t rm a cand = (infBits t n, flagDZ) := by simp [SFun.eval, h]
theorem SFun.eval_sqrt_zero : SFun.sqrt.eval t rm a cand = (a, 0) := by simp [SFun.eval, h]
theorem SFun.eval_exp2_zero : SFun.exp2.eval t rm a cand = (oneBits t false, 0) := by simp [SFun.eval, h]
theorem SFun.eval_log2_zero : SFun.log2.eval t rm a cand = (infBits t true, flagDZ) := by simp [SFun.eval, h]
theorem SFun.eval_sin_zero : SFun.sin.eval t rm a cand = (a, 0) := by simp [SFun.eval, h]
theorem SFun.eval_cos_zero : SFun.cos.eval t rm a cand = (oneBits t false, 0) := by simp [SFun.eval, h]
theorem SFun.eval_tanh_zero : SFun.tanh.eval t rm a cand = (a, 0) := by simp [SFun.eval, h]

end

end

end Sys2Proof.Machine
end

/-- Settles O22: each operation by its NaN operand; the table of R72 by the value of the operand, infinite or zero. -/
theorem floatEdgeCases : Obligations.FloatEdgeCases := by
  open Sys2Proof.Machine in
  refine ⟨fun t rm a b c sat _ _ _ _ => ⟨fun h => ⟨fAdd_nan h, fSub_nan h, fMul_nan h⟩, fFma_nan, fun m ha hb => ⟨fMinMax_nan_left ha hb, fMinMax_nan_right ha hb⟩,
    fun m ha hb => fMinMax_nan_both ha hb, fun cc _ => fCmp_nan⟩, fun t rm cand ht => ?_⟩
  rw [← signBit_true]
  intro pos neg inf ninf one mone nan
  have hp : fval t pos = .fin false 0 (minExp t) := fval_zero ht
  have hn : fval t neg = .fin true 0 (minExp t) := fval_negZero ht
  have hi : fval t inf = .inf false := fval_infBits ht false
  have hni : fval t ninf = .inf true := fval_infBits ht true
  exact ⟨SFun.eval_rcp_inf hni, SFun.eval_rcp_inf hi, SFun.eval_rcp_zero hn, SFun.eval_rcp_zero hp,
    SFun.eval_rsq_inf hni, SFun.eval_rsq_zero hn, SFun.eval_rsq_zero hp, SFun.eval_rsq_inf hi,
    SFun.eval_sqrt_inf hni, SFun.eval_sqrt_zero hn, SFun.eval_sqrt_zero hp, SFun.eval_sqrt_inf hi,
    SFun.eval_exp2_inf hni, SFun.eval_exp2_zero hn, SFun.eval_exp2_zero hp, SFun.eval_exp2_inf hi,
    SFun.eval_log2_inf hni, SFun.eval_log2_zero hn, SFun.eval_log2_zero hp, SFun.eval_log2_inf hi,
    SFun.eval_sin_inf hni, SFun.eval_sin_zero hn, SFun.eval_sin_zero hp, SFun.eval_sin_inf hi,
    SFun.eval_cos_inf hni, SFun.eval_cos_zero hn, SFun.eval_cos_zero hp, SFun.eval_cos_inf hi,
    SFun.eval_tanh_inf hni, SFun.eval_tanh_zero hn, SFun.eval_tanh_zero hp, SFun.eval_tanh_inf hi,
    fun f a h => SFun.eval_nan f h⟩

section
/-! SUPPORT. Lane values: what a field of a word is, that each format of a lane instruction reads the instruction whose bits a value has, and the opcode map in both directions (R84 to R89, R92, R181). -/

namespace Sys2Proof

/-! ### Fields -/

theorem fld_eq_iff {w lo len : Nat} {x : BitVec len} : fld w lo len = x ↔ w / 2 ^ lo % 2 ^ len = x.toNat := by
  rw [fld, ← BitVec.toNat_inj, BitVec.toNat_ofNat]

theorem flag_eq_iff {w lo : Nat} {b : Bool} : flag w lo = b ↔ w / 2 ^ lo % 2 = b.toNat := by
  have := Nat.mod_two_eq_zero_or_one (w / 2 ^ lo)
  cases b <;> simp [flag]

theorem Guard.bits_lt (g : Guard) : g.bits < 32 := by
  have := g.idx.isLt
  have := Bool.toNat_le g.neg
  rw [Guard.bits]
  omega

theorem guardAt_eq_iff {w lo : Nat} {g : Guard} : guardAt w lo = g ↔ w / 2 ^ lo % 32 = g.bits := by
  obtain ⟨n, i⟩ := g
  have := i.isLt
  have := Bool.toNat_le n
  rw [guardAt, Guard.mk.injEq, flag_eq_iff, fld_eq_iff, Guard.bits, Nat.pow_add, ← Nat.div_div_eq_div_mul]
  dsimp only
  omega

theorem hdrAt_eq_iff {w : Nat} {h : LaneHdr} : hdrAt w = h ↔ w / 2 ^ 64 % 2 ^ 22 * 2 ^ 64 = h.bits := by
  obtain ⟨ga, gb, gc, rh, yld, spc, fe⟩ := h
  have := ga.bits_lt
  have := gb.bits_lt
  have := Bool.toNat_le gc
  have := rh.isLt
  have := Bool.toNat_le yld
  have := spc.isLt
  have := fe.isLt
  simp only [hdrAt, LaneHdr.mk.injEq, guardAt_eq_iff, flag_eq_iff, fld_eq_iff, LaneHdr.bits]
  omega

/-- A specifier names the operand whose code it is (R86). -/
theorem Opnd.ofSpec_eq_some {w : Nat} {o : Opnd} : Opnd.ofSpec w = some o ↔ w % 1024 = o.spec := by
  constructor
  · intro h
    obtain hc | hc | hc | hc : w / 256 % 4 = 0 ∨ w / 256 % 4 = 1 ∨ w / 256 % 4 = 2 ∨ w / 256 % 4 = 3 := by omega
    all_goals
      simp only [Opnd.ofSpec, hc, beq_iff_eq] at h
      repeat' split at h
      all_goals cases h
      all_goals simp only [Opnd.spec, BitVec.toNat_ofNat]; omega
  · intro h
    rw [Opnd.ofSpec, show w % 256 = w % 1024 % 256 by omega, show w / 256 % 4 = w % 1024 / 256 by omega, h]
    clear h
    cases o with
    | none => rfl
    | v n | a n | x n | sp n | p n | k n => revert n; decide

/-! ### Formats of a lane instruction -/

/-- The reader of a format and the bits below the opcode that the format lays out are inverse to each other. -/
structure Reads {α : Type} (read : Nat → Option α) (bits : α → Nat) : Prop where
  lt : ∀ x, bits x < 2 ^ 86
  iff : ∀ w x, read w = some x ↔ w % 2 ^ 86 = bits x

theorem laneReg_eq_some (w : Nat) (l : LaneReg) : laneReg w = some l ↔ w % 2 ^ 86 = l.bits := by
  obtain ⟨h, d, a, b, c, e, m⟩ := l
  have := Laws.Width.hdr_bits_lt h
  have := Laws.Width.hdr_bits_dvd h
  have := Laws.Width.spec_lt d
  have := Laws.Width.spec_lt a
  have := Laws.Width.spec_lt b
  have := Laws.Width.spec_lt c
  have := Laws.Width.spec_lt e
  have := m.isLt
  simp only [laneReg, Option.bind_eq_bind, Option.bind_eq_some_iff, Option.pure_def, Option.some.injEq, LaneReg.mk.injEq, Opnd.ofSpec_eq_some, hdrAt_eq_iff, fld_eq_iff, LaneReg.bits]
  constructor
  · rintro ⟨_, hd, _, ha, _, hb, _, hc, _, he, hh, rfl, rfl, rfl, rfl, rfl, hm⟩
    omega
  · intro hw
    refine ⟨d, ?_, a, ?_, b, ?_, c, ?_, e, ?_, ?_, rfl, rfl, rfl, rfl, rfl, ?_⟩ <;> omega

theorem laneReg_reads : Reads laneReg LaneReg.bits := ⟨Laws.Width.reg_bits_lt, laneReg_eq_some⟩

theorem laneImm_eq_some (w : Nat) (l : LaneImm) : laneImm w = some l ↔ w % 2 ^ 86 = l.bits := by
  obtain ⟨h, d, a, b, i⟩ := l
  have := Laws.Width.hdr_bits_lt h
  have := Laws.Width.hdr_bits_dvd h
  have := Laws.Width.spec_lt d
  have := Laws.Width.spec_lt a
  have := Laws.Width.spec_lt b
  have := i.isLt
  simp only [laneImm, Option.bind_eq_bind, Option.bind_eq_some_iff, Option.pure_def, Option.bind_none, Option.ite_none_left_eq_some, Option.some.injEq, LaneImm.mk.injEq, Opnd.ofSpec_eq_some,
    hdrAt_eq_iff, fld_eq_iff, bne_iff_ne, ne_eq, Decidable.not_not, LaneImm.bits]
  constructor
  · rintro ⟨_, hd, _, ha, _, hb, hz, hh, rfl, rfl, rfl, hi⟩
    omega
  · intro hw
    refine ⟨d, ?_, a, ?_, b, ?_, ?_, ?_, rfl, rfl, rfl, ?_⟩ <;> omega

theorem laneImm_reads : Reads laneImm LaneImm.bits := ⟨Laws.Width.imm_bits_lt, laneImm_eq_some⟩

theorem laneBr_eq_some (w : Nat) (l : LaneBr) : laneBr w = some l ↔ w % 2 ^ 86 = l.bits := by
  obtain ⟨h, t, j⟩ := l
  have := Laws.Width.hdr_bits_lt h
  have := Laws.Width.hdr_bits_dvd h
  have := t.isLt
  have := j.isLt
  simp only [laneBr, Option.ite_none_right_eq_some, Option.some.injEq, LaneBr.mk.injEq, beq_iff_eq, hdrAt_eq_iff, fld_eq_iff, LaneBr.bits]
  omega

theorem laneBr_reads : Reads laneBr LaneBr.bits := ⟨Laws.Width.br_bits_lt, laneBr_eq_some⟩

/-! ### The opcode map (R92) -/

/-- The groups of the lane opcode map, by their number. -/
def laneGroup : Nat → Nat → Nat → Option Instr
  | 0x0 => decodeGroup0 | 0x1 => decodeGroup1 | 0x2 => decodeGroup2 | 0x3 => decodeGroup3 | 0x4 => decodeGroup4
  | 0x5 => decodeGroup5 | 0x6 => decodeGroup6 | 0x7 => decodeGroup7 | 0x8 => decodeGroup8 | 0x9 => decodeGroup9
  | 0xA => decodeGroupA | 0xB => decodeGroupB | 0xC => decodeGroupC
  | _ => fun _ _ => none

theorem rawLane_eq (w : Nat) : rawLane w = laneGroup (w / 2 ^ 92) (w / 2 ^ 86 % 64) w := by
  unfold rawLane laneGroup
  split <;> simp only [*]

/-- Whatever the instruction `o` that the word `w` reads as, the encoder gives it the opcode `c` and the bits of `w` below. -/
def ReadsAs (c w : Nat) (o : Option Instr) : Prop := ∀ i, o = some i → encodeLane i = some (c * 2 ^ 86 + w % 2 ^ 86)

theorem ReadsAs.none {c w : Nat} : ReadsAs c w none := by
  intro i h
  cases h

section
variable {α : Type} {read : Nat → Option α} {bits : α → Nat} {mk : α → Instr} {c : Nat} (h : Reads read bits)
include h

theorem Reads.readsAs {w : Nat} (he : ∀ x, encodeLane (mk x) = some (c * 2 ^ 86 + bits x)) : ReadsAs c w ((read w).map mk) := by
  intro i hi
  obtain ⟨x, hx, rfl⟩ := Option.map_eq_some_iff.1 hi
  rw [he, (h.iff w x).1 hx]

/-- A word put together from an opcode and the bits of its format. -/
theorem Reads.word {x : α} (hc : c < 2 ^ 10) (hd : ∀ w, laneGroup (c / 64) (c % 64) w = (read w).map mk) :
    c * 2 ^ 86 + bits x < 2 ^ 96 ∧ rawLane (c * 2 ^ 86 + bits x) = some (mk x) := by
  have hb := h.lt x
  refine ⟨by omega, ?_⟩
  rw [rawLane_eq, show (c * 2 ^ 86 + bits x) / 2 ^ 92 = c / 64 by omega, show (c * 2 ^ 86 + bits x) / 2 ^ 86 % 64 = c % 64 by omega, hd,
    (h.iff _ x).2 (by omega), Option.map_some]

end

theorem decodeGroup0_reads (op w : Nat) : ReadsAs (64 * 0x0 + op) w (decodeGroup0 op w) := by
  unfold decodeGroup0
  split
  case h_5 => exact .none
  case h_4 => exact laneBr_reads.readsAs fun _ => rfl
  all_goals exact laneReg_reads.readsAs fun _ => rfl

theorem decodeGroup1_reads (op w : Nat) : ReadsAs (64 * 0x1 + op) w (decodeGroup1 op w) := by
  unfold decodeGroup1
  split
  case h_14 => exact .none
  case h_10 | h_11 | h_12 | h_13 => exact laneImm_reads.readsAs fun _ => rfl
  all_goals exact laneReg_reads.readsAs fun _ => rfl

theorem decodeGroup2_reads (op w : Nat) : ReadsAs (64 * 0x2 + op) w (decodeGroup2 op w) := by
  unfold decodeGroup2
  split
  case h_18 => exact .none
  case h_12 | h_13 | h_14 | h_15 | h_16 | h_17 => exact laneImm_reads.readsAs fun _ => rfl
  all_goals exact laneReg_reads.readsAs fun _ => rfl

theorem decodeGroup3_reads (op w : Nat) : ReadsAs (64 * 0x3 + op) w (decodeGroup3 op w) := by
  unfold decodeGroup3
  split
  case h_14 => exact .none
  case h_10 | h_11 | h_12 | h_13 => exact laneImm_reads.readsAs fun _ => rfl
  all_goals exact laneReg_reads.readsAs fun _ => rfl

theorem decodeGroup4_reads (op w : Nat) : ReadsAs (64 * 0x4 + op) w (decodeGroup4 op w) := by
  unfold decodeGroup4
  split
  case h_14 => exact .none
  all_goals exact laneReg_reads.readsAs fun _ => rfl

theorem decodeGroup5_reads (op w : Nat) : ReadsAs (64 * 0x5 + op) w (decodeGroup5 op w) := by
  unfold decodeGroup5
  split
  case h_7 => exact .none
  case h_2 => exact laneImm_reads.readsAs fun _ => rfl
  all_goals exact laneReg_reads.readsAs fun _ => rfl

theorem decodeGroup6_reads (op w : Nat) : ReadsAs (64 * 0x6 + op) w (decodeGroup6 op w) := by
  unfold decodeGroup6
  split
  case h_7 => exact .none
  all_goals exact laneReg_reads.readsAs fun _ => rfl

theorem decodeGroup7_reads (op w : Nat) : ReadsAs (64 * 0x7 + op) w (decodeGroup7 op w) := by
  unfold decodeGroup7
  split
  case h_3 => exact .none
  all_goals exact laneReg_reads.readsAs fun _ => rfl

theorem decodeGroup8_reads (op w : Nat) : ReadsAs (64 * 0x8 + op) w (decodeGroup8 op w) := by
  unfold decodeGroup8
  split
  case h_9 => exact .none
  case h_4 => exact laneImm_reads.readsAs fun _ => rfl
  all_goals exact laneReg_reads.readsAs fun _ => rfl

theorem decodeGroup9_reads (op w : Nat) : ReadsAs (64 * 0x9 + op) w (decodeGroup9 op w) := by
  unfold decodeGroup9
  split
  case h_11 => exact .none
  case h_2 => exact laneImm_reads.readsAs fun _ => rfl
  all_goals exact laneReg_reads.readsAs fun _ => rfl

theorem decodeGroupA_reads (op w : Nat) : ReadsAs (64 * 0xA + op) w (decodeGroupA op w) := by
  unfold decodeGroupA
  split
  case h_6 => exact .none
  all_goals exact laneReg_reads.readsAs fun _ => rfl

theorem decodeGroupB_reads (op w : Nat) : ReadsAs (64 * 0xB + op) w (decodeGroupB op w) := by
  unfold decodeGroupB
  split
  case h_8 => exact .none
  all_goals exact laneReg_reads.readsAs fun _ => rfl

theorem decodeGroupC_reads (op w : Nat) : ReadsAs (64 * 0xC + op) w (decodeGroupC op w) := by
  unfold decodeGroupC
  split
  case h_12 => exact .none
  all_goals exact laneReg_reads.readsAs fun _ => rfl

theorem laneGroup_reads (g op w : Nat) : ReadsAs (64 * g + op) w (laneGroup g op w) := by
  unfold laneGroup
  split
  · exact decodeGroup0_reads op w
  · exact decodeGroup1_reads op w
  · exact decodeGroup2_reads op w
  · exact decodeGroup3_reads op w
  · exact decodeGroup4_reads op w
  · exact decodeGroup5_reads op w
  · exact decodeGroup6_reads op w
  · exact decodeGroup7_reads op w
  · exact decodeGroup8_reads op w
  · exact decodeGroup9_reads op w
  · exact decodeGroupA_reads op w
  · exact decodeGroupB_reads op w
  · exact decodeGroupC_reads op w
  · exact .none

/-- A lane value that the opcode map reads is the one its instruction encodes to. -/
theorem encodeLane_of_rawLane {w : Nat} {i : Instr} (h : rawLane w = some i) : encodeLane i = some w := by
  rw [rawLane_eq] at h
  rw [laneGroup_reads _ _ w i h]
  congr 1
  omega

/-- The bits of a lane instruction read as that instruction. -/
theorem rawLane_of_encodeLane {w : Nat} {i : Instr} (h : encodeLane i = some w) : w < 2 ^ 96 ∧ rawLane w = some i := by
  cases i <;> cases h
  case lbr => exact laneBr_reads.word (by decide) fun _ => rfl
  case atom op l => cases op <;> exact laneReg_reads.word (by decide) fun _ => rfl
  case iaddImm | imulImm | iminImm | imaxImm | landImm | lorImm | lxorImm | lshlImm | lshrImm | lsraImm | faddImm | fmulImm | fminImm | fmaxImm | movi
      | waitk | qfence =>
    exact laneImm_reads.word (by decide) fun _ => rfl
  all_goals exact laneReg_reads.word (by decide) fun _ => rfl

end Sys2Proof
end

section
/-! SUPPORT. Scalar words: the word of every scalar instruction reads as that instruction, format by format (R77 to R83). -/

namespace Sys2Proof

/-! ### Codes (R80, R81, R85) -/

theorem SCond.ofCode_code (c : SCond) : SCond.ofCode c.code = some c := by cases c <;> rfl
theorem SSize.ofCode_code (z : SSize) : SSize.ofCode z.code = some z := by cases z <;> rfl
theorem AmoOp.ofCode_code (o : AmoOp) : AmoOp.ofCode o.code = some o := by cases o <;> rfl
theorem MemOrder.ofCode_code (o : MemOrder) : MemOrder.ofCode o.code = some o := by cases o <;> rfl
theorem SCond.code_lt (c : SCond) : c.code < 8 := by cases c <;> decide
theorem SSize.code_lt (z : SSize) : z.code < 8 := by cases z <;> decide
theorem AmoOp.code_lt (o : AmoOp) : o.code < 8 := by cases o <;> decide
theorem MemOrder.code_lt (o : MemOrder) : o.code < 8 := by cases o <;> decide

/-- The word `w` is of 32 bits and reads as `i`. -/
def ScalarReads (w : Nat) (i : Instr) : Prop := w < 2 ^ 32 ∧ rawScalar w = some i

section
variable {maj fn x : Nat} {d a b r : SReg} {i : Instr}

/-- A word read by the arm of its major opcode. -/
theorem rawScalar_major {w : Nat} (hm : maj < 2 ^ 6) (hx : x < 2 ^ 26) (hw : w = maj * 2 ^ 26 + x) (arm : ∀ w, w / 2 ^ 26 = maj → w % 2 ^ 26 = x → rawScalar w = some i) :
    ScalarReads w i := ⟨by omega, arm w (by omega) (by omega)⟩

/-- A word of format SR, read by the arm of its major opcode. -/
theorem rawScalar_encSR (hm : maj < 2 ^ 6) (hf : fn < 2 ^ 8)
    (arm : ∀ w, w / 2 ^ 26 = maj → fld w 20 6 = d → fld w 14 6 = a → fld w 8 6 = b → w % 256 = fn → rawScalar w = some i) :
    ScalarReads (encSR maj d a b fn) i := by
  refine ⟨Laws.Width.sr_lt d a b hm hf, arm _ ?_ ?_ ?_ ?_ ?_⟩ <;> simp only [encSR, fld_eq_iff] <;> omega

/-- A word of format SI. -/
theorem rawScalar_encSI (hm : maj < 2 ^ 6) (hx : x < 2 ^ 14)
    (arm : ∀ w, w / 2 ^ 26 = maj → fld w 20 6 = d → fld w 14 6 = a → w % 2 ^ 14 = x → rawScalar w = some i) :
    ScalarReads (encSI maj d a x) i := by
  refine ⟨Laws.Width.si_lt d a hm hx, arm _ ?_ ?_ ?_ ?_⟩ <;> simp only [encSI, fld_eq_iff] <;> omega

/-- A word of format SX. -/
theorem rawScalar_encSX {n : BitVec 12} (hf : fn < 2 ^ 8) (arm : ∀ w, fld w 14 12 = n → fld w 8 6 = r → decodeSys fn w = some i) :
    ScalarReads (encSX n r fn) i := by
  refine ⟨Laws.Width.sx_lt n r hf, ?_⟩
  rw [rawScalar, show encSX n r fn / 2 ^ 26 = 0x3F by simp only [encSX]; omega, show encSX n r fn % 256 = fn by simp only [encSX]; omega]
  refine arm _ ?_ ?_ <;> simp only [encSX, fld_eq_iff] <;> omega

theorem rawScalar_decodeInt (hf : fn < 2 ^ 8) (hi : decodeInt fn d a b = some i) : ScalarReads (encSR 1 d a b fn) i :=
  rawScalar_encSR (by decide) hf fun w hm hd ha hb hn => by rw [rawScalar, hm, hd, ha, hb, hn]; exact hi

/-- The register and immediate instructions, the immediate in the low bits. -/
theorem rawScalar_imm {n : Nat} (hn : n ≤ 14) {mk : SReg → SReg → BitVec n → Instr} {m : BitVec n} (hm : maj < 2 ^ 6)
    (arm : ∀ w, w / 2 ^ 26 = maj → rawScalar w = some (mk (fld w 20 6) (fld w 14 6) (fld w 0 n))) :
    ScalarReads (encSI maj d a m.toNat) (mk d a m) :=
  rawScalar_encSI hm (m.isLt.trans_le (Nat.pow_le_pow_right (by decide) hn)) fun w hw hd ha hx => by
    have hm : fld w 0 n = m := by
      rw [fld_eq_iff, ← hx, Nat.pow_zero, Nat.div_one, ← Nat.mod_mod_of_dvd w (Nat.pow_dvd_pow 2 hn), hx, Nat.mod_eq_of_lt m.isLt]
    rw [arm w hw, hd, ha, hm]

theorem rawScalar_imm20 {mk : SReg → BitVec 20 → Instr} {m : BitVec 20} (hm : maj < 2 ^ 6)
    (arm : ∀ w, w / 2 ^ 26 = maj → rawScalar w = some (mk (fld w 20 6) (fld w 0 20))) :
    ScalarReads (maj * 2 ^ 26 + d.toNat * 2 ^ 20 + m.toNat) (mk d m) :=
  rawScalar_major (x := d.toNat * 2 ^ 20 + m.toNat) hm (by omega) (by omega) fun w hw hx => by
    have hd : fld w 20 6 = d := fld_eq_iff.2 (by omega)
    have hi : fld w 0 20 = m := fld_eq_iff.2 (by omega)
    rw [arm w hw, hd, hi]

/-- The same with a code above an 11-bit field. -/
theorem rawScalar_imm311 {γ : Type} {ofCode : Nat → Option γ} {code : γ → Nat} {c : γ} (hc : ofCode (code c) = some c) (hl : code c < 8)
    {mk : γ → SReg → SReg → BitVec 11 → Instr} {o : BitVec 11} (hm : maj < 2 ^ 6)
    (arm : ∀ w, w / 2 ^ 26 = maj → rawScalar w = (ofCode (w / 2 ^ 11 % 8)).map fun c => mk c (fld w 20 6) (fld w 14 6) (fld w 0 11)) :
    ScalarReads (encSI maj d a (imm311 (code c) o)) (mk c d a o) :=
  rawScalar_encSI hm (Laws.Width.imm311_lt o hl) fun w hw hd ha hx => by
    simp only [imm311] at hx
    have ho : fld w 0 11 = o := fld_eq_iff.2 (by omega)
    rw [arm w hw, hd, ha, ho, show w / 2 ^ 11 % 8 = code c by omega, hc, Option.map_some]

end

/-! ### Words with fields of their own (R78, R81, R82) -/

theorem rawScalar_samo (op : AmoOp) (wide : Bool) (ord : MemOrder) (sys : Bool) (d a b : SReg) :
    ScalarReads (encSR 0x14 d a b (op.code * 2 ^ 5 + wide.toNat * 2 ^ 4 + ord.code * 2 + sys.toNat)) (.samo op wide ord sys d a b) := by
  have := op.code_lt
  have := ord.code_lt
  have := Bool.toNat_le wide
  have := Bool.toNat_le sys
  refine rawScalar_encSR (by decide) (by omega) fun w hm hd ha hb hf => ?_
  have hwide : flag w 4 = wide := flag_eq_iff.2 (by omega)
  have hsys : flag w 0 = sys := flag_eq_iff.2 (by omega)
  rw [rawScalar, hm, hd, ha, hb, hwide, hsys, show w / 2 ^ 5 % 8 = op.code by omega, show w / 2 % 8 = ord.code by omega]
  simp [AmoOp.ofCode_code, MemOrder.ofCode_code]

theorem rawScalar_sj (o : BitVec 26) : ScalarReads (0x19 * 2 ^ 26 + o.toNat) (.sj o) := by
  refine rawScalar_major (by decide) o.isLt rfl fun w h hx => ?_
  rw [rawScalar, h]
  simp only [Option.some.injEq, Instr.sj.injEq, fld_eq_iff]
  omega

theorem rawScalar_sbr (cc : SCond) (a b : SReg) (o : BitVec 11) :
    ScalarReads (0x18 * 2 ^ 26 + cc.code * 2 ^ 23 + a.toNat * 2 ^ 17 + b.toNat * 2 ^ 11 + o.toNat) (.sbr cc a b o) := by
  have hc := cc.code_lt
  refine rawScalar_major (maj := 0x18) (x := cc.code * 2 ^ 23 + a.toNat * 2 ^ 17 + b.toNat * 2 ^ 11 + o.toNat) (by decide) (by omega) (by omega) fun w h hx => ?_
  rw [rawScalar, h, show w / 2 ^ 23 % 8 = cc.code by omega]
  simp only [SCond.ofCode_code, Option.map_some, Option.some.injEq, Instr.sbr.injEq, true_and, fld_eq_iff]
  omega

theorem rawScalar_loop (a : SReg) (c64 : Bool) (o : BitVec 16) :
    ScalarReads (0x1C * 2 ^ 26 + a.toNat * 2 ^ 20 + c64.toNat * 2 ^ 16 + o.toNat) (.loop a c64 o) := by
  have hc := Bool.toNat_le c64
  refine rawScalar_major (maj := 0x1C) (x := a.toNat * 2 ^ 20 + c64.toNat * 2 ^ 16 + o.toNat) (by decide) (by omega) (by omega) fun w h hx => ?_
  rw [rawScalar, h]
  simp only [Option.some.injEq, Instr.loop.injEq, fld_eq_iff, flag_eq_iff]
  omega

theorem rawScalar_larg (n : BitVec 2) (a : SReg) : ScalarReads (0x21 * 2 ^ 26 + n.toNat * 2 ^ 20 + a.toNat * 2 ^ 14) (.larg n a) := by
  refine rawScalar_major (maj := 0x21) (x := n.toNat * 2 ^ 20 + a.toNat * 2 ^ 14) (by decide) (by omega) (by omega) fun w h hx => ?_
  rw [rawScalar, h, show w % 256 = 0 by omega]
  simp only [Option.some.injEq, Instr.larg.injEq, fld_eq_iff]
  omega

theorem rawScalar_spop (d : SReg) : ScalarReads (0x21 * 2 ^ 26 + d.toNat * 2 ^ 20 + 2) (.spop d) := by
  refine rawScalar_major (maj := 0x21) (x := d.toNat * 2 ^ 20 + 2) (by decide) (by omega) (by omega) fun w h hx => ?_
  rw [rawScalar, h, show w % 256 = 2 by omega]
  simp only [Option.some.injEq, Instr.spop.injEq, fld_eq_iff]
  omega

theorem rawScalar_sbar (n : BitVec 4) : ScalarReads (0x22 * 2 ^ 26 + n.toNat * 2 ^ 20) (.sbar n) := by
  refine rawScalar_major (maj := 0x22) (x := n.toNat * 2 ^ 20) (by decide) (by omega) (by omega) fun w h hx => ?_
  rw [rawScalar, h, show w % 256 = 0 by omega]
  simp only [Option.some.injEq, Instr.sbar.injEq, fld_eq_iff]
  omega

/-- The word of a scalar instruction reads as that instruction. -/
theorem rawScalar_of_encodeScalar {w : Nat} {i : Instr} (h : encodeScalar i = some w) : ScalarReads w i := by
  cases i <;> cases h
  case scmp cc d a b => cases cc <;> exact rawScalar_decodeInt (by decide) rfl
  case saddi | smuli | sandi | sori | sxori | smini | smaxi | sjr | sshli | sshri | ssrai =>
    exact rawScalar_imm (by decide) (by decide) fun w h => by rw [rawScalar, h]; rfl
  case scmpi cc _ _ _ => exact rawScalar_imm311 cc.ofCode_code cc.code_lt (by decide) fun w h => by rw [rawScalar, h]; rfl
  case sld z _ _ _ | sldPad z _ _ _ | sst z _ _ _ | sstPad z _ _ _ => exact rawScalar_imm311 z.ofCode_code z.code_lt (by decide) fun w h => by rw [rawScalar, h]; rfl
  case scsrr | scsrw | strap | ssleep | sperf | stime | snop | seret | syield | shalt | lbrk =>
    exact rawScalar_encSX (by decide) fun w hn hr => by simp only [decodeSys, hn, hr]
  case slaunch => exact rawScalar_encSR (by decide) (by decide) fun w hm hd ha _ hf => by rw [rawScalar, hm, hd, ha, hf]; rfl
  case lwait | sbarC | strig => exact ⟨by decide, by decide⟩
  case slui | sjal | lgo => exact rawScalar_imm20 (by decide) fun w h => by rw [rawScalar, h]; rfl
  case samo => exact rawScalar_samo ..
  case sj => exact rawScalar_sj _
  case sbr => exact rawScalar_sbr ..
  case loop => exact rawScalar_loop ..
  case larg => exact rawScalar_larg ..
  case spop => exact rawScalar_spop _
  case sbar => exact rawScalar_sbar _
  all_goals exact rawScalar_decodeInt (by decide) rfl

end Sys2Proof
end

section
/-! SUPPORT. The decoders: what they answer is exactly the well-formed instruction that encodes to the word (R75, R77, R84, R94). -/

namespace Sys2Proof

theorem leNat_leBytes (n w : Nat) : leNat (leBytes n w) = w % 256 ^ n := by
  induction n generalizing w with
  | zero => rw [Nat.pow_zero, Nat.mod_one]; rfl
  | succ n ih => rw [leBytes, leNat, ih, BitVec.toNat_ofNat, Nat.pow_succ' (n := n), Nat.mod_mul]

theorem leNat_leBytes_of_lt {n w : Nat} (hw : w < 256 ^ n) : leNat (leBytes n w) = w := (leNat_leBytes n w).trans (Nat.mod_eq_of_lt hw)

theorem decodeTableWord_scalar {w : Nat} (hw : w < 2 ^ 32) : decodeTableWord 32 w = decodeScalar w := by
  rw [decodeTableWord, if_pos (Nat.le_refl 32), decodeScalarBytes, leNat_leBytes_of_lt hw]

theorem decodeTableWord_lane {w : Nat} (hw : w < 2 ^ 96) : decodeTableWord 96 w = decodeLane w := by
  rw [decodeTableWord, if_neg (by decide), decodeLaneBytes, leNat_leBytes_of_lt hw]

/-- A scalar word decodes to the well-formed instruction that it encodes. -/
theorem decodeScalar_eq_some {w : Nat} {i : Instr} : decodeScalar w = some i ↔ i.wf = true ∧ encodeScalar i = some w := by
  constructor
  · intro h
    cases hr : rawScalar w with
    | none => simp [decodeScalar, hr] at h
    | some j =>
      simp only [decodeScalar, hr, Option.ite_none_right_eq_some, Option.some.injEq, Bool.and_eq_true, beq_iff_eq] at h
      obtain ⟨hj, rfl⟩ := h
      exact hj
  · intro ⟨hwf, he⟩
    simp [decodeScalar, (rawScalar_of_encodeScalar he).2, hwf, he]

/-- A lane value decodes to the well-formed instruction that it encodes. -/
theorem decodeLane_eq_some {w : Nat} {i : Instr} : decodeLane w = some i ↔ i.wf = true ∧ encodeLane i = some w := by
  constructor
  · intro h
    cases hr : rawLane w with
    | none => simp [decodeLane, hr] at h
    | some j =>
      simp only [decodeLane, hr, Option.ite_none_right_eq_some, Option.some.injEq] at h
      obtain ⟨hwf, rfl⟩ := h
      exact ⟨hwf, encodeLane_of_rawLane hr⟩
  · intro ⟨hwf, he⟩
    simp [decodeLane, (rawLane_of_encodeLane he).2, hwf]

end Sys2Proof
end

/-- Settles O2: the word of a scalar instruction reads as it (`rawScalar_of_encodeScalar`), and the decoder refuses no well-formed one. -/
theorem scalarEncodeDecode : Obligations.ScalarEncodeDecode := by
  open Sys2Proof in
  intro i w he hwf
  have hw := (rawScalar_of_encodeScalar he).1
  exact ⟨hw, (decodeTableWord_scalar hw).trans (decodeScalar_eq_some.2 ⟨hwf, he⟩)⟩

/-- Settles O3: the bits of a lane instruction read as it (`rawLane_of_encodeLane`), and the decoder refuses no well-formed one. -/
theorem laneEncodeDecode : Obligations.LaneEncodeDecode := by
  open Sys2Proof in
  intro i w he hwf
  have hw := (rawLane_of_encodeLane he).1
  exact ⟨hw, (decodeTableWord_lane hw).trans (decodeLane_eq_some.2 ⟨hwf, he⟩)⟩

/-- Settles O4: what a decoder answers encodes to the word it has read. -/
theorem wordsHaveOneReading : Obligations.WordsHaveOneReading := by
  open Sys2Proof in
  exact ⟨fun _ _ hw h => decodeScalar_eq_some.1 ((decodeTableWord_scalar hw).symm.trans h), fun _ _ hw h => decodeLane_eq_some.1 ((decodeTableWord_lane hw).symm.trans h)⟩

/-- Settles O1: each word runs through the decoder. -/
theorem decodeWorkedWords : Obligations.DecodeWorkedWords := by
  unfold Obligations.DecodeWorkedWords
  decide

section
/-! SUPPORT. The frame of a lane instruction that leaves one result in flight (R42, R45, R85, R95, R140, R141). -/

namespace Sys2Proof.Machine

/-! ### The slots after an issue (R42, R85) -/

/-- Warp `u` is `w` but for its slots and its divergence stack. -/
def Warp.sameButSlots (w u : Warp) : Prop := u = { w with slotA := u.slotA, slotB := u.slotB, dstack := u.dstack }

theorem Warp.sameButSlots.trans {w u v : Warp} (h : w.sameButSlots u) (h' : u.sameButSlots v) : w.sameButSlots v := by
  unfold Warp.sameButSlots at *
  rw [h', h]

theorem Warp.sameButSlots_settle1 {w u : Warp} (h : w.settle1 = some u) : w.sameButSlots u := by
  unfold Warp.settle1 at h
  repeat' split at h
  all_goals cases h
  all_goals rfl

theorem Warp.sameButSlots_settleGo (n : Nat) (w : Warp) : w.sameButSlots (Warp.settleGo n w) := by
  induction n generalizing w with
  | zero => rfl
  | succ n ih =>
    rw [Warp.settleGo]
    split
    · exact (Warp.sameButSlots_settle1 ‹_›).trans (ih _)
    · rfl

theorem Warp.sameButSlots_settle (w : Warp) : w.sameButSlots w.settle :=
  Warp.sameButSlots.trans (u := { w with slotA := w.slotA.park, slotB := w.slotB.park }) rfl (Warp.sameButSlots_settleGo _ _)

/-- The issue of a lane instruction changes the slots, the stack and the marks of the issue. -/
theorem Warp.passLane_frame {w u : Warp} {st : Stream} {h : LaneHdr} {now : Nat} {pc : BitVec 20} (hu : w.passLane st h now pc = u) :
    u = { w with slotA := u.slotA, slotB := u.slotB, dstack := u.dstack, csr := bumpPerf w.csr 2, yielded := w.yielded || h.yld, turnB := decide (st = .slotA) } := by
  subst hu
  cases st <;> exact Warp.sameButSlots_settle _

/-! ### One result in flight -/

/-- What a lane instruction of warp `k` leaves that puts a result for the lanes `act` in flight: the result joins those of the warp, and no register, predicate, counter or flag has changed, no other warp and no byte of memory. -/
def State.onlyFlew (s t : State) (k : Nat) (w : Warp) (act : LaneMask) : Prop :=
  t = { s with warps := t.warps, nextId := t.nextId, free := t.free } ∧ (∀ c, Memory.read t.mem c = Memory.read s.mem c) ∧
  (∀ e, e ≠ k → Tbl.find t.warps e = Tbl.find s.warps e) ∧
  ∃ (v : Warp) (r : Result), Tbl.find t.warps k = some v ∧ v.flight = w.flight ++ [r] ∧ r.id = s.nextId ∧ r.lanes = act ∧
    v.rg = w.rg ∧ v.fflags = w.fflags ∧ v.sc = w.sc ∧ v.trap = w.trap ∧ v.x = w.x ∧ v.larg = w.larg ∧ v.rq = w.rq ∧ v.blocks = w.blocks ∧ v.handler = w.handler ∧ v.halt = w.halt

section
variable {s t : State} {k : Nat} {w : Warp} {st : Stream} {hd : LaneHdr} {r : Result} {n : Nat}

theorem State.flew_warps (hw : Tbl.find s.warps k = some w) :
    (s.flew k w st hd r n).warps = Tbl.put s.warps k (({ w with flight := w.flight ++ [{ r with id := s.nextId }] } : Warp).passLane st hd s.cyc ((w.slot st).pc + 1)) := by
  rw [State.flew, State.passed, State.onWarp_warps, State.drawn_warps, State.fly, State.bump_warps, State.onWarp_of_find hw, State.putWarp, Tbl.adjust_put]

theorem State.onlyFlew_flew (hw : Tbl.find s.warps k = some w) (hr : r.lanes = w.active st hd) : s.onlyFlew (s.flew k w st hd r n) k w (w.active st hd) := by
  obtain ⟨u, hu⟩ : ∃ u, Warp.passLane { w with flight := w.flight ++ [{ r with id := s.nextId }] } st hd s.cyc ((w.slot st).pc + 1) = u := ⟨_, rfl⟩
  have ht : (s.flew k w st hd r n).warps = Tbl.put s.warps k u := hu ▸ State.flew_warps hw
  refine ⟨rfl, fun _ => rfl, fun e he => ?_, u, { r with id := s.nextId }, ?_, ?_⟩
  · rw [ht, Tbl.find_put_other _ _ he]
  · rw [ht, Tbl.find_put_same]
  · rw [Warp.passLane_frame hu]
    exact ⟨rfl, rfl, hr, rfl, rfl, rfl, rfl, rfl, rfl, rfl, rfl, rfl, rfl⟩

theorem State.onlyFlew_of_next {o : Out} (hw : Tbl.find s.warps k = some w) (hr : r.lanes = w.active st hd) (ho : o = .next (s.flew k w st hd r n)) (ht : o = .next t) :
    s.onlyFlew t k w (w.active st hd) := by
  rw [ho] at ht
  cases ht
  exact State.onlyFlew_flew hw hr

end

end Sys2Proof.Machine
end

/-- Settles O59: every operation of the list leaves one result in flight (`State.onlyFlew_flew`), by the form it has: lane-wise, with a free value for each lane, a compare, or its own part. -/
theorem laneFrame : Obligations.LaneFrame := by
  open Sys2Proof Sys2Proof.Machine in
  intro s t k w st l h
  have flies {o : Out} {r : Result} {n : Nat} (hr : r.lanes = w.active st l.hdr) (ho : o = .next (s.flew k w st l.hdr r n)) :
      o = .next t → s.onlyFlew t k w (w.active st l.hdr) := State.onlyFlew_of_next h.1.2 hr ho
  have wise {P : Prop} {f : LaneSrc → W32 × Flags} (_ : P) : laneWise s l false f = .next t → s.onlyFlew t k w (w.active st l.hdr) := flies rfl (laneWise_ready h f)
  have draws {P : Prop} {f : LaneSrc → W32 × Flags} (_ : P) : laneWise s l true f = .next t → s.onlyFlew t k w (w.active st l.hdr) := flies rfl (laneWise_draws h f)
  have compare {P : Prop} {p : W32 → W32 → Bool} {f : LaneSrc → W32 × Flags} (hp : P) : laneCompare s l p f = .next t → s.onlyFlew t k w (w.active st l.hdr) := by
    rw [laneCompare]
    split
    · exact flies rfl (laneIssue_flies h rfl)
    · exact wise hp
  simp only [List.forall_mem_cons]
  exact ⟨wise, wise, wise, wise, wise, wise, wise, wise, compare (p := fun a b => icmpElem l.ty l.low a.toNat b.toNat) (f := laneIcmp l), wise, wise, wise, wise, wise, wise,
    wise, wise, wise, wise, wise, wise, wise, wise, wise, wise, wise, compare (p := fun a b => fCmp l.ty l.low (fel l.ty a 0) (fel l.ty b 0)) (f := laneFcmp l), wise, wise,
    draws, draws, draws, draws, draws, draws, draws, draws, wise, wise, wise, wise,
    fun _ => flies rfl (execBfpq_block h), wise, fun _ => flies rfl (execPlop_predicate h),
    fun hn => flies rfl (execSprd_word h ((not_and_or.1 fun ⟨hl, hf⟩ => hn ⟨trivial, hl, hf⟩).imp_right Bool.eq_false_iff.2)), fun _ hx => absurd hx List.not_mem_nil⟩

section
/-! SUPPORT. Lane integer arithmetic: words packed without flags, and the immediate forms as operations on the whole word (R89, R143 to R146). -/

namespace Sys2Proof.Machine

theorem elemWidth_pos (t : Nat) : 0 < elemWidth t := by
  unfold elemWidth
  split
  · decide
  · split <;> decide

/-- Elements without flags raise none. -/
theorem plain_packPlain (n : Nat) (f : Nat → Nat) : plain (packPlain n f) = packElems n fun e => (f e, 0) := by
  refine Prod.ext rfl ?_
  rw [packElems_snd]
  simp [plain]

/-! ### The whole word as one element -/

theorem packPlain_word (f : Nat → Nat) : packPlain 32 f = BitVec.ofNat 32 (f 0) := by
  refine BitVec.eq_of_toNat_eq ?_
  simp [packPlain, packElems_fst, packUpTo]

theorem sextN_word (a : W32) : sextN 32 a.toNat = a.toInt := by
  have := a.isLt
  rw [sextN, BitVec.toInt_eq_toNat_cond]
  simp only [beq_iff_eq]
  split <;> split <;> omega

theorem ofNat_wrapN (v : Int) : BitVec.ofNat 32 (wrapN 32 v) = BitVec.ofInt 32 v := by
  refine BitVec.eq_of_toNat_eq ?_
  rw [BitVec.toNat_ofNat, BitVec.toNat_ofInt, wrapN]
  omega

theorem intOp2_i32 (f : Int → Int → Int) (a b : W32) : intOp2 7 false f a b = BitVec.ofInt 32 (f a.toInt b.toInt) := by
  rw [intOp2, show elemWidth 7 = 32 from rfl, packPlain_word, elem_word, elem_word]
  exact (ofNat_wrapN _).trans (by rw [← sextN_word, ← sextN_word]; rfl)

section
variable (a b : W32)

theorem intOp2_add : intOp2 7 false (· + ·) a b = a + b := by
  rw [intOp2_i32, BitVec.ofInt_add, BitVec.ofInt_toInt, BitVec.ofInt_toInt]

theorem intOp2_mul : intOp2 7 false (· * ·) a b = a * b := by
  rw [intOp2_i32, BitVec.ofInt_mul, BitVec.ofInt_toInt, BitVec.ofInt_toInt]

theorem intOp2_min : intOp2 7 false min a b = if a.toInt ≤ b.toInt then a else b := by
  rw [intOp2_i32, min_def, apply_ite (BitVec.ofInt 32), BitVec.ofInt_toInt, BitVec.ofInt_toInt]

theorem intOp2_max : intOp2 7 false max a b = if a.toInt ≤ b.toInt then b else a := by
  rw [intOp2_i32, max_def, apply_ite (BitVec.ofInt 32), BitVec.ofInt_toInt, BitVec.ofInt_toInt]

theorem shlW_word : shlW 10 a b = if b.toNat < 32 then a <<< b.toNat else 0 := by
  rw [shlW, show elemWidth 10 = 32 from rfl, packPlain_word, elem_word, elem_word]
  refine (apply_ite (BitVec.ofNat 32) ..).trans (ite_congr rfl (fun _ => BitVec.eq_of_toNat_eq ?_) fun _ => rfl)
  rw [BitVec.toNat_ofNat, BitVec.toNat_shiftLeft, Nat.shiftLeft_eq]

theorem shrW_word : shrW 10 a b = if b.toNat < 32 then a >>> b.toNat else 0 := by
  rw [shrW, show elemWidth 10 = 32 from rfl, packPlain_word, elem_word, elem_word]
  refine (apply_ite (BitVec.ofNat 32) ..).trans (ite_congr rfl (fun _ => BitVec.eq_of_toNat_eq ?_) fun _ => rfl)
  rw [BitVec.toNat_ofNat, BitVec.toNat_ushiftRight, Nat.shiftRight_eq_div_pow, Nat.mod_eq_of_lt ((Nat.div_le_self ..).trans_lt a.isLt)]

/-- Past the width, an arithmetic shift leaves the sign in every bit. -/
theorem sshiftRight_of_le {c : Nat} (hc : 32 ≤ c) : a.sshiftRight c = if a.msb then BitVec.allOnes 32 else 0 := by
  cases hm : a.msb with
  | false => rw [BitVec.sshiftRight_eq_of_msb_false hm, BitVec.ushiftRight_eq_zero hc]; rfl
  | true => rw [BitVec.sshiftRight_eq_of_msb_true hm, BitVec.ushiftRight_eq_zero hc]; rfl

theorem sraW_word : sraW 10 a b = a.sshiftRight b.toNat := by
  rw [sraW, show elemWidth 10 = 32 from rfl, packPlain_word, elem_word, elem_word, sextN_word]
  dsimp only
  by_cases hb : b.toNat < 32
  · rw [if_pos hb, ofNat_wrapN, BitVec.sshiftRight_eq, Int.shiftRight_eq_div_pow]
    rfl
  · have hm : (a.toNat / 2 ^ (32 - 1) % 2 == 1) = a.msb := by
      have := a.isLt
      rw [BitVec.msb_eq_decide, Bool.eq_iff_iff, beq_iff_eq, decide_eq_true_eq]
      omega
    rw [if_neg hb, sshiftRight_of_le a (by omega), hm]
    split <;> rfl

end

/-! ### Results in flight -/

section
variable {s : State} {k : Nat} {w : Warp} {st : Stream} {l : LaneReg} {m : LaneImm}

/-- A packed word without flags in flight is its elements. -/
theorem leavesElements_of_packPlain {i : Instr} {h : LaneHdr} {d : Opnd} {t : Nat} {f : Fin 32 → Nat → Nat}
    (hx : exec i s = .next (s.flew k w st h (laneResult s w st (w.active st h) d fun j => plain (packPlain (elemWidth t) (f j))) 0)) :
    leavesElements s k w st i h d (elemWidth t) fun j e => (f j e, 0) := by
  simp only [plain_packPlain] at hx
  exact leavesElements_of_packElems (elemWidth_pos t) hx

theorem natAbs_eq_ite (v : Int) : (v.natAbs : Int) = if v < 0 then -v else v := by
  split <;> omega

/-- `ICMP` into a predicate compares the lanes (R144). -/
theorem execIcmp_predicate (h : s.laneReady k w st l.hdr (LaneReg.uses1 l)) (hd : l.d.isP = true) :
    execIcmp l s = .next (s.flew k w st l.hdr
      (predResult s st (w.active st l.hdr) l.d fun j => icmpElem l.ty l.low (s.rd k w st l.a 0)[j].toNat (s.rd k w st l.b 0)[j].toNat) 0) :=
  (if_pos hd).trans (laneIssue_flies h rfl)

theorem execIcmp_word (hd : l.d.isP = false) : execIcmp l s = laneWise s l false (laneIcmp l) := if_neg (by simp [hd])

/-- An immediate form whose function on one lane has no flags. -/
theorem leavesWord_imm {i : Instr} (f : LaneSrc → W32 × Flags) (g : W32 → W32) (h : s.laneReady k w st m.hdr (LaneImm.uses m)) (hi : exec i s = laneWiseImm s m f)
    (hf : ∀ a, f ⟨a, m.imm, 0, 0, 0⟩ = plain (g a)) : leavesWord s k w st i m.hdr m.d fun j => g (s.rd k w st m.a 0)[j] := by
  refine (hi.trans (laneWiseImm_ready h f)).trans ?_
  simp only [hf]
  rfl

end

end Sys2Proof.Machine
end

/-- The register forms pack their elements; `ICMP` by its destination. -/
theorem laneIntegerResults : claimLaneIntegerResults := by
  open Sys2Proof.Machine in
  intro s k w st l h
  have packed {i : Sys2Proof.Instr} {f : Fin 32 → Nat → Nat} := leavesElements_of_packPlain (s := s) (k := k) (w := w) (st := st) (i := i) (h := l.hdr) (d := l.d) (t := l.ty) (f := f)
  refine ⟨packed (laneWise_ready h (laneIadd l)), packed (laneWise_ready h (laneIsub l)), packed (laneWise_ready h (laneImul l)), packed (laneWise_ready h (laneImad l)),
    packed (laneWise_ready h (laneImulh l)), packed (laneWise_ready h (laneImin l)), packed (laneWise_ready h (laneImax l)), ?_,
    fun hd => packed ((execIcmp_word hd).trans (laneWise_ready h (laneIcmp l))), execIcmp_predicate h⟩
  simp only [← natAbs_eq_ite]
  exact packed (laneWise_ready h (laneIabs l))

/-- The immediate forms work on the whole word. -/
theorem laneImmediateResults : claimLaneImmediateResults := by
  open Sys2Proof.Machine in
  intro s k w st m h
  exact ⟨leavesWord_imm laneIaddImm (· + m.imm) h rfl fun a => congrArg plain (intOp2_add a m.imm),
    leavesWord_imm laneImulImm (· * m.imm) h rfl fun a => congrArg plain (intOp2_mul a m.imm),
    leavesWord_imm laneIminImm (fun a => if a.toInt ≤ m.imm.toInt then a else m.imm) h rfl fun a => congrArg plain (intOp2_min a m.imm),
    leavesWord_imm laneImaxImm (fun a => if a.toInt ≤ m.imm.toInt then m.imm else a) h rfl fun a => congrArg plain (intOp2_max a m.imm),
    leavesWord_imm laneLand (· &&& m.imm) h rfl fun _ => rfl, leavesWord_imm laneLor (· ||| m.imm) h rfl fun _ => rfl, leavesWord_imm laneLxor (· ^^^ m.imm) h rfl fun _ => rfl,
    leavesWord_imm (laneShl 10) (fun a => if m.imm.toNat < 32 then a <<< m.imm.toNat else 0) h rfl fun a => congrArg plain (shlW_word a m.imm),
    leavesWord_imm (laneShr 10) (fun a => if m.imm.toNat < 32 then a >>> m.imm.toNat else 0) h rfl fun a => congrArg plain (shrW_word a m.imm),
    leavesWord_imm (laneSra 10) (·.sshiftRight m.imm.toNat) h rfl fun a => congrArg plain (sraW_word a m.imm)⟩

/-- Settles O18: the register forms element by element, the immediate forms on the whole word. -/
theorem laneIntegers : Obligations.LaneIntegers := ⟨laneIntegerResults, laneImmediateResults⟩

section
/-! SUPPORT. The checks of a lane instruction before its own part, one lemma for each (R50, R94, R141, R203). -/

namespace Sys2Proof.Machine

/-- An operand names an empty register whose FE bit is `fe` (R50, R87). -/
def Use.namesEmpty (r : Regs) (fe : Bool) (u : Use) : Prop := u.fe = fe ∧ ∃ e ∈ u.entries r, r.isEmpty e = true

/-- A source names a poisoned register (R203). -/
def Use.readsPoison (r : Regs) (u : Use) : Prop := u.dst = false ∧ ∃ e ∈ u.entries r, r.isPoison e = true

section
variable {w : Warp} {us : List Use}

theorem all_inRange_eq_false_iff : us.all (Use.inRange w.rg) = false ↔ ∃ u ∈ us, u.inRange w.rg = false := by simp

theorem any_namesEmpty_iff : (us.any fun u => u.fe && (u.entries w.rg).any w.rg.isEmpty) = true ↔ ∃ u ∈ us, u.namesEmpty w.rg true := by simp [Use.namesEmpty]

theorem Warp.laneWaits_iff : w.laneWaits us = true ↔ ∃ u ∈ us, u.namesEmpty w.rg false := by simp [Warp.laneWaits, Use.namesEmpty]

theorem any_readsPoison_iff : (us.any fun u => !u.dst && (u.entries w.rg).any w.rg.isPoison) = true ↔ ∃ u ∈ us, u.readsPoison w.rg := by simp [Use.readsPoison]

end

section
variable {s : State} {k : Nat} {w : Warp} {st : Stream} {hd : LaneHdr} {us : List Use} {f : Nat → Warp → Stream → Slot → LaneMask → LOut} (h : s.issues k w st)
include h

theorem laneIssue_held (hl : w.interlocked st (w.slot st).mask hd us = true) : laneIssue s hd us f = .next s := by
  simp [laneIssue, State.issuer_of_issues h, hl]

variable (hl : ¬ w.interlocked st (w.slot st).mask hd us = true)
include hl

theorem laneIssue_outOfRange (hr : ∃ u ∈ us, u.inRange w.rg = false) : laneIssue s hd us f = .next (s.raiseLane k w st cREGRANGE (w.active st hd).toNat) :=
  laneIssue_regrange h (Bool.eq_false_iff.2 hl) (all_inRange_eq_false_iff.2 hr)

variable (hr : ¬ ∃ u ∈ us, u.inRange w.rg = false)
include hr

theorem laneIssue_emptyreg (he : ∃ u ∈ us, u.namesEmpty w.rg true) : laneIssue s hd us f = .next (s.raiseLane k w st cEMPTYREG (w.active st hd).toNat) := by
  simp only [← all_inRange_eq_false_iff, ← any_namesEmpty_iff] at hr he
  simp [laneIssue, State.issuer_of_issues h, hl, hr, he, Warp.active]

variable (he : ¬ ∃ u ∈ us, u.namesEmpty w.rg true)
include he

theorem laneIssue_waits (hw : ∃ u ∈ us, u.namesEmpty w.rg false) : laneIssue s hd us f = .next s := by
  simp only [← all_inRange_eq_false_iff, ← any_namesEmpty_iff, ← Warp.laneWaits_iff] at hr he hw
  simp [laneIssue, State.issuer_of_issues h, hl, hr, he, hw]

theorem laneIssue_memerr (hw : ¬ ∃ u ∈ us, u.namesEmpty w.rg false) (hp : ∃ u ∈ us, u.readsPoison w.rg) :
    laneIssue s hd us f = .next (s.raiseLane k w st cMEMERR (w.active st hd).toNat) := by
  simp only [← all_inRange_eq_false_iff, ← any_namesEmpty_iff, ← Warp.laneWaits_iff, ← any_readsPoison_iff] at hr he hw hp
  simp [laneIssue, State.issuer_of_issues h, hl, hr, he, hw, hp, Warp.active]

end

end Sys2Proof.Machine
end

/-- Settles O25: one lemma for each check, under the failure of those before it. -/
theorem laneChecksInOrder : Obligations.LaneChecksInOrder := by
  open Sys2Proof.Machine in
  intro s k w st h us f hi
  exact ⟨laneIssue_held hi, laneIssue_outOfRange hi, laneIssue_emptyreg hi, laneIssue_waits hi, laneIssue_memerr hi⟩

section
/-! SUPPORT. The fetch of an instruction placed by `State.withFetchWord`: its bytes are read back from the loaded page (R5, R75, log 3). -/

namespace Sys2Proof.Machine

/-! ### The instruction at a place inside its section (R75, R76) -/

section
variable {s : State} {k : Nat} {w : Warp} {st : Stream}

theorem State.instrAt_scalar (hp : (s.wg (wgOf k)).inScalar w.sc.pc = true) : s.instrAt k w .scalar = decodeScalarBytes (s.scalarBytes (s.wg (wgOf k)) w) := if_pos hp

theorem State.instrAt_lane (hs : st ≠ .scalar) (hp : (s.wg (wgOf k)).inLane (w.slot st).pc.toNat = true) :
    s.instrAt k w st = decodeLaneBytes (s.laneBytes (s.wg (wgOf k)) (w.slot st).pc.toNat) := by
  cases st with
  | scalar => exact absurd rfl hs
  | slotA | slotB => exact if_pos hp

end

/-! ### Bytes written one after the other -/

theorem Memory.read_writeL_below (m : Memory) {a c : Nat} (bs : List Byte) (h : c < a) : Memory.read (Memory.writeL m a bs) c = Memory.read m c := by
  induction bs generalizing m a with
  | nil => rfl
  | cons b r ih => rw [Memory.writeL, ih _ (by omega), Memory.read_write, if_neg (by omega)]

/-- What was written is read back. -/
theorem Memory.readL_writeL (m : Memory) (a : Nat) {bs : List Byte} {n : Nat} (hn : bs.length = n) : Memory.readL (Memory.writeL m a bs) a n = bs := by
  subst hn
  induction bs generalizing m a with
  | nil => rfl
  | cons b r ih => rw [List.length_cons, Memory.readL, Memory.writeL, Memory.read_writeL_below _ _ (Nat.lt_succ_self a), Memory.read_write, if_pos rfl, ih]

theorem leBytes_length (n w : Nat) : (leBytes n w).length = n := by
  induction n generalizing w with
  | zero => rfl
  | succ n ih => rw [leBytes, List.length_cons, ih]

/-- Bytes fetched from memory as it stands. -/
theorem State.vbytes_eq_readL {s : State} {fn space va : Nat} (n : Nat) (h : ∀ c, va ≤ c → c < va + n → s.vbyte fn space c = Memory.read s.mem c) :
    s.vbytes fn space va n = Memory.readL s.mem va n := by
  induction n generalizing va with
  | zero => rfl
  | succ n ih => rw [State.vbytes, Memory.readL, h va (Nat.le_refl va) (by omega), ih fun c hl hu => h c (by omega) (by omega)]

/-! ### The loaded page -/

section
variable (nbits w : Nat)

theorem State.wg_withFetchWord : (State.reset.withFetchWord nbits w).wg (wgOf 0) = loadedWg 0 1 := rfl

theorem State.vbyte_withFetchWord {c : Nat} (hc : c < 65536) :
    (State.reset.withFetchWord nbits w).vbyte 0 0 c = Memory.read (State.reset.withFetchWord nbits w).mem c := by
  have hp : (State.reset.withFetchWord nbits w).phys 0 0 c = some c := by
    simp [State.phys, State.page, State.withFetchWord, loadedPage, pageCovers, pageBytes, pagePhys, homeBase, homeCode, hc]
  have ho : homeOf c = 0 := Nat.div_eq_of_lt (by omega)
  have hr : isRemote c = false := by simp [isRemote, ho]
  have hs : (State.reset.withFetchWord nbits w).stale c = false := by
    have hl : (State.reset.withFetchWord nbits w).lines = [] := rfl
    have hf : (State.reset.withFetchWord nbits w).frames = [] := rfl
    simp [State.stale, State.line, State.frame, hl, hf, Tbl.getD, Tbl.find, HomeLine.blank, Frame.blank]
  simp [State.vbyte, hp, hr, State.homeByte, hs]

/-- The fetch reads the bytes that were placed. -/
theorem State.vbytes_withFetchWord :
    (State.reset.withFetchWord nbits w).vbytes 0 0 0 (if decide (32 < nbits) then 12 else 4) = leBytes (if decide (32 < nbits) then 12 else 4) w := by
  have hm : (State.reset.withFetchWord nbits w).mem = Memory.writeL [] 0 (leBytes (if decide (32 < nbits) then 12 else 4) w) := rfl
  have hn : (if decide (32 < nbits) then 12 else 4) < 65536 := by split <;> decide
  rw [State.vbytes_eq_readL _ fun c _ hc => State.vbyte_withFetchWord nbits w (by omega), hm]
  exact Memory.readL_writeL [] 0 (leBytes_length _ w)

end

end Sys2Proof.Machine
end

/-- Settles O54: the bytes read at the place of the stream are those placed (`State.vbytes_withFetchWord`). -/
theorem fetchReadsTheWord : Obligations.FetchReadsTheWord := by
  open Sys2Proof Sys2Proof.Machine in
  intro w
  refine ⟨fun _ => ?_, fun _ => ?_⟩
  · rw [State.instrAt_scalar (by rw [State.wg_withFetchWord]; decide)]
    exact congrArg decodeScalarBytes (State.vbytes_withFetchWord 32 w)
  · rw [State.instrAt_lane (by decide) (by rw [State.wg_withFetchWord]; decide)]
    exact congrArg decodeLaneBytes (State.vbytes_withFetchWord 96 w)

section
/-! SUPPORT. A state against the reading of the guard in `Obligations.UndecodedWordsAreIllegal` (R94, R95). -/

namespace Sys2Proof.Machine

/-- A loaded warp whose slot A is to issue, every bit of its predicate file zero, P[0] among them. -/
def zeroPredWarp : Warp :=
  let w := loadedWarp (loadedWg 0 1) true
  { w with rg := { w.rg with p := Vector.replicate 16 0 } }

/-- That warp alone on a device whose code page holds zeros, so that it stands at the lane value 0, which decodes to nothing and whose guards are P[0]. -/
def zeroPredState : State :=
  { State.reset with
    warps := [(0, zeroPredWarp)]
    wgs := [(0, loadedWg 0 1)]
    pages := [loadedPage]
    boot := { Boot.reset with stage := 6 } }

/-- `TRAPCAUSE` of warp 0 after a step, with INFO in its upper half (R320). -/
def causeAfter : Out → Option W64
  | .next t => (Tbl.find t.warps 0).map fun w => w.trap.cause
  | _ => none

/-- The trap names every lane, for P[0] reads as all ones whatever the file holds (R95). -/
theorem causeAfter_zeroPred : causeAfter (zeroPredState.issueOne 0 .slotA) = some (causeWord 0xFFFFFFFF 1 false cILLOP) := by decide +kernel

end Sys2Proof.Machine
end

/-- Refutes O15: its lane clauses take the bit of a guard predicate from the predicate file, where the machine reads P[0] as all ones (`Regs.pr`). In a state whose file holds 0 at P[0], which neither the placement of a warp nor a write of a predicate makes, they name no lane where the trap names all 32. -/
theorem not_undecodedWordsAreIllegal : ¬ Obligations.UndecodedWordsAreIllegal := by
  open Sys2Proof.Machine in
  intro h
  obtain ⟨-, -, hl, -⟩ := h zeroPredState 0 zeroPredWarp .slotA rfl
  have hc := causeAfter_zeroPred
  rw [hl (by decide) (by decide +kernel) (by decide +kernel)] at hc
  exact absurd hc (by decide +kernel)

section
/-! SUPPORT. Scalar arithmetic: what the machine computes for each operation, in the words of R116 and R117. -/

namespace Sys2Proof.Machine

/-! ### Comparisons, minimum and maximum, shifts (R80, R116) -/

section
variable (a b : W64)

/-- A register shift counts by bits [5:0]. -/
theorem shiftCount_eq : shiftCount b = (b &&& 63#64).toNat := by
  rw [BitVec.toNat_and]
  exact (Nat.and_two_pow_sub_one_eq_mod b.toNat 6).symm

theorem smin64_eq : smin64 a b = if a.toInt ≤ b.toInt then a else b := by simp only [smin64, BitVec.sle_iff_toInt_le]
theorem smax64_eq : smax64 a b = if a.toInt ≤ b.toInt then b else a := by simp only [smax64, BitVec.sle_iff_toInt_le]
theorem umin64_eq : umin64 a b = if a.toNat ≤ b.toNat then a else b := by simp only [umin64, BitVec.ule_iff_toNat_le]
theorem umax64_eq : umax64 a b = if a.toNat ≤ b.toNat then b else a := by simp only [umax64, BitVec.ule_iff_toNat_le]

theorem boolWord_eq : boolWord (SCond.holds .eq a b) = if a = b then 1 else 0 := by simp only [boolWord, SCond.holds, beq_iff_eq]
theorem boolWord_ne : boolWord (SCond.holds .ne a b) = if a = b then 0 else 1 := by simp only [boolWord, SCond.holds, bne_iff_ne, ite_not]
theorem boolWord_lt : boolWord (SCond.holds .lt a b) = if a.toInt < b.toInt then 1 else 0 := by simp only [boolWord, SCond.holds, BitVec.slt_iff_toInt_lt]
theorem boolWord_ge : boolWord (SCond.holds .ge a b) = if a.toInt < b.toInt then 0 else 1 := by
  simp only [boolWord, SCond.holds, BitVec.sle_iff_toInt_le, ← Int.not_lt, ite_not]
theorem boolWord_ltu : boolWord (SCond.holds .ltu a b) = if a.toNat < b.toNat then 1 else 0 := by simp only [boolWord, SCond.holds, BitVec.ult_iff_toNat_lt]
theorem boolWord_geu : boolWord (SCond.holds .geu a b) = if a.toNat < b.toNat then 0 else 1 := by
  simp only [boolWord, SCond.holds, BitVec.ule_iff_toNat_le, ← Nat.not_lt, ite_not]

end

/-! ### The high half of a product (R116) -/

/-- Bits [127:64] of an exact value are its quotient by 2^64. -/
theorem extractHigh_ofInt (x : Int) : (BitVec.ofInt 128 x).extractLsb' 64 64 = BitVec.ofInt 64 (x / 2 ^ 64) := by
  refine BitVec.eq_of_toNat_eq ?_
  rw [BitVec.extractLsb'_toNat, BitVec.toNat_ofInt, BitVec.toNat_ofInt, Nat.shiftRight_eq_div_pow]
  omega

theorem mulHigh_signed (a b : W64) : mulHigh true a b = (a.signExtend 128 * b.signExtend 128).extractLsb' 64 64 := by
  rw [BitVec.signExtend, BitVec.signExtend, ← BitVec.ofInt_mul, extractHigh_ofInt]
  rfl

theorem mulHigh_unsigned (a b : W64) : mulHigh false a b = (a.setWidth 128 * b.setWidth 128).extractLsb' 64 64 := by
  have widened (c : W64) : c.setWidth 128 = BitVec.ofInt 128 c.toNat := by
    rw [BitVec.ofInt_natCast, BitVec.ofNat_toNat]
  rw [widened, widened, ← BitVec.ofInt_mul, extractHigh_ofInt]
  rfl

/-! ### Quotients and remainders (R117) -/

/-- The wrapped exact quotient is the truncated one of the words. -/
theorem ofInt_tdiv (a b : W64) : BitVec.ofInt 64 (a.toInt.tdiv b.toInt) = a.sdiv b :=
  BitVec.eq_of_toInt_eq (by rw [BitVec.toInt_ofInt, BitVec.toInt_sdiv])

/-- Quotient and remainder make up the dividend, the wrapped quotient of the most negative word by −1 included. -/
theorem mul_sdiv_add_srem (a b : W64) : a = b * a.sdiv b + a.srem b := by
  rw [← BitVec.ofInt_toInt (x := a.srem b), BitVec.toInt_srem, ← ofInt_tdiv]
  conv => rhs; lhs; lhs; rw [← BitVec.ofInt_toInt (x := b)]
  rw [← BitVec.ofInt_mul, ← BitVec.ofInt_add, Int.mul_tdiv_add_tmod, BitVec.ofInt_toInt]

theorem mul_udiv_add_umod (a b : W64) : a = b * a.udiv b + a.umod b := by
  refine BitVec.eq_of_toNat_eq ?_
  rw [BitVec.udiv_eq, BitVec.umod_eq, BitVec.toNat_add, BitVec.toNat_mul, BitVec.toNat_udiv, BitVec.toNat_umod, Nat.mod_add_mod, Nat.div_add_mod,
    Nat.mod_eq_of_lt a.isLt]

theorem neg_one_word : (-1 : W64) = BitVec.allOnes 64 := BitVec.neg_one_eq_allOnes

section
variable (a b : W64)

theorem sdiv64_eq : sdiv64 a b = if b = 0 then BitVec.allOnes 64 else a.sdiv b := by
  rw [sdiv64, ofInt_tdiv, neg_one_word]

theorem srem64_eq : srem64 a b = if b = 0 then a else a.srem b := by
  rw [srem64, sdiv64_eq]
  split
  · rfl
  · exact sub_eq_of_eq_add' (mul_sdiv_add_srem a b)

theorem udiv64_eq : udiv64 a b = if b = 0 then BitVec.allOnes 64 else a.udiv b := by
  rw [udiv64, neg_one_word, BitVec.udiv_eq, ← BitVec.toNat_udiv, BitVec.ofNat_toNat, BitVec.setWidth_eq]

theorem urem64_eq : urem64 a b = if b = 0 then a else a.umod b := by
  rw [urem64, udiv64_eq]
  split
  · rfl
  · exact sub_eq_of_eq_add' (mul_udiv_add_umod a b)

end

/-! ### Which registers an instruction needs (R114) -/

theorem Scalar.ready_of_subset {c : Scalar} {us vs : List SReg} (h : c.ready us = true) (hv : vs ⊆ us) : c.ready vs = true :=
  List.all_eq_true.2 fun r hr => List.all_eq_true.1 h r (hv hr)

/-- Where an instruction can run, so can one that names fewer registers. -/
theorem State.scalarReady.of_subset {s : State} {k : Nat} {w : Warp} {us vs : List SReg} (h : s.scalarReady k w us) (hv : vs ⊆ us) : s.scalarReady k w vs := by
  obtain ⟨hi, hr, hp⟩ := h
  exact ⟨hi, Scalar.ready_of_subset hr hv, hp⟩

end Sys2Proof.Machine
end

/-- R116 on two registers: each operation is the scalar form with one destination, its value in the words of the table. -/
theorem scalarRegisterResults : claimScalarRegisterResults := by
  open Sys2Proof Sys2Proof.Machine in
  intro s k w d a b h A B n gives
  have alu {f : Warp → W64} {v : W64} (hv : f w = v) : scalarAlu s [d, a, b] d f = .next (s.fellThrough k (w.writeS d v)) := hv ▸ scalarAlu_ready h
  exact ⟨alu rfl, alu rfl, alu rfl, alu rfl, alu rfl, alu (congrArg (A <<< ·) (shiftCount_eq B)), alu (congrArg (A >>> ·) (shiftCount_eq B)),
    alu (congrArg A.sshiftRight (shiftCount_eq B)), alu (smin64_eq A B), alu (smax64_eq A B), alu (umin64_eq A B), alu (umax64_eq A B),
    alu (boolWord_eq A B), alu (boolWord_ne A B), alu (boolWord_lt A B), alu (boolWord_ge A B), alu (boolWord_ltu A B), alu (boolWord_geu A B)⟩

/-- R116 and R118 on a register and an immediate: the same with the extended immediate as second operand. -/
theorem scalarImmediateResults : claimScalarImmediateResults := by
  open Sys2Proof Sys2Proof.Machine in
  intro s k w d a i j n u h A B C gives
  have alu {f : Warp → W64} {v : W64} (hv : f w = v) : scalarAlu s [d, a] d f = .next (s.fellThrough k (w.writeS d v)) := hv ▸ scalarAlu_ready h
  exact ⟨alu rfl, alu rfl, alu rfl, alu rfl, alu (smin64_eq A B), alu (smax64_eq A B), alu rfl, alu rfl, alu rfl,
    alu (boolWord_eq A C), alu (boolWord_ne A C), alu (boolWord_lt A C), alu (boolWord_ge A C), alu (boolWord_ltu A C), alu (boolWord_geu A C),
    scalarAlu_ready (h.of_subset (by simp))⟩

/-- Settles O5: the two-register and the immediate operations, value by value. -/
theorem scalarResults : Obligations.ScalarResults := ⟨scalarRegisterResults, scalarImmediateResults⟩

/-- Settles O6: each operation is the scalar form whose result is in flight, with the product, quotient or remainder of `mulHigh_signed` to `urem64_eq`; the overflowing quotient is the most negative word, its remainder 0. -/
theorem scalarLongResults : Obligations.ScalarLongResults := by
  open Sys2Proof Sys2Proof.Machine in
  intro s k w d a b i h A B gives
  have long {f : Warp → W64} {v : W64} (hv : f w = v) : scalarLong s [d, a, b] d f = .next (s.fellThrough k (w.longS d v)) := hv ▸ scalarLong_ready h
  refine ⟨long rfl, scalarLong_ready (h.of_subset (by simp)), long (mulHigh_signed A B), long (mulHigh_unsigned A B), long (sdiv64_eq A B), long (srem64_eq A B),
    long (udiv64_eq A B), long (urem64_eq A B), fun hA hB => ⟨long ?_, long ?_⟩⟩
  · exact (congrArg₂ sdiv64 hA hB).trans (by decide)
  · exact (congrArg₂ srem64 hA hB).trans (by decide)

section
/-! SUPPORT. Scalar control: where branches and jumps go, the word of a branch, and the hardware loops (R76, R80, R121 to R124). -/

namespace Sys2Proof.Machine

/-! ### A jump and its target (R76, R121) -/

theorem shiftLeft_two (x : W64) : x <<< 2 = 4#64 * x := by
  rw [BitVec.shiftLeft_eq_mul_twoPow, BitVec.mul_comm]
  rfl

theorem wordOff_eq {n : Nat} (pc : W64) (off : BitVec n) : wordOff pc off = pc + 4#64 * off.signExtend 64 := by rw [wordOff, shiftLeft_two]

section
variable {s t : State} {k : Nat} {w u : Warp} {us : List SReg} {f : Nat → Warp → SOut} {pc : W64} {st : Stream}

/-- The answer `o` is that warp `k`, now `u`, goes on at `target`, or, where that lies outside the scalar section, `FETCHF` at the instruction of `w`. -/
def State.goes (s : State) (k : Nat) (w : Warp) (o : Out) (u : Warp) (target : W64) : Prop :=
  ((s.wg (wgOf k)).inScalar target = true → o = .next (s.jumped k u target)) ∧ ((s.wg (wgOf k)).inScalar target = false → o = .next (s.raiseScalar k w cFETCHF 0))

theorem scalarIssue_goes (h : s.issues k w st) (hr : w.sc.ready us = true) (hf : f k w = .jump t pc) (ht : t.onWarp k (·.jumpS pc) = s.jumped k u pc) :
    s.goes k w (scalarIssue s us f) u pc := by
  refine ⟨fun hp => ?_, fun hp => ?_⟩
  · rw [scalarIssue_jump h hr hf hp, ht]
  · simp [scalarIssue, State.issuer_of_issues h, hr, hf, hp]

/-- A jump that changes the warp. -/
theorem scalarIssue_goes_warp (h : s.issues k w st) (hr : w.sc.ready us = true) (hf : f k w = .jump (s.putWarp k u) pc) : s.goes k w (scalarIssue s us f) u pc :=
  scalarIssue_goes h hr hf (State.onWarp_putWarp ..)

/-- A jump that changes nothing else. -/
theorem scalarIssue_goes_self (h : s.issues k w st) (hr : w.sc.ready us = true) (hf : f k w = .jump s pc) : s.goes k w (scalarIssue s us f) w pc :=
  scalarIssue_goes h hr hf (State.onWarp_of_find h.2 _)

/-- A branch that is not taken falls through. -/
theorem scalarIssue_done_self (h : s.scalarReady k w us) (hf : f k w = .done s) : scalarIssue s us f = .next (s.fellThrough k w) := by
  rw [scalarIssue_done h hf, State.onWarp_of_find h.1.2, State.fellThrough]

end

section
variable {s : State} {k : Nat} {w : Warp} {cc : SCond} {d a b : SReg}

theorem execSbr_taken (h : s.issues k w .scalar) (hr : w.sc.ready [a, b] = true) (hc : SCond.holds cc (w.sr a) (w.sr b) = true) (off : BitVec 11) :
    s.goes k w (execSbr cc a b off s) w (w.sc.pc + 4#64 * off.signExtend 64) := scalarIssue_goes_self h hr (by rw [← wordOff_eq]; exact if_pos hc)

theorem execSbr_not_taken (h : s.scalarReady k w [a, b]) (hc : SCond.holds cc (w.sr a) (w.sr b) = false) (off : BitVec 11) :
    execSbr cc a b off s = .next (s.fellThrough k w) := scalarIssue_done_self h (by simp only [hc]; rfl)

theorem execSj_goes (h : s.issues k w .scalar) (off : BitVec 26) : s.goes k w (execSj off s) w (w.sc.pc + 4#64 * off.signExtend 64) :=
  scalarIssue_goes_self h rfl (by rw [wordOff_eq])

theorem execSjal_goes (h : s.issues k w .scalar) (hr : w.sc.ready [d] = true) (off : BitVec 20) :
    s.goes k w (execSjal d off s) (w.writeS d (w.sc.pc + 4)) (w.sc.pc + 4#64 * off.signExtend 64) := scalarIssue_goes_warp h hr (by rw [wordOff_eq])

theorem execSjr_goes (h : s.issues k w .scalar) (hr : w.sc.ready [d, a] = true) (imm : BitVec 14) :
    s.goes k w (execSjr d a imm s) (w.writeS d (w.sc.pc + 4)) (w.sr a + 4#64 * imm.signExtend 64) := scalarIssue_goes_warp h hr (by rw [wordOff_eq])

end

/-! ### The hardware loops (R122, R124) -/

/-- The place of the last instruction of the body of a `LOOP` at which `w` stands. -/
def Warp.loopEndPc (w : Warp) (off : BitVec 16) : W64 := w.sc.pc + 4#64 * off.setWidth 64

/-- The count of a `LOOP`: the whole of `sa`, or its low word. -/
def Warp.loopCount (w : Warp) (a : SReg) (c64 : Bool) : W64 := if c64 then w.sr a else (w.sr a &&& 0xFFFFFFFF#64)

/-- A body that ends at `e` ends inside the innermost loop. -/
def loopNests (ls : List LoopEnt) (e : W64) : Prop := ∀ t ∈ ls.head?, e.toNat ≤ t.endPc.toNat

theorem setWidth_lowWord (x : W64) : (x.setWidth 32).setWidth 64 = x &&& 0xFFFFFFFF#64 := by
  refine BitVec.eq_of_toNat_eq ?_
  rw [BitVec.toNat_setWidth, BitVec.toNat_setWidth, BitVec.toNat_and]
  exact (Nat.mod_eq_of_lt (by omega)).trans (Nat.and_two_pow_sub_one_eq_mod x.toNat 32).symm

section
variable {s : State} {k : Nat} {w : Warp} {a : SReg} {c64 : Bool} {off : BitVec 16}

theorem execLoop_skips (h : s.issues k w .scalar) (hh : w.handler = none) (hr : w.sc.ready [a] = true) (hc : w.loopCount a c64 = 0)
    (hp : (s.wg (wgOf k)).inScalar (w.loopEndPc off + 4) = true) : execLoop a c64 off s = .next (s.jumped k w (w.loopEndPc off + 4)) := by
  rw [execLoop, scalarUser_eq_scalarIssue h hh]
  refine (scalarIssue_goes_self h hr ?_).1 hp
  simp only [setWidth_lowWord, shiftLeft_two]
  exact if_pos hc

theorem execLoop_pushes (h : s.issues k w .scalar) (hh : w.handler = none) (hr : w.sc.ready [a] = true) (hc : w.loopCount a c64 ≠ 0)
    (hd : w.sc.loops.length ≠ 4) (hn : loopNests w.sc.loops (w.loopEndPc off)) (hp : (s.wg (wgOf k)).inScalar (w.sc.pc + 4) = true) :
    execLoop a c64 off s =
      .next (s.jumped k { w with sc := { w.sc with loops := ⟨w.sc.pc + 4, w.loopEndPc off, w.loopCount a c64⟩ :: w.sc.loops } } (w.sc.pc + 4)) := by
  rw [execLoop, scalarUser_eq_scalarIssue h hh]
  refine (scalarIssue_goes_warp h hr ?_).1 hp
  simp only [setWidth_lowWord, shiftLeft_two]
  refine (if_neg hc).trans ((if_neg hd).trans (if_neg ?_))
  split
  · simpa [loopNests, Warp.loopEndPc, BitVec.ult_eq_decide, *] using hn
  · decide

theorem execLoop_loopf (h : s.issues k w .scalar) (hh : w.handler = none) (hr : w.sc.ready [a] = true) (hc : w.loopCount a c64 ≠ 0)
    (hx : w.sc.loops.length = 4 ∨ ¬ loopNests w.sc.loops (w.loopEndPc off)) : execLoop a c64 off s = .next (s.raiseScalar k w cLOOPF 0) := by
  refine scalarUser_trap h hh hr ?_
  simp only [setWidth_lowWord, shiftLeft_two]
  refine (if_neg hc).trans ?_
  split
  · rfl
  · refine if_pos ?_
    have hn := hx.resolve_left ‹_›
    split
    · simpa [loopNests, Warp.loopEndPc, BitVec.ult_eq_decide, *] using hn
    · simp [loopNests, *] at hn

theorem execLbrk_pops {t : LoopEnt} {r : List LoopEnt} (h : s.issues k w .scalar) (hh : w.handler = none) (hl : w.sc.loops = t :: r)
    (hp : (s.wg (wgOf k)).inScalar (t.endPc + 4) = true) : execLbrk s = .next (s.jumped k { w with sc := { w.sc with loops := r } } (t.endPc + 4)) := by
  rw [execLbrk, scalarUser_eq_scalarIssue h hh]
  exact (scalarIssue_goes_warp h rfl (by rw [hl])).1 hp

theorem execLbrk_loopf (h : s.issues k w .scalar) (hh : w.handler = none) (hl : w.sc.loops = []) : execLbrk s = .next (s.raiseScalar k w cLOOPF 0) :=
  scalarUser_trap h hh rfl (by rw [hl])

end

/-! ### The end of a body (R123) -/

section
variable {pc : W64} {e : LoopEnt} {r : List LoopEnt}

theorem loopEnd_elsewhere (h : pc ≠ e.endPc) : loopEnd pc (e :: r) = (pc + 4, e :: r) := if_neg h

theorem loopEnd_repeats (h : pc = e.endPc) (hc : e.count ≠ 1) : loopEnd pc (e :: r) = (e.start, { e with count := e.count - 1 } :: r) := by
  rw [loopEnd, if_pos h]
  exact if_neg (sub_ne_zero.2 hc)

theorem loopEnd_exhausted (h : pc = e.endPc) (hc : e.count = 1) : loopEnd pc (e :: r) = loopEnd pc r := by
  rw [loopEnd, if_pos h]
  exact if_pos (sub_eq_zero.2 hc)

end

/-! ### A word that decodes to nothing (R94, R115) -/

theorem State.issueOne_scalar_illop {s : State} {k : Nat} {w : Warp} (hw : Tbl.find s.warps k = some w) (hp : (s.wg (wgOf k)).inScalar w.sc.pc = true)
    (hd : decodeScalar (leNat (s.scalarBytes (s.wg (wgOf k)) w)) = none) :
    s.issueOne k .scalar = .next (({ s with cur := some (k, .scalar) } : State).raiseScalar k w cILLOP 0) := by
  have hi : s.instrAt k w .scalar = none := (State.instrAt_scalar hp).trans hd
  have hc : (if ({ s with cur := some (k, .scalar) } : State).inSection k w .scalar then cILLOP else cFETCHF) = cILLOP := if_pos hp
  simp only [State.issueOne, hw, hi, State.illegal, hc]

end Sys2Proof.Machine

namespace Sys2Proof

/-! ### The word of a branch (R79, R80) -/

theorem SCond.ofCode_of_lt {n : Nat} (h : n < 6) : ∃ c, SCond.ofCode n = some c ∧ c.code = n :=
  (by decide : ∀ n : Fin 6, ∃ c, SCond.ofCode n.val = some c ∧ c.code = n.val) ⟨n, h⟩

theorem SCond.ofCode_of_le {n : Nat} (h : 6 ≤ n) : SCond.ofCode n = none := by
  obtain ⟨m, rfl⟩ := Nat.exists_eq_add_of_le' h
  rfl

theorem rawScalar_branch {x : Nat} (hm : x / 2 ^ 26 = 0x18) :
    rawScalar x = (SCond.ofCode (x / 2 ^ 23 % 8)).map fun c => .sbr c (fld x 17 6) (fld x 11 6) (fld x 0 11) := by
  rw [rawScalar, hm]
  rfl

theorem decodeTableWord_branch {x : Nat} (hx : x < 2 ^ 32) (hm : x / 2 ^ 26 = 0x18) (hc : x / 2 ^ 23 % 8 < 6) :
    ∃ c : SCond, decodeTableWord 32 x = some (.sbr c (BitVec.ofNat 6 (x / 2 ^ 17)) (BitVec.ofNat 6 (x / 2 ^ 11)) (BitVec.ofNat 11 x)) := by
  obtain ⟨c, -, hcode⟩ := SCond.ofCode_of_lt hc
  refine ⟨c, (decodeTableWord_scalar hx).trans (decodeScalar_eq_some.2 ⟨rfl, congrArg some ?_⟩)⟩
  simp only [BitVec.toNat_ofNat, hcode]
  omega

theorem decodeScalar_branch_reserved {x : Nat} (hm : x / 2 ^ 26 = 0x18) (hc : 6 ≤ x / 2 ^ 23 % 8) : decodeScalar x = none := by
  rw [decodeScalar, rawScalar_branch hm, SCond.ofCode_of_le hc]
  rfl

end Sys2Proof
end

/-- Settles O8: a branch taken, a jump and its link are a jump of the issue, which goes to its target or traps there; a branch word is read back from its fields, and a reserved condition decodes to nothing. -/
theorem scalarBranchesAndJumps : Obligations.ScalarBranchesAndJumps := by
  open Sys2Proof Sys2Proof.Machine in
  intro s k w cc d a b o11 o26 o20 i14 pc goes
  refine ⟨fun h hr hc => execSbr_taken h hr hc o11, fun h hc => execSbr_not_taken h hc o11, fun h => execSj_goes h o26, fun h hr => execSjal_goes h hr o20,
    fun h hr => execSjr_goes h hr i14, rfl, rfl, rfl, fun x hx hm => ⟨decodeTableWord_branch hx hm, fun hc => ?_⟩⟩
  have hd := decodeScalar_branch_reserved hm hc
  exact ⟨(decodeTableWord_scalar hx).trans hd, fun hw hp hb => State.issueOne_scalar_illop hw hp (hb ▸ hd)⟩

/-- R122 and R124: the lemmas of `LOOP` and `LBRK`, one for each case. -/
theorem hardwareLoops : claimHardwareLoops := by
  open Sys2Proof Sys2Proof.Machine in
  intro s k w a c64 off h hh pc e c inside nested
  exact ⟨execLoop_skips h hh, execLoop_pushes h hh, execLoop_loopf h hh, fun _ _ => execLbrk_pops h hh, execLbrk_loopf h hh, rfl, rfl⟩

/-- Settles O9: the loop instructions, and the cases of the check at a body's end. -/
theorem loopInstructions : Obligations.LoopInstructions := by
  open Sys2Proof.Machine in
  exact ⟨hardwareLoops, fun _ _ _ => ⟨rfl, loopEnd_elsewhere, loopEnd_repeats, loopEnd_exhausted⟩⟩

section
/-! SUPPORT. A trap from its entry to its return: the trapping warp, its workgroup and its siblings, what a handler may not issue, and `SERET` (R133, R319 to R325). -/

namespace Sys2Proof.Machine

/-! ### The trapping warp and its workgroup (R319, R320, R323, R324) -/

/-- A warp `w` that a trap has stopped, as its trap is handled: in its user handler, or left to firmware. -/
def Warp.taken (w : Warp) (code : Nat) : Warp := if w.handler.isNone && w.delegates code then w.enterHandler else w

theorem Warp.taken_user {w : Warp} {code : Nat} (hn : w.handler = none) (hd : w.delegates code = true) : w.taken code = w.enterHandler := if_pos (by simp [hn, hd])

theorem Warp.taken_firmware {w : Warp} {code : Nat} (hd : w.delegates code = false) : w.taken code = w := if_neg (by simp [hd])

theorem State.takeTrap_warps (s : State) (k : Nat) (w : Warp) (code : Nat) : (s.takeTrap k w code).warps = Tbl.put s.warps k (w.taken code) := by
  unfold State.takeTrap Warp.taken
  split <;> rfl

theorem State.find_takeTrap_same (s : State) (k : Nat) (w : Warp) (code : Nat) : Tbl.find (s.takeTrap k w code).warps k = some (w.taken code) := by
  rw [State.takeTrap_warps, Tbl.find_put_same]

theorem State.find_takeTrap_other {s : State} {k j : Nat} {w : Warp} {code : Nat} (hj : j ≠ k) :
    Tbl.find (s.takeTrap k w code).warps j = Tbl.find s.warps j := by rw [State.takeTrap_warps, Tbl.find_put_other _ _ hj]

/-- TRAPVEC.ADDR: the vector without its two low bits. -/
theorem ofNat_div_four_mul_four (x : W64) : BitVec.ofNat 64 (x.toNat / 4 * 4) = x &&& ~~~3#64 := by
  refine BitVec.eq_of_getLsbD_eq fun i hi => ?_
  have h3 : (3#64).getLsbD i = decide (i < 2) := Nat.testBit_two_pow_sub_one 2 i
  have hx : x.toNat / 4 * 4 = x.toNat >>> 2 <<< 2 := by rw [Nat.shiftLeft_eq, Nat.shiftRight_eq_div_pow]
  rw [BitVec.getLsbD_ofNat, hx, Nat.testBit_shiftLeft, Nat.testBit_shiftRight, BitVec.getLsbD_and, BitVec.getLsbD_not, h3, ← BitVec.testBit_toNat]
  by_cases h : i < 2
  · simp [h, Nat.not_le.2 h]
  · rw [Nat.add_sub_cancel' (Nat.not_lt.1 h)]
    simp [h, hi, Nat.not_lt.1 h]

section
variable {s : State} {k code : Nat} {w : Warp} {g : Wg}

/-- The trap registers are written, the slots frozen in them; the scalar and lane registers and the lane work stay where they are. -/
theorem Warp.taken_stop (w : Warp) (cause pc : W64) (inst : W32) (code : Nat) :
    let u := (w.stop cause pc inst).taken code
    u.trap.cause = cause ∧ u.trap.pc = pc ∧ u.trap.inst = inst.setWidth 64 ∧ u.trap.lpca = w.slotA.lpc ∧ u.trap.lpcb = w.slotB.lpc ∧
    u.sc.s = w.sc.s ∧ u.rg = w.rg ∧ u.slotA = w.slotA ∧ u.slotB = w.slotB ∧ u.blocks = w.blocks ∧ u.rq = w.rq := by
  unfold Warp.taken
  dsimp only
  split <;> exact ⟨rfl, rfl, rfl, rfl, rfl, rfl, rfl, rfl, rfl, rfl, rfl⟩

/-- The user handler is entered: loop stack, wait and place are set aside, and the workgroup stays resident and knows its trapping warp. -/
theorem Warp.taken_stop_user (hn : w.handler = none) (hd : w.delegates code = true) (cause pc : W64) (inst : W32) :
    let u := (w.stop cause pc inst).taken code
    u.handler = some ⟨w.sc.loops, w.sc.wait, w.sc.pc⟩ ∧ u.sc.pc = w.trap.vec &&& ~~~3#64 ∧ u.sc.loops = [] ∧ u.halt = .run := by
  rw [Warp.taken_user (w := w.stop cause pc inst) hn hd]
  exact ⟨rfl, ofNat_div_four_mul_four _, rfl, rfl⟩

theorem State.find_takeTrap_user (hn : w.handler = none) (hd : w.delegates code = true) (cause pc : W64) (inst : W32) (hg : Tbl.find s.wgs (wgOf k) = some g) :
    Tbl.find (s.takeTrap k (w.stop cause pc inst) code).wgs (wgOf k) = some { g with trapper := some k } := by
  rw [State.takeTrap_user (w := w.stop cause pc inst) hn hd]
  exact (Tbl.find_adjust ..).trans (by rw [if_pos rfl]; exact congrArg _ hg)

/-- The workgroup is left to firmware. -/
theorem Warp.taken_stop_firmware (hn : w.handler = none) (hd : w.delegates code = false) (cause pc : W64) (inst : W32) :
    ((w.stop cause pc inst).taken code).handler = none ∧ ((w.stop cause pc inst).taken code).halt = .stopped := by
  rw [Warp.taken_firmware (w := w.stop cause pc inst) hd]
  exact ⟨hn, rfl⟩

theorem State.find_takeTrap_firmware (hd : w.delegates code = false) (cause pc : W64) (inst : W32) (hg : Tbl.find s.wgs (wgOf k) = some g) :
    Tbl.find (s.takeTrap k (w.stop cause pc inst) code).wgs (wgOf k) = some { g with status := .halted, trapper := some k } := by
  rw [State.takeTrap_firmware (w := w.stop cause pc inst) (.inr hd)]
  exact (Tbl.find_adjust ..).trans (by rw [if_pos rfl]; exact congrArg _ hg)

end

/-! ### The siblings (R321, R322) -/

/-- The window of a halt ends by itself after at most eight further cycles. -/
theorem State.stopCycle_bounds (s : State) (j : Nat) : s.cyc < s.stopCycle j ∧ s.stopCycle j ≤ s.cyc + 9 := by
  unfold State.stopCycle
  omega

/-- A running sibling enters its skid window. -/
theorem State.find_broadcastHalt_sibling {s : State} {k j : Nat} {x : Warp} (hj : j ≠ k) (hg : wgOf j = wgOf k) (hx : Tbl.find s.warps j = some x) (he : x.exited = false)
    (hh : x.halt = .run) : Tbl.find (s.broadcastHalt k).warps j = some (x.halted_ s.cyc (s.stopCycle j)) := by
  rw [State.broadcastHalt, State.drawn_warps, Tbl.find_mapVal, hx, Option.map_some, if_pos (by simp [hj, hg, he, hh])]

/-! ### `STRAP` (R133) -/

theorem causeWord_strap (code : BitVec 12) : causeWord code.toNat 0 false cUTRAP = BitVec.ofNat 64 (code.toNat * 2 ^ 32 + 0x20) := by
  have := code.isLt
  refine congrArg (BitVec.ofNat 64) ?_
  simp only [cUTRAP, Bool.false_eq_true, if_false]
  omega

theorem Warp.delegates_utrap (w : Warp) : w.delegates cUTRAP = true ↔ w.trap.deleg.getLsbD 0x20 = true ∧ w.trap.vec.getLsbD 0 = true := by
  rw [← Bool.and_eq_true]
  rfl

theorem execStrap_traps {s : State} {k : Nat} {w : Warp} (h : s.issues k w .scalar) (hn : w.handler = none) (hr : w.halt = .run) (code : BitVec 12) :
    execStrap code s = .next ((s.broadcastHalt k).takeTrap k (w.stop (causeWord code.toNat 0 false cUTRAP) w.sc.pc (s.scalarInst (s.wg (wgOf k)) w)) cUTRAP) := by
  rw [execStrap, scalarUser_trap h hn rfl rfl, State.raiseScalar, State.raise_run h.2 hr]

/-! ### What a handler may not issue (R324) -/

theorem Scalar.ready_of_full {c : Scalar} (h : c.empty = 0) (us : List SReg) : c.ready us = true :=
  List.all_eq_true.2 fun r _ => by simp [Scalar.full, h]

theorem scalarUser_inHandler {s : State} {k : Nat} {w : Warp} {a : SetAside} {us : List SReg} {f : Nat → Warp → SOut} (h : s.issues k w .scalar)
    (hh : w.handler = some a) (hr : w.sc.ready us = true) : scalarUser s us f = .next (s.raiseScalar k w cILLOP 0) :=
  scalarIssue_trap h hr (by rw [hh]; rfl)

/-! ### The warp after `SERET` (R325) -/

theorem trapSkip_eq (c : W64) : trapSkip c = c.getLsbD 13 := by
  rw [trapSkip, ← BitVec.testBit_toNat, Nat.testBit_eq_decide_div_mod_eq]
  rfl

section
variable {w : Warp} {a : SetAside}

/-- After a trap of the scalar stream: at the trapping instruction, or behind it with SKIP. -/
theorem Warp.leaveHandler_scalar (h : trapSrc w.trap.cause = 0) (a : SetAside) :
    w.leaveHandler a = { w.restored a with sc := { (w.restored a).sc with wait := .none, pc := if w.trap.cause.getLsbD 13 then w.trap.pc + 4 else w.trap.pc } } := by
  rw [Warp.leaveHandler, h, trapSkip_eq]
  rfl

/-- After a trap that interrupted no instruction: where the stream stopped. -/
theorem Warp.leaveHandler_between (h : trapSrc w.trap.cause = 3) (a : SetAside) : w.leaveHandler a = w.restored a := by
  rw [Warp.leaveHandler, h]
  rfl

/-- Whatever it interrupted, the set-aside loops are back, and the scalar registers, the return queue, the queued blocks and the trap registers stay. -/
theorem Warp.leaveHandler_frame (w : Warp) (a : SetAside) :
    (w.leaveHandler a).handler = none ∧ (w.leaveHandler a).rq = w.rq ∧ (w.leaveHandler a).blocks = w.blocks ∧ (w.leaveHandler a).sc.loops = a.loops ∧
    (w.leaveHandler a).sc.s = w.sc.s ∧ (w.leaveHandler a).trap = w.trap := by
  have settled {v : Warp} (hv : (w.restored a).sameButSlots v) : v.settle.handler = none ∧ v.settle.rq = w.rq ∧ v.settle.blocks = w.blocks ∧
      v.settle.sc.loops = a.loops ∧ v.settle.sc.s = w.sc.s ∧ v.settle.trap = w.trap := by
    rw [hv.trans (Warp.sameButSlots_settle v)]
    exact ⟨rfl, rfl, rfl, rfl, rfl, rfl⟩
  unfold Warp.leaveHandler
  dsimp only
  split
  · exact ⟨rfl, rfl, rfl, rfl, rfl, rfl⟩
  · exact settled rfl
  · exact settled rfl
  · exact ⟨rfl, rfl, rfl, rfl, rfl, rfl⟩

end

/-! ### The workgroup after `SERET` (R325) -/

theorem Tbl.mem_of_find {α : Type} {m : Tbl α} {k : Nat} {v : α} (h : Tbl.find m k = some v) : (k, v) ∈ m := by
  induction m with
  | nil => cases h
  | cons x r ih =>
    obtain ⟨j, u⟩ := x
    rw [Tbl.find] at h
    split at h
    · cases h
      subst k
      exact List.mem_cons_self
    · exact List.mem_cons_of_mem _ (ih h)

section
variable {s : State} {k g b : Nat} {w : Warp} {a : SetAside}

theorem State.pendSibling_none (h : ∀ j x, wgOf j = g → (j, x) ∈ s.warps → trapPend x.trap.cause = false) : s.pendSibling g = none := by
  refine Option.map_eq_none_iff.2 (List.find?_eq_none.2 fun y hy => ?_)
  obtain ⟨hm, hg⟩ := List.mem_filter.1 hy
  rw [h y.1 y.2 (by simpa using hg) hm]
  exact Bool.false_ne_true

/-- No sibling holds PEND: every warp of the workgroup resumes. -/
theorem State.leave_resumes (h : ∀ j x, wgOf j = wgOf k → (j, x) ∈ (s.putWarp k { w.leaveHandler a with halt := .stopped }).warps → trapPend x.trap.cause = false) :
    s.leave k w a = (s.putWarp k { w.leaveHandler a with halt := .stopped }).resume (wgOf k) := by
  rw [State.leave]
  simp only [State.pendSibling_none h]

theorem State.find_resume (s : State) (g j : Nat) :
    Tbl.find (s.resume g).warps j = (Tbl.find s.warps j).map fun w => if wgOf j = g then { w with halt := .run } else w :=
  Tbl.find_mapVal (fun j (w : Warp) => if wgOf j = g then { w with halt := .run } else w) s.warps j

/-- A barrier with no arrival does not complete (R52). -/
theorem State.tryBarrier_of_empty (h : (s.barrier g b).arrived = []) : s.tryBarrier g b = s := by
  rw [State.tryBarrier]
  simp [h]

/-- The return touches no barrier. -/
theorem State.barrier_resume (s : State) (g b : Nat) : (s.resume g).barrier g b = s.barrier g b := by
  have hw : (s.resume g).wg g = (Option.map (fun x : Wg => { x with trapper := none }) (Tbl.find s.wgs g)).getD Wg.blank := by
    rw [State.wg, Tbl.getD]
    exact congrArg (Option.getD · _) ((Tbl.find_adjust ..).trans (if_pos rfl))
  unfold State.barrier
  rw [hw, State.wg, Tbl.getD]
  cases Tbl.find s.wgs g <;> rfl

theorem execSeret_outside (h : s.issues k w .scalar) (hh : w.handler = none) : execSeret s = .next (s.raiseScalar k w cERETF 0) :=
  scalarIssue_trap h rfl (by simp only [hh])

/-- `SERET` in a handler, with no sibling that holds PEND and no arrival at the cohort's barrier: the warp resumes, and its workgroup with it. -/
theorem execSeret_resumes (h : s.issues k w .scalar) (hh : w.handler = some a) (hi : s.returnsInside k w = true) (hb : (s.barrier (wgOf k) 16).arrived = [])
    (hp : ∀ j x, wgOf j = wgOf k → (j, x) ∈ s.warps → trapPend x.trap.cause = false) :
    ∃ t, execSeret s = .next t ∧ t.mem = s.mem ∧
      Tbl.find t.warps k = some { ({ w with csr := bumpPerf w.csr 1 } : Warp).leaveHandler a with halt := .run } ∧
      ∀ j x, wgOf j = wgOf k → Tbl.find t.warps j = some x → x.halt = .run := by
  obtain ⟨v, hv⟩ : ∃ v, ({ w with csr := bumpPerf w.csr 1 } : Warp).leaveHandler a = v := ⟨_, rfl⟩
  obtain ⟨-, -, -, -, -, htrap⟩ := Warp.leaveHandler_frame { w with csr := bumpPerf w.csr 1 } a
  have hx : execSeret s = .next ((s.leave k { w with csr := bumpPerf w.csr 1 } a).tryBarrier (wgOf k) 16) :=
    scalarIssue_final h rfl (by simp only [hh, hi]; rfl)
  have hl : s.leave k { w with csr := bumpPerf w.csr 1 } a = (s.putWarp k { v with halt := .stopped }).resume (wgOf k) := by
    rw [← hv]
    refine State.leave_resumes fun j x hg hm => ?_
    rcases Tbl.mem_put hm with hx | hx
    · cases hx
      rw [htrap]
      exact hp k w rfl (Tbl.mem_of_find h.2)
    · exact hp j x hg hx
  rw [hl, State.tryBarrier_of_empty (by rwa [State.barrier_resume])] at hx
  refine ⟨_, hx, rfl, ?_, fun j x hg hj => ?_⟩
  · rw [State.find_resume, State.find_putWarp_same, Option.map_some, if_pos rfl, hv]
  · rw [State.find_resume] at hj
    obtain ⟨y, -, rfl⟩ := Option.map_eq_some_iff.1 hj
    rw [if_pos hg]

end

end Sys2Proof.Machine
end

/-- Settles O12: the trap is that of a running warp (`State.raise_run`); its taking writes the trap registers and leaves the lane work (`Warp.taken_stop`), the siblings halt, and the workgroup goes to the handler or to firmware. -/
theorem strapTakesTheTrap : Obligations.StrapTakesTheTrap := by
  open Sys2Proof Sys2Proof.Machine in
  intro s k w code h hn hr
  obtain ⟨hcause, hpc, hinst, hlpca, hlpcb, hs, hrg, ha, hb, hblocks, hrq⟩ :=
    w.taken_stop (causeWord code.toNat 0 false cUTRAP) w.sc.pc (s.scalarInst (s.wg (wgOf k)) w) cUTRAP
  refine ⟨_, _, execStrap_traps h hn hr code, State.find_takeTrap_same .., hcause.trans (causeWord_strap code), hpc, hinst, hlpca, hlpcb, hs, hrg, ?_,
    fun j x hj hg hx he hh => ?_, ha, hb, hblocks, hrq, ?_⟩
  · rw [State.takeTrap_mem, State.broadcastHalt_mem]
  · obtain ⟨hlt, hle⟩ := s.stopCycle_bounds j
    exact ⟨s.stopCycle j, hlt, hle, (State.find_takeTrap_other hj).trans (State.find_broadcastHalt_sibling hj hg hx he hh)⟩
  · split
    next hc =>
      have hd := w.delegates_utrap.2 hc
      obtain ⟨hhandler, hplace, hloops, hrun⟩ := Warp.taken_stop_user hn hd (causeWord code.toNat 0 false cUTRAP) w.sc.pc (s.scalarInst (s.wg (wgOf k)) w)
      exact ⟨hhandler, hplace, hloops, hrun, fun g hg => State.find_takeTrap_user hn hd _ _ _ (by rwa [State.broadcastHalt_wgs])⟩
    next hc =>
      have hd : w.delegates cUTRAP = false := Bool.eq_false_iff.2 (mt w.delegates_utrap.1 hc)
      obtain ⟨hhandler, hstopped⟩ := Warp.taken_stop_firmware hn hd (causeWord code.toNat 0 false cUTRAP) w.sc.pc (s.scalarInst (s.wg (wgOf k)) w)
      exact ⟨hhandler, hstopped, fun g hg => State.find_takeTrap_firmware hd _ _ _ (by rwa [State.broadcastHalt_wgs])⟩

/-- R325 and R133: outside a handler `ERETF`; in one the frame of the return, and where the two kinds of trap resume. -/
theorem seretResumes : claimSeretResumes := by
  open Sys2Proof Sys2Proof.Machine in
  intro s k w a h
  refine ⟨execSeret_outside h, fun hh hi hb hp => ?_⟩
  obtain ⟨t, hx, hm, hk, hr⟩ := execSeret_resumes h hh hi hb hp
  have hscalar := Warp.leaveHandler_scalar (w := { w with csr := bumpPerf w.csr 1 }) (a := a)
  have hbetween := Warp.leaveHandler_between (w := { w with csr := bumpPerf w.csr 1 }) (a := a)
  obtain ⟨hn, hrq, hblocks, hloops, hs, -⟩ := Warp.leaveHandler_frame { w with csr := bumpPerf w.csr 1 } a
  generalize ({ w with csr := bumpPerf w.csr 1 } : Warp).leaveHandler a = v at *
  refine ⟨t, _, hx, hk, hn, rfl, hrq, hblocks, hloops, hs, hm, hr, fun hsrc => ?_, fun hsrc => ?_⟩
  · rw [hscalar hsrc]
    exact ⟨rfl, rfl, rfl⟩
  · rw [hbetween hsrc]
    exact ⟨rfl, rfl, rfl, rfl⟩

/-- R324: the instructions of the list are those of the form `scalarUser`, which a handler may not issue. -/
theorem handlerModeForbids : claimHandlerModeForbids := by
  open Sys2Proof Sys2Proof.Machine in
  intro s k w a r d n x c64 o b c h hh hfull
  have user {us : List SReg} {f : Nat → Warp → SOut} : scalarUser s us f = .next (s.raiseScalar k w cILLOP 0) :=
    scalarUser_inHandler h hh (Scalar.ready_of_full hfull us)
  simp only [List.forall_mem_cons]
  exact ⟨user, user, user, user, user, user, user, user, user, user, user, user, user, user, user, user, fun _ h => absurd h List.not_mem_nil⟩

/-- Settles O13: the return of `SERET`, and what a handler may not issue. -/
theorem handlerMode : Obligations.HandlerMode := ⟨seretResumes, handlerModeForbids⟩

section
/-! SUPPORT. Scalar memory accesses: the checks in their order, the one request that each makes, and the bytes of a scratchpad store (R5, R119, R120, R186, R206, R227, R400). -/

namespace Sys2Proof.Machine

/-! ### The checks (R119) -/

section
variable {s : State} {k lspace n : Nat} {ea : W64} {write : Bool}

theorem State.scalarCheck_alignf (h : ea.toNat % n ≠ 0) : s.scalarCheck k lspace ea n write = cALIGNF := if_pos (by simpa using h)

theorem State.scalarCheck_addrf (h : ea.toNat % n = 0) (hc : canonical ea = false) : s.scalarCheck k 0 ea n write = cADDRF := by
  simp [State.scalarCheck, h, hc]

theorem State.scalarCheck_protf (h : ea.toNat % n = 0) (hc : canonical ea = true)
    (hx : s.xlate (s.wg (wgOf k)).coreKey (s.wg (wgOf k)).fn (s.wg (wgOf k)).proc ea.toNat write = .refused) : s.scalarCheck k 0 ea n write = cPROTF := by
  simp [State.scalarCheck, h, hc, hx]

/-- An access of the scratchpad is checked against the workgroup's size. -/
theorem State.scalarCheck_pad (h : ea.toNat % n = 0) :
    s.scalarCheck k 1 ea n write = if ea.toNat + n ≤ (s.wg (wgOf k)).padSize then 0 else cSPRANGE := by
  simp [State.scalarCheck, State.localFault, h]

theorem State.scalarCheck_sprange (h : ea.toNat % n = 0) (hb : (s.wg (wgOf k)).padSize < ea.toNat + n) : s.scalarCheck k 1 ea n write = cSPRANGE := by
  rw [State.scalarCheck_pad h, if_neg (Nat.not_le.2 hb)]

theorem State.scalarCheck_padInside (h : ea.toNat % n = 0) (hb : ea.toNat + n ≤ (s.wg (wgOf k)).padSize) : s.scalarCheck k 1 ea n write = 0 := by
  rw [State.scalarCheck_pad h, if_pos hb]

/-- Every scope but the system's is left to the tenants (R400). -/
theorem State.scopePolicy_of_ne {fn scope : Nat} (h : scope ≠ 4) : s.scopePolicy fn scope = some (scope, false) := by
  simp [State.scopePolicy, h]

end

/-! ### What a failed check does (R119, R120) -/

section
variable {s : State} {k lspace c : Nat} {w : Warp} {sz : SSize} {d a b : SReg} {off : BitVec 11} {op : AmoOp} {wide sys : Bool} {ord : MemOrder} {scope : Nat} {down : Bool}

theorem scalarLoad_traps (h : s.issues k w .scalar) (hr : w.sc.ready [d, a] = true) (h0 : c ≠ 0)
    (hc : s.scalarCheck k lspace (w.sr a + off.signExtend 64) (ssizeBytes sz) false = c) : scalarLoad sz lspace d a off s = .next (s.raiseScalar k w c 0) := by
  obtain ⟨m, rfl⟩ := Nat.exists_eq_succ_of_ne_zero h0
  exact scalarIssue_trap h hr (by simp only [hc])

theorem scalarStore_traps (h : s.issues k w .scalar) (hr : w.sc.ready [d, a] = true) (h0 : c ≠ 0)
    (hc : s.scalarCheck k lspace (w.sr a + off.signExtend 64) (ssizeBytes sz) true = c) : scalarStore sz lspace d a off s = .next (s.raiseScalar k w c 0) := by
  obtain ⟨m, rfl⟩ := Nat.exists_eq_succ_of_ne_zero h0
  exact scalarIssue_trap h hr (by simp only [hc])

theorem execSamo_traps (h : s.issues k w .scalar) (hr : w.sc.ready [d, a, b] = true) (h0 : c ≠ 0)
    (hp : s.scopePolicy (s.wg (wgOf k)).fn (if sys then 4 else 2) = some (scope, down))
    (hc : s.scalarCheck k 0 (w.sr a) (if wide then 8 else 4) true = c) : execSamo op wide ord sys d a b s = .next (s.raiseScalar k w c 0) := by
  obtain ⟨m, rfl⟩ := Nat.exists_eq_succ_of_ne_zero h0
  exact scalarIssue_trap h hr (by simp only [hp, hc])

/-! ### The request of an access (R119, R120, R245) -/

/-- An access that holds no stream makes its request, and the stream goes on. -/
theorem State.scalarAccess_done {r : Req} {x : Access} {gang : Bool} (hg : (r.lspace == 0 && s.onCinnabar r.fn r.space x.va) = gang)
    (hh : (gang && r.kind != .load) = false) : s.scalarAccess k w r x = .done ((s.putWarp k w).request { r with gang := gang } [x]) := by
  subst hg
  simp [State.scalarAccess, hh]

theorem scalarLoad_requests {gang : Bool} (h : s.scalarReady k w [d, a]) (hb : s.memBlocked k .scalar 0 w.joined = false)
    (hc : s.scalarCheck k lspace (w.sr a + off.signExtend 64) (ssizeBytes sz) false = 0)
    (hg : (lspace == 0 && s.onCinnabar (s.wg (wgOf k)).fn (s.wg (wgOf k)).proc (w.sr a + off.signExtend 64).toNat) = gang) :
    scalarLoad sz lspace d a off s = .next (((s.putWarp k { w with sc := w.sc.mark d }).request
      { s.scalarReq k w .load lspace with ext := ssizeCode sz, sd := some d, gang := gang }
      [scalarAccessOf (w.sr a + off.signExtend 64) (ssizeBytes sz) 0 0 0]).onWarp k Warp.fallS) :=
  scalarIssue_done h (by simp only [hc, hb]; exact State.scalarAccess_done hg (Bool.and_false _))

theorem scalarStore_requests (h : s.scalarReady k w [d, a]) (hb : s.memBlocked k .scalar 0 w.joined = false)
    (hc : s.scalarCheck k lspace (w.sr a + off.signExtend 64) (ssizeBytes sz) true = 0)
    (hg : (lspace == 0 && s.onCinnabar (s.wg (wgOf k)).fn (s.wg (wgOf k)).proc (w.sr a + off.signExtend 64).toNat) = false) :
    scalarStore sz lspace d a off s = .next (((s.putWarp k w).request (s.scalarReq k w .store lspace)
      [scalarAccessOf (w.sr a + off.signExtend 64) (ssizeBytes sz) ((w.sr d).toNat % 2 ^ (8 * ssizeBytes sz)) 0 (2 ^ ssizeBytes sz - 1)]).onWarp k Warp.fallS) :=
  scalarIssue_done h (by simp only [hc, hb]; exact State.scalarAccess_done hg rfl)

theorem execSamo_requests (h : s.scalarReady k w [d, a, b]) (hb : s.memBlocked k .scalar 0 w.joined = false)
    (hp : s.scopePolicy (s.wg (wgOf k)).fn (if sys then 4 else 2) = some (scope, down)) (hc : s.scalarCheck k 0 (w.sr a) (if wide then 8 else 4) true = 0)
    (hg : s.onCinnabar (s.wg (wgOf k)).fn (s.wg (wgOf k)).proc (w.sr a).toNat = false) :
    execSamo op wide ord sys d a b s = .next (((s.putWarp k (({ w with sc := w.sc.mark d } : Warp).downgraded down)).request
      { s.scalarReq k w .atom 0 with
        op := some op
        ext := if wide then 6 else 4
        sd := some d
        scope := scope
        ord := ordCode ord
        rel := if ordRel (ordCode ord) then 1 else 0
        acq := ordAcq (ordCode ord) }
      [scalarAccessOf (w.sr a) (if wide then 8 else 4) (w.sr b).toNat (w.sr d).toNat (2 ^ (if wide then 8 else 4) - 1)]).onWarp k Warp.fallS) :=
  scalarIssue_done h (by simp only [hp, hc, hb]; exact State.scalarAccess_done hg rfl)

end

/-! ### One request and nothing else outstanding (R206, R227) -/

section
variable {s : State} {k : Nat} {w : Warp}

theorem State.memBlocked_of_none (h : s.reqs = []) (st : Stream) (mask : LaneMask) (after : Nat) : s.memBlocked k st mask after = false := by
  simp [State.memBlocked, State.reqsOf, State.reqList, h, Tbl.values]

theorem groupLines_singleton (c : Coalesced) : groupLines [c] = [[c.acc]] := by
  simp [groupLines, List.eraseDups_cons, insertLine]

/-- The one access of a scratchpad store is one request. -/
theorem State.plan_pad {r : Req} (hk : r.kind = .store) (hl : r.lspace = 1) (x : Access) : s.plan r [x] = [[x]] := by
  simp [State.plan, hk, groupLines_singleton, State.coalesce, hl]

/-- The request `r` as an instruction with the one access `x` makes it. -/
def State.firstReq (s : State) (r : Req) (x : Access) : Req := { r with iid := s.nextId, id := s.nextId, accs := [x] }

/-- The state in which it stands alone. -/
def State.withFirstReq (s : State) (r : Req) (x : Access) : State := (s.putReq (s.firstReq r x)).bump

theorem State.withFirstReq_reqs (hr : s.reqs = []) (r : Req) (x : Access) : (s.withFirstReq r x).reqs = [(s.nextId, s.firstReq r x)] := by
  rw [State.withFirstReq, State.bump_reqs, State.putReq_reqs, hr]
  rfl

/-- The only request outstanding tries to leave at once. -/
theorem State.request_alone {r : Req} {x : Access} (hr : s.reqs = []) (hp : s.plan r [x] = [[x]]) (hs : r.stage = .issued)
    (hk : r.kind ≠ .fence) : s.request r [x] = (s.withFirstReq r x).launch (s.firstReq r x) := by
  have hmade : s.request r [x] = (s.withFirstReq r x).launchAll s.nextId := by
    simp only [State.request, hp]
    rfl
  have hsib : (s.withFirstReq r x).siblings s.nextId = [s.firstReq r x] := by
    simp [State.siblings, State.reqList, State.withFirstReq_reqs hr, Tbl.values, State.firstReq]
  have hfind : Tbl.find (s.withFirstReq r x).reqs (s.firstReq r x).id = some (s.firstReq r x) := by
    simp [State.withFirstReq_reqs hr, Tbl.find, State.firstReq]
  have hgo : ((s.firstReq r x).isIssued && (s.firstReq r x).kind != .fence) = true := by
    simp [Req.isIssued, State.firstReq, hs, hk]
  rw [hmade, State.launchAll, hsib]
  simp only [List.foldl_cons, List.foldl_nil, hfind, hgo]
  rfl

/-- No other request stands before it in a line chain. -/
theorem State.heads_alone {r : Req} (hr : s.reqs = [(r.id, r)]) (hx : r.xl = false) : s.heads r = true := by
  simp [State.heads, State.aheadInChain, State.reqList, hr, Tbl.values, hx]

/-- A store to the scratchpad as its instruction makes it. -/
def Req.isPadStore (r : Req) : Prop := r.kind = .store ∧ r.lspace = 1 ∧ r.stage = .issued ∧ r.xl = false ∧ r.rel = 0

theorem State.isPadStore_scalarReq (s : State) (k : Nat) (w : Warp) : (s.scalarReq k w .store 1).isPadStore := ⟨rfl, rfl, rfl, rfl, rfl⟩

/-- Nothing holds it back: it is performed as its instruction issues. -/
theorem State.request_padStore {r : Req} (hr : s.reqs = []) (h : r.isPadStore) (hw : (s.wg r.wgKey).status ≠ .out) (x : Access) :
    s.request r [x] = (s.withFirstReq r x).performLocal (s.firstReq r x) := by
  obtain ⟨hk, hl, hs, hx, hrel⟩ := h
  rw [State.request_alone hr (State.plan_pad hk hl x) hs (by simp [hk])]
  have hh : (s.withFirstReq r x).heads (s.firstReq r x) = true := State.heads_alone (State.withFirstReq_reqs hr r x) hx
  have hw' : ((s.withFirstReq r x).wg (wgOf (s.firstReq r x).warp)).status ≠ .out := hw
  have hk' : (s.firstReq r x).kind = .store := hk
  have hl' : (s.firstReq r x).lspace = 1 := hl
  have hrel' : (s.firstReq r x).relDone = true := by rw [Req.relDone, show (s.firstReq r x).rel = 0 from hrel]; rfl
  simp [State.launch, hh, hk', hw', hl', hrel']

end

/-! ### The bytes of a scratchpad (R5, R186) -/

section
variable {s : State} {g : Nat} {x : Wg}

theorem State.find_localPutN {a : W64} {n : Nat} (hx : Tbl.find s.wgs g = some x) (ha : a.toNat + n < 2 ^ 64) (v : Nat) :
    Tbl.find (s.localPutN g 1 a n v).wgs g = some { x with pad := Memory.writeN x.pad a.toNat n v } := by
  induction n generalizing s x a v with
  | zero => exact hx
  | succ n ih =>
    have ha1 : (a + 1).toNat = a.toNat + 1 := BitVec.toNat_add_of_lt (by simp; omega)
    have h1 : Tbl.find (s.localPut g 1 a (BitVec.ofNat 8 v)).wgs g = some { x with pad := Memory.write x.pad a.toNat (BitVec.ofNat 8 v) } :=
      (Tbl.find_adjust ..).trans (by rw [if_pos rfl, hx]; rfl)
    rw [State.localPutN, ih h1 (by omega), ha1]
    rfl

/-- Healing changes no byte. -/
theorem State.find_padHeal (hx : Tbl.find s.wgs g = some x) (addrs : List Nat) :
    ∃ y, Tbl.find (s.padHeal g 1 addrs).wgs g = some y ∧ y.pad = x.pad := by
  cases addrs with
  | nil => exact ⟨x, hx, rfl⟩
  | cons a r =>
    exact ⟨{ x with padPoison := healed x.padPoison ((a :: r).map fun b => b + (BitVec.ofNat 64 a).toNat - a) }, (Tbl.find_adjust ..).trans (by rw [if_pos rfl, hx]; rfl), rfl⟩

end

/-- A scratchpad store performed: its data stands in the scratchpad of its workgroup. -/
theorem State.performLocal_store {s : State} {r : Req} {x : Access} {g : Wg} (hk : r.kind = .store) (hl : r.lspace = 1) (ha : r.accs = [x])
    (hg : Tbl.find s.wgs r.wgKey = some g) (hb : x.va + x.size < 2 ^ 64) :
    ∃ y, Tbl.find (s.performLocal r).wgs r.wgKey = some y ∧ y.pad = Memory.writeN g.pad x.va x.size x.data := by
  have hva : (BitVec.ofNat 64 x.va).toNat = x.va := (BitVec.toNat_ofNat ..).trans (Nat.mod_eq_of_lt (by omega))
  obtain ⟨y, hy, hp⟩ := State.find_padHeal (State.find_localPutN hg (by rwa [hva]) x.data) ((List.range x.size).map (x.va + ·))
  refine ⟨y, ?_, hp.trans (by rw [hva])⟩
  simpa [State.performLocal, hk, hl, ha] using hy

/-- What the one request of a scratchpad store leaves, where no other is outstanding: its data in the scratchpad, and memory as it was. -/
theorem State.request_padStore_writes {s : State} {r : Req} {g : Wg} (hr : s.reqs = []) (h : r.isPadStore) (hg : Tbl.find s.wgs r.wgKey = some g)
    (hw : g.status ≠ .out) (x : Access) (hb : x.va + x.size < 2 ^ 64) :
    (s.request r [x]).mem = s.mem ∧ ∃ y, Tbl.find (s.request r [x]).wgs r.wgKey = some y ∧ y.pad = Memory.writeN g.pad x.va x.size x.data := by
  have hwg : s.wg r.wgKey = g := by rw [State.wg, Tbl.getD, hg, Option.getD_some]
  rw [State.request_padStore hr h (hwg ▸ hw), State.performLocal_mem]
  obtain ⟨hk, hl, -⟩ := h
  exact ⟨rfl, State.performLocal_store (r := s.firstReq r x) hk hl rfl hg hb⟩

end Sys2Proof.Machine
end

/-- Settles O16: each cause is the answer of `State.scalarCheck` at that place of its order, and a failed check traps; at the device's scope no tenant policy stands before an atomic's checks. -/
theorem scalarAccessChecks : Obligations.ScalarAccessChecks := by
  open Sys2Proof Sys2Proof.Machine in
  intro s k w sz d a b off op ord h hr ea n g traps
  have hda : w.sc.ready [d, a] = true := Scalar.ready_of_subset hr (by simp)
  have hscope : s.scopePolicy (s.wg (wgOf k)).fn (if false then 4 else 2) = some (2, false) := State.scopePolicy_of_ne (by decide)
  have load {l c : Nat} (h0 : c ≠ 0) (hc : s.scalarCheck k l ea n false = c) := scalarLoad_traps h hda h0 hc
  have store {l c : Nat} (h0 : c ≠ 0) (hc : s.scalarCheck k l ea n true = c) := scalarStore_traps h hda h0 hc
  refine ⟨fun hm => ?_, fun hm hc => ?_, fun hm hb => ?_, fun hm hc hx => store (by decide) (State.scalarCheck_protf hm hc hx), fun hm => ?_, fun hm hc => ?_⟩
  · exact ⟨load (by decide) (State.scalarCheck_alignf hm), store (by decide) (State.scalarCheck_alignf hm), load (by decide) (State.scalarCheck_alignf hm),
      store (by decide) (State.scalarCheck_alignf hm)⟩
  · exact ⟨load (by decide) (State.scalarCheck_addrf hm hc), store (by decide) (State.scalarCheck_addrf hm hc)⟩
  · exact ⟨load (by decide) (State.scalarCheck_sprange hm hb), store (by decide) (State.scalarCheck_sprange hm hb)⟩
  · exact execSamo_traps h hr (by decide) hscope (State.scalarCheck_alignf hm)
  · exact execSamo_traps h hr (by decide) hscope (State.scalarCheck_addrf hm hc)

/-- R119 and R120: the lemmas of the requests; in the scratchpad no page holds the stream. -/
theorem scalarMemoryRequests : claimScalarMemoryRequests := by
  open Sys2Proof Sys2Proof.Machine in
  intro s k w sz d a b off op wide ord sys down scope h hb g ea n sends marked
  have hda : s.scalarReady k w [d, a] := h.of_subset (by simp)
  exact ⟨fun hc => scalarLoad_requests hda hb hc rfl,
    fun hm hp => ⟨scalarLoad_requests hda hb (State.scalarCheck_padInside hm hp) rfl, scalarStore_requests hda hb (State.scalarCheck_padInside hm hp) rfl⟩,
    fun hc hg => scalarStore_requests hda hb hc hg, fun hp hc hg => execSamo_requests h hb hp hc hg⟩

/-- R119 and R186: the store's one request is performed at its issue, and writes its bytes. -/
theorem scratchpadStoreWrites : claimScratchpadStoreWrites := by
  open Sys2Proof Sys2Proof.Machine in
  intro s k w g sz d a off h hr hg hs ea n hm hp hlt
  have hwg : s.wg (wgOf k) = g := by rw [State.wg, Tbl.getD, hg, Option.getD_some]
  have hx := scalarStore_requests (sz := sz) (lspace := 1) h (State.memBlocked_of_none hr ..) (State.scalarCheck_padInside hm (by rwa [hwg])) rfl
  obtain ⟨hmem, y, hy, hpad⟩ := State.request_padStore_writes (s := s.putWarp k w) hr (s.isPadStore_scalarReq k w) hg (by rw [hs]; decide)
    (scalarAccessOf ea n ((w.sr d).toNat % 2 ^ (8 * n)) 0 (2 ^ n - 1)) (hp.trans_lt hlt)
  have hpad : y.pad = Memory.writeN g.pad ea.toNat n ((w.sr d).toNat % 2 ^ (8 * n)) := hpad
  refine ⟨_, y, hx, (congrArg (Tbl.find · (wgOf k)) (State.onWarp_wgs ..)).trans hy, ?_, fun c hc => ?_, (State.onWarp_mem ..).trans hmem⟩
  · rw [hpad, Memory.readN_writeN, pow_mul]
    exact Nat.mod_mod ..
  · rw [hpad]
    exact Memory.read_writeN_other _ _ _ _ _ hc

/-- Settles O17: the requests, and the bytes of a scratchpad store. -/
theorem scalarMemory : Obligations.ScalarMemory := ⟨scalarMemoryRequests, scratchpadStoreWrites⟩

section
/-! SUPPORT. Lane logic, counts, reversal and bit fields: the element functions bit by bit (R145 to R148). -/

namespace Sys2Proof.Machine

/-! ### Counts, reversal and the sign (R146, R147) -/

/-- A bit of a number as the model reads it. -/
theorem div_two_pow_mod_two_beq (x i : Nat) : (x / 2 ^ i % 2 == 1) = x.testBit i := Nat.testBit_eq_decide_div_mod_eq.symm

theorem popcN_eq (n x : Nat) : popcN n x = ((List.range n).filter fun b => x.testBit b).length := by
  simp only [popcN, div_two_pow_mod_two_beq]

theorem clzN_eq (n x : Nat) : clzN n x = if x = 0 then n else n - 1 - Nat.log2 x := by
  simp only [clzN, beq_iff_eq]

/-- Reversal of one bit more: the bits taken so far move up. -/
theorem brevN_succ (n x : Nat) : brevN (n + 1) x = 2 * brevN n x + x / 2 ^ n % 2 := by
  simp [brevN, List.range_succ]

theorem testBit_brevN {n b : Nat} (x : Nat) (hb : b < n) : (brevN n x).testBit b = x.testBit (n - 1 - b) := by
  induction n generalizing b with
  | zero => omega
  | succ n ih =>
    cases b with
    | zero => simp [brevN_succ, Nat.testBit_eq_decide_div_mod_eq]
    | succ b =>
      have hd : brevN (n + 1) x / 2 = brevN n x := by
        rw [brevN_succ]
        omega
      rw [Nat.testBit_succ, hd, ih (Nat.lt_of_succ_lt_succ hb), show n + 1 - 1 - (b + 1) = n - 1 - b by omega]

section
variable {n : Nat} (hn : 0 < n) (x : Nat)
include hn

theorem msb_ofNat : (BitVec.ofNat n x).msb = x.testBit (n - 1) := by
  rw [BitVec.msb_eq_getLsbD_last, BitVec.getLsbD_ofNat, decide_eq_true (Nat.sub_one_lt_of_lt hn), Bool.true_and]

/-- sext of R95 is the signed value of the low `n` bits. -/
theorem sextN_eq_toInt : sextN n x = (BitVec.ofNat n x).toInt := by
  rw [sextN, div_two_pow_mod_two_beq, BitVec.toInt_eq_msb_cond, msb_ofNat hn, BitVec.toNat_ofNat, Nat.cast_pow, Nat.cast_ofNat]

theorem sextN_neg_iff : sextN n x < 0 ↔ (x / 2 ^ (n - 1) % 2 == 1) = true := by
  rw [sextN_eq_toInt hn, div_two_pow_mod_two_beq, ← msb_ofNat hn, BitVec.msb_eq_toInt, decide_eq_true_eq]

end

/-! ### Bit fields (R148) -/

section
variable (a x o m : W32)

/-- The length of the field at offset O for M bits, which bit 31 cuts. -/
def fieldLen : Nat := min (o.toNat % 256 + m.toNat % 256) 32 - o.toNat % 256

/-- The field of `BFE`. -/
def bitField : BitVec (fieldLen o m) := a.extractLsb' (o.toNat % 256) (fieldLen o m)

theorem getLsbD_bitField (b : Nat) : (bitField a o m).getLsbD b = (decide (b < fieldLen o m) && a.getLsbD (o.toNat % 256 + b)) := BitVec.getLsbD_extractLsb' ..

/-- The field as the model cuts it out. -/
theorem toNat_bitField : (bitField a o m).toNat = a.toNat / 2 ^ (o.toNat % 256) % 2 ^ fieldLen o m := by
  rw [bitField, BitVec.extractLsb'_toNat, Nat.shiftRight_eq_div_pow]

variable {o m}

/-- The case that the model sets apart is the empty field. -/
theorem emptyField_iff : (m.toNat % 256 == 0 || decide (32 ≤ o.toNat % 256)) = true ↔ fieldLen o m = 0 := by
  simp only [Bool.or_eq_true, beq_iff_eq, decide_eq_true_eq, fieldLen]
  omega

theorem bfeW_empty (s : Bool) (h : fieldLen o m = 0) : bfeW s a o m = 0#32 := if_pos (emptyField_iff.2 h)

theorem bfeW_field (s : Bool) (h : fieldLen o m ≠ 0) : bfeW s a o m = if s then (bitField a o m).signExtend 32 else (bitField a o m).setWidth 32 := by
  refine (if_neg (mt emptyField_iff.1 h)).trans ?_
  rw [← fieldLen, ← toNat_bitField]
  cases s with
  | false => exact BitVec.ofNat_toNat ..
  | true => exact (ofNat_wrapN _).trans (by rw [sextN_eq_toInt (Nat.pos_of_ne_zero h), BitVec.ofNat_toNat, BitVec.setWidth_eq]; rfl)

variable {b : Nat} (hb : b < 32)
include hb

theorem getLsbD_bfeW_false : (bfeW false a o m).getLsbD b = (decide (b < fieldLen o m) && a.getLsbD (o.toNat % 256 + b)) := by
  by_cases h : fieldLen o m = 0
  · simp [bfeW_empty a false h, h]
  · simp [bfeW_field a false h, getLsbD_bitField, hb]

/-- Above the field stands its top bit. -/
theorem getLsbD_bfeW_true (h : 0 < fieldLen o m) :
    (bfeW true a o m).getLsbD b = a.getLsbD (if b < fieldLen o m then o.toNat % 256 + b else o.toNat % 256 + fieldLen o m - 1) := by
  have ht : o.toNat % 256 + (fieldLen o m - 1) = o.toNat % 256 + fieldLen o m - 1 := by omega
  rw [bfeW_field a true h.ne', if_pos rfl, BitVec.getLsbD_signExtend, BitVec.msb_eq_getLsbD_last, getLsbD_bitField, getLsbD_bitField]
  split <;> simp [*]

theorem getLsbD_bfiW : (bfiW a x o m).getLsbD b =
    if o.toNat % 256 ≤ b ∧ b < o.toNat % 256 + fieldLen o m then x.getLsbD (b - o.toNat % 256) else a.getLsbD b := by
  by_cases h : fieldLen o m = 0
  · rw [show bfiW a x o m = a from if_pos (emptyField_iff.2 h), if_neg (by omega)]
  · rw [show bfiW a x o m = _ from if_neg (mt emptyField_iff.1 h), ← fieldLen]
    have inside : (decide (o.toNat % 256 ≤ b) && decide (b - o.toNat % 256 < fieldLen o m)) = decide (o.toNat % 256 ≤ b ∧ b < o.toNat % 256 + fieldLen o m) := by
      rw [← Bool.decide_and, decide_eq_decide]
      omega
    simp only [BitVec.getLsbD_or, BitVec.getLsbD_and, BitVec.getLsbD_not, BitVec.getLsbD_ofNat, Nat.testBit_mul_two_pow, Nat.testBit_two_pow_sub_one, Nat.testBit_mod_two_pow,
      hb, decide_true, Bool.true_and, ← Bool.and_assoc, inside]
    split <;> simp [*, BitVec.getLsbD]

end

end Sys2Proof.Machine
end

/-- R145 to R148: logic and fields work on the whole word, the others pack their elements. -/
theorem laneLogicResults : claimLaneLogicResults := by
  open Sys2Proof.Machine in
  intro s k w st l h
  have packed {i : Sys2Proof.Instr} {f : Fin 32 → Nat → Nat} := leavesElements_of_packPlain (s := s) (k := k) (w := w) (st := st) (i := i) (h := l.hdr) (d := l.d) (t := l.ty) (f := f)
  refine ⟨laneWise_ready h laneLand, laneWise_ready h laneLor, laneWise_ready h laneLxor, packed (laneWise_ready h (laneShl l.ty)), packed (laneWise_ready h (laneShr l.ty)),
    ?_, ?_, ?_, packed (laneWise_ready h (laneBits brevN l.ty)), laneWise_ready h (laneBfe l), laneWise_ready h laneBfi⟩
  · simp only [sextN_neg_iff (elemWidth_pos l.ty)]
    exact packed (laneWise_ready h (laneSra l.ty))
  · simp only [← popcN_eq]
    exact packed (laneWise_ready h (laneBits popcN l.ty))
  · simp only [← clzN_eq]
    exact packed (laneWise_ready h (laneBits clzN l.ty))

/-- R147 and R148, bit by bit. -/
theorem bitFieldBits : claimBitFieldBits := by
  open Sys2Proof.Machine in
  exact ⟨fun n x b _ hb => testBit_brevN x hb, fun a o m b hb => ⟨getLsbD_bfeW_false a hb, getLsbD_bfeW_true a hb, fun x => getLsbD_bfiW a x hb⟩⟩

/-- Settles O19: what each instruction leaves in flight, and the bits of the fields and of the reversal. -/
theorem laneLogicAndBits : Obligations.LaneLogicAndBits := ⟨laneLogicResults, bitFieldBits⟩

section
/-! SUPPORT. Cross-lane instructions: one value for the warp, shuffles, whole-warp moves, and the tree of an exact reduction (R166 to R175). -/

namespace Sys2Proof.Machine

section
variable {s : State} {k : Nat} {w : Warp} {st : Stream} {l : LaneReg}

/-! ### One value for the warp (R39, R171, R172) -/

theorem Opnd.not_isNone_of_isV : ∀ {o : Opnd}, o.isV = true → o.isNone = false
  | .v _, _ | .a _, _ => rfl

theorem Opnd.not_isNone_of_isP : ∀ {o : Opnd}, o.isP = true → o.isNone = false
  | .p _, _ => rfl

/-- Each destination of the one value that an instruction's own part hands over. -/
theorem leavesValue_of_scalarDest {i : Instr} {f : Nat → Warp → Stream → Slot → LaneMask → LOut} {r : W32} {wide : W64} {fl : Flags}
    (h : s.laneReady k w st l.hdr (LaneReg.uses1 l)) (hi : exec i s = laneIssue s l.hdr (LaneReg.uses1 l) f)
    (hf : f k w st (w.slot st) (w.active st l.hdr) = scalarDest s k w st (w.active st l.hdr) l r wide fl) : leavesValue s k w st i l r wide fl := by
  simp only [leavesValue, hi]
  refine ⟨fun hd => laneIssue_flies h (hf.trans ?_), fun hd => laneIssue_flies h (hf.trans ?_), fun hd hb hq => laneIssue_flies h (hf.trans ?_),
    fun hd hb => laneIssue_trap h (hf.trans ?_)⟩
  · simp [scalarDest, Opnd.not_isNone_of_isV hd, Opnd.not_isP_of_isV hd, plain]
  · simp [scalarDest, Opnd.not_isNone_of_isP hd, hd]
  · simp [scalarDest, hd, Opnd.isNone, hb, hq]
  · simp [scalarDest, hd, Opnd.isNone, hb]

/-- The value of a vote by its mode (R171). -/
theorem voteValue_eq (op : Nat) (n y : LaneMask) :
    voteValue op n y = match op with
      | 0 => if y = n then 1 else 0
      | 1 => if y = 0 then 0 else 1
      | 2 => y
      | _ => if y = 0 ∨ y = n then 1 else 0 := by
  match op with
  | 0 | 1 | 2 | _ + 3 => simp [voteValue]

theorem redWide_eq (t : Nat) (r : W32) : redWide t r = if t = 7 then r.signExtend 64 else r.setWidth 64 := by
  simp only [redWide, beq_iff_eq]

theorem execVote_value (h : s.laneReady k w st l.hdr (LaneReg.uses1 l)) :
    let act := w.active st l.hdr
    let r := voteValue (modBits l.mod 1 0) act (LaneMask.mk fun i => act.has i && (s.rd k w st l.a 0)[i] != 0)
    leavesValue s k w st (.vote l) l r (r.setWidth 64) 0 := by
  have hi : execVote l s = laneIssue s l.hdr (LaneReg.uses1 l) _ := rfl
  exact leavesValue_of_scalarDest h hi rfl

theorem execRed_value (h : s.laneReady k w st l.hdr (LaneReg.uses1 l)) :
    let act := w.active st l.hdr
    let op := modBits l.mod 2 0
    let q := redTree l.ty op l.rm 5 ((List.finRange 32).map fun i => if act.has i then some (redIn l.ty (s.rd k w st l.a 0)[i]) else none) 0
    let r := redOut l.ty l.sat (q.1.getD (redEmpty l.ty op))
    leavesValue s k w st (.red l) l r (redWide l.ty r) q.2 := by
  have hi : execRed l s = laneIssue s l.hdr (LaneReg.uses1 l) _ := rfl
  exact leavesValue_of_scalarDest h hi rfl

/-! ### Shuffles (R170) -/

/-- What a lane takes in a shuffle: `f` of the lane its mode names, its own `v` where that lane is outside the segment or one of those left out. -/
theorem shflLane_elim {α : Type} (mode seg i b : Nat) (v : α) (has : Nat → Bool) (f : Nat → α) :
    (shflLane mode seg i b).elim v (fun j => if has j then f j else v) =
      let base := i / seg * seg
      let from_ (ok : Bool) (j : Nat) : α := if ok && has j then f j else v
      match mode with
      | 0 => from_ true (base + b % seg)
      | 1 => from_ (b ≤ i - base) (i - b)
      | 2 => from_ (i - base + b < seg) (i + b)
      | _ => from_ true (base + ((i - base) ^^^ b) % seg) := by
  match mode with
  | 0 | _ + 3 => rfl
  | 1 => by_cases hb : b ≤ i - i / seg * seg <;> simp [shflLane, hb]
  | 2 => by_cases hb : i - i / seg * seg + b < seg <;> simp [shflLane, hb]

theorem execShfl_word (h : s.laneReady k w st l.hdr (LaneReg.uses1 l)) :
    leavesWord s k w st (.shfl l) l.hdr l.d fun i =>
      (shflLane (modBits l.mod 1 0) (2 ^ modBits l.mod 4 2) i.val ((s.rd k w st l.b 0)[i].toNat % 32)).elim (s.rd k w st l.a 0)[i] fun j =>
        if (w.slot st).mask.getLsbD j then Lanes.at (s.rd k w st l.a 0) j else (s.rd k w st l.a 0)[i] := by
  have hx : execShfl l s = _ := laneIssue_flies h rfl
  refine hx.trans (congrArg (fun g => Host.Outcome.next (s.flew k w st l.hdr (laneResult s w st (w.active st l.hdr) l.d g) 0)) (funext fun i => ?_))
  dsimp only
  cases shflLane (modBits l.mod 1 0) (2 ^ modBits l.mod 4 2) i.val ((s.rd k w st l.b 0)[i].toNat % 32) <;> rfl

/-! ### Moves over the whole warp (R175) -/

theorem modBits_self_beq_one (m : BitVec 14) (i : Nat) : (modBits m i i == 1) = m.getLsbD i := by
  rw [modBits, show i + 1 - i = 1 by omega, pow_one, BitVec.getLsbD, Nat.testBit_eq_decide_div_mod_eq]
  rfl

theorem crossWhole_xldiv {f : Lanes → List Nat → Fin 32 → Option W32} (h : s.laneReady k w st l.hdr (countUses l)) (hd : w.slotB.st ≠ .idle ∨ w.dstack ≠ []) :
    crossWhole l s f = .next (s.raiseLane k w st cXLDIV (w.active st l.hdr).toNat) := laneIssue_trap h (if_pos (by simpa using hd))

theorem crossWhole_flies {f : Lanes → List Nat → Fin 32 → Option W32} (h : s.laneReady k w st l.hdr (countUses l)) (hb : w.slotB.st = .idle) (hs : w.dstack = []) :
    let ns := (w.active st l.hdr).lanes.map (·.val)
    crossWhole l s f = .next (s.flew k w st l.hdr { s.blankResult st 0xFFFFFFFF#32 with
      regs := (match w.rg.entry l.d 0 with
          | some e => [(e, Lanes.mk fun q => (f (s.rd k w st l.a 0) ns q).getD (if l.mod.getLsbD 0 then 0 else (w.rg.get e)[q]))] | none => []) ++
        (match w.rg.entry l.b 0 with | some e => [(e, Lanes.splat (BitVec.ofNat 32 ns.length))] | none => []) } 0) := by
  have hn : ¬ (decide (w.slotB.st ≠ .idle) || !w.dstack.isEmpty) = true := by simp [hb, hs]
  refine laneIssue_flies h ((if_neg hn).trans ?_)
  simp only [← modBits_self_beq_one]
  cases w.rg.entry l.d 0 with
  | none => rfl
  | some e =>
    refine congrArg (fun d => LOut.done (s.fly k { s.blankResult st 0xFFFFFFFF#32 with regs := (e, Lanes.mk d) :: _ })) (funext fun q => ?_)
    cases f (s.rd k w st l.a 0) ((w.active st l.hdr).lanes.map (·.val)) q <;> rfl

end

/-! ### Exact reductions (R172, R173) -/

/-- Absent values count as a value that changes no present one. -/
theorem getD_foldr_merge {f : Int → Int → Int} {e : Int} (l : List (Option Int)) (he : ∀ a, some a ∈ l → f a e = a) :
    (l.foldr (Option.merge f) none).getD e = (l.filterMap id).foldr f e := by
  induction l with
  | nil => rfl
  | cons a r ih =>
    have ih := ih fun x hx => he x (List.mem_cons_of_mem _ hx)
    cases a with
    | none => simpa using ih
    | some a =>
      have ha : f a e = a := he a List.mem_cons_self
      rw [List.foldr_cons, List.filterMap_cons_some (f := id) rfl, List.foldr_cons, ← ih]
      cases r.foldr (Option.merge f) none with
      | none => exact ha.symm
      | some z => rfl

theorem redComb_int {t : Nat} (ht : t ≠ 0) (rm : Nat) : (∀ a b, redComb t 0 rm a b = (a + b, 0)) ∧ (∀ a b, redComb t 1 rm a b = (min a b, 0)) ∧ (∀ a b, redComb t 2 rm a b = (max a b, 0)) := by
  simp [redComb, ht]

section
variable {t op rm : Nat} {f : Int → Int → Int} (hc : ∀ a b, redComb t op rm a b = (f a b, 0))
include hc

theorem redLevel_cons (a b : Option Int) (r : List (Option Int)) : redLevel t op rm (a :: b :: r) = (a.merge f b :: (redLevel t op rm r).1, (redLevel t op rm r).2) := by
  cases a <;> cases b <;> simp [redLevel, hc]

theorem redLevel_flags : ∀ l : List (Option Int), (redLevel t op rm l).2 = 0
  | [] | [_] => rfl
  | _ :: _ :: r => by rw [redLevel_cons hc, redLevel_flags r]

theorem length_redLevel : ∀ l : List (Option Int), (redLevel t op rm l).1.length = (l.length + 1) / 2
  | [] => rfl
  | [_] => by simp [redLevel]
  | _ :: _ :: r => by
    rw [redLevel_cons hc, List.length_cons, length_redLevel r, List.length_cons, List.length_cons]
    omega

/-- Combining neighbours leaves the value of the whole. -/
theorem foldr_redLevel [Std.Associative f] : ∀ l : List (Option Int), (redLevel t op rm l).1.foldr (Option.merge f) none = l.foldr (Option.merge f) none
  | [] | [_] => rfl
  | _ :: _ :: r => by rw [redLevel_cons hc, List.foldr_cons, foldr_redLevel r, Std.Associative.assoc (op := (Option.merge f))]; rfl

theorem redTree_eq [Std.Associative f] {n : Nat} {l : List (Option Int)} (hl : l.length ≤ 2 ^ n) : redTree t op rm n l 0 = (l.foldr (Option.merge f) none, 0) := by
  induction n generalizing l with
  | zero =>
    match l, hl with
    | [], _ => rfl
    | [a], _ => simp [redTree]
  | succ n ih =>
    have hn : (redLevel t op rm l).1.length ≤ 2 ^ n := by
      rw [length_redLevel hc]
      omega
    rw [redTree, redLevel_flags hc, ← foldr_redLevel hc]
    exact ih hn

/-- The value of R173 changes no leaf, so the fold may begin with it. -/
theorem redTree_getD [Std.Associative f] [Std.Commutative f] {n : Nat} {l : List (Option Int)} (hl : l.length ≤ 2 ^ n) (he : ∀ a, some a ∈ l → f a (redEmpty t op) = a) :
    (redTree t op rm n l 0).1.getD (redEmpty t op) = (l.filterMap id).foldl f (redEmpty t op) := by
  rw [redTree_eq hc hl, List.foldl_eq_foldr]
  exact getD_foldr_merge l he

end

end Sys2Proof.Machine
end

/-- R167 to R175: shuffles, votes and reductions by the lemmas of their values; `COMPRESS` and `EXPAND` as moves over the whole warp. -/
theorem crossLaneResults : claimCrossLaneResults := by
  open Sys2Proof.Machine in
  intro s k w st l
  have hc : execCompress l s = crossWhole l s _ := rfl
  have he : execExpand l s = crossWhole l s _ := rfl
  refine ⟨fun h => ⟨?_, ?_, ?_, ?_⟩, fun h => ⟨⟨fun hb hs => hc.trans (crossWhole_flies h hb hs), fun hd => hc.trans (crossWhole_xldiv h hd)⟩,
    fun hb hs => he.trans (crossWhole_flies h hb hs), fun hd => he.trans (crossWhole_xldiv h hd)⟩⟩
  · have hx := execShfl_word h
    simp only [shflLane_elim] at hx
    exact hx
  · have hx := execVote_value h
    simp only [voteValue_eq] at hx
    exact hx
  · have hx := execRed_value h
    simp only [redWide_eq] at hx
    exact hx
  · have hx : execScan l s = _ := laneIssue_flies h rfl
    exact hx

/-- R172 and R173: sum, minimum and maximum are exact, associative and commutative, so the tree has the value of a fold (`redTree_getD`). -/
theorem integerReductions : claimIntegerReductions := by
  open Sys2Proof.Machine in
  intro t a ht hr leaf xs q
  have ht0 : t ≠ 0 := by omega
  obtain ⟨hadd, hmin, hmax⟩ := redComb_int ht0 0
  have hl : leaf.length ≤ 2 ^ 5 := by simp [leaf]
  have hle {x : Int} (hx : some x ∈ leaf) : intMin t ≤ x ∧ x ≤ intMax t := by
    obtain ⟨i, -, hi⟩ := List.mem_map.1 hx
    exact hr i x hi
  have e1 : redEmpty t 1 = intMax t := if_neg (by simpa using ht0)
  have e2 : redEmpty t 2 = intMin t := if_neg (by simpa using ht0)
  refine ⟨?_, ?_, ?_, ?_⟩
  · rw [redTree_eq hadd hl]
  · rw [List.sum_eq_foldl]
    exact redTree_getD hadd hl fun x _ => add_zero x
  · rw [← e1]
    exact redTree_getD hmin hl fun x hx => min_eq_left (e1 ▸ (hle hx).2)
  · rw [← e2]
    exact redTree_getD hmax hl fun x hx => max_eq_left (e2 ▸ (hle hx).1)

/-- Settles O26: the lemmas of each instruction, and the tree of an exact reduction. -/
theorem crossLane : Obligations.CrossLane := ⟨crossLaneResults, integerReductions⟩

section
/-! SUPPORT. Fused micro-programs: the definition of a chain, and its run over the registers of each active lane (R176 to R179). -/

namespace Sys2Proof.Machine

section
variable {s : State} {k : Nat} {w : Warp} {st : Stream} {l : LaneReg}

/-! ### `FUSEDEF` (R177, R178) -/

/-- A place before one of the lane section lies in it. -/
theorem Wg.inLane_of_le {g : Wg} {p q : Nat} (hq : g.inLane q = true) (h : p ≤ q) : g.inLane p = true :=
  decide_eq_true (h.trans_lt (of_decide_eq_true hq))

theorem State.badBody_eq_none {g : Wg} {p : Nat} : ∀ {n i : Nat}, (∀ j, i ≤ j → j < i + n → (s.bodyOp g (p + j)).isSome = true) → s.badBody g p n i = none
  | 0, _, _ => rfl
  | n + 1, i, h => by
    have hr : s.badBody g p n (i + 1) = none := State.badBody_eq_none fun j hi hj => h j (by omega) (by omega)
    rw [State.badBody, if_pos (h i le_rfl (by omega)), hr]

/-- The state in which chain `c` of workgroup `g` is the one that the `FUSEDEF` at lane PC `p` defines (R176). -/
def State.defineChain (s : State) (g c p : Nat) : State := s.onWg g fun x => { x with chains := Tbl.put x.chains c p }

theorem State.find_defineChain {g : Nat} {x : Wg} (h : Tbl.find s.wgs g = some x) (c p : Nat) :
    Tbl.find (s.defineChain g c p).wgs g = some { x with chains := Tbl.put x.chains c p } := by
  rw [State.defineChain, State.onWg_wgs, Tbl.adjust_of_find h, Tbl.find_put_same]

/-- The body lies in the section and passes its check, and so does the place behind it: the chain is entered and the body skipped. -/
theorem execFusedef_defines (h : s.laneReady k w st l.hdr (LaneReg.uses1 l)) {g : Wg} (hg : Tbl.find s.wgs (wgOf k) = some g) {n p : Nat}
    (hn : modBits l.mod 9 6 + 1 = n) (hp : (w.slot st).pc.toNat = p) (hi : g.inLane (p + n + 1) = true)
    (hb : ∀ i, 1 ≤ i → i ≤ n → (s.bodyOp g (p + i)).isSome = true) :
    execFusedef l s = .next (((s.defineChain (wgOf k) (modBits l.mod 5 0) p).putWarp k w).onWarp k fun u =>
      u.passLane st l.hdr s.cyc (BitVec.ofNat 20 (p + n + 1))) := by
  have hw : s.wg (wgOf k) = g := State.wg_of_find hg
  have hbad : s.badBody g p n 1 = none := State.badBody_eq_none fun i h1 hin => hb i h1 (by omega)
  have hin : ((s.defineChain (wgOf k) (modBits l.mod 5 0) p).wg (wgOf k)).inLane (p + n + 1) = true := by
    rw [State.wg_of_find (State.find_defineChain hg ..)]
    exact hi
  refine laneIssue_final h ?_
  simp only [hw, hn, hp, Wg.inLane_of_le hi (Nat.le_succ _), hbad]
  exact State.moveLane_inside hin

/-! ### `FUSE` (R179) -/

theorem execFuse_undefined (h : s.laneReady k w st l.hdr (LaneReg.uses1 l)) (hc : Tbl.find (s.wg (wgOf k)).chains (modBits l.mod 5 0) = none) :
    execFuse l s = .next (s.raiseLane k w st cFUSEUND (w.active st l.hdr).toNat) :=
  laneIssue_trap h (by simp only [hc])

/-- The `m` operations behind the `FUSEDEF` at lane PC `p`. -/
def State.chainBody (s : State) (g : Wg) (p m : Nat) : List ChainOp := (List.range m).filterMap fun i => s.bodyOp g (p + 1 + i)

/-- The registers with which a `FUSE` begins in lane `i`: its four sources, the old value of D, and 0 in the temporaries. -/
def State.fuseEnv (s : State) (k : Nat) (w : Warp) (st : Stream) (l : LaneReg) (i : Fin 32) : ChainEnv :=
  [(s.rd k w st l.a 0)[i], (s.rd k w st l.b 0)[i], (s.rd k w st l.c 0)[i], (s.rd k w st l.e 0)[i], (s.rd k w st l.d 0)[i]] ++ List.replicate 11 0

/-- Entry 4 and the flags that a body leaves in lane `i`. -/
def State.chainOut (s : State) (k : Nat) (w : Warp) (st : Stream) (body : List ChainOp) (env : Fin 32 → ChainEnv) (i : Fin 32) : W32 × Flags :=
  let q := runChain s k w st i body 0 (env i) 0
  (q.1.getD 4 0, q.2)

/-- The result is that of the body in each active lane; it keeps what each operation leaves, and draws one free value for each operation and lane. -/
theorem execFuse_runs (h : s.laneReady k w st l.hdr (LaneReg.uses1 l)) {p : Nat} {d : LaneReg} (hc : Tbl.find (s.wg (wgOf k)).chains (modBits l.mod 5 0) = some p)
    (hd : decodeLaneBytes (s.laneBytes (s.wg (wgOf k)) p) = some (.fusedef d)) {body : List ChainOp}
    (hb : s.chainBody (s.wg (wgOf k)) p (modBits d.mod 9 6 + 1) = body) :
    execFuse l s = .next (s.flew k w st l.hdr { laneResult s w st (w.active st l.hdr) l.d (s.chainOut k w st body (s.fuseEnv k w st l)) with
      fuse := some (fuseRun s k w st (w.active st l.hdr) body (s.fuseEnv k w st l)) } (32 * (modBits d.mod 9 6 + 1))) := by
  subst hb
  refine laneIssue_done h ?_
  simp only [hc, hd]
  rfl

end

end Sys2Proof.Machine
end

/-- Settles O27: `FUSEDEF` with a good body enters its chain (`execFusedef_defines`), whose table and place are read off the state; `FUSE` by whether its chain is defined. -/
theorem fusedChains : Obligations.FusedChains := by
  open Sys2Proof.Machine in
  intro s k w st l p h
  exact ⟨fun hi hb hg => ⟨_, execFusedef_defines h hg rfl rfl hi hb, State.find_defineChain hg .., rfl, rfl⟩, execFuse_undefined h, fun d hc hd => execFuse_runs h hc hd rfl⟩

section
/-! SUPPORT. A state against the poison clause of `Obligations.HomeWriteIsOneWrite` (R203, R403). -/

namespace Sys2Proof.Machine

/-- Frame 0 one epoch on, as a function reset leaves it, and word 0 of its line 0, now stale, poisoned before. -/
def stalePoisonState : State := { State.reset with frames := [(0, { Frame.blank with epoch := 1 })], poison := [0] }

/-- A write of byte 64, which is of word 8: the stale line first becomes zeros, and the poison of word 0 goes with its old contents. -/
theorem poison_homeWrite_stalePoison : (stalePoisonState.homeWrite 0 [(64, 1)] []).poison = [] := by decide

end Sys2Proof.Machine
end

/-- Refutes O39: it keeps every poisoned word that is not written whole, where a write to a stale line first makes the line zeros of the frame's epoch (R403), which hold no poison. -/
theorem not_homeWriteIsOneWrite : ¬ Obligations.HomeWriteIsOneWrite := by
  open Sys2Proof.Machine in
  intro h
  obtain ⟨-, -, -, -, hp, -⟩ := h stalePoisonState 0 [(64, 1)] [] (by decide) (by decide)
  have hkept : 0 ∈ (stalePoisonState.homeWrite 0 [(64, 1)] []).poison := (hp 0).2 (.inr ⟨List.mem_singleton_self 0, fun hw => by simpa using hw 0⟩)
  rw [poison_homeWrite_stalePoison] at hkept
  exact List.not_mem_nil hkept

section
/-! SUPPORT. The queues of the engines: what starts, moves and ends an operation of the matrix queue, and a copy of a lane (R264, R272, R273, R275, R284, R285, R289, R406). -/

namespace Sys2Proof.Machine

/-! ### The matrix queue -/

theorem Bank.takeLine_clean {b : Bank} {m : MatOp} (h : b.poison = false ∨ m.done = 0) (line : List Byte) :
    b.takeLine m line false = { b with tile := b.tile.take m.done ++ line, width := m.width, poison := false } := by
  obtain h | h := h <;> simp [Bank.takeLine, h]

section
variable {s : State} {core n : Nat} {m : MatOp} {rest : List MatOp} (ho : s.off = false)
include ho

theorem execWloadStart_clear (hf : (s.core core).matFind n = some m) (hs : m.started = false) (hk : m.kind = .wload)
    (ha : ∀ o ∈ (s.core core).matAhead n, (o.kind = .wload ∨ o.kind = .mma) → o.bank ≠ m.bank) :
    execWloadStart core n s = .next ((s.putCore core { s.core core with
        matq := (s.core core).matq.map fun o => if o.id == n then { o with started := true, res := s.refreshWait m } else o }).onWarp m.warp
      fun w => { w with csr := { w.csr with latcnt := w.csr.latcnt + BitVec.ofNat 64 (s.refreshWait m - s.cyc) } }) := by
  have hfree : ((s.core core).matAhead n).any (fun x => (decide (x.kind = .wload) || decide (x.kind = .mma)) && x.bank == m.bank) = false := by simpa using ha
  simp [execWloadStart, hf, ho, hk, hs, hfree]

theorem execMmaStart_clear (hf : (s.core core).matFind n = some m) (hs : m.started = false) (hk : m.kind = .mma)
    (ha : ∀ o ∈ (s.core core).matAhead n, o.kind = .wload → o.bank ≠ m.bank) : execMmaStart core n s = .next (s.putCore core ((s.core core).startMat n)) := by
  have hfree : ((s.core core).matAhead n).any (fun x => decide (x.kind = .wload) && x.bank == m.bank) = false := by simpa using ha
  simp [execMmaStart, hf, ho, hk, hs, hfree]

variable (hq : (s.core core).matq = m :: rest)
include hq

/-- The next line of a clean tile reaches the bank; the operation stays for the rest of it, or leaves. -/
theorem execWloadDone_clean (hk : m.kind = .wload) (hs : m.started = true) (hr : m.res ≤ s.cyc) (hp : s.tilePoisoned m = false)
    (hb : ((s.core core).bank m.bank).poison = false ∨ m.done = 0) :
    let b := (s.core core).bank m.bank
    let t := s.putCore core ((s.core core).putBank m.bank { b with tile := b.tile.take m.done ++ s.tileLine m, width := m.width, poison := false })
    execWloadDone core m.id s = .next (if m.done + m.lineLen < tileBytes m.width then t.onMat core m.id fun x => { x with done := x.done + m.lineLen }
      else t.onCore core fun c => c.dropMat m.id) := by
  by_cases hl : m.done + m.lineLen < tileBytes m.width <;> simp [execWloadDone, hq, ho, hk, hs, hr, hp, Bank.takeLine_clean hb, hl]

theorem execAccumMoveDone_lands {w : Warp} {r : Result} (hk : m.kind = .azero ∨ m.kind = .aread ∨ m.kind = .awrite) (hw : Tbl.find s.warps m.warp = some w)
    (hr : w.flight.find? (fun r => r.id == m.res) = some r) :
    execAccumMoveDone core m.id s = .next ((s.putCore core ((s.core core).dropMat m.id)).putWarp m.warp (w.land r)) := by
  have hw' : Tbl.find (s.putCore core ((s.core core).dropMat m.id)).warps m.warp = some w := hw
  simp [execAccumMoveDone, hq, ho, hk, State.onWarp_of_find hw', hr, or_assoc]

end

/-! ### The turn of a lane (R264) -/

/-- The smallest number of a list. -/
def least (l : List Nat) : Option Nat := l.foldl (fun m g => match m with | some x => some (min x g) | none => some g) none

theorem foldl_some_min (l : List Nat) (a : Nat) : l.foldl (fun m g => match m with | some x => some (min x g) | none => some g) (some a) = some (l.foldl min a) := by
  induction l generalizing a with
  | nil => rfl
  | cons b l ih => exact ih _

theorem least_eq_min? : ∀ l : List Nat, least l = l.min?
  | [] => rfl
  | a :: l => foldl_some_min l a

section
variable {c : Core} {g : Nat}

theorem Core.laneTurn_eq (c : Core) :
    let gs := (c.copies.map Copy.laneKey).filter c.laneReady
    c.laneTurn = (gs.filter fun g => c.laneAt < g).min?.or gs.min? := by
  simp only [← least_eq_min?]
  exact Option.orElse_eq_or

/-- A ready lane is one of those that stand in the queue. -/
theorem Core.mem_ready_iff : g ∈ (c.copies.map Copy.laneKey).filter c.laneReady ↔ c.laneReady g = true := by
  refine ⟨fun h => (List.mem_filter.1 h).2, fun h => List.mem_filter.2 ⟨?_, h⟩⟩
  cases hx : c.laneHead g with
  | none => simp [Core.laneReady, hx] at h
  | some x => exact List.mem_map.2 ⟨x, List.mem_of_find?_eq_some hx, by simpa using List.find?_some hx⟩

/-- The lane whose turn it is: the next ready one after the lane served last, or the first where none follows. -/
theorem Core.laneTurn_served (h : c.laneTurn = some g) :
    c.laneReady g = true ∧ ∀ j, c.laneReady j = true → (c.laneAt < g → c.laneAt < j → g ≤ j) ∧ (g ≤ c.laneAt → j ≤ c.laneAt ∧ g ≤ j) := by
  rw [Core.laneTurn_eq, Option.or_eq_some_iff, List.min?_eq_none_iff, List.min?_eq_some_iff, List.min?_eq_some_iff] at h
  simp only [List.mem_filter (p := fun g => decide _), List.filter_eq_nil_iff, Core.mem_ready_iff, decide_eq_true_eq] at h
  obtain ⟨⟨hg, hlt⟩, hmin⟩ | ⟨hnone, hg, hmin⟩ := h
  · exact ⟨hg, fun j hj => ⟨fun _ hlj => hmin j ⟨hj, hlj⟩, fun hle => absurd hlt (Nat.not_lt.2 hle)⟩⟩
  · exact ⟨hg, fun j hj => ⟨fun _ _ => hmin j hj, fun _ => ⟨Nat.not_lt.1 (hnone j hj), hmin j hj⟩⟩⟩

theorem Core.laneReady_of_head {y : Copy} (hh : c.laneHead g = some y) (h : c.laneReady g = true) : y.started = true ∧ y.stopped = false ∧ y.wait = [] ∧ y.done < y.total := by
  simpa [Core.laneReady, hh, and_assoc] using h

end

/-! ### The copy queue -/

section
variable {s : State} {core g : Nat} {y : Copy} (hh : (s.core core).laneHead g = some y)
include hh

theorem execCopyStart_head (ho : s.off = false) (hs : y.started = false) (hp : y.stopped = false) :
    execCopyStart core g s = .next (s.onCopy core y.id fun z => { z with started := true }) := by
  simp [execCopyStart, hh, ho, hs, hp]

theorem execCopyBytesPerformed_turn (ho : s.off = false) (ht : (s.core core).laneTurn = some g) :
    execCopyBytesPerformed core g s = .next ((s.onCore core fun z => { z with laneAt := g }).copyStep core y) := by
  simp [execCopyBytesPerformed, hh, ho, ht]

theorem execCopyDone_warp {k : Nat} (hk : y.warp = some k) (hs : y.started = true) (hp : y.stopped = false) (hd : y.total ≤ y.done) :
    execCopyDone core g s = .next (((s.onCore core fun z => { z with copies := z.copies.filter fun z => z.id != y.id }).onWarp k
      fun w => { w with fflags := w.fflags ||| y.flags }).followOn core y) := by
  simp [execCopyDone, hh, hk, hs, hp, hd]

end

end Sys2Proof.Machine
end

/-- Settles O36: the matrix queue by what stands ahead of an operation or at its head, a copy by the head of its lane and the lane's turn (`Core.laneTurn_served`). -/
theorem engineOperations : Obligations.EngineOperations := by
  open Sys2Proof.Machine in
  intro s core n g m rest y c goes ho
  refine ⟨fun hf hs => ⟨execWloadStart_clear ho hf hs, execMmaStart_clear ho hf hs⟩, fun hq => ⟨fun hk hs hr _ hp hb => ?_, fun hk w r => execAccumMoveDone_lands ho hq hk⟩,
    fun hh => ⟨execCopyStart_head hh ho, execCopyBytesPerformed_turn hh ho, fun ht => ?_, fun k => execCopyDone_warp hh⟩⟩
  · have hx := execWloadDone_clean ho hq hk hs hr hp hb
    refine ⟨fun hlt => hx.trans ?_, fun hle hge => hx.trans ?_⟩
    · have hl : m.lineLen = 128 := Nat.min_eq_left (by omega)
      rw [hl, if_pos hlt]
      rfl
    · have hl : m.done + m.lineLen = tileBytes m.width := by
        rw [MatOp.lineLen, Nat.min_eq_right (by omega), Nat.add_sub_cancel' hle]
      rw [hl, if_neg (Nat.lt_irrefl _)]
  · obtain ⟨hg, hturn⟩ := Core.laneTurn_served ht
    obtain ⟨hs, hp, hw, hd⟩ := Core.laneReady_of_head hh hg
    exact ⟨hs, hp, hw, hd, hturn⟩

section
/-! SUPPORT. Requests at their homes, their replies and the release part of an instruction, and the refresh of HBM4E (R187, R195, R197, R199, R201, R202, R225, R226, R230, R243, R262, R397, R403). -/

namespace Sys2Proof.Machine

section
variable {s : State} {q : Nat} {b : Bool} {r : Req}

/-! ### A request in its place -/

/-- No cause of the owner turns a request back at a slice, at a memory-side cache or at the host: only the fabric's queues and the channels know one. -/
theorem State.ownerBounce_none (h4 : qKind q ≠ 4) (h5 : qKind q ≠ 5) (h6 : qKind q ≠ 6) (r : Req) : s.ownerBounce q r = none := by
  simp [State.ownerBounce]

theorem State.turnedBack_none (h : s.ownerBounce q r = none) : s.turnedBack q r = none := by simp [State.turnedBack, h]

theorem State.atHead_of_first (h : b = true ∨ (s.queue q).ord.head? = some r.id) : s.atHead r q b = true := by
  obtain h | h := h
  · simp [State.atHead, h]
  · obtain ⟨t, ht⟩ := List.head?_eq_some_iff.1 h
    simp [State.atHead, ht]

section
variable {n : Nat} (hf : Tbl.find s.reqs n = some r) (hs : r.stage = .queued q b)
include hf hs

theorem execHomeAccess_serves (ho : s.ownerBounce q r = none) : execHomeAccess n s = .next (s.serve r q b) := by
  simp [execHomeAccess, hf, Req.at_, hs, State.turnedBack_none ho]

section
variable (hv : r.kind ≠ .victim)
include hv

theorem execHomeAccess_slice (hq : qKind q = 1) (hm : s.missLine r = none) (hh : r.headOnly = true → b = true ∨ (s.queue q).ord.head? = some r.id) :
    execHomeAccess n s = .next (s.homePerform r) := by
  have hat : (r.headOnly && !s.atHead r q b) = false := by
    cases hr : r.headOnly with
    | false => rfl
    | true => simp [State.atHead_of_first (hh hr)]
  rw [execHomeAccess_serves hf hs (State.ownerBounce_none (by omega) (by omega) (by omega) r)]
  simp [State.serve, hv, hq, hm, hat]

theorem execHomeAccess_cache {l : Nat} (hq : qKind q = 3) (hm : s.missLine r = some l) (hp : (s.line l).place = .msc) :
    execHomeAccess n s = .next (s.fetched r l b) := by
  rw [execHomeAccess_serves hf hs (State.ownerBounce_none (by omega) (by omega) (by omega) r)]
  simp [State.serve, hv, hq, hm, hp]

theorem execHomeAccess_stack {l : Nat} (hq : qKind q = 4) (hm : s.missLine r = some l) (ho : s.ownerBounce q r = none) (hr : (s.fetchLine l r.rh).isSome = true)
    (hb : s.bankBusy (qIndex q) (Config.hbmBank (paOf (l * 128))) = false) (hp : (s.line l).place = .hbm) :
    execHomeAccess n s = .next ((s.openRow r l).fetched r l b) := by
  rw [execHomeAccess_serves hf hs ho]
  simp [State.serve, hv, hq, hm, hr, hb, hp]

end

/-! ### A sharer's answer to a probe (R243) -/

section
variable {ps : List Nat} {core : Nat} (hp : r.probes = some ps) (hc : core ∈ ps)
include hp hc

theorem execHomeProbe_race (hr : s.racesOf r [core] ≠ []) : execHomeProbe n core s = .next (s.memRace r (s.races r.iid)) := by
  simp [execHomeProbe, hf, hp, hc, Req.at_, hs, hr]

theorem execHomeProbe_passes (hr : s.racesOf r [core] = []) :
    let u := { r with probes := some (ps.filter fun c => c != core) }
    execHomeProbe n core s = .next (if ps.filter (fun c => c != core) = [] then (s.putReq u).markClear u else s.putReq u) := by
  by_cases hl : ps.filter (fun c => c != core) = [] <;> simp [execHomeProbe, hf, hp, hc, Req.at_, hs, hr, hl, List.isEmpty_iff]

end

end

/-! ### What the slice does with it (R243, R245, R397, R403) -/

theorem State.homePerform_foreign (hf : s.foreign r = true) : s.homePerform r = s.refuse r := if_pos hf

section
variable (hf : s.foreign r = false)
include hf

theorem State.homePerform_late (hl : s.lateWrite r = true) : s.homePerform r = (s.leaveQueue r).putReq { r with stage := .performed } := by
  simp [State.homePerform, hf, hl]

variable (hl : s.lateWrite r = false)
include hl

theorem State.homePerform_alone (hg : r.gang = false) : s.homePerform r = (s.leaveQueue r).performAt r := by simp [State.homePerform, hf, hl, hg]

variable (hg : r.gang = true)
include hg

theorem State.homePerform_clear (hc : r.clear = true) : s.homePerform r = s.tryGang r.iid := by simp [State.homePerform, hf, hl, hg, hc]

variable (hc : r.clear = false)
include hc

theorem State.homePerform_race (hr : s.racesOf r [] ≠ []) : s.homePerform r = s.memRace r (s.races r.iid) := by
  simp [State.homePerform, hf, hl, hg, hc, hr]

theorem State.homePerform_unshared (hr : s.racesOf r [] = []) (hn : s.checked r = false ∨ r.writes = false ∨ s.sharersOf r = []) : s.homePerform r = s.markClear r := by
  have hnone : (!s.checked r || !r.writes || (s.sharersOf r).isEmpty) = true := by simpa [or_assoc] using hn
  simp [State.homePerform, hf, hl, hg, hc, hr, hnone]

theorem State.homePerform_probes (hr : s.racesOf r [] = []) (hk : s.checked r = true) (hw : r.writes = true) (hs : s.sharersOf r ≠ []) (hp : r.probes = none) :
    s.homePerform r = s.putReq { r with probes := some (s.sharersOf r) } := by
  simp [State.homePerform, hf, hl, hg, hc, hr, hk, hw, hs, hp]

end

/-! ### Replies (R225, R262) -/

section
variable {n : Nat} (hf : Tbl.find s.reqs n = some r)
include hf

theorem execRequestReply_performed (hs : r.stage = .performed) : execRequestReply n s = .next (s.finish r) := by simp [execRequestReply, hf, hs]

theorem execRequestReply_granted (hs : r.stage = .granted) (hr : s.roomL1 r.core r.line = true) : execRequestReply n s = .next (s.performStore r) := by
  simp [execRequestReply, hf, hs, hr]

end

theorem State.finish_ingress (hc : r.cls = .ingress) : s.finish r = s.respond r := by simp [State.finish, hc]

theorem State.finish_fault (hc : r.cls ≠ .ingress) (hf : r.fault ≠ 0) : s.finish r = (s.fillFrom { r with snap := [] }).dropFault r r.fault := by
  simp [State.finish, hc, hf]

theorem State.finish_accepts (hc : r.cls ≠ .ingress) (hf : r.fault = 0) (hr : r.snap = [] ∨ r.bypass = true ∨ s.roomL1 r.core r.line = true) :
    s.finish r = s.accept r := by
  have hroom : (!r.snap.isEmpty && !r.bypass && !s.roomL1 r.core r.line) = false := by simpa [← Bool.not_or, or_assoc] using hr
  simp [State.finish, hc, hf, hroom]

/-! ### The release part (R230, R262) -/

section
variable {k : Nat} (ho : s.oldestRelease k = some r)
include ho

theorem execReleasePart_narrow (h1 : r.rel = 1) (hr : s.releaseReady k r = true) (hs : r.scope = 0) : execReleasePart k s = .next (s.endRelease k r) := by
  simp [execReleasePart, ho, h1, hr, hs]

theorem execReleasePart_writes (h1 : r.rel = 1) (hr : s.releaseReady k r = true) (hs : r.scope ≠ 0) :
    let t := (s.setRel r.iid 2).releaseWrites k r
    execReleasePart k s = .next (if t.writesBack k r then t else t.endRelease k r) := by
  by_cases hw : ((s.setRel r.iid 2).releaseWrites k r).writesBack k r = true <;> simp [execReleasePart, ho, h1, hr, hs, hw]

theorem execReleasePart_acknowledged (h2 : r.rel = 2) (hw : ∀ y ∈ s.reqList, y.kind = .wback → y.cls = .warp → y.parent ≠ r.iid)
    (he : ∀ y ∈ s.reqList, y.kind = .wback → y.cls = .eviction → y.core = r.core → ∀ a ∈ y.accs, a.cmp ≠ wgOf k) : execReleasePart k s = .next (s.endRelease k r) := by
  have hnone : s.writesBack k r = false := by simpa [State.writesBack, State.evicting] using ⟨he, hw⟩
  simp [execReleasePart, ho, h2, hnone]

end

end

/-! ### HBM4E (R199, R201, R202) -/

section
variable {s : State} {ch bank : Nat}

theorem execHbmRefreshDue_done (h : Tbl.getD (s.chan ch).due bank 0 = s.cyc / 5460) : execHbmRefreshDue ch bank s = .next s := by
  simp [execHbmRefreshDue, Chan.refreshed, refInterval, h]

section
variable (h : Tbl.getD (s.chan ch).due bank 0 ≠ s.cyc / 5460)
include h

/-- The channel once the refresh of this interval has fallen due for the bank. -/
def Chan.dueAt (c : Chan) (bank now : Nat) : Chan := { c with due := Tbl.put c.due bank (refInterval now) }

theorem execHbmRefreshDue_all (hc : 8 ≤ (s.chan ch).count) :
    execHbmRefreshDue ch bank s = .next (s.putChan ch { ((s.chan ch).dueAt bank s.cyc).occupy allBanks s.cyc 574 with count := 0, owing := [] }) := by
  simp [execHbmRefreshDue, Chan.refreshed, refInterval, h, hc, Chan.dueAt]

theorem execHbmRefreshDue_postponed (hc : (s.chan ch).count < 8) (hr : ∃ r ∈ s.pendingAt ch bank, r.isRead = true) :
    let c := s.chan ch
    execHbmRefreshDue ch bank s =
      .next (s.putChan ch { c.dueAt bank s.cyc with count := c.count + 1, owing := Tbl.put c.owing bank (Tbl.getD c.owing bank 0 + 1) }) := by
  simp [execHbmRefreshDue, Chan.refreshed, refInterval, h, Nat.not_le.2 hc, hr, Chan.dueAt]

theorem execHbmRefreshDue_one (hc : (s.chan ch).count < 8) (hr : ∀ r ∈ s.pendingAt ch bank, r.isRead = false) :
    execHbmRefreshDue ch bank s = .next (s.putChan ch (((s.chan ch).dueAt bank s.cyc).occupy bank s.cyc 224)) := by
  have hnone : (s.pendingAt ch bank).any Req.isRead = false := by simpa using hr
  simp [execHbmRefreshDue, Chan.refreshed, refInterval, h, Nat.not_le.2 hc, hnone, Chan.dueAt]

end

theorem execPostponedRefresh_free {m : Nat} (hm : Tbl.getD (s.chan ch).owing bank 0 = m + 1) (hp : s.pendingAt ch bank = []) (hb : s.bankBusy ch bank = false) :
    let c := s.chan ch
    execPostponedRefresh ch bank s = .next (s.putChan ch { c.occupy bank s.cyc 224 with
      count := c.count - 1
      owing := if m = 0 then Tbl.del c.owing bank else Tbl.put c.owing bank m }) := by
  simp [execPostponedRefresh, hm, hp, hb]

theorem execRowThresholdReached_throttles {vf row : Nat} (h1 : 1 ≤ vf) (h32 : vf ≤ 32)
    (ha : ∃ m, s.rowguard.lo ≤ m ∧ (vf, bank, row, m) ∈ ((s.chan ch).rolled s.cyc).acts) (hg : ∀ m, (vf, bank, row, m) ∉ ((s.chan ch).rolled s.cyc).gated) :
    let c := (s.chan ch).rolled s.cyc
    execRowThresholdReached vf ch bank row s = .next { (s.putChan ch { c with
        busy := Tbl.put c.busy bank (max (Tbl.getD c.busy bank 0) s.cyc + 420)
        gated := c.gated ++ [(vf, bank, row, s.cyc + s.gap)] }).charge vf 4096 with irqs := s.irqs ++ [⟨0, 3, rowRecord vf ch bank row, 0⟩] } := by
  obtain ⟨m, hlo, hm⟩ := ha
  have hover : ((s.chan ch).rolled s.cyc).acts.any (fun x => x.1 == vf && x.2.1 == bank && x.2.2.1 == row && s.rowguard.lo ≤ x.2.2.2) = true :=
    List.any_eq_true.2 ⟨_, hm, by simpa using hlo⟩
  have hfree : ((s.chan ch).rolled s.cyc).gated.any (fun x => x.1 == vf && x.2.1 == bank && x.2.2.1 == row) = false := by
    refine List.any_eq_false.2 fun x hx he => ?_
    obtain ⟨f, b, w, m⟩ := x
    obtain ⟨⟨rfl, rfl⟩, rfl⟩ : (f = vf ∧ b = bank) ∧ w = row := by simpa using he
    exact hg m hx
  simp only [execRowThresholdReached, h1, h32, hover, hfree]
  rfl

/-- A new period leaves what the banks are busy with. -/
theorem Chan.rolled_busy (c : Chan) (now : Nat) : (c.rolled now).busy = c.busy := by
  unfold Chan.rolled
  split <;> rfl

end

end Sys2Proof.Machine
end

/-- A queued request by what its place does with it, a performed one by its class, a release part by how far it has come. -/
theorem homesAndReplies : claimHomesAndReplies := by
  open Sys2Proof.Machine in
  intro s n k core q l b r
  refine ⟨fun hf hs => ⟨fun hq hv hm hh => ?_, fun hq hv => execHomeAccess_cache hf hs hv hq, fun hq hv => execHomeAccess_stack hf hs hv hq,
      fun ps hp hc => ⟨execHomeProbe_race hf hs hp hc, execHomeProbe_passes hf hs hp hc⟩⟩, fun hf hs => ?_, execRequestReply_granted,
    fun ho => ⟨execReleasePart_narrow ho, execReleasePart_writes ho, execReleasePart_acknowledged ho⟩⟩
  · have hx : ∀ {t : State}, s.homePerform r = t → execHomeAccess n s = .next t := by
      rintro t rfl
      exact execHomeAccess_slice hf hs hv hq hm hh
    exact ⟨fun h => hx (State.homePerform_foreign h), fun h hl => hx (State.homePerform_late h hl), fun h hl => ⟨fun hg => hx (State.homePerform_alone h hl hg),
      fun hg hc => hx (State.homePerform_clear h hl hg hc), fun hg hc => ⟨fun hr => hx (State.homePerform_race h hl hg hc hr),
        fun hr hn => hx (State.homePerform_unshared h hl hg hc hr hn), fun hr hk hw hn hp => hx (State.homePerform_probes h hl hg hc hr hk hw hn hp)⟩⟩⟩
  · have hx : execRequestReply n s = .next (s.finish r) := execRequestReply_performed hf hs
    exact ⟨fun hc => hx.trans (congrArg _ (State.finish_ingress hc)), fun hc h0 => hx.trans (congrArg _ (State.finish_fault hc h0)),
      fun hc h0 hr => hx.trans (congrArg _ (State.finish_accepts hc h0 hr))⟩

/-- R197, R199, R201 and R202: a refresh by what is due and who waits; a row by its count; the counts by the period. -/
theorem dramMaintenance : claimDramMaintenance := by
  open Sys2Proof.Machine in
  intro s ch bank vf row edge die
  refine ⟨execHbmRefreshDue_done, execHbmRefreshDue_all, execHbmRefreshDue_postponed, execHbmRefreshDue_one, fun m => execPostponedRefresh_free,
    fun h1 h32 ha hg => ?_, rfl, rfl⟩
  have hx := execRowThresholdReached_throttles h1 h32 ha hg
  simp only [Chan.rolled_busy] at hx
  exact hx

/-- Settles O42: requests at their homes and their replies, and the refresh of the stacks. -/
theorem homesAndMemory : Obligations.HomesAndMemory := ⟨homesAndReplies, dramMaintenance⟩

section
/-! SUPPORT. The host port, resets, scrubbing, self-test, spares and upsets: what each event does, and what it leaves (R203, R396, R402 to R406, R411). -/

namespace Sys2Proof.Machine

/-! ### What the write-back of a line leaves -/

/-- What each step of a fold leaves, the fold leaves. -/
theorem foldl_leaves {α β γ : Type} {f : β → α → β} (g : β → γ) (hf : ∀ b a, g (f b a) = g b) (l : List α) (b : β) : g (l.foldl f b) = g b :=
  foldl_keeps (p := fun c => g c = g b) (fun c a hc => (hf c a).trans hc) l rfl

theorem Memory.read_clear_other (m : Memory) {lo n a : Nat} (h : a < lo ∨ lo + n ≤ a) : Memory.read (Memory.clear m lo n) a = Memory.read m a := by
  have hfind : Tbl.find (Memory.clear m lo n) a = Tbl.find m a := by
    induction m with
    | nil => rfl
    | cons c m ih =>
      by_cases hc : a = c.1
      · subst hc
        simp [Memory.clear, Tbl.find, h]
      · rw [Tbl.find, if_neg hc, ← ih, Memory.clear, List.filter_cons]
        split
        · exact if_neg hc
        · rfl
  rw [Memory.read, hfind, Memory.read]

theorem Memory.read_writes_other {bytes : List (Nat × Byte)} {a : Nat} (h : ∀ b ∈ bytes, b.1 ≠ a) (m : Memory) :
    Memory.read (bytes.foldl (fun m b => Memory.write m b.1 b.2) m) a = Memory.read m a := by
  induction bytes generalizing m with
  | nil => rfl
  | cons b r ih =>
    obtain ⟨hb, hr⟩ := List.forall_mem_cons.1 h
    rw [List.foldl_cons, ih hr, Memory.read_write, if_neg (Ne.symm hb)]

section
variable (s : State) (core g l : Nat)

theorem State.read_homeWrite_other {bytes : List (Nat × Byte)} {a : Nat} (hb : ∀ b ∈ bytes, b.1 / 128 = l) (ha : a / 128 ≠ l) (bad : List Nat) :
    Memory.read (s.homeWrite l bytes bad).mem a = Memory.read s.mem a := by
  have hw : ∀ b ∈ bytes, b.1 ≠ a := fun b hm he => ha (he ▸ hb b hm)
  simp only [State.homeWrite, State.putLine_mem, Memory.read_writes_other hw]
  split
  · exact Memory.read_clear_other _ (by omega)
  · rfl

theorem line_of_mem_ownedBytes {w : Nat} {x : L1Word} {b : Nat × Byte} (h : b ∈ ownedBytes w x) : b.1 / 128 = w / 32 := by
  obtain ⟨i, hi, hx⟩ := List.mem_filterMap.1 h
  have hi := List.mem_range.1 hi
  split at hx
  · cases hx
    dsimp only
    omega
  · cases hx

/-- The words written back are among those asked for. -/
theorem State.word_of_mem_ownedOf {words : List Nat} {y : Nat × L1Word × Nat} (h : y ∈ s.ownedOf core words) : y.1 ∈ words := by
  obtain ⟨w, hw, hx⟩ := List.mem_filterMap.1 h
  split at hx
  · obtain ⟨i, -, rfl⟩ := Option.map_eq_some_iff.1 hx
    exact hw
  · cases hx

theorem State.deregister_warps (s : State) (w g : Nat) : (s.deregister w g).warps = s.warps := rfl
theorem State.deregister_boot (s : State) (w g : Nat) : (s.deregister w g).boot = s.boot := rfl

theorem State.writeBackLine_warps (words : List Nat) : (s.writeBackLine core l words).warps = s.warps := by
  rw [State.writeBackLine, State.onCore_warps, foldl_leaves State.warps fun t (y : Nat × L1Word × Nat) => t.deregister_warps y.1 y.2.2]
  split <;> rfl

theorem State.writeBackLine_boot (words : List Nat) : (s.writeBackLine core l words).boot = s.boot := by
  rw [State.writeBackLine, State.onCore_boot, foldl_leaves State.boot fun t (y : Nat × L1Word × Nat) => t.deregister_boot y.1 y.2.2]
  split <;> rfl

theorem State.read_writeBackLine_other {words : List Nat} {a : Nat} (hw : ∀ w ∈ words, w / 32 = l) (ha : a / 128 ≠ l) :
    Memory.read (s.writeBackLine core l words).mem a = Memory.read s.mem a := by
  rw [State.writeBackLine, State.onCore_mem, foldl_leaves State.mem fun b _ => b.deregister_mem _ _]
  split
  · rfl
  · refine s.read_homeWrite_other l (fun b hb => ?_) ha _
    obtain ⟨y, hy, hb⟩ := List.mem_flatMap.1 hb
    exact (line_of_mem_ownedBytes hb).trans (hw _ (s.word_of_mem_ownedOf core (List.mem_filter.1 hy).1))

theorem State.line_of_mem_ownDirty {w : Nat} (h : w ∈ s.ownDirty core g l) : w / 32 = l := by
  obtain ⟨x, hx, rfl⟩ := List.mem_map.1 h
  have hx := (List.mem_filter.1 hx).2
  simp only [Bool.and_eq_true, beq_iff_eq] at hx
  exact hx.1

@[simp] theorem State.flushLine_warps : (s.flushLine core g l).warps = s.warps := s.writeBackLine_warps core l _
@[simp] theorem State.flushLine_boot : (s.flushLine core g l).boot = s.boot := s.writeBackLine_boot core l _

theorem State.read_flushLine_other {a : Nat} (ha : a / 128 ≠ l) : Memory.read (s.flushLine core g l).mem a = Memory.read s.mem a :=
  s.read_writeBackLine_other core l (fun _ => s.line_of_mem_ownDirty core g l) ha

@[simp] theorem State.dropFilled_warps : (s.dropFilled core l).warps = s.warps := by simp [State.dropFilled, State.dropWords, State.voidFills]

end

/-! ### The host port (R396) -/

section
variable {s : State} {line : Nat} {inval : Bool}

theorem execHostSnoop_notDue (h : homeOf (line * 128) ≠ 1 ∨ Tbl.find s.hostLines line = none) : execHostSnoop line inval s = .next s :=
  if_pos (by simpa using h)

/-- The words of the line go home from every L1, then the slice's entry changes: up to it the warps and every other line stay. -/
theorem execHostSnoop_takes {own : Bool} (hh : homeOf (line * 128) = 1) (hf : Tbl.find s.hostLines line = some own) :
    ∃ u : State, u.warps = s.warps ∧ (∀ a, a / 128 ≠ line → Memory.read u.mem a = Memory.read s.mem a) ∧
      execHostSnoop line inval s = .next { u.putLine line { u.line line with sharers := [], dirty := false, place := if inval then .hbm else (u.line line).place } with
        hostLines := if inval then Tbl.del u.hostLines line else Tbl.put u.hostLines line false } := by
  have hdue : ¬ (homeOf (line * 128) != 1 || (Tbl.find s.hostLines line).isNone) = true := by simp [hh, hf]
  have hx : execHostSnoop line inval s = _ := if_neg hdue
  extract_lets owners s1 s2 s3 x at hx
  have hwarps : s2.warps = s1.warps := foldl_leaves State.warps (fun t c => t.dropFilled_warps c line) _ s1
  have hmem : s2.mem = s1.mem := foldl_leaves State.mem (fun t c => t.dropFilled_mem c line) _ s1
  refine ⟨s3, hwarps.trans ?_, fun a ha => (congrArg (Memory.read · a) hmem).trans ?_, hx⟩
  · exact foldl_leaves State.warps (fun t (x : Nat × Nat) => t.flushLine_warps x.1 x.2 line) owners s
  · exact foldl_leaves (fun t => Memory.read t.mem a) (fun t (x : Nat × Nat) => t.read_flushLine_other x.1 x.2 line ha) owners s

variable {fn pa : Nat}

theorem State.hostAccess_fits {n : Nat} (hr : s.inHdm fn pa n = true) (hb : s.bufferUse .host 0 + (cutLines pa n).length ≤ hostEntries) (kind : ReqKind)
    (f : Nat → Nat → Access) : s.hostAccess fn pa n kind f = .next ((cutLines pa n).foldl (fun s p => s.hostReq fn kind [f p.2.1 p.2.2]) s) :=
  if_neg (by simp [hr, hb])

theorem execHostMemWrite_fits {bytes : List Byte} (hr : s.inHdm fn pa bytes.length = true)
    (hb : s.bufferUse .host 0 + (cutLines pa bytes.length).length ≤ hostEntries) :
    execHostMemWrite fn pa bytes s = .next ((cutLines pa bytes.length).foldl
      (fun s p => s.hostReq fn .store [⟨32, p.2.1, p.2.1, p.2.2, leNat ((bytes.drop (p.2.1 - pa)).take p.2.2), 0, 2 ^ p.2.2 - 1⟩]) s) := by
  rw [execHostMemWrite, State.hostAccess_fits hr hb]

theorem execHostMemRead_fits {n : Nat} (hr : s.inHdm fn pa n = true) (hb : s.bufferUse .host 0 + (cutLines pa n).length ≤ hostEntries) :
    execHostMemRead fn pa n s = .next ((cutLines pa n).foldl (fun s p => s.hostReq fn .load [⟨32, p.2.1, p.2.1, p.2.2, 0, 0, 0⟩]) s) := by
  rw [execHostMemRead, State.hostAccess_fits hr hb]

end

/-! ### Function reset (R402) -/

section
variable {s : State} {vf : Nat}

theorem execFunctionReset_begins (h1 : 1 ≤ vf) (h32 : vf ≤ 32) (hr : (s.fn vf).resetStep = 0) :
    execFunctionReset vf s = .next ((((s.resetWork vf).resetMemory vf).resetFabric vf).onFn vf fun f => { f with resetStep := 4 }) :=
  if_neg (by simp [hr, Nat.ne_of_gt h1, h32])

theorem State.wgs_resetWork {y : Nat × Wg} (h : y ∈ (s.resetWork vf).wgs) : y.2.fn ≠ vf := by simpa using (List.mem_filter.1 h).2

theorem State.cmdq_resetWork {q : Nat × Queue} (h : q ∈ (s.resetWork vf).cmdq) : q.2.fn ≠ vf := by simpa using (List.mem_filter.1 h).2

theorem State.pages_resetMemory {p : PageEntry} (h : p ∈ (s.resetMemory vf).pages) : p.fn ≠ vf := by simpa using (List.mem_filter.1 h).2

theorem State.slots_resetFabric : ((s.resetFabric vf).fn vf).slots = [] := by simp [State.resetFabric]

theorem execFunctionResetComplete_waits (hw : s.resetWaits vf = true) : execFunctionResetComplete vf s = .next s := if_pos (by simp [hw])

/-- A frame once the reset of function `vf` is complete. -/
def Frame.afterReset (vf : Nat) (f : Frame) : Frame :=
  if f.owner == vf then { f with epoch := f.epoch + 1, scrub := true, rises := if f.scrub then f.rises + 1 else 0 } else f

theorem Frame.afterReset_own {f : Frame} (h : f.owner = vf) : f.afterReset vf = { f with epoch := f.epoch + 1, scrub := true, rises := if f.scrub then f.rises + 1 else 0 } :=
  if_pos (by simpa using h)

theorem Frame.afterReset_other {f : Frame} (h : f.owner ≠ vf) : f.afterReset vf = f := if_neg (by simpa using h)

theorem Frame.afterReset_owner (f : Frame) : (f.afterReset vf).owner = f.owner := by
  unfold Frame.afterReset
  split <;> rfl

theorem execFunctionResetComplete_ends (hr : (s.fn vf).resetStep ≠ 0) (hw : s.resetWaits vf = false) :
    execFunctionResetComplete vf s = .next (({ s with frames := Tbl.mapVal (fun _ f => f.afterReset vf) s.frames } : State).onFn vf fun f => { f with
      resetStep := 0
      unlock := Unlock.reset
      icoal := Fn.reset.icoal
      arb := Fn.reset.arb
      park := Fn.reset.park
      stidle := Fn.reset.stidle
      vfbud := Fn.reset.vfbud
      vfscope := Fn.reset.vfscope
      bucket := 0
      filledAt := s.cyc }) :=
  if_neg (by simp [hr, hw])

end

/-! ### Scrubbing (R403) -/

section
variable {s : State} {line : Nat}

/-- The state in which the scrubber has made a stale line zeros. -/
def State.scrubbed (s : State) (line : Nat) : State :=
  { s.putLine line { s.line line with version := 0, epoch := (s.frame (line / 512)).epoch, owners := [], sharers := [], dirty := true } with
    mem := Memory.clear s.mem (line * 128) 128
    poison := s.poison.filter fun w => w / 16 != line }

theorem State.line_scrubbed (s : State) (line : Nat) :
    (s.scrubbed line).line line = { s.line line with version := 0, epoch := (s.frame (line / 512)).epoch, owners := [], sharers := [], dirty := true } := by
  simp [State.line, State.scrubbed, Tbl.getD]

/-- The frame may leave scrub-pending with the line; memory and lines do not see it. -/
theorem execScrubLine_stale (hl : line < 2 ^ 50) (hs : s.stale (line * 128) = true) :
    ∃ t : State, execScrubLine line s = .next t ∧ t.mem = (s.scrubbed line).mem ∧ t.lines = (s.scrubbed line).lines := by
  simp only [execScrubLine, if_neg (Nat.not_le.2 hl), if_pos hs]
  split <;> exact ⟨_, rfl, rfl, rfl⟩

theorem execScrubLine_fresh (hs : s.stale (line * 128) = false) : ∃ t : State, execScrubLine line s = .next t ∧ t.mem = s.mem ∧ t.lines = s.lines := by
  simp only [execScrubLine, hs, Bool.false_eq_true, if_false]
  split
  · exact ⟨_, rfl, rfl, rfl⟩
  · split <;> exact ⟨_, rfl, rfl, rfl⟩

end

/-! ### Device reset and self-test (R405) -/

/-- Self-test begins, or no image boots and the device is in the safe state. -/
theorem Boot.afterReset_begins (b : Boot) : b.afterReset.stage = 0 ∧ (b.afterReset.running = true ∨ b.afterReset.safe = true) := by
  unfold Boot.afterReset
  dsimp only
  split
  · unfold Boot.burn
    split <;> exact ⟨rfl, .inl rfl⟩
  · exact ⟨rfl, .inr rfl⟩

section
variable {s : State} (hr : s.boot.running = true)
include hr

theorem execSelfTestStageDone_pass (x : FailPart × Nat) :
    execSelfTestStageDone true x s = .next { s with boot := { s.boot with stage := s.boot.stage + 1, repeat_ := false, running := decide (s.boot.stage + 1 < 6) } } := by
  simp [execSelfTestStageDone, hr]

theorem execSelfTestStageDone_spare {k : SpareKind} {part phys : Nat} (hn : s.boot.repeat_ = false) (hl : s.boot.spareLeft k part = true)
    (hf : s.boot.spareFree k part phys = true) :
    execSelfTestStageDone false (.part k part, phys) s = .next { s.substitute k part phys with boot := { (s.substitute k part phys).boot with repeat_ := true } } := by
  simp [execSelfTestStageDone, hr, hn, hl, hf]

/-- No spare takes the failing part's place: the safe state, and its entry in the report. -/
theorem execSelfTestStageDone_fails {x : FailPart × Nat}
    (hx : ∀ k part phys, x = (.part k part, phys) → s.boot.repeat_ = true ∨ s.boot.spareLeft k part = false ∨ s.boot.spareFree k part phys = false) :
    execSelfTestStageDone false x s = .next { s with boot := { s.boot with running := false, safe := true, report := s.boot.report ++ [(s.boot.stage + 1, x.1)] } } := by
  obtain ⟨x, phys⟩ := x
  cases x with
  | part k part =>
    have hno : ¬ (!s.boot.repeat_ && s.boot.spareLeft k part && s.boot.spareFree k part phys) = true := by
      obtain h | h | h := hx k part phys rfl <;> simp [h]
    simp [execSelfTestStageDone, hr, hno]
  | other n => simp [execSelfTestStageDone, hr]
  | image => simp [execSelfTestStageDone, hr]

end

theorem execSelfTestStageDone_idle {s : State} (hr : s.boot.running = false) (pass : Bool) (x : FailPart × Nat) : execSelfTestStageDone pass x s = .next s := by
  simp [execSelfTestStageDone, hr]

/-! ### Spares (R28, R411) -/

section
variable {s : State} {k : SpareKind} {part phys : Nat}

theorem State.trigger_awaits (h : s.boot.spareLeft k part = true ∨ (k, part) ∈ s.boot.pending) : s.trigger k part = s.awaitSpare k part := if_pos (by simpa using h)

theorem State.trigger_fails (hl : s.boot.spareLeft k part = false) (hp : (k, part) ∉ s.boot.pending) : s.trigger k part = (s.management part).enterSafe :=
  if_neg (by simp [hl, hp])

theorem execSpareSubstitution_quiescent (hp : (k, part) ∈ s.boot.pending) (hq : s.quiescent k part = true) (hf : s.boot.spareFree k part phys = true) :
    execSpareSubstitution k part phys s = .next (s.substitute k part phys) :=
  if_neg (by simp [hp, hq, hf])

theorem execSpareSubstitution_waits (h : (k, part) ∉ s.boot.pending ∨ s.quiescent k part = false ∨ s.boot.spareFree k part phys = false) :
    execSpareSubstitution k part phys s = .next s :=
  if_pos (by simpa [or_assoc] using h)

/-- Whatever a substitution changes beside the map, the map is not among it. -/
theorem State.putSpare_map (s : State) (k : SpareKind) (part phys : Nat) :
    (s.putSpare k part phys).boot.spares = s.boot.spares ∧ (s.putSpare k part phys).boot.pending = s.boot.pending := by
  cases k with
  | core =>
    have hb : (s.putSpare .core part phys).boot = s.boot := by
      simp only [State.putSpare, State.onCore_boot]
      exact foldl_leaves State.boot (fun t g => foldl_leaves State.boot (fun u l => u.flushLine_boot part g l) _ t) _ s
    rw [hb]
    exact ⟨rfl, rfl⟩
  | l2way | edramRow | hbmRow | lane | poolRow | tlb | hostPort => exact ⟨rfl, rfl⟩

/-- Only a core's spare brings words of an L1 home. -/
theorem State.putSpare_leaves (s : State) (hk : k ≠ .core) : (s.putSpare k part phys).mem = s.mem ∧ (s.putSpare k part phys).warps = s.warps := by
  cases k with
  | core => exact absurd rfl hk
  | l2way | edramRow | hbmRow | lane | poolRow | tlb | hostPort => exact ⟨rfl, rfl⟩

theorem State.substitute_map (s : State) (k : SpareKind) (part phys : Nat) :
    (s.substitute k part phys).boot.spares = s.boot.spares ++ [(k, part, phys)] ∧ (s.substitute k part phys).boot.pending = s.boot.pending.erase (k, part) :=
  State.putSpare_map _ k part phys

theorem State.substitute_leaves (s : State) (hk : k ≠ .core) : (s.substitute k part phys).mem = s.mem ∧ (s.substitute k part phys).warps = s.warps :=
  State.putSpare_leaves _ hk

end

/-! ### Upsets (R203, R411) -/

/-- The error counter of the structure at a site has risen by one. -/
def State.countError (s : State) (site : UpsetSite) : State :=
  { s with boot := { s.boot with errors := Tbl.put s.boot.errors (s.siteCounter site) (Tbl.getD s.boot.errors (s.siteCounter site) 0 + 1) } }

section
variable {s : State} {site : UpsetSite}

section
variable (h : s.sitePart site = none)
include h

theorem execSoftError_corrected_noPart : execSoftError site true s = .next (s.countError site) := by simp [execSoftError, h, State.countError]

theorem execSoftError_poisons_noPart : execSoftError site false s = .next (s.poisonAt site) := by simp [execSoftError, h]

end

section
variable {k : SpareKind} {part : Nat} (h : s.sitePart site = some (k, part))
include h

theorem execSoftError_corrected_part : execSoftError site true s = .next ((s.countError site).strike (k, part)) := by simp [execSoftError, h, State.countError]

theorem execSoftError_poisons_part : execSoftError site false s = .next ((s.poisonAt site).trigger k part) := by simp [execSoftError, h]

end

/-- The corrected errors of the last 24 hours, with one more of a part. -/
def State.struck (s : State) (k : SpareKind) (part : Nat) : List (SpareKind × Nat × Nat) :=
  s.boot.strikes.filter (fun x => s.cyc < x.2.2 + 24 * 3600 * Config.msec 1000) ++ [(k, part, s.cyc)]

theorem State.strike_eq (s : State) (k : SpareKind) (part : Nat) :
    let t : State := { s with boot := { s.boot with strikes := s.struck k part } }
    s.strike (k, part) = if 64 ≤ ((s.struck k part).filter fun x => decide (x.1 = k) && x.2.1 == part).length then t.trigger k part else t := rfl

end

/-! ### Failover of the host port -/

theorem Tbl.mem_del_iff {α : Type} {m : Tbl α} {k : Nat} {x : Nat × α} : x ∈ Tbl.del m k ↔ x ∈ m ∧ x.1 ≠ k := by
  induction m with
  | nil => simp [Tbl.del]
  | cons y m ih =>
    by_cases hk : k = y.1
    · rw [Tbl.del, if_pos hk, ih]
      grind
    · rw [Tbl.del, if_neg hk, List.mem_cons, ih]
      grind

theorem State.clearCongestion_queues (s : State) (q : Nat) : ∃ qs, s.clearCongestion q = { s with queues := qs } := by
  unfold State.clearCongestion
  dsimp only
  split <;> exact ⟨_, rfl⟩

theorem State.grantResv_queues (s : State) (q c : Nat) : ∃ qs, s.grantResv q c = { s with queues := qs } := by
  unfold State.grantResv
  dsimp only
  split
  · exact ⟨_, rfl⟩
  · split <;> exact ⟨_, rfl⟩

/-- A request that leaves its queue changes the queues alone. -/
theorem State.leaveQueue_queues (s : State) (r : Req) : ∃ qs, s.leaveQueue r = { s with queues := qs } := by
  unfold State.leaveQueue
  split
  · dsimp only
    split
    · obtain ⟨qs, h⟩ := State.grantResv_queues (State.clearCongestion _ _) _ _
      rw [h]
      obtain ⟨qs, h⟩ := State.clearCongestion_queues _ _
      rw [h]
      exact ⟨_, rfl⟩
    · obtain ⟨qs, h⟩ := State.clearCongestion_queues _ _
      rw [h]
      exact ⟨_, rfl⟩
  · exact ⟨_, rfl⟩

theorem State.dropReq_boot (s : State) (r : Req) : (s.dropReq r).boot = s.boot := by
  obtain ⟨qs, h⟩ := s.leaveQueue_queues r
  rw [State.dropReq, h]
  rfl

theorem State.dropReq_reqs (s : State) (r : Req) : (s.dropReq r).reqs = Tbl.del s.reqs r.id := by
  obtain ⟨qs, h⟩ := s.leaveQueue_queues r
  rw [State.dropReq, h]
  rfl

theorem State.reqs_dropAll {rs : List Req} {s : State} {x : Nat × Req} (h : x ∈ (rs.foldl State.dropReq s).reqs) : x ∈ s.reqs ∧ ∀ r ∈ rs, x.1 ≠ r.id := by
  induction rs generalizing s with
  | nil => simpa using h
  | cons r rs ih =>
    rw [List.foldl_cons] at h
    obtain ⟨hm, hrs⟩ := ih h
    rw [State.dropReq_reqs, Tbl.mem_del_iff] at hm
    exact ⟨hm.1, List.forall_mem_cons.2 ⟨hm.2, hrs⟩⟩

/-- The state without the host's outstanding requests. -/
def State.dropHost (s : State) : State := (s.reqList.filter fun r => decide (r.cls = .host)).foldl State.dropReq s

theorem State.dropHost_boot (s : State) : s.dropHost.boot = s.boot := foldl_leaves State.boot State.dropReq_boot _ s

theorem State.reqs_dropHost {s : State} (hid : ∀ r ∈ s.reqs, r.2.id = r.1) {x : Nat × Req} (h : x ∈ s.dropHost.reqs) : x.2.cls ≠ .host := by
  obtain ⟨hm, hrs⟩ := State.reqs_dropAll h
  intro hc
  refine hrs x.2 (List.mem_filter.2 ⟨List.mem_map.2 ⟨x, hm, rfl⟩, by simpa using hc⟩) (hid x hm).symm

theorem execHostPortFailover_standby {s : State} (h : s.boot.hostPort = 0) :
    execHostPortFailover s = .next (({ s.dropHost with boot := { s.boot with hostPort := 1, spares := s.boot.spares ++ [(SpareKind.hostPort, 0, 1)] } } : State).management 0) := by
  rw [← State.dropHost_boot] at h ⊢
  exact if_pos (beq_iff_eq.2 h)

theorem execHostPortFailover_lost {s : State} (h : s.boot.hostPort ≠ 0) : execHostPortFailover s = .next (s.dropHost.management 0).enterSafe := by
  rw [← State.dropHost_boot] at h
  exact if_neg fun hc => h (beq_iff_eq.1 hc)

end Sys2Proof.Machine
end

/-- Settles O50: each event by whether it is due, with what the write-back of a line and the fall of the host's requests leave. -/
theorem hostAndReset : Obligations.HostAndReset := by
  open Sys2Proof.Machine in
  intro s fn pa n vf line port lane bytes inval goes b
  refine ⟨execHostSnoop_notDue, fun own hh hf => ?_, execHostMemWrite_fits, execHostMemRead_fits,
    fun h1 h32 h0 => ⟨execFunctionReset_begins h1 h32 h0, fun _ => State.wgs_resetWork, fun _ => State.cmdq_resetWork, fun _ => State.pages_resetMemory, State.slots_resetFabric⟩,
    fun _ => execFunctionResetComplete_waits, fun h0 hw => ?_, fun hl hs => ?_, execScrubLine_fresh,
    ⟨_, rfl, rfl, rfl, rfl, rfl, rfl, b.afterReset_begins⟩,
    fun hr => ⟨execSelfTestStageDone_pass hr, fun k part phys => execSelfTestStageDone_spare hr, fun x hx => ⟨_, execSelfTestStageDone_fails hr hx, rfl, rfl, rfl, rfl⟩⟩,
    execSelfTestStageDone_idle, rfl, rfl, fun site => ?_, fun k part phys => ?_, fun h0 hid => ?_, fun h0 => ?_⟩
  · obtain ⟨u, hwarps, hmem, hx⟩ := execHostSnoop_takes (inval := inval) hh hf
    refine ⟨_, hx, ?_, ?_, hmem, hwarps, ?_⟩
    · simp [State.line, Tbl.getD]
    · simp [State.line, Tbl.getD]
    · cases inval
      · exact Tbl.find_put_same ..
      · exact Tbl.find_del_same ..
  · refine ⟨_, execFunctionResetComplete_ends h0 hw, ?_, ?_, ?_, ?_, fun k f hk => ⟨f.afterReset vf, ?_, f.afterReset_owner, fun ho => ?_, Frame.afterReset_other⟩⟩
    iterate 4 rw [State.fn_onFn_same] -- the four fields of the function, as the update writes them
    · rw [State.onFn_frames, Tbl.find_mapVal, hk]
      rfl
    · rw [Frame.afterReset_own ho]
      exact ⟨rfl, rfl⟩
  · obtain ⟨t, hx, hmem, hlines⟩ := execScrubLine_stale hl hs
    have hline : t.line line = (s.scrubbed line).line line := congrArg (Tbl.getD · line HomeLine.blank) hlines
    rw [State.line_scrubbed] at hline
    exact ⟨t, hx, hmem, congrArg HomeLine.version hline, congrArg HomeLine.epoch hline⟩
  · refine ⟨fun hp => ⟨execSoftError_corrected_noPart hp, execSoftError_poisons_noPart hp⟩, fun k part hp => ?_⟩
    have hx := execSoftError_corrected_part hp
    rw [State.strike_eq] at hx
    exact ⟨fun hn => hx.trans (congrArg _ (if_neg (Nat.not_le.2 hn))), fun hn => hx.trans (congrArg _ (if_pos hn)), execSoftError_poisons_part hp⟩
  · obtain ⟨hspares, hpending⟩ := s.substitute_map k part phys
    exact ⟨fun h => congrArg _ (State.trigger_awaits h), fun hl hp => congrArg _ (State.trigger_fails hl hp), execSpareSubstitution_quiescent, execSpareSubstitution_waits,
      hspares, hpending, s.substitute_leaves⟩
  · exact ⟨_, execHostPortFailover_standby h0, rfl, fun r => State.reqs_dropHost hid⟩
  · exact ⟨_, execHostPortFailover_lost h0, rfl⟩

section
/-! SUPPORT. Lane memory: the issue of an access whose checks pass, and what each of the loads, stores, prefetches, atomics and versioned accesses asks (R204 to R218, R245). -/

namespace Sys2Proof.Machine

section
variable {s : State} {k : Nat} {w : Warp} {st : Stream}

/-! ### The issue of a checked access (R206 to R209, R245) -/

theorem State.nextPC_inLane {hd : LaneHdr} {us : List Use} (h : s.laneReady k w st hd us) : (s.wg (wgOf k)).inLane ((w.slot st).pc.toNat + 1) = true := by
  obtain ⟨-, -, -, hn⟩ := h
  exact hn

@[simp] theorem Warp.slot_downgraded (w : Warp) (down : Bool) (st : Stream) : (w.downgraded down).slot st = w.slot st := by cases down <;> rfl

/-- The next lane PC is inside the section, so a held slot does not meet `FETCHF` (R76). -/
theorem State.laneAccess_held {h : LaneHdr} {act : LaneMask} {res : Option Result} {r : Req} {as : List Access} (hn : (s.wg (wgOf k)).inLane ((w.slot st).pc.toNat + 1) = true) :
    s.laneAccess k w st h act res r as true = .stay (memorySent s k w st h act res r as true) := by
  simp only [State.laneAccess, hn]
  rfl

/-- An instruction whose own part is an access sends it: its slot goes on, or is held. -/
theorem laneIssue_sends {hd : LaneHdr} {us : List Use} {f : Nat → Warp → Stream → Slot → LaneMask → LOut} {act : LaneMask} {res : Option Result} {r : Req} {as : List Access}
    {hold : Bool} (down : Bool) (h : s.laneReady k w st hd us)
    (hf : f k w st (w.slot st) (w.active st hd) = s.laneAccess k (w.downgraded down) st hd act res r as hold) :
    laneIssue s hd us f = .next (memorySent s k (w.downgraded down) st hd act res r as hold) := by
  cases hold with
  | true =>
    rw [laneIssue_ready h, hf, State.laneAccess_held (by rw [Warp.slot_downgraded, State.nextPC_inLane h])]
  | false =>
    refine (laneIssue_done h hf).trans ?_
    rw [← Warp.slot_downgraded w down st]
    rfl

/-- An instruction that holds its slot. -/
theorem laneIssue_stay {hd : LaneHdr} {us : List Use} {f : Nat → Warp → Stream → Slot → LaneMask → LOut} {t : State} (h : s.laneReady k w st hd us)
    (hf : f k w st (w.slot st) (w.active st hd) = .stay t) : laneIssue s hd us f = .next t := by rw [laneIssue_ready h, hf]

end

/-! ### Loads, stores, atomics and prefetches (R204 to R213, R218) -/

/-- The counter that an instruction names to count its arrivals (R209). -/
def LaneReg.counter (l : LaneReg) : Option Nat := match l.c with | .k c => some c.toNat | _ => none

/-- The accesses of an instruction, one for each active lane at ea(l) (R95, R204). -/
def State.laneAccesses (s : State) (k : Nat) (w : Warp) (st : Stream) (l : LaneReg) (data cmp : Fin 32 → Nat) (bmask : Nat) : List Access :=
  (w.active st l.hdr).lanes.map fun i => ⟨i.val, (s.ea k w st l i).toNat, 0, sizeBytes l.size, data i, cmp i, bmask⟩

/-- Some access has a remote home, so its result marks D empty (R207). -/
def State.leavesDevice (s : State) (g : Wg) (space : Nat) (as : List Access) : Bool := space == 0 && as.any fun a => s.onRemote g.fn g.proc a.va

/-- The result in flight that fills the registers of D (R206). -/
def State.laneDest (s : State) (w : Warp) (st : Stream) (l : LaneReg) (fills : Bool) (ctr : Option Nat) : Result :=
  { s.blankResult st (w.active st l.hdr) with regs := w.destRegs l.d (grpRegs l.size), fills := fills, kctr := ctr, mem := true }

section
variable {s : State} {k : Nat} {w : Warp} {st : Stream} {l : LaneReg} {scope : Nat} {down : Bool}
variable (ha : w.active st l.hdr ≠ 0) (hh : s.laneHeld k w st (w.slot st) = false)
include ha hh

theorem laneLoad_sends (split : Bool) (hp : s.scopePolicy (s.wg (wgOf k)).fn l.scope = some (scope, down))
    (h : s.laneReady k w st l.hdr (LaneReg.uses l (grpRegs l.size) 1 (if l.amode == 5 then 2 else 1) 1 1))
    (hc : s.laneCheck k l.space (sizeBytes l.size) false (w.active st l.hdr) (s.ea k w st l) = none) :
    let as := s.laneAccesses k w st l (fun _ => 0) (fun _ => 0) 0
    let g := s.wg (wgOf k)
    laneLoad l split s = .next (memorySent s k (w.downgraded down) st l.hdr (w.active st l.hdr) (some (s.laneDest w st l (split || s.leavesDevice g l.space as) (LaneReg.counter l)))
      ({ s.laneReq k w st (w.slot st) l.hdr .load l.space with ext := l.size, gang := s.gangs g l.space as }.ordered l.order scope false true) as false) := by
  rw [laneLoad]
  exact laneIssue_sends down h (by simp only [hp, hc, hh]; exact if_neg ha)

theorem execSt_sends (hp : s.scopePolicy (s.wg (wgOf k)).fn l.scope = some (scope, down))
    (h : s.laneReady k w st l.hdr (LaneReg.uses l 1 1 (if l.amode == 5 then 2 else 1) (grpRegs l.size) 1))
    (hc : s.laneCheck k l.space (sizeBytes l.size) true (w.active st l.hdr) (s.ea k w st l) = none) :
    let as := s.laneAccesses k w st l (fun i => laneValue (s.rds k w st l.c (grpRegs l.size)) i % 2 ^ (8 * sizeBytes l.size)) (fun _ => 0) (2 ^ sizeBytes l.size - 1)
    let gang := s.gangs (s.wg (wgOf k)) l.space as
    execSt l s = .next (memorySent s k (w.downgraded down) st l.hdr (w.active st l.hdr) none
      ({ s.laneReq k w st (w.slot st) l.hdr .store l.space with gang := gang }.ordered l.order scope true false) as gang) := by
  rw [execSt]
  exact laneIssue_sends down h (by simp only [hp, hc, hh]; exact if_neg ha)

theorem execAtom_sends (op : AmoOp) (hp : s.scopePolicy (s.wg (wgOf k)).fn l.scope = some (scope, down))
    (h : s.laneReady k w st l.hdr (LaneReg.uses l (grpRegs l.size) 1 (if l.amode == 5 then 2 else 1) (grpRegs l.size) (grpRegs l.size)))
    (hc : s.laneCheck k l.space (sizeBytes l.size) true (w.active st l.hdr) (s.ea k w st l) = none) :
    let as := s.laneAccesses k w st l (laneValue (s.rds k w st l.c (grpRegs l.size))) (laneValue (s.rds k w st l.e (grpRegs l.size))) (2 ^ sizeBytes l.size - 1)
    let g := s.wg (wgOf k)
    let gang := s.gangs g l.space as
    execAtom op l s = .next (memorySent s k (w.downgraded down) st l.hdr (w.active st l.hdr)
      (if l.d.isNone then none else some (s.laneDest w st l (s.leavesDevice g l.space as) none))
      ({ s.laneReq k w st (w.slot st) l.hdr .atom l.space with op := some op, ext := l.size, gang := gang }.ordered l.order scope true true) as gang) := by
  rw [execAtom]
  exact laneIssue_sends down h (by simp only [hp, hc, hh]; exact if_neg ha)

theorem execLdmc_sends {cores : List Nat} (h : s.laneReady k w st l.hdr (LaneReg.uses l (grpRegs l.size) 1 (if l.amode == 5 then 2 else 1) 1 1))
    (hm : s.mcTargets (wgOf k) (s.rd k w st l.e 0)[0].toNat = some cores)
    (hc : s.laneCheck k 0 (sizeBytes l.size) false (w.active st l.hdr) (s.ea k w st l) = none) :
    let as := s.laneAccesses k w st l (fun _ => 0) (fun _ => 0) 0
    let g := s.wg (wgOf k)
    execLdmc l s = .next (memorySent s k w st l.hdr (w.active st l.hdr) (some (s.laneDest w st l true (LaneReg.counter l)))
      { s.laneReq k w st (w.slot st) l.hdr .load 0 with ext := l.size, targets := (g.coreKey :: cores).eraseDups, gang := s.gangs g 0 as } as false) := by
  rw [execLdmc]
  exact laneIssue_sends false h (by simp only [hm, hc, hh]; exact if_neg ha)

end

section
variable {s : State} {k : Nat} {w : Warp} {st : Stream} {l : LaneReg}

/-- A lane of a `PREF` passes its checks: aligned, in the address space, not refused, and not remote (R213). -/
def State.prefetches (s : State) (g : Wg) (a : W64) : Bool :=
  a.toNat % 4 == 0 && canonical a && decide (s.xlate g.coreKey g.fn g.proc a.toNat false ≠ .refused) && !s.onRemote g.fn g.proc a.toNat

theorem execPref_requests (hh : s.laneHeld k w st (w.slot st) = false) (h : s.laneReady k w st l.hdr (LaneReg.uses l 1 1 (if l.amode == 5 then 2 else 1) 1 1)) :
    execPref l s = .next ((s.request (s.laneReq k w st (w.slot st) l.hdr .pref 0)
      (((w.active st l.hdr).lanes.filter fun i => s.prefetches (s.wg (wgOf k)) (s.ea k w st l i)).map fun i => ⟨i.val, (s.ea k w st l i).toNat, 0, 4, 0, 0, 0⟩)).passed
        k st l.hdr (w.slot st).pc s.cyc) :=
  laneIssue_done h (if_neg (by simp [hh]))

/-! ### Whole lines with their versions (R214 to R216) -/

/-- The line of one lane at A + B[l], its 32 words the registers of C numbered by the lane. -/
def State.lineAccess (s : State) (k : Nat) (w : Warp) (st : Stream) (l : LaneReg) (bmask : Nat) (i : Fin 32) : Access :=
  ⟨i.val, (w.x64 l.a + (s.rd k w st l.b 0)[i].setWidth 64).toNat, 0, 128,
    (List.finRange 32).foldr (fun j t => (s.rd k w st l.c i.val)[j].toNat + 2 ^ 32 * t) 0, 0, bmask⟩

theorem Warp.not_diverged (hb : w.slotB.st = .idle) (hs : w.dstack = []) : ¬ (decide (w.slotB.st ≠ .idle) || !w.dstack.isEmpty) = true := by simp [hb, hs]

theorem execCread_xldiv (h : s.laneReady k w st l.hdr (LaneReg.uses l 2 1 1 1 1)) (hd : w.slotB.st ≠ .idle ∨ w.dstack ≠ []) :
    execCread l s = .next (s.raiseLane k w st cXLDIV (w.active st l.hdr).toNat) := laneIssue_trap h (if_pos (by simpa using hd))

theorem execCstore_xldiv (h : s.laneReady k w st l.hdr (LaneReg.uses l 1 1 1 (l.amode + 1) 1)) (hd : w.slotB.st ≠ .idle ∨ w.dstack ≠ []) :
    execCstore l s = .next (s.raiseLane k w st cXLDIV (w.active st l.hdr).toNat) := by
  rw [execCstore]
  exact laneIssue_trap h (if_pos (by simpa using hd))

section
variable {scope : Nat} {down : Bool} (hb : w.slotB.st = .idle) (hs : w.dstack = []) (hp : s.scopePolicy (s.wg (wgOf k)).fn l.scope = some (scope, down))
  (ha : w.active st l.hdr ≠ 0) (hh : s.laneHeld k w st (w.slot st) = false)
include hb hs hp ha hh

theorem execCread_sends (h : s.laneReady k w st l.hdr (LaneReg.uses l 2 1 1 1 1))
    (hc : s.laneCheck k 0 128 false (w.active st l.hdr) (fun _ => w.x64 l.a) = none) :
    let as : List Access := [⟨0, (w.x64 l.a).toNat, 0, 128, 0, 0, 0⟩]
    execCread l s = .next (memorySent s k (w.downgraded down) st l.hdr (w.active st l.hdr)
      (some { s.blankResult st (w.active st l.hdr) with regs := w.destRegs l.d 2, fills := true, kctr := LaneReg.counter l, mem := true })
      ({ s.laneReq k w st (w.slot st) l.hdr .cread 0 with ext := 5, gang := s.gangs (s.wg (wgOf k)) 0 as }.ordered l.order scope false true) as false) := by
  refine laneIssue_sends down h ((if_neg (Warp.not_diverged hb hs)).trans ?_)
  simp only [hp, hc, hh]
  exact if_neg ha

theorem execCstore_sends (h : s.laneReady k w st l.hdr (LaneReg.uses l 1 1 1 (l.amode + 1) 1))
    (hc : s.laneCheck k 0 128 true (BitVec.ofNat 32 (2 ^ (l.amode + 1) - 1)) (fun i => w.x64 l.a + (s.rd k w st l.b 0)[i].setWidth 64) = none) :
    let idx := (List.finRange 32).take (l.amode + 1)
    let as := idx.map (s.lineAccess k w st l ((w.active st l.hdr).lanes.foldl (fun m i => m ||| 15 * 2 ^ (4 * i.val)) 0))
    execCstore l s = .next (memorySent s k (w.downgraded down) st l.hdr (w.active st l.hdr)
      (some { s.blankResult st (w.active st l.hdr) with preds := match l.d with | .p p => [(p.toNat, 0)] | _ => [], mem := true })
      ({ s.laneReq k w st (w.slot st) l.hdr .cstore 0 with
        want := idx.map fun (i : Fin 32) => (s.rd k w st l.e 0)[i].toNat % 65536
        gang := s.gangs (s.wg (wgOf k)) 0 as }.ordered l.order scope true true) as true) := by
  rw [execCstore]
  refine laneIssue_sends down h ((if_neg (Warp.not_diverged hb hs)).trans ?_)
  simp only [hp, if_neg ha, hc, hh]
  rfl

end

/-! ### Waits of a slot (R210, R220, R221) -/

section
variable {l : LaneImm} {r : LaneReg} {c : BitVec 4}

theorem execWaitk_reached (h : s.laneReady k w st l.hdr (LaneImm.uses l)) (ha : l.a = .k c) (hc : l.imm.toNat ≤ (w.rg.kr c.toNat).toNat) :
    execWaitk l s = .next (s.passed k st l.hdr (w.slot st).pc s.cyc) :=
  laneIssue_done_self h (by simp only [ha]; exact if_pos ((Nat.mod_le ..).trans hc))

theorem execWaitk_waits (h : s.laneReady k w st l.hdr (LaneImm.uses l)) (ha : l.a = .k c) (hm : l.imm.toNat < 65536) (hc : (w.rg.kr c.toNat).toNat < l.imm.toNat) :
    execWaitk l s = .next (s.putWarp k (w.holdLane st l.hdr s.cyc (w.active st l.hdr) (.waitk c.toNat l.imm.toNat))) :=
  laneIssue_stay h (by simp only [ha, Nat.mod_eq_of_lt hm]; exact if_neg (Nat.not_le.2 hc))

theorem execQfence_waits (h : s.laneReady k w st l.hdr (LaneImm.uses l)) (hm : l.imm.toNat < 16) :
    execQfence l s = .next (s.putWarp k (w.holdLane st l.hdr s.cyc (w.active st l.hdr) (.qfence l.imm.toNat s.nextId))) :=
  laneIssue_stay h (by simp [State.nextPC_inLane h, Nat.mod_eq_of_lt hm])

theorem execFence_waits {scope : Nat} {down : Bool} (h : s.laneReady k w st r.hdr (LaneReg.uses1 r))
    (hp : s.scopePolicy (s.wg (wgOf k)).fn r.scope = some (scope, down)) (hh : s.laneHeld k w st (w.slot st) = false) :
    execFence r s = .next ((s.putWarp k ((w.downgraded down).holdLane st r.hdr s.cyc (w.active st r.hdr) (.fence s.nextId))).fenceReq
      (s.laneReq k w st (w.slot st) r.hdr .fence 0) (ordRel r.order) (ordAcq r.order) scope) :=
  laneIssue_stay h (by simp [hp, hh, State.nextPC_inLane h])

end

section
variable {m n : Nat} {q : Req} (hw : Tbl.find s.warps k = some w) (hl : w.live = true)
include hw hl

theorem execWaitkDone_ends (hx : (w.slot st).wait = .waitk m n) (hc : n ≤ (w.rg.kr m).toNat) : execWaitkDone k st s = .next (s.passHeld k st) := by
  simp [execWaitkDone, hw, hx, hl, hc]

theorem execQfenceDone_ends (hx : (w.slot st).wait = .qfence m n) (hq : s.qfenceReady k m n = true) : execQfenceDone k st s = .next (s.passHeld k st) := by
  simp [execQfenceDone, hw, hx, hl, hq]

theorem execFenceDone_ends (hx : (w.slot st).wait = .fence n) (hq : Tbl.find s.reqs n = some q) (hr : q.relDone = true) :
    execFenceDone k st s = .next (((if q.acq then s.acquire q.core q.scope else s).delReq n).passHeld k st) := by
  simp [execFenceDone, hw, hx, hq, hl, hr]

end

end

end Sys2Proof.Machine
end

/-- Settles O29: each instruction's own part is the access that its checks let pass. -/
theorem laneMemoryRequests : Obligations.LaneMemoryRequests := by
  open Sys2Proof Sys2Proof.Machine in
  intro s k w st l op scope down cores g x act n nb size ea acc cin far u reads writes steps dest ctr ha hh
  refine ⟨fun hp => ⟨fun h hc => ⟨laneLoad_sends ha hh true hp h hc, fun hl => ?_⟩, execSt_sends ha hh hp, execAtom_sends ha hh op hp⟩, execLdmc_sends ha hh, execPref_requests hh⟩
  have hctr : LaneReg.counter l = none := by simp only [LaneReg.counter, hl]
  have hx := laneLoad_sends ha hh false hp h hc
  rw [hctr] at hx
  exact hx

/-- Settles O30: the two accesses of a converged warp, and the trap of any other; the one line of a `CREAD` decides alone whether it is on a Cinnabar page. -/
theorem versionedLineAccesses : Obligations.VersionedLineAccesses := by
  open Sys2Proof Sys2Proof.Machine in
  intro s k w st l scope down g x act a n line idx whole bm lines
  refine ⟨fun h => ⟨execCread_xldiv h, fun hb hs hp ha hh hc => ?_⟩, fun h => ⟨execCstore_xldiv h, fun hb hs hp ha hh hc => execCstore_sends hb hs hp ha hh h hc⟩⟩
  have hgang : s.gangs g 0 whole = s.onCinnabar g.fn g.proc a.toNat := Bool.or_false _
  rw [← hgang]
  exact execCread_sends hb hs hp ha hh h hc

/-- Settles O31: each wait as it begins, and as it ends. -/
theorem slotWaits : Obligations.SlotWaits := by
  open Sys2Proof Sys2Proof.Machine in
  intro s k w st l r c scope m n down q
  exact ⟨fun h => ⟨execWaitk_reached h, execWaitk_waits h, execQfence_waits h⟩, execFence_waits, execWaitkDone_ends, execQfenceDone_ends, execFenceDone_ends⟩

section
/-! SUPPORT. The no-hold rule: what each event of the shared queues and of the replay stores does with a request in its place (R246 to R258, R398). -/

namespace Sys2Proof.Machine

section
variable {s : State} {q : Nat} {r : Req}

/-! ### What a queue does with a request that offers itself (R246, R250) -/

/-- Outside the egress queues an entry takes no tags, and what came over the fabric takes none anywhere. -/
theorem State.arrive_enters (hr : r.resv = false) (ho : s.ownerBounce q r = none) (hl : (s.queue q).ord.length < qOrdinary q) (hk : qKind q ≠ 5 ∨ r.cls = .ingress) :
    s.arrive q r =
      (s.putReq { r with stage := .queued q false, entered := s.cyc, bound := s.bound }).putQueue q { s.queue q with ord := (s.queue q).ord ++ [r.id] } := by
  have hfree : ¬ (qKind q = 5 ∧ r.cls ≠ .ingress) := fun h => hk.elim (absurd h.1) h.2
  simp [State.arrive, State.arriveAs, hr, ho, hl, hfree]

theorem State.arrive_full (hr : r.resv = false) (ho : s.ownerBounce q r = none) (hl : qOrdinary q ≤ (s.queue q).ord.length) :
    s.arrive q r = s.bounce q r 3 (.cleared q (s.cyc + 4 * s.bound)) := by
  simp [State.arrive, State.arriveAs, hr, ho, Nat.not_lt.2 hl]

theorem State.arrive_ownerBounce {why : Nat} {wake : Wake} (ho : s.ownerBounce q r = some (why, wake)) : s.arrive q r = s.bounce q r why wake := by
  simp [State.arrive, State.arriveAs, ho]

/-- A cause of the owner that comes up in the queue sends a request from the fabric back over it, and bounces any other. -/
theorem State.turnedBack_some {why : Nat} {wake : Wake} (ho : s.ownerBounce q r = some (why, wake)) :
    s.turnedBack q r = some (if qKind q = 6 then (s.leaveQueue r).bounceBack r why else (s.leaveQueue r).bounce q r why wake) := by
  simp [State.turnedBack, ho]

/-! ### The port's replay buffer (R254, R416) -/

theorem State.intoBuffer_heads (hu : s.bufferUse .ingress r.source < 256) (hh : s.heads r = true) :
    s.intoBuffer r = s.moveOn r (qCode (.sliceIn (homeSlice r.pa))) false := by
  simp [State.intoBuffer, Nat.not_le.2 hu, hh]

theorem State.intoBuffer_chained (hu : s.bufferUse .ingress r.source < 256) (hh : s.heads r = false) :
    s.intoBuffer r = (s.leaveQueue r).putReq { r with stage := .replay 0 .ready } := by
  simp [State.intoBuffer, Nat.not_le.2 hu, hh]

section
variable {n : Nat} (hf : Tbl.find s.reqs n = some r)
include hf

/-! ### `SHARED_QUEUE_ARRIVAL` -/

theorem execSharedQueueArrival_issued (hs : r.stage = .issued) : execSharedQueueArrival n s = .next (s.launch r) := by
  simp [execSharedQueueArrival, hf, hs]

theorem execSharedQueueArrival_transit (hs : r.stage = .transit q) : execSharedQueueArrival n s = .next (s.arrive q r) := by
  simp [execSharedQueueArrival, hf, hs]

theorem execSharedQueueArrival_chained {why : Nat} (hs : r.stage = .replay why .ready) (hc : r.chainedUp = true) :
    execSharedQueueArrival n s = .next (s.launch r) := by
  simp [execSharedQueueArrival, hf, hs, hc]

/-! ### `QUEUE_DEPARTURE` and `RESIDENCY_EXPIRED` -/

section
variable {b : Bool} (hs : r.stage = .queued q b)
include hs

theorem execQueueDeparture_ownerBounce {why : Nat} {wake : Wake} (ho : s.ownerBounce q r = some (why, wake)) :
    execQueueDeparture n s = .next (if qKind q = 6 then (s.leaveQueue r).bounceBack r why else (s.leaveQueue r).bounce q r why wake) := by
  simp [execQueueDeparture, hf, Req.at_, hs, State.turnedBack_some ho]

section
variable (ho : s.ownerBounce q r = none)
include ho

theorem execQueueDeparture_egress (hk : qKind q = 5) : execQueueDeparture n s = .next (((s.leaveQueue r).putReq { r with stage := .sent }).sendTagged r) := by
  simp [execQueueDeparture, hf, Req.at_, hs, State.turnedBack_none ho, hk]

theorem execQueueDeparture_ingress (hk : qKind q = 6) : execQueueDeparture n s = .next (s.intoBuffer r) := by
  simp [execQueueDeparture, hf, Req.at_, hs, State.turnedBack_none ho, hk]

theorem execQueueDeparture_nextQueue {q' : Nat} (h5 : qKind q ≠ 5) (h6 : qKind q ≠ 6) (hn : s.nextQueue r q = some q') :
    execQueueDeparture n s = .next (s.moveOn r q' b) := by
  simp [execQueueDeparture, hf, Req.at_, hs, State.turnedBack_none ho, hn]

end

end

theorem execResidencyExpired_bounces (hs : r.stage = .queued q false) (ht : r.entered + r.bound ≤ s.cyc) :
    execResidencyExpired n s =
      .next (if qKind q = 6 then (s.leaveQueue r).bounceBack r 3 else (s.leaveQueue r).bounce q r 3 (.cleared q (s.cyc + 4 * s.bound))) := by
  by_cases hk : qKind q = 6 <;> simp [execResidencyExpired, hf, Req.at_, hs, ht, hk]

/-! ### Notices and timers (R250, R251) -/

theorem execBounceNotice_bounced {why : Nat} {wake : Wake} (hs : r.stage = .bounced why wake) : execBounceNotice n s = .next (s.noticed r why wake) := by
  simp [execBounceNotice, hf, hs]

theorem execBackoffExpiry_due {why t : Nat} (hs : r.stage = .replay why (.cleared q t) ∨ r.stage = .replay why (.time t)) (ht : t ≤ s.cyc) :
    execBackoffExpiry n s = .next (s.putReq { r with stage := .replay why .ready }) := by
  obtain hs | hs := hs <;> simp [execBackoffExpiry, hf, hs, ht]

/-! ### `REPLAY_REISSUE` (R255, R256) -/

theorem execReplayReissue_oldest (he : s.eligible r = true) (hb : r.store ∉ s.reissued) (ha : s.answerDue r = false)
    (ho : ∀ y ∈ s.reqList, y.store = r.store → y.id < r.id → s.eligible y = false) :
    execReplayReissue n s = .next ((({ s with reissued := s.reissued ++ [r.store] } : State).countReissue r).launch r) := by
  have hfirst : (s.reqList.any fun y => y.store == r.store && y.id < r.id && s.eligible y) = false := by
    simpa [and_imp] using ho
  simp [execReplayReissue, hf, he, State.storeBusy, hb, ha, hfirst, State.markReissue]

end

/-! ### The entry that a notice leaves (R251, R256, R266) -/

theorem State.noticed_find (why : Nat) (wake : Wake) : Tbl.find (s.noticed r why wake).reqs r.id = some { r with stage := .replay why wake, bounces := min 15 (r.bounces + 1) } := by
  unfold State.noticed
  split <;> simp

theorem State.noticed_warps (hc : r.cls ≠ .warp) (why : Nat) (wake : Wake) : (s.noticed r why wake).warps = s.warps := by simp [State.noticed, hc]

/-! ### A refilled bucket (R398) -/

theorem State.refillWake_affords {vf : Nat} (hs : r.stage = .replay 6 .budget) (hv : r.fn = vf) (ha : s.affords vf (if r.dev.isSome then r.egressBytes else 128) = true) :
    s.refillWake vf r = { r with stage := .replay 6 .ready } := by
  simp [State.refillWake, hs, hv, ha]

/-! ### Grants (R257, R259) -/

theorem execReservationGranted_answered {i : QId} {c : OwnerClass} {g : Nat × Nat × Nat} (hg : (s.queue (qCode i)).grants.find? (fun g => g.1 == clsCode c) = some g)
    (hr : s.grantAnswer (qCode i) (clsCode c) g.2.1 = some r) (hb : r.store ∉ s.reissued) :
    let s1 := (({ s with reissued := s.reissued ++ [r.store] } : State).waitsAgain (qCode i) r).countReissue r
    execReservationGranted i c s = .next ((s1.putReq { r with stage := .replay 7 .ready }).launch { r with stage := .replay 7 .ready }) := by
  simp [execReservationGranted, hg, hr, State.storeBusy, hb, State.markReissue]

theorem execGrantLapse_lapsed {i : QId} {c : OwnerClass} {g : Nat × Nat × Nat} (hg : (s.queue (qCode i)).grants.find? (fun g => g.1 == clsCode c && g.2.2 ≤ s.cyc) = some g) :
    let x := s.queue (qCode i)
    execGrantLapse i c s = .next ((s.putQueue (qCode i) { x with
      grants := x.grants.filter fun y => y != g
      mask := if x.mask.contains (g.1, g.2.1) then x.mask else x.mask ++ [(g.1, g.2.1)] }).grantResv (qCode i) g.1) := by
  simp only [execGrantLapse, hg]

end

end Sys2Proof.Machine
end

/-- Settles O41: what each event of the no-hold rule does with a request in its place, from its offer to its reissue. -/
theorem noHoldRule : Obligations.NoHoldRule := by
  open Sys2Proof Sys2Proof.Machine in
  intro s n r q c vf hf goes k x
  refine ⟨execSharedQueueArrival_issued hf, fun hs hr ho => ⟨fun hl hk => ?_, fun hl => ?_⟩, fun hs why wake ho => ?_, fun why => execSharedQueueArrival_chained hf,
    fun b q' hs ho => ⟨execQueueDeparture_egress hf hs ho, fun h6 hu => ⟨fun hh => ?_, fun hh => ?_⟩, execQueueDeparture_nextQueue hf hs ho⟩,
    fun b why wake hs ho => ⟨fun h6 => ?_, fun h6 => ?_⟩, execResidencyExpired_bounces hf,
    fun why wake hs => ⟨_, _, execBounceNotice_bounced hf hs, State.noticed_find why wake, rfl, rfl, rfl, State.noticed_mem s r why wake, fun hc => State.noticed_warps hc why wake⟩,
    rfl, fun why t => execBackoffExpiry_due hf, fun g => execReservationGranted_answered, fun g => execGrantLapse_lapsed,
    fun hs hv ha => ⟨_, rfl, ?_, rfl, rfl⟩, execReplayReissue_oldest hf⟩
  · exact (execSharedQueueArrival_transit hf hs).trans (congrArg _ (State.arrive_enters hr ho hl hk))
  · exact (execSharedQueueArrival_transit hf hs).trans (congrArg _ (State.arrive_full hr ho hl))
  · exact (execSharedQueueArrival_transit hf hs).trans (congrArg _ (State.arrive_ownerBounce ho))
  · exact (execQueueDeparture_ingress hf hs ho h6).trans (congrArg _ (State.intoBuffer_heads hu hh))
  · exact (execQueueDeparture_ingress hf hs ho h6).trans (congrArg _ (State.intoBuffer_chained hu hh))
  · exact (execQueueDeparture_ownerBounce hf hs ho).trans (congrArg _ (if_pos h6))
  · exact (execQueueDeparture_ownerBounce hf hs ho).trans (congrArg _ (if_neg h6))
  · rw [Tbl.find_mapVal, hf, Option.map_some, State.refillWake_affords hs hv ha]

section
/-! SUPPORT. The matrix instructions: what each leaves in the matrix queue once its checks pass (R271 to R277; R275 and log 42 for the moves, whose sources are read at issue). -/

namespace Sys2Proof.Machine

section
variable {s : State} {k : Nat} {w : Warp} {st : Stream} {l : LaneReg}

/-- A core has a number below 240; its change is that of its entry. -/
theorem State.onCore_of_lt {core : Nat} (h : core < 240) (f : Core → Core) : s.onCore core f = s.putCore core (f (s.core core)) := if_pos h

/-! ### `WLOAD` (R267, R271) -/

/-- The state once workgroup `g` has claimed bank `b` of the core, which keeps an earlier claim of its co-placed set. -/
def State.claimBank (s : State) (core g b : Nat) : State :=
  (s.onCore core fun c => c.putBank b { c.bank b with claim := ((c.bank b).claim).orElse fun _ => some g }).onWg g
    fun y => { y with claims := if y.claims.contains b then y.claims else y.claims ++ [b] }

@[simp] theorem State.claimBank_warps (s : State) (core g b : Nat) : (s.claimBank core g b).warps = s.warps := by simp [State.claimBank]
@[simp] theorem State.claimBank_mem (s : State) (core g b : Nat) : (s.claimBank core g b).mem = s.mem := by simp [State.claimBank]
@[simp] theorem State.claimBank_nextId (s : State) (core g b : Nat) : (s.claimBank core g b).nextId = s.nextId := by simp [State.claimBank]

theorem State.claimBank_find {core : Nat} (h : core < 240) (g b : Nat) :
    Tbl.find (s.claimBank core g b).cores core =
      some ((s.core core).putBank b { (s.core core).bank b with claim := ((s.core core).bank b).claim.orElse fun _ => some g }) := by
  simp [State.claimBank, State.onCore_of_lt h]

theorem State.claimBank_claims {core g b : Nat} {x : Wg} (h : Tbl.find s.wgs g = some x) : b ∈ ((s.claimBank core g b).wg g).claims := by
  have hfind : Tbl.find (s.claimBank core g b).wgs g = some { x with claims := if x.claims.contains b then x.claims else x.claims ++ [b] } := by
    simp [State.claimBank, Tbl.adjust_of_find h]
  rw [State.wg_of_find hfind]
  by_cases hb : b ∈ x.claims <;> simp [hb]

@[simp] theorem Core.putBank_matq (c : Core) (b : Nat) (x : Bank) : (c.putBank b x).matq = c.matq := by
  unfold Core.putBank
  split <;> rfl

/-- What the queue of a core holds once an operation has joined it. -/
theorem State.enqueueMat_find {core : Nat} {c : Core} (h : core < 240) (hc : Tbl.find s.cores core = some c) (m : MatOp) :
    Tbl.find (s.enqueueMat core m).cores core = some { c with matq := c.matq ++ [{ m with id := s.nextId }] } := by
  have hcore : s.core core = c := by simp [State.core, Tbl.getD, hc]
  simp [State.enqueueMat, State.onCore_of_lt h, hcore]

@[simp] theorem State.enqueueMat_warps (s : State) (core : Nat) (m : MatOp) : (s.enqueueMat core m).warps = s.warps := by simp [State.enqueueMat]
@[simp] theorem State.enqueueMat_wg (s : State) (core g : Nat) (m : MatOp) : (s.enqueueMat core m).wg g = s.wg g := by simp [State.enqueueMat, State.wg]

/-- A tile at a multiple of 128 that lies in the scratchpad, or in the weight store, passes. -/
theorem State.tileFault_none {g n : Nat} {pad : Bool} {a : W64} (ha : a.toNat % 128 = 0)
    (hr : if pad then a.toNat + n ≤ (s.wg g).padSize else a.toNat + n ≤ 2 ^ 29) (hn : 0 < n) : s.tileFault g pad a n = 0 := by
  have halign : ¬ (a.toNat % 128 != 0) = true := by simp [ha]
  cases pad with
  | true => exact (if_neg halign).trans ((if_pos rfl).trans (if_pos hr))
  | false =>
    have hle : a.toNat + n ≤ 2 ^ 29 := hr
    have hdiv : a.toNat / 2 ^ 29 = 0 := by omega
    exact (if_neg halign).trans ((if_neg Bool.false_ne_true).trans (if_pos (by rw [hdiv, decide_eq_true hle]; rfl)))

theorem execWload_enqueues (h : s.laneReady k w st l.hdr (LaneReg.uses1 l)) (hq : w.qfenced 2 = false) (hm : s.bankMine (wgOf k) (bankNo l) = true)
    (hb : s.memBlocked k st (w.slot st).mask w.after = false) (ht : s.tileFault (wgOf k) (modBits l.mod 4 4 == 1) (w.x64 l.a) (tileBytes (bfpW l)) = 0) :
    let core := (s.wg (wgOf k)).coreKey
    execWload l s = .next (((s.claimBank core (wgOf k) (bankNo l)).enqueueMat core { s.matOp k st (w.slot st) (w.active st l.hdr) .wload with
      bank := bankNo l
      width := bfpW l
      addr := (w.x64 l.a).toNat
      pad := modBits l.mod 4 4 == 1 }).passed k st l.hdr (w.slot st).pc s.cyc) :=
  laneIssue_done h (by simp [hq, hm, hb, ht, State.claimBank])

/-! ### `MMA` (R273, R274) -/

theorem maskWhere_none {m : LaneMask} {f : Fin 32 → Bool} (h : ∀ i, m.has i = true → f i = false) : maskWhere m f = 0 := by
  have hf : (fun i => m.has i && f i) = fun _ => false := by
    funext i
    cases hi : m.has i with
    | true => exact h i hi
    | false => rfl
  rw [maskWhere, hf]
  decide

/-- Rows at multiples of 4 that lie in the scratchpad pass. -/
theorem rowFault_none {m : LaneMask} {r : Fin 32 → Nat} {wa size : Nat} (h : ∀ i, m.has i = true → r i % 4 = 0 ∧ r i + rowBytes wa ≤ size) :
    rowFault m r wa size = none := by
  have halign : (maskWhere m fun i => r i % 4 != 0) = 0 := maskWhere_none fun i hi => by simp [(h i hi).1]
  have hinside : (maskWhere m fun i => size < r i + rowBytes wa) = 0 := maskWhere_none fun i hi => by simpa using (h i hi).2
  simp [rowFault, halign, hinside]

theorem execMma_enqueues (h : s.laneReady k w st l.hdr (LaneReg.uses l 0 1 1 1 1)) (hq : w.qfenced 2 = false)
    (hr : Use.inRange w.rg ⟨l.d, columns l, false, true⟩ = true) (ha : s.accWaits k w (w.slot st).mask (Use.entries w.rg ⟨l.d, columns l, false, true⟩) = false)
    (hp : ∀ e ∈ Use.entries w.rg ⟨l.d, columns l, false, true⟩, w.rg.isPoison e = false) (hk : s.bankReady (wgOf k) (bankNo l) = true)
    (hb : s.memBlocked k st (w.slot st).mask w.after = false) (h0 : w.active st l.hdr ≠ 0)
    (hf : rowFault (w.active st l.hdr) (s.mmaRow k w st l) (bfpW l) (s.wg (wgOf k)).padSize = none) :
    let es := Use.entries w.rg ⟨l.d, columns l, false, true⟩
    execMma l s = .next (((s.putWarp k { w with rg := w.rg.marked es }).enqueueMat (s.wg (wgOf k)).coreKey
      { s.matOp k st (w.slot st) (w.active st l.hdr) .mma with
        bank := bankNo l
        width := bfpW l
        rows := (w.active st l.hdr).lanes.map fun i => (i.val, s.mmaRow k w st l i)
        accs := es }).passed k st l.hdr (w.slot st).pc s.cyc) := by
  have hp' : (Use.entries w.rg ⟨l.d, columns l, false, true⟩).any w.rg.isPoison = false := by simpa using hp
  simp only [execMma, State.issuer_of_issues h.1, hr, Bool.not_true, Bool.false_and, Bool.false_eq_true, if_false]
  exact laneIssue_done h (by
    simp only [ha, hp', hk, hf, hq, hb]
    exact if_neg h0)

/-! ### The accumulator moves (R275 to R277) -/

theorem execAzero_enqueues (h0 : w.active st l.hdr ≠ 0) (hq : w.qfenced 2 = false) (h : s.laneReady k w st l.hdr (LaneReg.uses l l.accCount 1 1 1 1)) :
    let act := w.active st l.hdr
    let es := Use.entries w.rg ⟨l.d, l.accCount, false, true⟩
    execAzero l s = .next ((s.queueMove k st (w.slot st) act .azero es
      { s.blankResult st act with regs := es.map fun e => (e, Lanes.splat 0) }).passed k st l.hdr (w.slot st).pc s.cyc) :=
  laneIssue_done h ((if_neg h0).trans (if_neg (Bool.eq_false_iff.1 hq)))

theorem execAread_enqueues (h0 : w.active st l.hdr ≠ 0) (hq : w.qfenced 2 = false)
    (h : s.laneReady k w st l.hdr (LaneReg.uses l (moveRegs l.ty (bfpW l) l.accCount) l.accCount 1 1 1)) :
    let act := w.active st l.hdr
    let es := Use.entries w.rg ⟨l.d, moveRegs l.ty (bfpW l) l.accCount, false, true⟩
    let out (i : Fin 32) := areadLane l.ty (bfpW l) l.rm l.sat (laneOf (s.rds k w st l.a l.accCount) i)
    execAread l s = .next (((s.putWarp k { w with rg := w.rg.marked es }).queueMove k st (w.slot st) act .aread []
      { s.blankResult st act with regs := regsFrom es fun i => (out i).1, flags := orFlags act fun i => (out i).2, fills := true }).passed
        k st l.hdr (w.slot st).pc s.cyc) := by
  intro act es out
  unfold execAread
  refine laneIssue_done h ((if_neg h0).trans ((if_neg (Bool.eq_false_iff.1 hq)).trans ?_))
  simp [act, es, out]

theorem execAwrite_enqueues (h0 : w.active st l.hdr ≠ 0) (hq : w.qfenced 2 = false)
    (h : s.laneReady k w st l.hdr (LaneReg.uses l l.accCount (moveRegs l.ty (bfpW l) l.accCount) 1 1 1)) :
    let act := w.active st l.hdr
    let es := Use.entries w.rg ⟨l.d, l.accCount, false, true⟩
    let src := s.rds k w st l.a (moveRegs l.ty (bfpW l) l.accCount)
    execAwrite l s = .next ((s.queueMove k st (w.slot st) act .awrite es
      { s.blankResult st act with regs := regsFrom es fun i => awriteLane l.ty (bfpW l) l.accCount (laneOf src i) }).passed k st l.hdr (w.slot st).pc s.cyc) := by
  intro act es src
  unfold execAwrite
  exact laneIssue_done h ((if_neg h0).trans (if_neg (Bool.eq_false_iff.1 hq)))

end

end Sys2Proof.Machine
end

/-- Settles O32: each instruction, once its checks pass, leaves its operation in the queue of its core. -/
theorem matrixInstructions : Obligations.MatrixInstructions := by
  open Sys2Proof Sys2Proof.Machine in
  intro s k w st l b es g core x act bank pad width a row goes hq
  refine ⟨fun h hm hb hbank hg hlt ha hr => ?_, fun h hrange hes hacc hp hk hb h0 hrow => ?_,
    fun h0 => ⟨execAzero_enqueues h0 hq, execAread_enqueues h0 hq, execAwrite_enqueues h0 hq⟩⟩
  · have ht : s.tileFault (wgOf k) pad (w.x64 l.a) (tileBytes width) = 0 := by
      rw [tileBytes]
      exact State.tileFault_none ha hr (by omega)
    subst hbank
    refine ⟨_, execWload_enqueues h hq hm hb ht, ?_, by simp, by simp, ?_⟩
    · rw [State.enqueueMat_find hlt (State.claimBank_find hlt ..), Core.putBank_matq, State.claimBank_nextId]
      rfl
    · rw [State.enqueueMat_wg]
      exact State.claimBank_claims hg
  · subst hes
    exact execMma_enqueues h hq hrange hacc hp hk hb h0 (rowFault_none hrow)

section
/-! SUPPORT. Copies and rings as instructions: what each leaves once its checks pass (R279 to R293). -/

namespace Sys2Proof.Machine

section
variable {s : State} {k : Nat} {w : Warp} {st : Stream} {l : LaneReg}

/-! ### A copy whose records the cache holds (R281 to R283) -/

/-- The state once a copy has used its two records, which the core's cache holds. -/
def State.usedRecords (s : State) (k : Nat) (w : Warp) (l : LaneReg) (src dst : Shape) : State :=
  let g := s.wg (wgOf k)
  (s.cacheRecord g.coreKey g.fn g.proc (w.x64 l.a).toNat src).cacheRecord g.coreKey g.fn g.proc (w.x64 l.b).toNat dst

section
variable (s k w l) (src dst : Shape)

@[simp] theorem State.usedRecords_wgs : (s.usedRecords k w l src dst).wgs = s.wgs := by simp [State.usedRecords, State.cacheRecord]
@[simp] theorem State.usedRecords_warps : (s.usedRecords k w l src dst).warps = s.warps := by simp [State.usedRecords, State.cacheRecord]
@[simp] theorem State.usedRecords_nextId : (s.usedRecords k w l src dst).nextId = s.nextId := by simp [State.usedRecords, State.cacheRecord]

@[simp] theorem State.usedRecords_wg (g : Nat) : (s.usedRecords k w l src dst).wg g = s.wg g := by simp [State.wg]
@[simp] theorem State.usedRecords_consumer (g : Nat) (f : Follow) : (s.usedRecords k w l src dst).consumer g f = s.consumer g f := by simp [State.consumer]

end

/-- The conditions of a copy before its records and its shapes: nothing earlier holds it back, it comes from the producer, and its two record addresses are multiples of 64 with records in the cache. -/
structure State.copyReady (s : State) (k : Nat) (w : Warp) (st : Stream) (l : LaneReg) (src dst : Shape) : Prop where
  ready : s.laneReady k w st l.hdr (LaneReg.uses1 l)
  unblocked : s.memBlocked k st (w.slot st).mask w.after = false
  unfenced : w.qfenced 1 = false
  producer : s.isProducer k = true
  alignedA : (w.x64 l.a).toNat % 64 = 0
  alignedB : (w.x64 l.b).toNat % 64 = 0
  canonicalA : canonical (w.x64 l.a) = true
  canonicalB : canonical (w.x64 l.b) = true
  cachedA : s.cached (s.wg (wgOf k)).coreKey (s.wg (wgOf k)).fn (s.wg (wgOf k)).proc (w.x64 l.a).toNat = some src
  cachedB : s.cached (s.wg (wgOf k)).coreKey (s.wg (wgOf k)).fn (s.wg (wgOf k)).proc (w.x64 l.b).toNat = some dst

section
variable {src dst : Shape}

/-- Such a copy goes on with its records to what `f` makes of it. -/
theorem copyIssue_cached {range pre : Nat → Warp → Nat} {f : State → Nat → Warp → Copy → Nat → LOut} {t : State} (h : s.copyReady k w st l src dst)
    (hr : range k w = 0) (hp : pre k w = 0)
    (hf : f (s.usedRecords k w l src dst) k w (s.laneCopy k w (w.slot st) l src dst) (w.active st l.hdr).toNat = .done t) :
    copyIssue s l range pre f = .next (t.passed k st l.hdr (w.slot st).pc s.cyc) :=
  laneIssue_done h.ready (by
    simp only [hr, hp, h.producer, h.alignedA, h.alignedB, h.canonicalA, h.canonicalB, h.cachedA, h.cachedB, h.unfenced, h.unblocked]
    exact hf)

theorem Copy.shapeFault_none {c : Copy} {ring : Bool} (h : shapesOk c.src c.dst c.sdisp c.ddisp c.transp c.red c.ty ring = true) : c.shapeFault ring = 0 := if_pos h

theorem execCpy_accepts (h : s.copyReady k w st l src dst) (he : l.e = .none)
    (hs : (s.laneCopy k w (w.slot st) l src dst).shapeFault false = 0) (hx : (s.usedRecords k w l src dst).extentFault (s.laneCopy k w (w.slot st) l src dst) = 0) :
    execCpy l s = .next (((s.usedRecords k w l src dst).acceptCopy (s.wg (wgOf k)).coreKey (s.laneCopy k w (w.slot st) l src dst)).passed
      k st l.hdr (w.slot st).pc s.cyc) :=
  copyIssue_cached h rfl rfl (by simp [he, Opnd.isNone, hs, hx])

theorem Opnd.not_isNone_of_ne : ∀ {o : Opnd}, o ≠ .none → o.isNone = false
  | .none, h => absurd rfl h
  | .v _, _ | .a _, _ | .x _, _ | .sp _, _ | .p _, _ | .k _, _ => rfl

/-- A copy into a ring also counts its bytes in the slot that the warp last claimed (R292). -/
theorem execCpy_acceptsRing {c1 : Copy} (h : s.copyReady k w st l src dst) (he : l.e ≠ .none)
    (hs : (s.laneCopy k w (w.slot st) l src dst).shapeFault true = 0)
    (hc : (s.usedRecords k w l src dst).ringCopy w (s.laneCopy k w (w.slot st) l src dst) (w.x64 l.e) = .ok c1)
    (hx : (s.usedRecords k w l src dst).extentFault c1 = 0) :
    let t := Tbl.getD w.rings (w.x64 l.e).toNat (0, 0)
    let rings := Tbl.put w.rings (w.x64 l.e).toNat (t.1, t.2 + (s.laneCopy k w (w.slot st) l src dst).bytes)
    execCpy l s = .next ((((s.usedRecords k w l src dst).putWarp k { w with rings := rings }).acceptCopy (s.wg (wgOf k)).coreKey c1).passed
      k st l.hdr (w.slot st).pc s.cyc) :=
  copyIssue_cached h rfl rfl (by simp [Opnd.not_isNone_of_ne he, hs, hc, hx])

/-! ### The follow-on (R289) -/

/-- A consumer whose range lies in its partition passes check 2 of R94. -/
theorem State.rangeFault_none {g : Nat} {f : Follow} {v : Warp} {es : List Nat} (hv : s.consumer g f = some v) (he : f.entries v.rg = some es) : s.rangeFault g f = 0 := by
  simp [State.rangeFault, hv, he]

/-- The `MMA` that follows a copy; its number is the one after the copy's (R221, R289). -/
def followOp (s : State) (g : Nat) (f : Follow) (c : Copy) (es : List Nat) : MatOp where
  id := s.nextId + 1
  kind := .mma
  warp := warpKey g f.cw
  slot := .slotA
  mask := lowLanes f.nrow
  bank := f.bank
  width := f.wa + 2
  addr := 0
  pad := false
  rows := (lowLanes f.nrow).lanes.map fun i => (i.val, c.dst.at c.ddisp [0, 0, 0, 0, 0] + i.val * f.stride)
  accs := es
  res := 0
  started := false
  done := 0
  pc := c.pc
  inst := c.inst

theorem execCpym_accepts {v : Warp} {es : List Nat} (h : s.copyReady k w st l src dst) (hd : dst.space = 1)
    (hs : (s.laneCopy k w (w.slot st) l src dst).shapeFault false = 0) (hx : (s.usedRecords k w l src dst).extentFault (s.laneCopy k w (w.slot st) l src dst) = 0) :
    let s1 := s.usedRecords k w l src dst
    let c := s.laneCopy k w (w.slot st) l src dst
    let f := followOf (w.x64 l.e).toNat
    s.followFault (wgOf k) f = 0 → s1.bankReady (wgOf k) f.bank = true → s1.consumer (wgOf k) f = some v → f.entries v.rg = some es →
    rowFault (lowLanes f.nrow) (fun i => c.dst.at c.ddisp [0, 0, 0, 0, 0] + i.val * f.stride) (f.wa + 2) (s.wg (wgOf k)).padSize = none →
    execCpym l s = .next (((s1.onWarp (warpKey (wgOf k) f.cw) fun v => { v with rg := v.rg.marked es }).acceptCopy (s.wg (wgOf k)).coreKey
      { c with follow := some (followOp s (wgOf k) f c es) }).bump.passed k st l.hdr (w.slot st).pc s.cyc) := by
  intro s1 c f hff hk hv he hrow
  have hspace : c.dst.space = 1 := hd
  have hr : s.rangeFault (wgOf k) f = 0 := State.rangeFault_none ((State.usedRecords_consumer ..).symm.trans hv) he
  refine copyIssue_cached h hr hff ?_
  simp [s1, c, f, hspace, hs, hk, hx, hrow, hv, he, followOp]

end

/-! ### `RCF` and the rings (R281, R290 to R293) -/

theorem execRcf_empties (h : s.laneReady k w st l.hdr (LaneReg.uses1 l)) (hp : s.isProducer k = true) :
    execRcf l s = .next ((s.onCore (s.wg (wgOf k)).coreKey fun c => { c with records := [] }).passed k st l.hdr (w.slot st).pc s.cyc) :=
  laneIssue_done h (by simp [hp])

/-- The ring that `RINIT` makes: its indices, rounds and generation are 0 (R291). -/
def ringMade (w : Warp) (l : LaneReg) : Ring where
  base := (w.x64 l.b).toNat
  size := (w.x64 l.c).toNat
  gen := 0
  crnd := 0
  prnd := 0
  widx := 0
  cidx := 0
  pidx := 0
  slots := modBits l.mod 3 0 + 1
  scope := modBits l.mod 6 4
  zeros := true

theorem execRinit_writes (h : s.laneReady k w st l.hdr (LaneReg.uses1 l)) (hb : s.memBlocked k st (w.slot st).mask w.after = false) (hp : s.isProducer k = true)
    (hlt : (w.x64 l.a).toNat < 2 ^ 20) (hok : (ringMade w l).ok (w.x64 l.a).toNat (s.wg (wgOf k)).padSize = true) :
    let r := ringMade w l
    let a := (w.x64 l.a).toNat
    let top := a + 16 + 8 * r.slots
    ¬ (a < r.base + r.slots * r.size ∧ r.base < top) →
    execRinit l s = .next ((((List.range r.slots).foldl (fun s i => s.putSync (wgOf k) a i ⟨0, 0, r.size, 0⟩) (s.putRing (wgOf k) a r)).padHeal (wgOf k) 1
      ((List.range (top - a)).map (a + ·))).passed k st l.hdr (w.slot st).pc s.cyc) := by
  intro r a top hapart
  have hfits : ¬ (decide (2 ^ 20 ≤ a) || !r.ok a (s.wg (wgOf k)).padSize || (decide (a < r.base + r.slots * r.size) && decide (r.base < top))) = true := by
    rw [show r.ok a (s.wg (wgOf k)).padSize = true from hok, decide_eq_false (Nat.not_le.2 hlt)]
    simpa using hapart
  refine laneIssue_done h ((if_neg ?_).trans ((if_neg hfits).trans (if_neg (Bool.eq_false_iff.1 hb))))
  simp [hp]

/-- `RWAIT.free` holds its slot on the slot and round it finds at issue, and is tried at once (R292). -/
theorem execRwaitFree_holds (h : s.laneReady k w st l.hdr (LaneReg.uses1 l)) (hb : s.memBlocked k st (w.slot st).mask w.after = false) (hp : s.isProducer k = true)
    (hf : s.ringFault (wgOf k) (w.x64 l.a) = 0) :
    let r := s.ring (wgOf k) (w.x64 l.a).toNat
    let t := (w.x64 l.b).toNat % 2 ^ 24
    t ≠ 0 → t ≤ r.size →
    execRwaitFree l s = .next ((s.putWarp k (w.holdLane st l.hdr s.cyc (w.active st l.hdr)
      (.rwaitFree (w.x64 l.a).toNat r.pidx r.prnd t (w.destEntry l.d)))).tryRwaitFree k st) := by
  intro r t h0 hle
  have ht : ¬ (t == 0 || decide (r.size < t)) = true := by simp [h0, Nat.not_lt.2 hle]
  refine laneIssue_stay h ?_
  simp only [hp, hf, State.nextPC_inLane h, hb]
  exact if_neg ht

/-- `RWAIT.filled` claims its slot at issue, in the ring of its own workgroup or of the co-placed producer's, and is tried at once (R293, log 44). -/
theorem execRwaitFilled_holds (h : s.laneReady k w st l.hdr (LaneReg.uses1 l)) (hb : s.memBlocked k st (w.slot st).mask w.after = false)
    (hf : s.ringFault (s.ringWg (wgOf k)) (w.x64 l.a) = 0) :
    let o := s.ringWg (wgOf k)
    let r := s.ring o (w.x64 l.a).toNat
    let n := advance r.cidx r.slots r.crnd
    execRwaitFilled l s = .next (((s.putRing o (w.x64 l.a).toNat { r with cidx := n.1, crnd := n.2 }).putWarp k
      (w.holdLane st l.hdr s.cyc (w.active st l.hdr) (.rwaitFilled (w.x64 l.a).toNat r.cidx r.crnd (w.destEntry l.d)))).tryRwaitFilled k st) :=
  laneIssue_stay h (by simp [hf, hb, State.nextPC_inLane h])

/-- `RREL` leaves a release in the issue sequence, which names the ring and the slot that it frees at its end (R293). -/
theorem execRrel_releases {i : Fin 32} (h : s.laneReady k w st l.hdr (LaneReg.uses1 l)) (hb : s.memBlocked k st (w.slot st).mask w.after = false)
    (hf : s.ringFault (s.ringWg (wgOf k)) (w.x64 l.a) = 0) (hi : (w.slot st).mask.lanes.head? = some i) :
    let o := s.ringWg (wgOf k)
    let r := s.ring o (w.x64 l.a).toNat
    let slot := (s.rd k w st l.b 0)[i].toNat
    slot < r.slots → (s.sync o (w.x64 l.a).toNat slot).state = 3 →
    execRrel l s = .next ((s.fenceReq { s.laneReq k w st (w.slot st) l.hdr .fence 0 with want := [(w.x64 l.a).toNat, slot] } true false r.scope).passed
      k st l.hdr (w.slot st).pc s.cyc) := by
  intro o r slot hlt h3
  obtain ⟨is, hmask⟩ := List.head?_eq_some_iff.1 hi
  have hslot : ¬ (decide (r.slots ≤ slot) || (s.sync o (w.x64 l.a).toNat slot).state != 3) = true := by simp [Nat.not_le.2 hlt, h3]
  refine laneIssue_done h ?_
  simp only [hf, hmask, hb]
  exact if_neg hslot

end

end Sys2Proof.Machine
end

/-- Settles O33: a copy whose records the cache holds is ready (`State.copyReady`), and goes on to its own checks; the ring instructions, one lemma each. -/
theorem copyAndRingInstructions : Obligations.CopyAndRingInstructions := by
  open Sys2Proof Sys2Proof.Machine in
  intro s k w st l src dst g x a b h r c s1 f hready
  refine ⟨execRcf_empties hready, fun hb hq hp ha64 hb64 hca hcb hsrc hdst => ?_, fun hb hp => ⟨execRinit_writes hready hb hp, fun hf h0 hle _ => ?_⟩,
    fun hb hf _ => ⟨execRwaitFilled_holds hready hb hf, fun i => execRrel_releases hready hb hf⟩⟩
  · have hc : s.copyReady k w st l src dst := ⟨hready, hb, hq, hp, ha64, hb64, hca, hcb, hsrc, hdst⟩
    refine ⟨fun he hs => execCpy_accepts hc he (Copy.shapeFault_none hs), fun c1 he hs => execCpy_acceptsRing hc he (Copy.shapeFault_none hs),
      fun v es hff hd hs hx hk hv he hrow => ?_⟩
    exact ⟨followOp s (wgOf k) f c es, rfl, rfl, rfl, rfl, rfl, rfl, rfl, execCpym_accepts hc hd (Copy.shapeFault_none hs) hx hff hk hv he hrow⟩
  · exact execRwaitFree_holds hready hb hp hf h0 hle

section
/-! SUPPORT. The issue of an instruction of group 0xC: its destinations are marked, its release part stands in the issue sequence, and its operation joins the warp's fabric queue (R230, R355 to R360). -/

namespace Sys2Proof.Machine

section
variable {s : State} {k : Nat} {w : Warp} {st : Stream} {l : LaneReg} {code scope : Nat} {down : Bool}

/-- A scope keeps to its three bits under the tenant policy. -/
theorem State.scopePolicy_lt {fn n : Nat} (hn : n < 8) (h : s.scopePolicy fn n = some (scope, down)) : scope < 8 := by
  unfold State.scopePolicy at h
  split at h
  · split at h
    · cases h; decide
    · cases h; decide
    · cases h
  · cases h; exact hn

/-- The scope that an operation carries in its MOD is the one that the policy left (R219, R357). -/
theorem fabOp_scope (h : scope < 8) (x : Slot) (dregs : List Nat) (y : FabArgs) : (fabOp s k st x l code scope dregs y).scope = scope := by
  simp only [FabOp.scope, modBits, fabOp, BitVec.toNat_ofNat]
  have := l.mod.isLt
  omega

/-- The warp once an instruction of the group has marked its destinations empty. -/
def Warp.fabMarked (w : Warp) (down : Bool) (dregs : List Nat) : Warp := { w.downgraded down with rg := (w.downgraded down).rg.marked dregs }

theorem Warp.fabMarked_frame (w : Warp) (down : Bool) (dregs : List Nat) :
    (w.fabMarked down dregs).fabq = w.fabq ∧ (w.fabMarked down dregs).rg = w.rg.marked dregs ∧ (w.fabMarked down dregs).sc = w.sc ∧ (w.fabMarked down dregs).x = w.x := by
  cases down <;> exact ⟨rfl, rfl, rfl, rfl⟩

/-- The state once the destinations are marked and the release part, where there is one, stands in the issue sequence. -/
def State.fabBegun (s : State) (k : Nat) (w : Warp) (st : Stream) (l : LaneReg) (scope : Nat) (down : Bool) (dregs : List Nat) (rel : Bool) : State :=
  let s1 := s.putWarp k (w.fabMarked down dregs)
  if rel then s1.fenceReq { s.laneReq k w st (w.slot st) l.hdr .fence 0 with parent := s.nextId + 1 } true false scope else s1

theorem State.fabBegun_find (dregs : List Nat) (rel : Bool) : Tbl.find (s.fabBegun k w st l scope down dregs rel).warps k = some (w.fabMarked down dregs) := by
  cases rel <;> exact Tbl.find_put_same ..

theorem State.fabBegun_mem (dregs : List Nat) (rel : Bool) : (s.fabBegun k w st l scope down dregs rel).mem = s.mem := by cases rel <;> rfl

theorem State.fabBegun_fence (dregs : List Nat) (y : FabArgs) :
    (fabOp (s.fabBegun k w st l scope down dregs y.rel) k st (w.slot st) l code scope dregs y).fence = if y.rel then s.nextId else 0 := by
  unfold fabOp
  cases y.rel <;> rfl

/-- An instruction of the group whose checks pass queues its operation. -/
theorem fabIssue_queues {us : List Use} {f : Nat → Warp → Stream → Slot → FabArgs} {a b c : Nat} {hasC rel : Bool} {mem : List FabAddr} {i : Instr} (h : s.laneReady k w st l.hdr us)
    (hp : s.scopePolicy (s.wg (wgOf k)).fn l.scope = some (scope, down)) (hb : s.memBlocked k st (w.slot st).mask w.after = false) (hq : w.qfenced 3 = false)
    (hi : exec i s = fabIssue s l code us f) (hf : f k w st (w.slot st) = ⟨a, b, c, hasC, rel, mem⟩) (hc : s.fabCheck k mem = 0) :
    queuedFabric s k w st l code scope us rel a b c hasC i := by
  let y : FabArgs := ⟨a, b, c, hasC, rel, mem⟩
  let ds := (us.filter fun u => u.dst).flatMap (Use.entries w.rg)
  obtain ⟨hfabq, hrg, hsc, hx⟩ := w.fabMarked_frame down ds
  let s2 := s.fabBegun k w st l scope down ds rel
  let o := fabOp s2 k st (w.slot st) l code scope ds y
  let v : Warp := { w.fabMarked down ds with fabq := (w.fabMarked down ds).fabq ++ [o] }
  have hdone : exec i s = .next (((s2.putWarp k v).bump).passed k st l.hdr (w.slot st).pc s.cyc) := by
    rw [hi]
    refine laneIssue_done h ?_
    rw [← State.onWarp_of_find (s.fabBegun_find ds rel) fun v => { v with fabq := v.fabq ++ [o] }]
    simp only [hp, hf, hc, hb, hq]
    rfl
  refine ⟨_, v, o, hdone, Tbl.find_put_same .., congrArg (· ++ [o]) hfabq, hrg, hsc, hx, rfl, rfl, rfl, rfl, rfl, ?_, rfl, rfl, rfl, ?_, ?_⟩
  · exact fabOp_scope (State.scopePolicy_lt (Nat.mod_lt _ (by decide)) hp) ..
  · exact State.fabBegun_fence ..
  · exact State.fabBegun_mem ..

end

end Sys2Proof.Machine
end

/-- Settles O34: each instruction queues its operation (`fabIssue_queues`) with the arguments that its own part gives. -/
theorem fabricInstructions : Obligations.FabricInstructions := by
  open Sys2Proof.Machine in
  intro s k w st l scope down x A B C hnd q pad n hp hb hq
  exact ⟨fun h hc => fabIssue_queues h hp hb hq (.refl (execBpost l s)) rfl hc,
    fun h hc => fabIssue_queues h hp hb hq (.refl (execBsend l s)) rfl hc,
    fun h hc => fabIssue_queues h hp hb hq (.refl (execAmsend l s)) rfl hc,
    fun h hc => fabIssue_queues h hp hb hq (.refl (execStopen l s)) rfl hc,
    fun h hc => fabIssue_queues h hp hb hq (.refl (execStsend l s)) rfl hc,
    fun h hc => fabIssue_queues h hp hb hq (.refl (execStrecv l s)) rfl hc,
    fun h hc => fabIssue_queues h hp hb hq (.refl (execStxfer l s)) rfl hc,
    fun h hc => fabIssue_queues h hp hb hq (.refl (execStadopt l s)) rfl hc,
    fun h hc => fabIssue_queues h hp hb hq (.refl (execStbind l s)) rfl hc,
    fun h hc => fabIssue_queues h hp hb hq (.refl (execStclose l s)) rfl hc,
    fun h hc => fabIssue_queues h hp hb hq (.refl (execStquery l s)) rfl hc⟩

section
/-! SUPPORT. The entry of a precise trap: the fields of its cause, a trap in a handler, and the trap that takes the place of a higher-numbered warp's (R319 to R324). -/

namespace Sys2Proof.Machine

/-! ### The cause (R320) -/

section
variable {info src code : Nat} {pend : Bool}

/-- The word has room for its four fields. -/
theorem toNat_causeWord (hs : src < 4) (hc : code < 256) :
    (causeWord info src pend code).toNat = info % 2 ^ 32 * 2 ^ 32 + src * 2 ^ 14 + (if pend then 2 ^ 12 else 0) + code := by
  rw [causeWord, BitVec.toNat_ofNat, Nat.mod_eq_of_lt hs, Nat.mod_eq_of_lt hc]
  exact Nat.mod_eq_of_lt (by split <;> omega)

theorem trapCode_causeWord (hs : src < 4) (hc : code < 256) : trapCode (causeWord info src pend code) = code := by
  rw [trapCode, toNat_causeWord hs hc]
  split <;> omega

theorem trapSrc_causeWord (hs : src < 4) (hc : code < 256) : trapSrc (causeWord info src pend code) = src := by
  rw [trapSrc, toNat_causeWord hs hc]
  split <;> omega

theorem trapSkip_causeWord (hs : src < 4) (hc : code < 256) : trapSkip (causeWord info src pend code) = false := by
  rw [trapSkip, toNat_causeWord hs hc, beq_eq_false_iff_ne]
  split <;> omega

theorem trapPend_causeWord (info src code : Nat) (pend : Bool) : trapPend (causeWord info src pend code) = pend := by
  rw [trapPend, causeWord, BitVec.toNat_ofNat]
  cases pend
  · rw [beq_eq_false_iff_ne]; simp only [Bool.false_eq_true, if_false]; omega
  · rw [beq_iff_eq]; simp only [if_true]; omega

end

theorem trapPend_eq (c : W64) : trapPend c = c.getLsbD 12 := by
  rw [trapPend, ← BitVec.testBit_toNat, Nat.testBit_eq_decide_div_mod_eq]
  rfl

/-! ### The trapping warp -/

/-- A trap that no user handler takes leaves the warp stopped, in the mode it was in. -/
theorem Warp.taken_stop_unhandled {w : Warp} {code : Nat} (h : w.handler ≠ none ∨ w.delegates code = false) (cause pc : W64) (inst : W32) :
    ((w.stop cause pc inst).taken code).handler = w.handler ∧ ((w.stop cause pc inst).taken code).halt = .stopped := by
  have hkept : (w.stop cause pc inst).taken code = w.stop cause pc inst := by
    refine if_neg fun hc => ?_
    obtain ⟨hn, hd⟩ := Bool.and_eq_true_iff.1 hc
    rcases h with h | h
    · exact h (Option.isNone_iff_eq_none.1 hn)
    · exact Bool.false_ne_true (h.symm.trans hd)
  rw [hkept]
  exact ⟨rfl, rfl⟩

/-- The vector, the delegation and the flags stay as they are. -/
theorem Warp.taken_stop_keeps (w : Warp) (cause pc : W64) (inst : W32) (code : Nat) :
    ((w.stop cause pc inst).taken code).trap.vec = w.trap.vec ∧ ((w.stop cause pc inst).taken code).trap.deleg = w.trap.deleg ∧
    ((w.stop cause pc inst).taken code).fflags = w.fflags := by
  unfold Warp.taken
  split <;> exact ⟨rfl, rfl, rfl⟩

/-- The workgroup of a trap that no user handler takes is left to firmware. -/
theorem State.find_takeTrap_unhandled {s : State} {k code : Nat} {w : Warp} {g : Wg} (h : w.handler ≠ none ∨ w.delegates code = false) (cause pc : W64) (inst : W32)
    (hg : Tbl.find s.wgs (wgOf k) = some g) :
    Tbl.find (s.takeTrap k (w.stop cause pc inst) code).wgs (wgOf k) = some { g with status := .halted, trapper := some k } := by
  rw [State.takeTrap_firmware (h.imp_right (w.stop_delegates cause pc inst code).trans)]
  exact (Tbl.find_adjust ..).trans (by rw [if_pos rfl]; exact congrArg _ hg)

/-! ### The warp whose trap gives way (R322) -/

theorem Warp.demoted_pend (w : Warp) : w.demoted.halt = .stopped ∧ w.demoted.handler = none ∧ trapPend w.demoted.trap.cause = true := by
  refine ⟨rfl, ?_, ?_⟩
  · unfold Warp.demoted
    cases h : w.handler with
    | some a => rfl
    | none => exact h
  · rw [trapPend_eq, Warp.demoted, BitVec.getLsbD_or]
    exact Bool.or_true _

section
variable {s : State} {k j : Nat}

theorem State.find_demote_same {x : Warp} (hx : Tbl.find s.warps j = some x) : Tbl.find (s.demote j).warps j = some x.demoted := by
  rw [State.demote, State.onWg_warps, State.onWarp_of_find hx, State.find_putWarp_same]

theorem State.find_demote_wg {g : Wg} (hg : Tbl.find s.wgs (wgOf j) = some g) : Tbl.find (s.demote j).wgs (wgOf j) = some { g with status := .resident } :=
  (Tbl.find_adjust ..).trans (by rw [if_pos rfl]; exact congrArg _ hg)

/-- Whoever handles it, the workgroup knows its trapping warp. -/
theorem State.takeTrap_trapper {g : Wg} (hg : Tbl.find s.wgs (wgOf k) = some g) (w : Warp) (code : Nat) : ((s.takeTrap k w code).wg (wgOf k)).trapper = some k := by
  unfold State.takeTrap
  split <;> simp [State.wg, Tbl.getD, Tbl.find_adjust, hg]

variable {w : Warp} {since stop : Nat} (hw : Tbl.find s.warps k = some w) (hh : w.halt = .skid since stop)
include hw hh

theorem State.raise_skid (hn : ¬ (since = s.cyc ∧ ∃ j, (s.wg (wgOf k)).trapper = some j ∧ k < j)) (src code info : Nat) (pc : W64) (inst : W32) :
    s.raise k src code info pc inst = s.putWarp k (w.stop (causeWord info src true code) pc inst) := by
  simp only [State.raise, hw, hh]
  split
  next j hj => exact if_neg fun hc => hn ⟨hc.1, j, hj, hc.2⟩
  next => rfl

theorem State.raise_overtakes (hs : since = s.cyc) (ht : (s.wg (wgOf k)).trapper = some j) (hj : k < j) (src code info : Nat) (pc : W64) (inst : W32) :
    s.raise k src code info pc inst = (s.demote j).takeTrap k (w.stop (causeWord info src false code) pc inst) code := by
  simp only [State.raise, hw, hh, ht]
  exact if_pos ⟨hs, hj⟩

end

end Sys2Proof.Machine
end

/-- R319 to R321 and R324: the trap registers and what stays, and where the warp and its workgroup go. -/
theorem trapRegisters : claimTrapRegisters := by
  open Sys2Proof.Machine in
  intro s k src code info pc inst w hw hr hc hs
  obtain ⟨hmem, hreqs⟩ := s.raise_frame k src code info pc inst
  have hcode : trapCode (causeWord info src false code) = code := trapCode_causeWord hs hc
  have hsrc : trapSrc (causeWord info src false code) = src := trapSrc_causeWord hs hc
  have hpend : trapPend (causeWord info src false code) = false := trapPend_causeWord ..
  have hskip : trapSkip (causeWord info src false code) = false := trapSkip_causeWord hs hc
  rw [State.raise_run hw hr] at hmem hreqs ⊢
  generalize causeWord info src false code = c at *
  obtain ⟨hcause, hpc, hinst, -, -, hsc, hrg, -⟩ := w.taken_stop c pc inst code
  obtain ⟨hvec, hdeleg, hff⟩ := w.taken_stop_keeps c pc inst code
  refine ⟨_, State.find_takeTrap_same .., hcause, (congrArg trapCode hcause).trans hcode, (congrArg trapSrc hcause).trans hsrc,
    (congrArg trapPend hcause).trans hpend, (congrArg trapSkip hcause).trans hskip, hpc, hinst, hvec, hdeleg, hsc, hrg, hff, hmem, hreqs, fun ⟨hn, hd⟩ => ?_, fun h => ?_⟩
  · obtain ⟨hhandler, -, -, hrun⟩ := Warp.taken_stop_user hn hd c pc inst
    exact ⟨hhandler, hrun, fun g hg => State.find_takeTrap_user hn hd _ _ _ (by rwa [State.broadcastHalt_wgs])⟩
  · obtain ⟨hhandler, hstopped⟩ := Warp.taken_stop_unhandled h c pc inst
    exact ⟨hhandler, hstopped, fun g hg => State.find_takeTrap_unhandled h _ _ _ (by rwa [State.broadcastHalt_wgs])⟩

/-- R322: PEND of a warp in its skid window, or the trap that takes the place of a higher-numbered warp's. -/
theorem trapInsideSkidWindow : claimTrapInsideSkidWindow := by
  open Sys2Proof.Machine in
  intro s k src code info since stop pc inst w hw hh first
  refine ⟨fun hn => State.raise_skid hw hh hn src code info pc inst, trapPend_causeWord .., fun j x g hs ht hj hg hx hwg => ?_⟩
  obtain ⟨hstop, hnone, hpend⟩ := x.demoted_pend
  refine ⟨_, (w.stop (causeWord info src false code) pc inst).taken code, x.demoted, State.raise_overtakes hw hh hs ht hj src code info pc inst,
    State.find_takeTrap_same .., ?_, (w.taken_stop ..).1, hstop, hnone, hpend, State.takeTrap_trapper (g := { g with status := .resident }) ?_ _ _⟩
  · rw [State.find_takeTrap_other (Nat.ne_of_gt hj), State.find_demote_same hx]
  · rw [← hg] at hwg ⊢
    exact State.find_demote_wg hwg

/-- Settles O14: the trap of a running warp, and that of one in its skid window. -/
theorem trapEntry : Obligations.TrapEntry := ⟨trapRegisters, trapInsideSkidWindow⟩

section
/-! SUPPORT. The device time: what each register write leaves, and what one tick does with the counter (R315, R414). -/

namespace Sys2Proof.Machine

section
variable {s : State} {m : Mgr} {v : W64}

/-! ### The registers (R315) -/

/-- No virtual function has them (R414). -/
theorem ptpWrite_closed (h : deviceWide m = false) :
    execPtpsetWrite m v s = .next s ∧ execPtpadjWrite m v s = .next s ∧ execPtprateWrite m v s = .next s ∧ execPtpholdWrite m v s = .next s := by
  simp [execPtpsetWrite, execPtpadjWrite, execPtprateWrite, execPtpholdWrite, h]

section
variable (h : deviceWide m = true)
include h

theorem execPtpsetWrite_loads (hv : s.ptp.now ≤ v.toNat) : execPtpsetWrite m v s = .next (s.discipline { s.ptp with now := v.toNat, owed := 0 }) := by
  simp [execPtpsetWrite, h, hv]

theorem execPtpsetWrite_slews (hv : v.toNat < s.ptp.now) : execPtpsetWrite m v s = .next (s.discipline { s.ptp with owed := (s.ptp.now - v.toNat) * Ptp.unit }) := by
  simp [execPtpsetWrite, h, Nat.not_le.2 hv]

theorem execPtpadjWrite_adds (hv : 0 ≤ v.toInt) : execPtpadjWrite m v s = .next (s.discipline { s.ptp with now := (s.ptp.now + v.toNat) % 2 ^ 64 }) := by
  simp [execPtpadjWrite, h, Int.not_lt.2 hv]

theorem execPtpadjWrite_slews (hv : v.toInt < 0) : execPtpadjWrite m v s = .next (s.discipline { s.ptp with owed := s.ptp.owed + v.toInt.natAbs * Ptp.unit }) := by
  simp [execPtpadjWrite, h, hv]

theorem execPtprateWrite_clamps : execPtprateWrite m v s = .next (s.discipline { s.ptp with rate := clampRate (v.setWidth 32 : W32).toInt }) := by
  simp [execPtprateWrite, h]

theorem execPtpholdWrite_zero (hv : v.toNat % 65536 = 0) : execPtpholdWrite m v s = .next { s with ptp := { s.ptp with sync := false } } := by
  simp [execPtpholdWrite, h, hv]

theorem execPtpholdWrite_holds (hv : v.toNat % 65536 ≠ 0) : execPtpholdWrite m v s = .next { s with ptp := { s.ptp with hold := v.toNat % 65536 } } := by
  simp [execPtpholdWrite, h, hv]

end

theorem execPtpHoldoverExpiry_due (hs : s.ptp.sync = true) (ht : s.ptp.last + Config.msec s.ptp.hold ≤ s.cyc) :
    execPtpHoldoverExpiry s = .next { s with ptp := { s.ptp with sync := false } } := by
  simp [execPtpHoldoverExpiry, hs, ht]

end

/-! ### One tick -/

section
variable {p : Ptp}

theorem Ptp.tick_frac_lt (p : Ptp) : p.tick.frac < Ptp.unit := Nat.mod_lt _ (by decide)

theorem Ptp.tick_owed_le (p : Ptp) : p.tick.owed ≤ p.owed := Nat.sub_le ..

/-- A core cycle and the greatest correction are less than one ns, so the counter grows by at most one. -/
theorem Ptp.now_le_tick (hf : p.frac < Ptp.unit) (hr : p.rate ≤ 1000000000) (hn : p.now < 2 ^ 64 - 1) : p.now ≤ p.tick.now := by
  simp only [Ptp.tick, Ptp.unit] at *
  generalize min p.owed _ = a
  have hstep : ((1000000000000 : Int) + p.rate).toNat ≤ 1001000000000 := by omega
  omega

end

end Sys2Proof.Machine
end

/-- Settles O45: each register by its writer and the value written; the tick by what it adds to the counter. -/
theorem deviceTime : Obligations.DeviceTime := by
  open Sys2Proof.Machine in
  intro s m v n goes p set unit
  refine ⟨fun h => ptpWrite_closed (by rw [h]; rfl), fun h => ?_, execPtpHoldoverExpiry_due, rfl, fun hf => ⟨p.tick_frac_lt, p.tick_owed_le, Ptp.now_le_tick hf⟩⟩
  have hm : deviceWide m = true := by rcases h with rfl | rfl <;> rfl
  exact ⟨execPtpsetWrite_loads hm, execPtpsetWrite_slews hm, execPtpadjWrite_adds hm, execPtpadjWrite_slews hm, execPtprateWrite_clamps hm,
    execPtpholdWrite_zero hm, execPtpholdWrite_holds hm⟩


section
/-! SUPPORT. The mailbox: what a write of the doorbell starts, and what firmware answers to a started command (R297, R404, R407 to R411; log 15). -/

namespace Sys2Proof.Machine

section
variable {s : State} {m : Mgr} {code : Nat}

/-! ### The doorbell (R407) -/

theorem execRegisterWrite_doorbell (s : State) (m : Mgr) (v : W64) : execRegisterWrite m 0x80 4 v s = .next (s.startCommand m (v.toNat % 256)) := rfl

/-- A command still under way. -/
theorem State.startCommand_busy (h : (s.fn (mgrFn m)).doorbell.getLsbD 31 = true) :
    s.startCommand m code = s.onFn (mgrFn m) fun f => { f with response := 3#8 :: f.response.drop 1 } := if_pos h

theorem commandOpen_unlisted (h : code = 0 ∨ (5 ≤ code ∧ code ≤ 15) ∨ 0x17 ≤ code) : commandOpen m code = none := by
  unfold commandOpen
  rw [if_neg (by simp; omega), if_neg (by simp; omega)]

/-- The commands of R407 that every function has, and those of R408 to R411 that the physical function has. -/
theorem commandOpen_function (h : 1 ≤ code ∧ code ≤ 4) : commandOpen m code = some (isFunction m) := if_pos (by simpa using h)

theorem commandOpen_pf (h : 0x10 ≤ code ∧ code ≤ 0x16) : commandOpen m code = some (isPf m) := by
  unfold commandOpen
  rw [if_neg (by simp; omega), if_pos (by simpa using h)]

theorem isPf_of_ne (h : m ≠ .pf) : isPf m = false := by
  cases m with
  | pf => exact absurd rfl h
  | vf n => rfl
  | fw => rfl

section
variable (h : (s.fn (mgrFn m)).doorbell.getLsbD 31 = false)
include h

theorem State.startCommand_unlisted (hc : code = 0 ∨ (5 ≤ code ∧ code ≤ 15) ∨ 0x17 ≤ code) : s.startCommand m code = s.respondTo m code 2 [] := by
  rw [State.startCommand, if_neg (Bool.eq_false_iff.1 h), commandOpen_unlisted hc]

theorem State.startCommand_closed (hc : (1 ≤ code ∧ code ≤ 4 ∧ isFunction m = false) ∨ (0x10 ≤ code ∧ code ≤ 0x16 ∧ m ≠ .pf)) :
    s.startCommand m code = s.respondTo m code 1 [] := by
  rw [State.startCommand, if_neg (Bool.eq_false_iff.1 h)]
  rcases hc with ⟨hlo, hhi, hm⟩ | ⟨hlo, hhi, hm⟩
  · rw [commandOpen_function ⟨hlo, hhi⟩, hm]
  · rw [commandOpen_pf ⟨hlo, hhi⟩, isPf_of_ne hm]

theorem State.startCommand_starts (hc : (1 ≤ code ∧ code ≤ 4 ∧ isFunction m = true) ∨ (0x10 ≤ code ∧ code ≤ 0x16 ∧ m = .pf)) :
    s.startCommand m code = s.onFn (mgrFn m) fun f => { f with doorbell := BitVec.ofNat 32 (2 ^ 31 + code) } := by
  rw [State.startCommand, if_neg (Bool.eq_false_iff.1 h)]
  rcases hc with ⟨hlo, hhi, hm⟩ | ⟨hlo, hhi, rfl⟩
  · rw [commandOpen_function ⟨hlo, hhi⟩, hm]
    rfl
  · rw [commandOpen_pf ⟨hlo, hhi⟩]
    rfl

end

/-! ### What firmware carries out -/

section
variable {same : Bool} {f : State → State × Nat × List Byte}

/-- A command that has not been started is not carried out. -/
theorem mailbox_notStarted {i : Instr} (hi : exec i s = mailbox s m code same f) (h : s.started m code = false) : exec i s = .next s := hi.trans (if_pos (by simp [h]))

/-- A started command whose operands are those of the request is carried out, and its status and results are the response. -/
theorem mailbox_answers {t : State} {status : Nat} {rest : List Byte} (h : s.started m code = true) (hs : same = true) (hf : f s = (t, status, rest)) :
    mailbox s m code same f = .next (t.respondTo m code status rest) := by
  rw [mailbox, if_neg (by simp [h, hs])]
  dsimp only
  rw [hf]

end

section
variable {rc : QueueRec} (h : s.started m 1 = true) (hr : s.requestRec m = rc)
include h hr

theorem execOpenq_malformed (hb : recOk rc = false ∨ (rc.flags = 1 ∧ s.ringLocal (mgrFn m) rc = false)) : execOpenq m rc s = .next (s.respondTo m 1 2 []) :=
  mailbox_answers h (beq_iff_eq.2 hr) (if_pos (by simpa using hb))

/-- The queue that a record opens (R297). -/
def queueOpened (rc : QueueRec) (fn : Nat) : Queue where
  fn := fn
  ring := rc.ring
  comp := rc.comp
  logn := rc.logn
  die := rc.die
  prio := rc.prio
  devsub := rc.flags == 1
  proc := rc.proc
  state := 1
  ecode := 0
  eidx := 0
  head := 0
  tail := 0
  packets := []
  starved := false
  refused := []

theorem execOpenq_opens {q : Nat} (ho : recOk rc = true) (hl : rc.flags ≠ 1 ∨ s.ringLocal (mgrFn m) rc = true) (h0 : (s.fn (mgrFn m)).resetStep = 0)
    (hq : s.freeQueue = some q) :
    execOpenq m rc s = .next (({ s.putCmdq q (queueOpened rc (mgrFn m)) with weights := Tbl.put s.weights (mgrFn m * 65536 + rc.proc) rc.weight } : State).respondTo m 1 0
      (bytesLE 3 0 ++ bytesLE 4 q)) := by
  refine mailbox_answers h (beq_iff_eq.2 hr) ((if_neg ?_).trans ((if_neg (by simp [h0])).trans ?_))
  · rcases hl with hl | hl <;> simp [ho, hl]
  · simp only [hq]
    rfl

end

section
variable {q : Nat} {x : Queue} (h : s.started m 2 = true) (hr : s.requestN m 0 4 = q) (hx : Tbl.find s.cmdq q = some x)
include h hr hx

theorem execCloseq_closes (hf : x.fn = mgrFn m) (h0 : x.state ≠ 0) :
    execCloseq m q s = .next ((s.putCmdq q { x with state := 0, tail := x.head, refused := [] }).respondTo m 2 0 []) :=
  mailbox_answers h (beq_iff_eq.2 hr) (by simp only [hx]; exact if_pos (by simp [hf, h0]))

theorem execCloseq_foreign (hf : x.fn ≠ mgrFn m) : execCloseq m q s = .next (s.respondTo m 2 1 []) :=
  mailbox_answers h (beq_iff_eq.2 hr) (by simp only [hx]; exact if_neg (by simp [hf]))

end

section
variable (h : s.started m 3 = true)
include h

theorem execFaultlog_pops {r : LogRec} {rest : List LogRec} (hl : (s.fn (mgrFn m)).log = r :: rest) :
    execFaultlog m s = .next ((s.onFn (mgrFn m) fun f => { f with log := rest }).respondTo m 3 0 r.bytes) := mailbox_answers h rfl (by simp only [hl])

theorem execFaultlog_empty (hl : (s.fn (mgrFn m)).log = []) : execFaultlog m s = .next (s.respondTo m 3 0 []) := mailbox_answers h rfl (by simp only [hl])

end

theorem execAttest_answers {nonce : BitVec 256} (h : s.started m 4 = true) (hr : s.requestN m 0 32 = nonce.toNat) :
    execAttest m nonce s = .next (s.respondTo m 4 0 (s.attestFields (mgrFn m) nonce ++ Config.sign (digest (s.attestFields (mgrFn m) nonce)))) :=
  mailbox_answers h (beq_iff_eq.2 hr) rfl

theorem execPostreport_answers {page : Nat} (h : s.started m 0x10 = true) (hr : s.requestN m 0 4 = page) :
    execPostreport m page s = .next (s.respondTo m 0x10 0 (if page = 0 then Config.certificate else (s.boot.reportBytes.drop (64 * (page - 1))).take 64)) :=
  (mailbox_answers h (beq_iff_eq.2 hr) rfl).trans (by simp only [beq_iff_eq])

section
variable {pass : Bool} (h : s.started m 0x11 = true)
include h

theorem execRetest_safe (hs : s.boot.safe = true) (hr : s.boot.retired = false) :
    execRetest m pass s = .next ((if pass then { s with boot := { s.boot with safe := false, running := false, stage := 6 } } else s).respondTo m 0x11 0 []) := by
  cases pass <;> exact mailbox_answers h rfl (if_neg (by simp [hs, hr]))

theorem execRetest_retired (hr : s.boot.retired = true) : execRetest m pass s = .next (s.respondTo m 0x11 1 []) := mailbox_answers h rfl (if_pos (by simp [hr]))

end

theorem execRetire_retires (h : s.started m 0x13 = true) : execRetire m s = .next (({ s with boot := { s.boot with safe := true, retired := true } } : State).respondTo m 0x13 0 []) :=
  mailbox_answers h rfl rfl

theorem execFwupdate_swaps {img : Image} (h : s.started m 0x14 = true) :
    execFwupdate m img s = .next (({ s with boot := { s.boot with banks := s.boot.banks.set (1 - s.boot.active) (some img), active := 1 - s.boot.active } } : State).respondTo
      m 0x14 0 []) := mailbox_answers h rfl rfl

section
variable {k : SpareKind} {part : Nat} (h : s.started m 0x12 = true) (h0 : s.requestN m 0 1 = SpareKind.code k) (h8 : s.requestN m 8 8 = part)
include h h0 h8

theorem execSubstitute_awaits (hl : s.boot.spareLeft k part = true) : execSubstitute m k part s = .next ((s.awaitSpare k part).respondTo m 0x12 0 []) :=
  mailbox_answers h (by simp [h0, h8]) (if_pos hl)

theorem execSubstitute_spent (hl : s.boot.spareLeft k part = false) : execSubstitute m k part s = .next (s.respondTo m 0x12 1 []) :=
  mailbox_answers h (by simp [h0, h8]) (if_neg (Bool.eq_false_iff.1 hl))

end

section
variable {frame : Nat} (h : s.started m 0x15 = true) (hr : s.requestN m 0 8 = frame)
include h hr

theorem execFrameinfo_beyond (hf : frameCount ≤ frame) : execFrameinfo m frame s = .next (s.respondTo m 0x15 2 []) := mailbox_answers h (beq_iff_eq.2 hr) (if_pos hf)

theorem execFrameinfo_answers (hf : frame < frameCount) :
    execFrameinfo m frame s = .next (s.respondTo m 0x15 0
      (bytesLE 1 (if (s.frame frame).scrub then 1 else 0) ++ bytesLE 2 0 ++ bytesLE 4 (s.frame frame).owner ++ bytesLE 8 (s.frame frame).epoch)) :=
  mailbox_answers h (beq_iff_eq.2 hr) (if_neg (Nat.not_le.2 hf))

end

section
variable {frame owner : Nat} (h : s.started m 0x16 = true) (h0 : s.requestN m 0 8 = frame) (h8 : s.requestN m 8 4 = owner)
include h h0 h8

theorem execAssign_beyond (hf : frameCount ≤ frame) : execAssign m frame owner s = .next (s.respondTo m 0x16 2 []) :=
  mailbox_answers h (by simp [h0, h8]) (if_pos (by simp [hf]))

section
variable (hf : frame < frameCount) (ho : owner ≤ 32) (hr : (s.fn (s.frame frame).owner).resetStep = 0)
include hf ho hr

/-- A frame that no page names goes to its new owner. -/
theorem execAssign_assigns (hp : s.pages = []) (hs : (s.frame frame).scrub = false ∨ (s.frame frame).rises < 255) :
    execAssign m frame owner s = .next ((s.putFrame frame { s.frame frame with owner := owner }).respondTo m 0x16 0 []) := by
  refine mailbox_answers h (by simp [h0, h8]) ((if_neg (by simp [hf, ho])).trans ((if_neg (by simp [hr])).trans (if_neg ?_)))
  rcases hs with hs | hs
  · simp [hp, hs]
  · simp [hp, Nat.not_le.2 hs]

/-- It does not after 255 rises of its epoch without a scrub (log 25). -/
theorem execAssign_refused (hs : (s.frame frame).scrub = true) (hn : 255 ≤ (s.frame frame).rises) : execAssign m frame owner s = .next (s.respondTo m 0x16 1 []) :=
  mailbox_answers h (by simp [h0, h8]) ((if_neg (by simp [hf, ho])).trans ((if_neg (by simp [hr])).trans (if_pos (by simp [hs, hn]))))

end

end

/-- The response and the doorbell are its writer's. -/
theorem State.fn_respondTo_same (s : State) (m : Mgr) (code status : Nat) (rest : List Byte) :
    (s.respondTo m code status rest).fn (mgrFn m) = { s.fn (mgrFn m) with response := BitVec.ofNat 8 status :: rest, doorbell := BitVec.ofNat 32 code } :=
  s.fn_onFn_same ..

theorem State.fn_respondTo_other {j : Nat} (h : j ≠ mgrFn m) (status : Nat) (rest : List Byte) : (s.respondTo m code status rest).fn j = s.fn j :=
  congrArg (Option.getD · _) (Tbl.find_put_other _ _ h)

end

end Sys2Proof.Machine
end

/-- Settles O51: the doorbell by whether its command is open and one is under way; a started command by what firmware answers (`mailbox_answers`). -/
theorem mailboxCommands : Obligations.MailboxCommands := by
  open Sys2Proof Sys2Proof.Machine in
  intro s m n q page frame owner part rc nonce pass k img answers fn b started
  refine ⟨fun v => ?_, ?_, fun h hr => ⟨execOpenq_malformed h hr, fun ho hl h0 hq => ?_⟩, fun h hr x hx => ⟨execCloseq_closes h hr hx, execCloseq_foreign h hr hx⟩,
    fun h => ⟨fun r rest => execFaultlog_pops h, execFaultlog_empty h⟩, execAttest_answers, fun h hr => ?_,
    fun h => ⟨fun hs hr => ⟨execRetest_safe (pass := true) h hs hr, execRetest_safe (pass := false) h hs hr⟩, execRetest_retired h⟩,
    fun h h0 h8 => ⟨execSubstitute_awaits h h0 h8, execSubstitute_spent h h0 h8⟩, execRetire_retires, execFwupdate_swaps,
    fun h hr => ⟨execFrameinfo_beyond h hr, execFrameinfo_answers h hr⟩, fun h h0 h8 => ⟨execAssign_beyond h h0 h8,
      fun hf ho hr hp => ⟨execAssign_assigns h h0 h8 hf ho hr hp, execAssign_refused h h0 h8 hf ho hr⟩⟩,
    fun j => ⟨s.fn_respondTo_same .., fun hj => State.fn_respondTo_other hj ..⟩⟩
  · have rings {t : State} (ht : s.startCommand m (v.toNat % 256) = t) : exec (.registerWrite m 0x80 4 v) s = .next t := (execRegisterWrite_doorbell s m v).trans (congrArg _ ht)
    exact ⟨fun h => rings (State.startCommand_busy h), fun h => ⟨fun hc => rings (State.startCommand_unlisted h hc), fun hc => rings (State.startCommand_closed h hc),
      fun hc => rings (State.startCommand_starts h hc)⟩⟩
  · simp only [List.forall_mem_cons]
    exact ⟨mailbox_notStarted (.refl (execOpenq m rc s)),
      mailbox_notStarted (.refl (execCloseq m q s)),
      mailbox_notStarted (.refl (execFaultlog m s)),
      mailbox_notStarted (.refl (execAttest m nonce s)),
      mailbox_notStarted (.refl (execPostreport m page s)),
      mailbox_notStarted (.refl (execRetest m pass s)),
      mailbox_notStarted (.refl (execSubstitute m k part s)),
      mailbox_notStarted (.refl (execRetire m s)),
      mailbox_notStarted (.refl (execFwupdate m img s)),
      mailbox_notStarted (.refl (execFrameinfo m frame s)),
      mailbox_notStarted (.refl (execAssign m frame owner s)), fun _ hi => absurd hi List.not_mem_nil⟩
  · exact ⟨_, queueOpened rc fn, execOpenq_opens h hr ho hl h0 hq, Tbl.find_put_same .., rfl, rfl, rfl, rfl, rfl, rfl, rfl, rfl, rfl⟩
  · have hx := execPostreport_answers h hr
    exact ⟨fun h0 => by rw [if_pos h0] at hx; exact hx, fun h0 => by rw [if_neg h0] at hx; exact hx⟩


section
/-! SUPPORT. The command queues: doorbells, batches, starts, completion interrupts, placements, slices and starvation (R298, R302, R303, R305, R308, R314, R318). -/

namespace Sys2Proof.Machine

section
variable {s : State} {m : Mgr} {q : Nat} {x : Queue} (hx : Tbl.find s.cmdq q = some x)
include hx

/-! ### The doorbell and `QSTAT` (R298) -/

section
variable {tail : W32} (ho : s.off = false) (hm : mgrFn m = x.fn) (h0 : x.state ≠ 0)
include ho hm h0

theorem execQdoorWrite_moves (ht : (tail.toNat + 2 ^ 32 - x.head) % 2 ^ 32 ≤ 2 ^ x.logn) : execQdoorWrite m q tail s = .next (s.putCmdq q { x with tail := tail.toNat }) := by
  simp only [execQdoorWrite, hx]
  rw [if_neg (by simp [ho, hm, h0]), if_neg (Nat.not_lt.2 ht)]

theorem execQdoorWrite_overruns (ht : 2 ^ x.logn < (tail.toNat + 2 ^ 32 - x.head) % 2 ^ 32) : execQdoorWrite m q tail s = .next (s.queueError q x 2 x.head) := by
  simp only [execQdoorWrite, hx]
  rw [if_neg (by simp [ho, hm, h0]), if_pos ht]

end

theorem execQdoorWrite_foreign {tail : W32} (hm : mgrFn m ≠ x.fn) : execQdoorWrite m q tail s = .next s := by
  simp [execQdoorWrite, hx, hm]

theorem execQstatReset_foreign (hm : mgrFn m ≠ x.fn) : execQstatReset m q s = .next s := by
  simp [execQstatReset, hx, hm]

theorem execQstatReset_reopens (hm : mgrFn m = x.fn) (h0 : x.state ≠ 0) :
    execQstatReset m q s = .next (s.putCmdq q { x with head := x.tail, ecode := 0, eidx := 0, state := 1, refused := [] }) := by
  simp [execQstatReset, hx, hm, h0]

/-! ### A batch (R302, R303) -/

section
variable (h1 : x.state = 1) (ho : s.off = false)
include h1 ho

theorem execBatchCommit_bad {c i : Nat} (h : s.scan q x 65 [] = .bad c i) : execBatchCommit q s = .next (s.queueError q x c i) := by
  simp [execBatchCommit, hx, h1, ho, h]

theorem execBatchCommit_waits (h : s.scan q x 65 [] = .wait) : execBatchCommit q s = .next s := by
  simp [execBatchCommit, hx, h1, ho, h]

/-- A batch whose pages are mapped goes by the verdict of its checks. -/
theorem execBatchCommit_mapped {ps : List (Nat × Nat)} (h : s.scan q x 65 [] = .batch ps) (hp : ∀ p ∈ ps, s.check q x 1 p.2 = true → s.missingPages x p.2 = []) :
    execBatchCommit q s = match s.verdict q x ps with
      | some (c, i) => .next (s.queueError q x c i)
      | none => .next (ps.foldl (fun s p => s.acceptPacket q x p.1 p.2) (s.putCmdq q { x with head := (x.head + ps.length) % 2 ^ 32, refused := [] })) := by
  have hnone : (ps.flatMap fun p => if s.check q x 1 p.2 then s.missingPages x p.2 else []) = [] := by
    rw [List.flatMap_eq_nil_iff]
    intro p hmem
    split
    next hc => exact hp p hmem hc
    next => rfl
  simp only [execBatchCommit, hx, h1, ho, h, hnone]
  rfl

end

/-! ### Starts and starvation (R305, R308) -/

theorem execPacketStart_starts {e : List QPacket} {p : QPacket} (hn : x.nextStart = some (e, p)) (hs : s.mayStart e p = true) (ho : s.off = false) :
    execPacketStart q s = .next (s.onPacket q p.index fun p => { p with started := true, ready := s.cyc + 1 }) := by
  simp [execPacketStart, hx, hn, hs, ho]

theorem execStarvePromotion_promotes {u : PUnit} {b : Bundle} (hu : s.unitOf q x = some u) (hb : Tbl.find s.bundles u.bundle = some b) (hg : ∀ g ∈ b.grids, g.placed = 0)
    (hs : x.starved = false) (ht : u.pkt.ready + Config.msec (s.fn x.fn).arb.lo ≤ s.cyc) : execStarvePromotion q s = .next (s.putCmdq q { x with starved := true }) := by
  have hall : (b.grids.all fun g => g.placed == 0) = true := by simpa using hg
  simp [execStarvePromotion, hx, hu, hb, hall, hs, ht]

end

section
variable {s : State} {fn die core : Nat}

/-! ### Held completions (R318) -/

theorem execCompletionInterruptCount_fires (hn : (s.fn fn).held ≠ []) (hc : (s.fn fn).icoal.lo ≤ (s.fn fn).held.length) :
    execCompletionInterruptCount fn s = .next (s.fireCompletion fn 0) := by
  simp [execCompletionInterruptCount, hn, hc]

theorem execCompletionInterruptTimeout_fires {t : Nat} {r : List Nat} (hh : (s.fn fn).held = t :: r) (ht : t + Config.usec (s.fn fn).icoal.hi ≤ s.cyc) :
    execCompletionInterruptTimeout fn s = .next (s.fireCompletion fn 0) := by
  simp [execCompletionInterruptTimeout, hh, ht]

/-! ### Placements and slices (R308, R314) -/

/-- The members of a unit placed, each on its core, with the deficits that the choice left. -/
def State.placed (s : State) (u : PUnit) (d : Tbl Nat) (bs : List (Nat × Bind)) : State :=
  (u.members.zip bs).foldl (fun s y => s.placeMember u y.1 y.2.1 y.2.2) { s with deficit := d }

theorem execPlacement_places {u : PUnit} {d : Tbl Nat} {b : Bind} {r : List (Nat × Bind)} (hc : s.choose die = some (.work (.unit u) d))
    (hf : u.fit s.bindsAt die core = some ((coreKey die core, b) :: r)) (ho : s.off = false) (hl : s.isLate u = false) :
    execPlacement die core s = .next { s.placed u d ((coreKey die core, b) :: r) with
      cmdq := Tbl.adjust (s.placed u d ((coreKey die core, b) :: r)).cmdq u.queue fun x => { x with starved := false } } := by
  simp only [execPlacement, hc, hf]
  rw [if_neg (by simp [ho]), hl]
  rfl

theorem execSliceAdvance_advances {e n : Nat × Nat × Bool} (he : s.sliceList[(s.die die).slice % s.sliceList.length]? = some e)
    (ht : (s.die die).sliceAt + Config.usec e.2.1 ≤ s.cyc) (hn : s.sliceList[((s.die die).slice % s.sliceList.length + 1) % s.sliceList.length]? = some n) :
    execSliceAdvance die s = .next (s.beginSlice die (((s.die die).slice % s.sliceList.length + 1) % s.sliceList.length) n.1 n.2.2) := by
  have hlen : max 1 s.sliceList.length = s.sliceList.length := Nat.max_eq_right (Nat.one_le_of_lt (List.getElem?_eq_some_iff.1 he).1)
  simp only [execSliceAdvance, hlen, he, hn]
  exact if_neg (Nat.not_lt.2 ht)

end

end Sys2Proof.Machine
end

/-- Settles O43: the doorbell, `QSTAT`, a batch by its scan and its verdict, and each event once it is due. -/
theorem commandQueues : Obligations.CommandQueues := by
  open Sys2Proof.Machine in
  intro s m q fn die core tail x goes f
  refine ⟨fun hx => ⟨fun ho hm h0 => ⟨execQdoorWrite_moves hx ho hm h0, execQdoorWrite_overruns hx ho hm h0⟩, fun hm => ⟨execQdoorWrite_foreign hx hm, execQstatReset_foreign hx hm⟩,
      execQstatReset_reopens hx, fun h1 ho => ⟨fun c i => execBatchCommit_bad hx h1 ho, execBatchCommit_waits hx h1 ho, fun ps h hp => ?_⟩,
      fun e p => execPacketStart_starts hx, fun u b => execStarvePromotion_promotes hx⟩, execCompletionInterruptCount_fires, fun t r => execCompletionInterruptTimeout_fires,
    fun u d b r hc hf ho hl => ⟨_, execPlacement_places hc hf ho hl, rfl, fun y hy => ?_⟩, fun e n => execSliceAdvance_advances⟩
  · have hb := execBatchCommit_mapped hx h1 ho h hp
    exact ⟨fun c i hv => by rw [hv] at hb; exact hb, fun hv => by rw [hv] at hb; exact hb⟩
  · have hq := (Tbl.find_adjust ..).symm.trans hy
    rw [if_pos rfl] at hq
    obtain ⟨z, -, rfl⟩ := Option.map_eq_some_iff.1 hq
    rfl


section
/-! SUPPORT. Started packets: what each kind does once it is picked (R304, R306, R314 to R317). -/

namespace Sys2Proof.Machine

section
variable {s : State} {q : Nat} {x : Queue} {p : QPacket}

/-! ### Barrier-and-signal (R317) -/

/-- Where the wait is over, with no wait word, or found over before, the signal is next. -/
theorem State.tryBarrierPkt_signals (h : pktWord p.bytes 1 = 0 ∨ p.timed = 2 ∨ s.wordState x (pktWord p.bytes 1) false = 0 ∧ pktWord p.bytes 2 ≤ s.vread x.fn x.proc (pktWord p.bytes 1) 8) :
    s.tryBarrierPkt q x p = s.signal q x p := by
  unfold State.tryBarrierPkt
  dsimp only
  split
  next => rfl
  next hc =>
    obtain ⟨h1, h2⟩ : pktWord p.bytes 1 ≠ 0 ∧ p.timed ≠ 2 := by simpa using hc
    obtain ⟨hw, hv⟩ := (h.resolve_left h1).resolve_left h2
    rw [hw]
    exact if_pos hv

theorem State.tryBarrierPkt_waits (h1 : pktWord p.bytes 1 ≠ 0) (h2 : p.timed ≠ 2) (hw : s.wordState x (pktWord p.bytes 1) false = 0)
    (hv : s.vread x.fn x.proc (pktWord p.bytes 1) 8 < pktWord p.bytes 2) : s.tryBarrierPkt q x p = s.onPacket q p.index fun y => { y with timed := 1 } := by
  unfold State.tryBarrierPkt
  dsimp only
  rw [if_neg (by simp [h1, h2]), hw]
  exact if_neg (Nat.not_le.2 hv)

theorem State.signal_none (h : pktWord p.bytes 3 = 0) : s.signal q x p = s.completePacket q p.index false := if_pos (by simp [h])

theorem State.signal_adds (h : pktWord p.bytes 3 ≠ 0) (hw : s.wordState x (pktWord p.bytes 3) true = 0) :
    s.signal q x p = (s.fwAdd x.die x.fn x.proc (pktWord p.bytes 3) (pktWord p.bytes 4)).completePacket q p.index false := by
  unfold State.signal
  dsimp only
  rw [if_neg (by simp [h]), hw]
  rfl

/-- An addition at home is made at once. -/
theorem State.fwAdd_home {fn space a pa : Nat} (hp : s.phys fn space a = some pa) (hr : isRemote pa = false) (die v : Nat) :
    s.fwAdd die fn space a v = s.vwrite fn space a (bytesLE 8 ((s.vread fn space a 8 + v) % 2 ^ 64)) := by
  simp [State.fwAdd, State.fwWrite, hp, hr]

/-! ### The packet that each event picks -/

section
variable (hx : Tbl.find s.cmdq q = some x)
include hx

theorem execLaunchBundle_starts {n : Nat} (hp : x.pick (fun y => pktKind y.bytes == 1 && !((s.bundleOfPkt y).elim true (·.started))) = some p) (hn : p.bundle = some n) :
    execLaunchBundle q s = .next (s.startBundle n) := by
  simp only [execLaunchBundle, hx, Option.bind_some, hp, hn]

theorem execTimedLaunch_waits (hp : x.pick (fun y => pktKind y.bytes == 2 && y.timed == 0) = some p) :
    execTimedLaunch q s = .next (s.onPacket q p.index fun y => { y with timed := 1 }) := by
  simp only [execTimedLaunch, hx, Option.bind_some, hp]

/-- The state in which a timed launch's time has come, and its bundle has started. -/
def State.timeReached (s : State) (q : Nat) (p : QPacket) : State :=
  let t := s.onPacket q p.index fun y => { y with timed := 2, ready := s.cyc + 1, unsync := !s.ptp.sync }
  match p.bundle with | some n => t.startBundle n | none => t

/-- A timed launch starts at its time; where a die has room for its first unit, no workgroup leaves for it (R314). -/
theorem execTimedLaunchEligible_starts (hp : x.pick (fun y => pktKind y.bytes == 2 && y.timed == 1 && pktWord y.bytes 2 ≤ s.ptp.now) = some p)
    (hr : ∀ (y : Queue) (u : PUnit), Tbl.find (s.timeReached q p).cmdq q = some y →
      ((s.timeReached q p).unitsOf q y).find? (fun u => u.pkt.index == p.index) = some u → ((s.timeReached q p).offered u x.die).isSome = true) :
    execTimedLaunchEligible q s = .next (s.timeReached q p) := by
  have hx' : execTimedLaunchEligible q s = match (Tbl.find (s.timeReached q p).cmdq q).bind fun y => ((s.timeReached q p).unitsOf q y).find? fun u => u.pkt.index == p.index with
      | some u => .next ((s.timeReached q p).roomFor x u)
      | none => .next (s.timeReached q p) := by
    simp only [execTimedLaunchEligible, hx, hp]
    rfl
  rw [hx']
  split
  next u hu =>
    obtain ⟨y, hy, hfind⟩ := Option.bind_eq_some_iff.1 hu
    exact congrArg _ (if_pos (hr y u hy hfind))
  next => rfl

theorem State.givePacket_gives {kind : Nat} {sh : Shape × Shape} (hp : x.pick (fun y => pktKind y.bytes == kind && !y.fired) = some p) (hs : p.shapes = some sh) :
    s.givePacket q kind = ((s.onCore (fwCore x.die) fun c => { c with copies := c.copies ++ [s.pktCopy q x p sh] }).bump).onPacket q p.index fun y => { y with fired := true } := by
  simp only [State.givePacket, hx, hp, hs]

theorem execBarrierAndSignal_tries (hp : x.pick (fun y => pktKind y.bytes == 5 && y.timed == 0) = some p) : execBarrierAndSignal q s = .next (s.tryBarrierPkt q x p) := by
  simp only [execBarrierAndSignal, hx, hp]

theorem execBarrierSignalWake_tries (hp : x.pick (fun y => pktKind y.bytes == 5 &&
      ((y.timed == 1 && (s.wordState x (pktWord y.bytes 1) false != 0 || pktWord y.bytes 2 ≤ s.vread x.fn x.proc (pktWord y.bytes 1) 8)) ||
       (y.timed == 2 && s.wordState x (pktWord y.bytes 3) true != 1))) = some p) : execBarrierSignalWake q s = .next (s.tryBarrierPkt q x p) := by
  simp only [execBarrierSignalWake, hx, hp]

theorem execInterruptPacket_interrupts (hp : x.pick (fun y => pktKind y.bytes == 6) = some p) :
    execInterruptPacket q s = .next ((s.fireCompletion x.fn (BitVec.ofNat 64 (pktWord p.bytes 1))).completePacket q p.index false) := by
  simp only [execInterruptPacket, hx, hp]

theorem execRegisterHandlerTable_replaces (hp : x.pick (fun y => pktKind y.bytes == 7) = some p) :
    let t := s.onFn x.fn fun f => { f with table_ := p.table_, tproc := x.proc }
    execRegisterHandlerTable q s =
      .next (({ t with cores := Tbl.mapVal (fun _ c => dropStanding x.fn (s.fn x.fn).table_ p.table_ c) t.cores } : State).completePacket q p.index false) := by
  simp only [execRegisterHandlerTable, hx, hp]

end

end

end Sys2Proof.Machine
end

/-- Settles O44: each event acts on the packet that it picks; a barrier-and-signal waits or signals by its two words. -/
theorem packetKinds : Obligations.PacketKinds := by
  open Sys2Proof.Machine in
  intro s q n x p hx goes kind W
  refine ⟨execLaunchBundle_starts hx, execTimedLaunch_waits hx, fun hp => execTimedLaunchEligible_starts hx hp, fun sh hs => ?_, fun _ => ⟨execBarrierAndSignal_tries hx,
      State.tryBarrierPkt_waits, fun h => ?_, fun pa hp hr => State.fwAdd_home hp hr ..⟩, execBarrierSignalWake_tries hx, execInterruptPacket_interrupts hx,
    execRegisterHandlerTable_replaces hx⟩
  · exact ⟨fun hp => congrArg _ (State.givePacket_gives hx hp hs), fun hp => congrArg _ (State.givePacket_gives hx hp hs)⟩
  · have ht : s.tryBarrierPkt q x p = s.signal q x p := State.tryBarrierPkt_signals h
    exact ⟨fun h3 => ht.trans (State.signal_none h3), fun h3 hw => ht.trans (State.signal_adds h3 hw)⟩


section
/-! SUPPORT. Translation: the end of a walk, firmware's answers to it, and the removal of an entry (R304, R330 to R333). -/

namespace Sys2Proof.Machine

section
variable {s : State} {die fn space va : Nat} {x : Walk} {p : PageEntry}

/-! ### The end of a walk (R331, R332) -/

/-- What a request that waited for the walk of a page does once its entry is there: it goes on, unless a live PRIV area or the page's rights forbid it (R304, R330). -/
theorem State.endWalk_mapped (hp : s.page x.fn x.space x.va = some p) :
    s.endWalk die x = ((s.dropWalk die x).installL2 die p).eachReq (fun r => s.awaits r (some die) 1 .walk x.fn x.space x.va) fun s r =>
      if r.writes = true ∧ (∃ a ∈ r.accs, s.samePage x.fn x.space x.va a.va = true ∧ s.livePriv x.fn x.space a.va = true) then s.dropFault r cPROTF
      else if pageAllows p r.writes = false then s.dropFault r cPAGEF
      else s.putReq { r with stage := .replay 1 .ready } := by
  simp only [State.endWalk, hp, Bool.and_eq_true, List.any_eq_true, Bool.not_eq_true']

/-- An early walk that finds no entry asks for nothing. -/
theorem State.endWalk_prefetch (hp : s.page x.fn x.space x.va = none) (hx : x.pref = true) : s.endWalk die x = s.dropWalk die x := by
  simp only [State.endWalk, hp]
  exact if_pos hx

/-- A page without an entry is asked of firmware, and its requests wait for the answer. -/
theorem State.endWalk_asks (hp : s.page x.fn x.space x.va = none) (hx : x.pref = false) :
    s.endWalk die x = (s.onDie die fun d => { d with walks := (d.walks.map fun y => if y == x then { y with asked := true } else y).eraseDups }).eachReq
      (fun r => s.awaits r (some die) 1 .walk x.fn x.space x.va) fun s r => s.noticed r 2 .mapped := by
  simp only [State.endWalk, hp]
  exact if_neg (Bool.eq_false_iff.1 hx)

theorem execWalkComplete_ends (h : (s.die die).walking.find? (fun y => y.fn == fn && y.va == va / 65536 * 65536) = some x) : execWalkComplete die fn va s = .next (s.endWalk die x) := by
  simp only [execWalkComplete, h]

/-! ### Firmware's answer (R332) -/

/-- The state with an entry written and its walks over, before the packets that waited for it end. -/
def State.mapped (s : State) (p : PageEntry) : State :=
  { s with
    pages := s.pages ++ [p]
    dies := Tbl.mapVal (fun _ d => { d with walks := d.walks.filter fun x => !(x.asked && pageCovers p x.fn x.space x.va) }) s.dies
    reqs := Tbl.mapVal (fun _ r =>
      if decide (r.stage = .replay 2 .mapped) && r.accs.any (fun a => pageCovers p r.fn r.space a.va) then { r with stage := .replay 2 .ready } else r) s.reqs }

theorem execPageMapped_maps (h : s.pageOk p = true) : execPageMapped p s = .next (s.mapped p).endPackets := if_pos h

/-- A request that waited for the page is ready; every other stays as it is. -/
theorem State.find_mapped_reqs {n : Nat} {r : Req} (hr : Tbl.find s.reqs n = some r) :
    Tbl.find (s.mapped p).reqs n =
      some (if r.stage = .replay 2 .mapped ∧ (∃ a ∈ r.accs, pageCovers p r.fn r.space a.va = true) then { r with stage := .replay 2 .ready } else r) := by
  rw [State.mapped, Tbl.find_mapVal, hr]
  simp only [Option.map_some, Bool.and_eq_true, decide_eq_true_eq, List.any_eq_true]

theorem execPageMapRefused_refuses (h : ∃ d ∈ Tbl.values s.dies, ∃ y ∈ d.walks, (y.asked && y.fn == fn && y.va == va / 65536 * 65536) = true) :
    let pg := va / 65536 * 65536
    let asked (y : Walk) : Bool := y.asked && y.fn == fn && y.va == pg
    let spaces := ((Tbl.values s.dies).flatMap fun d => (d.walks.filter asked).map fun y => y.space).eraseDups
    execPageMapRefused fn va s = .next (State.endPackets (spaces.foldl (fun s sp => s.eachReq (fun r => s.awaits r none 2 .mapped fn sp pg) fun s r => s.dropFault r cPAGEF)
      { s.refuseBpost fn pg with
        dies := Tbl.mapVal (fun _ d => { d with walks := d.walks.filter fun y => !asked y }) (s.refuseBpost fn pg).dies
        cmdq := Tbl.mapVal (fun _ q => if q.fn == fn && spaces.contains q.proc then { q with refused := q.refused ++ [pg] } else q) (s.refuseBpost fn pg).cmdq })) :=
  if_pos (by simpa only [List.any_eq_true] using h)

/-! ### The removal of an entry (R333) -/

/-- The state without an entry, in the table and in every TLB. -/
def State.removed (s : State) (p : PageEntry) : State :=
  { s with
    pages := s.pages.filter fun q => q != p
    inval := s.inval ++ [p]
    cores := Tbl.mapVal (fun _ c => { c with tlb := c.tlb.filter fun e => e.page != p }) s.cores
    dies := Tbl.mapVal (fun _ d => { d with tlb := d.tlb.filter fun e => e.page != p }) s.dies
    boot := s.boot.invalidated }

theorem execTlbInvalidation_removes (h : s.page fn space va = some p) : execTlbInvalidation fn ⟨space, va⟩ s = .next (s.removed p) := by
  simp only [execTlbInvalidation, h]
  rfl

theorem page_ne_of_mem_filter {l : List TlbEnt} {e : TlbEnt} (h : e ∈ l.filter fun e => e.page != p) : e.page ≠ p := bne_iff_ne.1 (List.mem_filter.1 h).2

theorem State.removed_cores {k : Nat} {c : Core} (h : Tbl.find (s.removed p).cores k = some c) : ∀ e ∈ c.tlb, e.page ≠ p := by
  rw [State.removed, Tbl.find_mapVal] at h
  obtain ⟨c0, -, rfl⟩ := Option.map_eq_some_iff.1 h
  exact fun e => page_ne_of_mem_filter

theorem State.removed_dies {k : Nat} {d : Die} (h : Tbl.find (s.removed p).dies k = some d) : ∀ e ∈ d.tlb, e.page ≠ p := by
  rw [State.removed, Tbl.find_mapVal] at h
  obtain ⟨d0, -, rfl⟩ := Option.map_eq_some_iff.1 h
  exact fun e => page_ne_of_mem_filter

theorem execInvalidationComplete_ends (h : s.inval.find? (fun q => pageCovers q fn space va) = some p)
    (hn : ∀ r ∈ s.reqList, r.translated = true → r.isPerformed = false → ∀ a ∈ r.accs, pageCovers p r.fn r.space a.va = false) :
    execInvalidationComplete fn ⟨space, va⟩ s = .next { s with inval := s.inval.filter fun q => q != p } := by
  simp only [execInvalidationComplete, h]
  refine if_neg fun hc => ?_
  obtain ⟨r, hr, hr2⟩ := List.any_eq_true.1 hc
  obtain ⟨⟨ht, hp⟩, ha⟩ : (r.translated = true ∧ r.isPerformed = false) ∧ ∃ a ∈ r.accs, pageCovers p r.fn r.space a.va = true := by simpa using hr2
  obtain ⟨a, hm, hcov⟩ := ha
  exact Bool.false_ne_true ((hn r hr ht hp a hm).symm.trans hcov)

end

end Sys2Proof.Machine
end

/-- Settles O40: a walk by what it finds, firmware's two answers, the removal of an entry and its completion. -/
theorem translationEvents : Obligations.TranslationEvents := by
  open Sys2Proof.Machine in
  intro s die fn space va x p goes pg
  refine ⟨fun hf => ?_, fun h => ⟨s.mapped p, execPageMapped_maps h, rfl, rfl, rfl, fun n r => State.find_mapped_reqs⟩, execPageMapRefused_refuses,
    fun h => ⟨s.removed p, execTlbInvalidation_removes h, rfl, rfl, rfl, rfl, rfl, fun k c => State.removed_cores, fun k d => State.removed_dies⟩,
    execInvalidationComplete_ends⟩
  have hx : exec (.walkComplete die fn va) s = .next (s.endWalk die x) := execWalkComplete_ends hf
  exact ⟨fun hp => hx.trans (congrArg _ (State.endWalk_mapped hp)), fun hp h => hx.trans (congrArg _ (State.endWalk_prefetch hp h)),
    fun hp h => hx.trans (congrArg _ (State.endWalk_asks hp h))⟩


section
/-! SUPPORT. What a packet does at ingress, the fabric manager's writes, and the requests that enter a port's ingress queue (R334 to R341, R344, R415). -/

namespace Sys2Proof.Machine

section
variable {s : State} {p : Packet}

/-! ### Ingress (R334 to R338) -/

/-- A packet that ingress keeps is acted on by the event of its operation. -/
theorem State.inbound_here {op : Nat} {f : State → State} (h : arrivesHere s p op) : s.inbound p op f = .next (f s) := by
  obtain ⟨hd, hb, hdst, hop⟩ := h
  simp [State.inbound, hd, hb, hdst, hop]

theorem State.inbound_bad {i : Instr} {op : Nat} {f : State → State} (hi : exec i s = s.inbound p op f) (hd : s.dataOff = false) (hb : badPacket p = true) :
    exec i s = .next s.countBad := by
  simp [hi, State.inbound, hd, hb]

section
variable (port : Nat) (hd : s.dataOff = false)
include hd

theorem execFabricForward_bad (hb : badPacket p = true) : execFabricForward port p s = .next s.countBad := by simp [execFabricForward, hd, hb]

theorem execFabricForward_passes (hb : badPacket p = false) (hdst : p.dst ≠ s.devid) : execFabricForward port p s = .next (s.forward p) := by
  simp [execFabricForward, hd, hb, hdst]

end

/-- A packet has no level left, or no way to go (R334, R335). -/
theorem State.forward_counts (h : p.hop.toNat = 5 ∨ s.hopOf p.dst.toNat = none) : s.forward p = s.countBad := by
  unfold State.forward
  split
  next => rfl
  next hc => rw [h.resolve_left (by simpa using hc)]

/-- The state in which a packet stands at the port `out` of its route, one level higher (R336). -/
def State.passing (s : State) (p : Packet) (out : Nat) : State :=
  State.bump { s with fab := { s.fab with
    transit := s.fab.transit ++ [⟨s.nextId, out, { p with hop := p.hop + 1 }, s.cyc, false⟩]
    wrr := Tbl.put s.fab.wrr p.dst.toNat (Tbl.getD s.fab.wrr p.dst.toNat 0 + 1) } }

theorem State.forward_passes {out : Nat} (h5 : p.hop.toNat ≠ 5) (ho : s.hopOf p.dst.toNat = some out) : s.forward p = s.passing p out := by
  unfold State.forward
  rw [if_neg (by simpa using h5), ho]
  rfl

theorem execQueueDeparture_passes {n : Nat} {x : Transit} (hx : s.fab.transit.find? (fun y => y.id == n) = some x) (hn : Tbl.find s.reqs n = none) :
    execQueueDeparture n s = .next { s with fab := { s.fab with out := s.fab.out ++ [(x.port, x.pkt)], transit := s.fab.transit.filter fun y => y.id != n } } := by
  simp only [execQueueDeparture, hn, State.passOn, hx]

/-! ### The fabric manager (R29, R334, R415) -/

section
variable {dev : Nat} (h : dev ≤ 786431)
include h

theorem deviceOk_of_le : deviceOk dev = true := by simpa [deviceOk] using h

theorem execFmManagement_route (e : W64) :
    execFmManagement (.route dev e) s = .next { s with fab := { s.fab with route := Tbl.put s.fab.route dev (e &&& 0xF87FF87FF87FF87F#64) } } := if_pos (deviceOk_of_le h)

theorem execFmManagement_tenmap (e : W32) : execFmManagement (.tenmap dev e) s = .next { s with fab := { s.fab with tenmap := Tbl.put s.fab.tenmap dev e } } :=
  if_pos (deviceOk_of_le h)

theorem execFmManagement_devId : execFmManagement (.devId dev) s = .next { s with devid := BitVec.ofNat 20 dev } := if_pos (deviceOk_of_le h)

end

/-! ### A request of a recorded kind (R344) -/

theorem State.recorded_cached {f : State → State} {rs : List Packet} (h : s.cachedReply p = some rs) : s.recorded p f = rs.foldl State.emit s := by
  simp only [State.recorded, h]

theorem State.recorded_fresh {f : State → State} (h : s.cachedReply p = none ∧ s.underWay p = false ∧ s.bankFull p = false) : s.recorded p f = f s := by
  obtain ⟨hc, hu, hb⟩ := h
  simp [State.recorded, hc, hu, hb]

/-- A repeated request is answered from the cache. -/
theorem State.inbound_cached {i : Instr} {op : Nat} {f : State → State} {rs : List Packet} (hi : exec i s = s.inbound p op fun s => s.recorded p f) (h : arrivesHere s p op)
    (hc : s.cachedReply p = some rs) : exec i s = .next (rs.foldl State.emit s) := (hi.trans (State.inbound_here h)).trans (congrArg _ (State.recorded_cached hc))

/-- A group of one packet is whole (R341). -/
theorem State.gatherGroup_single {f : State → List Packet → State} (hg : s.fab.groups = []) (gpos : Nat) : s.gatherGroup p gpos 1 f = f s [p] := by
  simp [State.gatherGroup, hg]

/-! ### The ingress queue (R248, R341) -/

/-- A budget that covers more covers less (R398). -/
theorem State.affords_mono {fn n m : Nat} (h : n ≤ m) (hm : s.affords fn m = true) : s.affords fn n = true := by
  simp only [State.affords, Bool.or_eq_true, decide_eq_true_eq] at *
  exact hm.imp_right h.trans

/-- No packet's answers take more than 160 bytes. -/
theorem Req.replyBytes_single {r : Req} (h : r.pkts = [p]) : r.replyBytes ≤ 160 := by
  simp only [Req.replyBytes, h, List.foldl_cons, List.foldl_nil]
  split <;> omega

section
variable {port : Nat} {r : Req}

theorem qKind_ingress (h : port < 128) : qKind (qCode (.ingress port)) = 6 := by
  simp only [qKind, qCode]
  omega

/-- A function that can pay for the answers is not turned back at the port. -/
theorem State.ownerBounce_ingress {q : Nat} (hq : qKind q = 6) (ha : s.affords r.fn r.replyBytes = true) : s.ownerBounce q r = none := by
  simp [State.ownerBounce, hq, ha]

/-- A request of one packet takes an ordinary entry of its port's ingress queue. -/
theorem State.ingress_enters (hp : port < 128) (hl : (s.queue (qCode (.ingress port))).ord.length < qOrdinary (qCode (.ingress port))) (hc : r.cls = .ingress)
    (hv : r.resv = false) (hpk : r.pkts = [p]) (ha : s.affords r.fn 160 = true) :
    s.ingress port r = (((s.putReq r).bump).putReq { r with stage := .queued (qCode (.ingress port)) false, entered := s.cyc, bound := s.bound }).putQueue
      (qCode (.ingress port)) { s.queue (qCode (.ingress port)) with ord := (s.queue (qCode (.ingress port))).ord ++ [r.id] } := by
  have ho : (s.putReq r).bump.ownerBounce (qCode (.ingress port)) r = none :=
    State.ownerBounce_ingress (qKind_ingress hp) (State.affords_mono (s := (s.putReq r).bump) (Req.replyBytes_single hpk) ha)
  have harrive : ((s.putReq r).bump).arriveAs (qCode (.ingress port)) r false = (s.putReq r).bump.arrive (qCode (.ingress port)) r := by rw [State.arrive, hv]
  unfold State.ingress
  dsimp only
  rw [if_pos hl, harrive, State.arrive_enters hv ho hl (.inr hc)]
  rfl

/-- What the statement asks of a request that enters: it stands in the queue under the next number, and no memory or warp has changed. -/
theorem State.ingress_find (hp : port < 128) (hl : (s.queue (qCode (.ingress port))).ord.length < qOrdinary (qCode (.ingress port))) (hc : r.cls = .ingress)
    (hv : r.resv = false) (hpk : r.pkts = [p]) (hid : r.id = s.nextId) (hfn : r.fn = p.vf.toNat) (ha : s.affords p.vf.toNat 160 = true) :
    Tbl.find (s.ingress port r).reqs s.nextId = some { r with stage := .queued (qCode (.ingress port)) false, entered := s.cyc, bound := s.bound } ∧
    (s.ingress port r).mem = s.mem ∧ (s.ingress port r).warps = s.warps := by
  rw [State.ingress_enters hp hl hc hv hpk (by rwa [hfn])]
  refine ⟨?_, rfl, rfl⟩
  rw [State.putQueue_reqs, State.putReq_reqs, ← hid]
  exact Tbl.find_put_same ..

end

/-! ### The requests (R339 to R341) -/

section
variable {port : Nat}

theorem execFabricRd_enters (h : arrivesHere s p 0) :
    execFabricRd port p s = .next (s.ingress port { s.ingressReq port p .load with accs := (maskBytes p.osb.toNat).map fun b => ⟨b, 0, p.osa.toNat * 128 + b, 1, 0, 0, 0⟩ }) :=
  State.inbound_here h

section
variable (hf : s.cachedReply p = none ∧ s.underWay p = false ∧ s.bankFull p = false)
include hf

theorem execFabricWr_enters (h : arrivesHere s p 1) :
    execFabricWr port p s =
      .next (s.ingress port { s.ingressReq port p .store with accs := (maskBytes p.osb.toNat).map fun b => ⟨b, 0, p.osa.toNat * 128 + b, 1, wrByte p b, 0, 1⟩ }) :=
  (State.inbound_here h).trans (congrArg _ (State.recorded_fresh hf))

/-- The request of a single ATOM packet. -/
def State.atomReq (s : State) (port : Nat) (p : Packet) : Req :=
  { s.ingressReq port p .atom with
    op := some (amoOf (fieldOf p.osb.toNat 90 88))
    ext := if atomSigned32 p then 5 else fieldOf p.osb.toNat 87 85
    accs := atomAccs p }

theorem execFabricAtomGroup_enters (h : arrivesHere s p 2) (hg : s.fab.groups = []) (h0 : fieldOf p.osb.toNat 82 81 = 0) :
    execFabricAtomGroup port p s = .next (s.ingress port (match atomReduce p with
      | some w => { s.atomReq port p with kind := .reduce, want := w, accs := (s.atomReq port p).accs.flatMap Access.parts }
      | none => s.atomReq port p)) := by
  refine ((State.inbound_here h).trans (congrArg _ (State.recorded_fresh hf))).trans (congrArg _ ?_)
  rw [h0, State.gatherGroup_single hg]
  simp only [List.flatMap_cons, List.flatMap_nil, List.append_nil]
  rfl

theorem execFabricCstGroup_enters (h : arrivesHere s p 3) (hg : s.fab.groups = []) (h0 : fieldOf p.osb.toNat 77 76 = 0) :
    execFabricCstGroup port p s = .next (s.ingress port { s.ingressReq port p .cstore with want := [fieldOf p.osb.toNat 95 80], accs := [cstAcc 0 p] }) := by
  refine ((State.inbound_here h).trans (congrArg _ (State.recorded_fresh hf))).trans (congrArg _ ?_)
  rw [h0, State.gatherGroup_single hg]
  rfl

end

end

end

end Sys2Proof.Machine
end

/-- Settles O46: a packet by what ingress makes of it; a request enters its port's queue (`State.ingress_find`), or is answered from the cache. -/
theorem fabricRequestsArrive : Obligations.FabricRequestsArrive := by
  open Sys2Proof.Machine in
  intro s port dev p e f hp goes q enters line fresh
  refine ⟨fun hd hb => ?_, fun hd hb hdst => ⟨fun h => ?_, fun out h5 ho => ⟨s.passing p out, ?_, rfl, rfl, rfl, rfl, rfl⟩⟩, fun x => execQueueDeparture_passes,
    fun h => ⟨execFmManagement_route h e, execFmManagement_tenmap h f, execFmManagement_devId h⟩, fun hl => ⟨fun h ha => ?_, fun h hf ha => ?_, fun h hf hg h0 => ?_,
      fun h hf hg h0 ha => ?_⟩, fun rs hc => ⟨fun h => State.inbound_cached (.refl (execFabricWr port p s)) h hc,
      fun h => State.inbound_cached (.refl (execFabricAtomGroup port p s)) h hc, fun h => State.inbound_cached (.refl (execFabricCstGroup port p s)) h hc⟩⟩
  · simp only [List.forall_mem_cons]
    exact ⟨execFabricForward_bad port hd hb,
      State.inbound_bad (.refl (execFabricRd port p s)) hd hb, State.inbound_bad (.refl (execFabricWr port p s)) hd hb,
      State.inbound_bad (.refl (execFabricAtomGroup port p s)) hd hb, State.inbound_bad (.refl (execFabricCstGroup port p s)) hd hb,
      State.inbound_bad (.refl (execFabricBdata port p s)) hd hb, State.inbound_bad (.refl (execFabricBreq port p s)) hd hb,
      State.inbound_bad (.refl (execFabricAmsg port p s)) hd hb, State.inbound_bad (.refl (execFabricRdr port p s)) hd hb,
      State.inbound_bad (.refl (execFabricWack port p s)) hd hb, State.inbound_bad (.refl (execFabricAtomr port p s)) hd hb,
      State.inbound_bad (.refl (execFabricCstr port p s)) hd hb, State.inbound_bad (.refl (execFabricAmack port p s)) hd hb,
      State.inbound_bad (.refl (execFabricBounce port p s)) hd hb, State.inbound_bad (.refl (execFabricGrant port p s)) hd hb,
      State.inbound_bad (.refl (execFabricReturn port p s)) hd hb, State.inbound_bad (.refl (execFabricBstat port p s)) hd hb,
      State.inbound_bad (.refl (execFabricCong port p s)) hd hb, fun _ hi => absurd hi List.not_mem_nil⟩
  · exact (execFabricForward_passes port hd hb hdst).trans (congrArg _ (State.forward_counts h))
  · exact (execFabricForward_passes port hd hb hdst).trans (congrArg _ (State.forward_passes h5 ho))
  · exact ⟨_, execFabricRd_enters h, State.ingress_find hp hl rfl rfl rfl rfl rfl ha⟩
  · exact ⟨_, execFabricWr_enters hf h, State.ingress_find hp hl rfl rfl rfl rfl rfl ha⟩
  · have hx := execFabricAtomGroup_enters (port := port) hf h hg h0
    intro r
    refine ⟨fun hr ha => ?_, fun red hr ha => ?_⟩ <;> rw [hr] at hx
    · exact ⟨_, hx, State.ingress_find hp hl rfl rfl rfl rfl rfl ha⟩
    · exact ⟨_, hx, State.ingress_find hp hl rfl rfl rfl rfl rfl ha⟩
  · exact ⟨_, execFabricCstGroup_enters hf h hg h0, State.ingress_find hp hl rfl rfl rfl rfl rfl ha⟩


section
/-! SUPPORT. Responses to requests of this device, the fabric's timers, devices that cannot be reached, and congestion (R339, R341, R343 to R345, R347, R394). -/

namespace Sys2Proof.Machine

section
variable {s : State} {port : Nat} {p : Packet} {t : TagRec} {r : Req}

/-! ### The tag that a response answers (R343) -/

/-- The response carries the record's device, tag and generation. -/
def answersTag (p : Packet) (x : TagRec) : Bool := x.dev == p.src.toNat && x.tag == p.tag.toNat && x.gen == p.gen.toNat

/-- The state without the tag of a record. -/
def State.untagged (s : State) (t : TagRec) : State := s.freeTags fun x => x.dev == t.dev && x.tag == t.tag

theorem State.answered_late {f : State → TagRec → Req → State} (h : s.fab.tags.find? (answersTag p) = none) : s.answered p f = s.countLate := by
  have h' : (s.fab.tags.find? fun x => x.dev == p.src.toNat && x.tag == p.tag.toNat && x.gen == p.gen.toNat) = none := h
  simp only [State.answered, h']

theorem State.answered_request {f : State → TagRec → Req → State} (h : s.fab.tags.find? (answersTag p) = some t) (hr : Tbl.find s.reqs t.req = some r) :
    s.answered p f = f (s.untagged t) t r := by
  have h' : (s.fab.tags.find? fun x => x.dev == p.src.toNat && x.tag == p.tag.toNat && x.gen == p.gen.toNat) = some t := h
  simp only [State.answered, h']
  exact (congrArg (fun o : Option Req => match o with | some r => f (s.untagged t) t r | none => s.untagged t) hr :)

/-- Its tag was the request's last. -/
theorem State.stillTagged_untagged (h : ∀ x ∈ s.fab.tags, x.req = r.id → x.dev = t.dev ∧ x.tag = t.tag) : (s.untagged t).stillTagged r = false := by
  refine List.any_eq_false.2 fun x hx he => ?_
  obtain ⟨hm, hn⟩ := List.mem_filter.1 hx
  obtain ⟨hd, ht⟩ := h x hm (beq_iff_eq.1 he)
  simp [hd, ht] at hn

/-- With the last packet answered the request is performed. -/
theorem State.answerIn_last (h : s.stillTagged r = false) : s.answerIn r = (s.dropRemote r).putReq { r with stage := .performed } := if_neg (Bool.eq_false_iff.1 h)

/-- A response with a tag in use, to a request of which it is the last: the event acts on the request once the tag is free. -/
theorem State.inbound_answers {op : Nat} {f : State → TagRec → Req → State} {u : State} (ha : arrivesHere s p op) (h : s.fab.tags.find? (answersTag p) = some t)
    (hr : Tbl.find s.reqs t.req = some r) (hf : f (s.untagged t) t r = u) : s.inbound p op (fun s => s.answered p f) = .next u :=
  (State.inbound_here ha).trans (congrArg _ ((State.answered_request h hr).trans hf))

theorem State.inbound_late {op : Nat} {f : State → TagRec → Req → State} (ha : arrivesHere s p op) (h : s.fab.tags.find? (answersTag p) = none) :
    s.inbound p op (fun s => s.answered p f) = .next s.countLate := (State.inbound_here ha).trans (congrArg _ (State.answered_late h))

/-! ### What each response brings (R339) -/

section
variable (h : s.fab.tags.find? (answersTag p) = some t) (hr : Tbl.find s.reqs t.req = some r)
include h hr

section
variable (hl : ∀ x ∈ s.fab.tags, x.req = r.id → x.dev = t.dev ∧ x.tag = t.tag)
include hl

/-- The whole line, for a multicast's targets. -/
def multicastLine (p : Packet) (r : Req) : List Byte := if r.targets.isEmpty || r.bypass then [] else flitBytes p 128

theorem execFabricRdr_cread (ha : arrivesHere s p 16) (hk : r.kind = .cread) :
    execFabricRdr port p s = .next (((s.untagged t).dropRemote r).putReq { r with
      stage := .performed
      snap := multicastLine p r
      reply := (List.range 32).map fun l => (l, leNat (flitBytes p 128) / 2 ^ (32 * l) % 2 ^ 32 + p.osa.toNat % 65536 * 2 ^ 32) }) := by
  refine State.inbound_answers ha h hr ?_
  dsimp only
  rw [if_pos (by simp [hk])]
  exact State.answerIn_last (State.stillTagged_untagged hl)

theorem execFabricRdr_load (ha : arrivesHere s p 16) (hk : r.kind ≠ .cread) :
    execFabricRdr port p s = .next (((s.untagged t).dropRemote r).putReq { r with
      stage := .performed
      snap := multicastLine p r
      reply := r.accs.map fun a => (a.lane, r.extend (leNat (flitBytes p 128) / 2 ^ (8 * (a.pa % 128)) % 2 ^ (8 * a.size))) }) := by
  refine State.inbound_answers ha h hr ?_
  dsimp only
  rw [if_neg (by simp [hk])]
  exact State.answerIn_last (State.stillTagged_untagged hl)

theorem execFabricWack_performs (ha : arrivesHere s p 17) : execFabricWack port p s = .next (((s.untagged t).dropRemote r).putReq { r with stage := .performed }) :=
  State.inbound_answers ha h hr (State.answerIn_last (State.stillTagged_untagged hl))

theorem execFabricAtomr_performs (ha : arrivesHere s p 18) (hk : r.kind ≠ .reduce) (hsd : r.sd = none) {a : Access} {as : List Access} (has : r.accs = a :: as) :
    execFabricAtomr port p s = .next (((s.untagged t).dropRemote r).putReq { r with
      stage := .performed
      reply := r.reply ++ (t.pkts.flatMap atomLanes).zipIdx.map fun x => (x.1, r.extend (leNat (flitBytes p 64) / 2 ^ (64 * x.2) % 2 ^ (8 * a.size))) }) := by
  refine State.inbound_answers ha h hr (Eq.trans (b := (s.untagged t).answerIn { r with
    reply := r.reply ++ (t.pkts.flatMap atomLanes).zipIdx.map fun x => (x.1, r.extend (leNat (flitBytes p 64) / 2 ^ (64 * x.2) % 2 ^ (8 * a.size))) }) ?_
    (State.answerIn_last (State.stillTagged_untagged (r := r) hl)))
  simp only [hsd, has, beq_eq_false_iff_ne.2 hk]
  split
  next hred _ _ => exact absurd hred hk
  next => rfl

theorem execFabricCstr_performs (ha : arrivesHere s p 19) :
    execFabricCstr port p s = .next (((s.untagged t).dropRemote r).putReq { r with stage := .performed, ok := osbField p 0 0 == 1 }) :=
  State.inbound_answers ha h hr (State.answerIn_last (State.stillTagged_untagged hl))

theorem execFabricAmack_performs (ha : arrivesHere s p 20) :
    execFabricAmack port p s = .next ((((s.untagged t).dropRemote r).putReq { r with stage := .performed }).amOutcome r (osbField p 7 0)) :=
  State.inbound_answers ha h hr (congrArg (State.amOutcome · r (osbField p 7 0)) (State.answerIn_last (State.stillTagged_untagged hl)))

end

/-! A bounce frees every tag of the request, and acts by its reason (R251, R339; log 24). -/

section
variable (ha : arrivesHere s p 21)
include ha

theorem execFabricBounce_refused (hn : osbField p 3 0 = 0) : execFabricBounce port p s = .next (((s.untagged t).freeTags fun x => x.req == r.id).dropFault r cPAGEF) :=
  State.inbound_answers ha h hr (by simp only [hn])

theorem execFabricBounce_poisoned (hn : osbField p 3 0 = 15) : execFabricBounce port p s = .next (((s.untagged t).freeTags fun x => x.req == r.id).dropFault r cMEMERR) :=
  State.inbound_answers ha h hr (by simp only [hn])

theorem execFabricBounce_budget (hn : osbField p 3 0 = 6) :
    execFabricBounce port p s = .next (((s.untagged t).freeTags fun x => x.req == r.id).noticed { r with reply := [] } 6 .budget) :=
  State.inbound_answers ha h hr (by simp only [hn])

theorem execFabricBounce_again (hn : osbField p 3 0 = 7) :
    execFabricBounce port p s = .next (((s.untagged t).freeTags fun x => x.req == r.id).noticed { r with reply := [] } 7 .ready) :=
  State.inbound_answers ha h hr (by simp only [hn])

end

end

/-! ### Timers (R344, R345) -/

/-- Some packet of the request has gone 120 µs without an answer. -/
theorem tag_due {n : Nat} (ht : ∃ x ∈ s.fab.tags, x.req = n ∧ x.sends ≠ 0 ∧ x.sentAt + Config.usec 120 ≤ s.cyc) :
    (s.fab.tags.any fun x => x.req == n && x.sends != 0 && x.sentAt + Config.usec 120 ≤ s.cyc) = true := by
  simpa [and_assoc] using ht

section
variable {n : Nat} (hr : Tbl.find s.reqs n = some r) (hs : r.stage = .sent) (ht : ∃ x ∈ s.fab.tags, x.req = n ∧ x.sends ≠ 0 ∧ x.sentAt + Config.usec 120 ≤ s.cyc)
include hr hs ht

theorem execRequestUnanswered_dead (hd : r.dev.getD noDev ∈ s.fab.dead) : execRequestUnanswered n s = .next (s.unreachable r) := by
  have hdue := tag_due ht
  simp [execRequestUnanswered, hr, hdue, hs, hd]

section
variable (hd : r.dev.getD noDev ∉ s.fab.dead)
include hd

theorem execRequestUnanswered_repeats (hm : r.mayRepeat = true) :
    execRequestUnanswered n s =
      .next ((s.freeTags fun x => x.req == n).putReq { r with stage := .transit (qCode (.egress (s.routePort (r.dev.getD noDev)))), reply := [] }) := by
  have hdue := tag_due ht
  simp only [execRequestUnanswered, hr, hdue, hs, hm, List.contains_iff_mem, hd]
  rfl

theorem execRequestUnanswered_packet (hm : r.mayRepeat = false) (hk : r.kind = .packet) :
    execRequestUnanswered n s = .next ((s.freeTags fun x => x.req == n).unknownPacket r) := by
  have hdue := tag_due ht
  simp [execRequestUnanswered, hr, hdue, hs, hm, hk, hd]

theorem execRequestUnanswered_unknown (hm : r.mayRepeat = false) (hk : r.kind ≠ .packet) :
    execRequestUnanswered n s = .next (((s.freeTags fun x => x.req == n).dropRemote r).dropFault r cATOMUNK) := by
  have hdue := tag_due ht
  simp [execRequestUnanswered, hr, hdue, hs, hm, hk, hd]

end

end

/-! ### Congestion (R347) -/

/-- What the withdrawal of a device's flag does to a request's stage. -/
theorem Stage.rewake_uncongested (x : Stage) (dev : Nat) :
    (x.rewake fun _ w => if w = .uncongested dev then some .ready else none) = match x with
      | .replay why (.uncongested d) => if d = dev then .replay why .ready else x
      | .bounced why (.uncongested d) => if d = dev then .bounced why .ready else x
      | x => x := by
  cases x with
  | replay why w =>
    cases w with
    | uncongested d => by_cases h : d = dev <;> simp [Stage.rewake, h]
    | _ => simp [Stage.rewake]
  | bounced why w =>
    cases w with
    | uncongested d => by_cases h : d = dev <;> simp [Stage.rewake, h]
    | _ => simp [Stage.rewake]
  | _ => rfl

/-- CONG names a destination, which every port that leads to it flags. -/
theorem execFabricCong_flags (ha : arrivesHere s p 27) :
    execFabricCong port p s = .next (((hops (Tbl.getD s.fab.route (osbField p 127 108) 0)).map (·.1)).foldl (fun s port => s.flag port (osbField p 127 108)) s) :=
  State.inbound_here ha

theorem execDestinationCongested_flags {dev : Nat} (h : (∃ x ∈ s.standingAt port dev, x.entered + s.bound / 2 < s.cyc) ∨ s.latePassing port dev ≠ []) :
    execDestinationCongested port dev s = .next ((s.flag port dev).tellSources port dev) := by
  refine if_pos ?_
  simpa [List.any_eq_true] using h

theorem execCongestionWithdraw_withdraws {dev : Nat} {c : Cong} (hc : s.fab.cong.find? (fun c => c.port == port && c.dev == dev) = some c)
    (ht : c.last + Config.usec 10 ≤ s.cyc) (hq : ∀ x ∈ s.standingAt port dev, s.cyc ≤ x.entered + s.bound / 4)
    (hp : ∀ x ∈ s.fab.transit, x.port = port → x.pkt.dst.toNat = dev → s.cyc ≤ x.since + s.bound / 4) :
    execCongestionWithdraw port dev s = .next { s with
      fab := { s.fab with cong := s.fab.cong.filter fun c => !(c.port == port && c.dev == dev) }
      reqs := Tbl.mapVal (fun _ r => { r with stage := r.stage.rewake fun _ w => if w = .uncongested dev then some .ready else none }) s.reqs } := by
  simp only [execCongestionWithdraw, hc]
  refine if_neg ?_
  simp only [Bool.or_eq_true, decide_eq_true_eq, List.any_eq_true, Bool.and_eq_true, beq_iff_eq, not_or, not_exists, not_and, Nat.not_lt]
  exact ⟨⟨ht, hq⟩, fun x hx hxp => hp x hx hxp.1 hxp.2⟩

end

end Sys2Proof.Machine
end

/-- Settles O47: a response by the tag that it answers, a timer by what is due. -/
theorem fabricResponsesAndTimers : Obligations.FabricResponsesAndTimers := by
  open Sys2Proof.Machine in
  intro s port dev n src tag gen p t r goes mine s1 N line
  refine ⟨fun h => ⟨fun ha => State.inbound_late ha h, fun ha => State.inbound_late ha h⟩,
    fun h hr hl => ⟨execFabricRdr_cread (port := port) h hr hl, execFabricRdr_load (port := port) h hr hl, execFabricWack_performs (port := port) h hr hl, fun ha hk hsd a as => execFabricAtomr_performs (port := port) h hr hl ha hk hsd,
      execFabricCstr_performs (port := port) h hr hl, execFabricAmack_performs (port := port) h hr hl,
      fun ha => ⟨execFabricBounce_refused (port := port) h hr ha, execFabricBounce_poisoned (port := port) h hr ha, execFabricBounce_budget (port := port) h hr ha, execFabricBounce_again (port := port) h hr ha⟩⟩, rfl, rfl, rfl,
    fun hr hs ht => ⟨execRequestUnanswered_dead hr hs ht, execRequestUnanswered_repeats hr hs ht, execRequestUnanswered_packet hr hs ht, execRequestUnanswered_unknown hr hs ht⟩, fun hd => if_neg (by simpa using hd),
    execDestinationCongested_flags, execFabricCong_flags (port := port), fun c hc ht hq hp => (execCongestionWithdraw_withdraws hc ht hq hp).trans ?_⟩
  simp only [Stage.rewake_uncongested] <;> rfl


section
/-! SUPPORT. Bulk messages and active messages at their receiver, grants at the sender, and the start of an active message's handler (R348 to R354, R362, R366). -/

namespace Sys2Proof.Machine

section
variable {s : State} {port : Nat} {p : Packet}

/-- An active message reaches its function's queue and nothing that a response's header carries. -/
theorem State.amAccept_respPkt {t : State} {fn src hidx scope st : Nat} {bs : List Byte} (hm : s.amAccept fn src hidx scope bs = some (t, st)) (op osa osb : Nat)
    (flits : List (BitVec 256)) : t.respPkt p op osa osb flits = s.respPkt p op osa osb flits := by
  simp only [State.amAccept] at hm
  split_ifs at hm
  all_goals
    obtain ⟨rfl, -⟩ := Prod.mk.inj (Option.some.inj hm)
    rfl

/-! ### Requests of messages (R344, R348, R349, R352, R354) -/

section
variable (h : s.cachedReply p = none ∧ s.underWay p = false ∧ s.bankFull p = false)
include h

/-- The event of a request that is kept here and is new. -/
theorem State.inbound_fresh {op : Nat} {f : State → State} {u : State} (ha : arrivesHere s p op) (hf : f s = u) : s.inbound p op (fun s => s.recorded p f) = .next u :=
  (State.inbound_here ha).trans (congrArg _ ((State.recorded_fresh h).trans hf))

section
variable (ha : arrivesHere s p 4)
include ha

/-- The bytes are performed into the buffer of a message that has one. -/
theorem execFabricBdata_performs {m : RecvMsg} (hm : (s.openRecord p).msg p.src.toNat (msgidOf p) = some m) (hw : m.state ≠ .waitbuf) :
    execFabricBdata port p s =
      .next ((((s.openRecord p).bulkBytes m (offsetOf p) (flitBytes p (min (32 * p.flits.length) (bulkLen p - offsetOf p)))).ackBulk p).grants) := by
  refine State.inbound_fresh h ha ?_
  simp only [hm, if_neg hw]

theorem execFabricBdata_records (hm : ∀ m : RecvMsg, (s.openRecord p).msg p.src.toNat (msgidOf p) = some m → m.state = .waitbuf) :
    execFabricBdata port p s = .next ((s.openRecord p).ackBulk p).grants := by
  refine State.inbound_fresh h ha ?_
  cases ho : (s.openRecord p).msg p.src.toNat (msgidOf p) with
  | none => simp only [ho]
  | some m => simp only [ho, if_pos (hm m ho)]

end

section
variable (ha : arrivesHere s p 8)
include ha

theorem execFabricBreq_announces (hb : osbField p 81 81 = 0) : execFabricBreq port p s = .next ((s.openRecord p).ackBulk p).grants :=
  State.inbound_fresh h ha (by simp only [hb]; rfl)

theorem execFabricBreq_resumes (hb : osbField p 81 81 = 1) :
    execFabricBreq port p s =
      .next (((s.openRecord p).onMsg p.src.toNat (msgidOf p) fun m => if m.state = .paused then { m with state := .active } else m).ackBulk p).grants :=
  State.inbound_fresh h ha (by simp only [hb]; rfl)

end

section
variable (ha : arrivesHere s p 5)
include ha

theorem execFabricAmsg_accepts {t : State} {st : Nat}
    (hm : s.amAccept p.vf.toNat p.src.toNat (osbField p 11 0) p.scope.toNat (flitBytes p (osbField p 24 16)) = some (t, st)) :
    execFabricAmsg port p s = .next ((t.recordReply p [t.respPkt p 20 0 st []]).emit (t.respPkt p 20 0 st [])) :=
  State.inbound_fresh h ha (by simp only [hm, State.amAccept_respPkt hm])

theorem execFabricAmsg_bounces (hm : s.amAccept p.vf.toNat p.src.toNat (osbField p 11 0) p.scope.toNat (flitBytes p (osbField p 24 16)) = none) :
    execFabricAmsg port p s = .next (s.bouncePkt p 3) :=
  State.inbound_fresh h ha (by simp only [hm])

end

end

/-- RETURN pauses the message and cuts its tokens at the offset (R352). -/
theorem execFabricReturn_pauses (ha : arrivesHere s p 25) :
    execFabricReturn port p s = .next (s.onMsg p.src.toNat (msgidOf p) fun m =>
      if m.state = MsgState.waitbuf then m else { m with state := MsgState.paused, tokens := m.tokens.filterMap (Token.cut (offsetOf p)) }).grants :=
  State.inbound_here ha

/-! ### Tokens and priorities at the receiver (R350, R351) -/

section
variable {src msg off : Nat} {m : RecvMsg} (hm : s.msg src msg = some m)
include hm

/-- The times in a row that a token of the message went unused, with this one. -/
def RecvMsg.failsAfter (m : RecvMsg) (t : Token) : Nat := if t.got == 0 then m.fails + 1 else m.fails

/-- The tokens of the message without one. -/
def RecvMsg.tokensBut (m : RecvMsg) (off : Nat) : List Token := m.tokens.filter fun y => y.off != off

section
variable {t : Token} (ha : m.state = .active) (ht : m.tokens.find? (fun t => t.off == off && t.at_ + Config.usec 25 ≤ s.cyc) = some t)
include ha ht

theorem execTokenExpiry_ends (hf : 8 ≤ m.failsAfter t) :
    execTokenExpiry src msg off s = .next (((s.bstat src msg m.fn 2).dropMsg src msg).freeSlot m.fn m.slot 3).grants := by
  simp only [execTokenExpiry, hm, ht, ha, ne_eq, not_true_eq_false, if_false]
  exact if_pos hf

theorem execTokenExpiry_goes (hf : m.failsAfter t < 8) :
    execTokenExpiry src msg off s = .next (s.onMsg src msg fun y => { y with
      tokens := m.tokensBut off
      fails := m.failsAfter t
      since := if (m.tokensBut off).isEmpty then s.cyc else y.since }).grants := by
  simp only [execTokenExpiry, hm, ht, ha, ne_eq, not_true_eq_false, if_false]
  exact if_neg (Nat.not_le.2 hf)

end

theorem execPrioAging_rises (ht : m.tokens = []) (hg : (m.gap s.cyc).2 ≠ 0) (he : m.eff < 3) (hs : m.since + Config.usec 100 ≤ s.cyc) :
    execPrioAging src msg s = .next (s.onMsg src msg fun m => { m with eff := m.eff + 1, since := s.cyc }).grants := by
  simp [execPrioAging, hm, ht, hg, he, hs]

end

/-! ### Grants and statuses at the sender (R350, R352, R363) -/

theorem mem_insertToken {x t : Nat × Nat} {l : List (Nat × Nat)} : x ∈ insertToken t l ↔ x = t ∨ x ∈ l := by
  induction l with
  | nil => simp [insertToken]
  | cons y ys ih =>
    unfold insertToken
    split
    next => simp
    next => simp only [List.mem_cons, ih, or_left_comm]

/-- A token that is put in its place keeps the order of the offsets. -/
theorem insertToken_sorted {t : Nat × Nat} {l : List (Nat × Nat)} (h : l.Pairwise fun x y => x.1 ≤ y.1) : (insertToken t l).Pairwise fun x y => x.1 ≤ y.1 := by
  induction l with
  | nil => simp [insertToken]
  | cons y ys ih =>
    obtain ⟨hy, hys⟩ := List.pairwise_cons.1 h
    unfold insertToken
    split
    next hlt => exact .cons (List.forall_mem_cons.2 ⟨hlt.le, fun x hx => hlt.le.trans (hy x hx)⟩) h
    next hge =>
      refine .cons (fun x hx => ?_) (ih hys)
      rcases mem_insertToken.1 hx with rfl | hx
      · exact Nat.not_lt.1 hge
      · exact hy x hx

section
variable {k : Nat} {m : OpenMsg} (hm : s.openMsg p.src.toNat (msgidOf p) = some (k, m))
include hm

theorem execFabricGrant_joins (ha : arrivesHere s p 24) (hp : m.paused = false) :
    execFabricGrant port p s =
      .next (s.onWarp k fun w => { w with msgs := w.msgs.map fun x => if x.id == m.id then x.grant (offsetOf p, bulkLen p) else x }) := by
  refine (State.inbound_here ha).trans (congrArg _ ?_)
  simp only [hm, hp, Bool.false_eq_true, if_false]

theorem execFabricGrant_returns (ha : arrivesHere s p 24) (hp : m.paused = true) :
    execFabricGrant port p s = .next (s.giveBack m (s.wg (wgOf k)).fn (offsetOf p) (bulkLen p)) := by
  refine (State.inbound_here ha).trans (congrArg _ ?_)
  simp only [hm, hp, if_true]

theorem execFabricBstat_ends (ha : arrivesHere s p 26) :
    execFabricBstat port p s = .next (s.endMsg k m (if osbField p 7 0 = 1 then 0 else if osbField p 7 0 = 2 then stORPHAN else stREFUSED)) := by
  refine (State.inbound_here ha).trans (congrArg _ ?_)
  simp only [hm]
  split
  next h => rw [if_pos h]
  next h => rw [if_neg (by omega), if_pos h]
  next h1 h2 => rw [if_neg h1, if_neg h2]

end

theorem execFabricBstat_aborts {m : RecvMsg} (ho : s.openMsg p.src.toNat (msgidOf p) = none) (hm : s.msg p.src.toNat (msgidOf p) = some m) (hst : osbField p 7 0 = 3)
    (ha : arrivesHere s p 26) : execFabricBstat port p s = .next (s.abortMsg m false).grants := by
  refine (State.inbound_here ha).trans (congrArg _ ?_)
  simp only [ho, hm, hst]

/-! ### The start of an active message's handler (R3, R366) -/

section
variable {fn core i : Nat} {m : AmMsg} {e : HandlerEnt} {pl : List Nat × Nat × Nat}

theorem State.mem_amReady :
    (i, m, e, pl) ∈ s.amReady fn core ↔ (s.fn fn).ams[i]? = some m ∧ tableEnt (s.fn fn).table_ m.hidx = some e ∧ s.handlerPlace core e = some pl := by
  simp only [State.amReady, List.mem_filterMap, Prod.exists, Option.bind_eq_some_iff, Option.map_eq_some_iff, List.mem_zipIdx_iff_getElem?, Prod.mk.injEq]
  constructor
  · rintro ⟨m', i', hi, e', he, a, b, c, hpl, rfl, rfl, rfl, rfl⟩
    exact ⟨hi, he, hpl⟩
  · rintro ⟨hi, he, hpl⟩
    exact ⟨m, i, hi, e, he, pl.1, pl.2.1, pl.2.2, hpl, rfl, rfl, rfl, rfl⟩

theorem State.amReady_ne_nil (h : ∃ m ∈ (s.fn fn).ams, ∃ e : HandlerEnt, tableEnt (s.fn fn).table_ m.hidx = some e ∧ (s.handlerPlace core e).isSome = true) :
    s.amReady fn core ≠ [] := by
  obtain ⟨m, hm, e, he, hp⟩ := h
  obtain ⟨i, hi⟩ := List.mem_iff_getElem?.1 hm
  obtain ⟨pl, hpl⟩ := Option.isSome_iff_exists.1 hp
  exact List.ne_nil_of_mem (State.mem_amReady.2 ⟨hi, he, hpl⟩)

/-- The free word chooses among the messages that are ready: a member of a list that has one. -/
theorem State.amReady_chosen (h : s.amReady fn core ≠ []) : ∃ y ∈ s.amReady fn core, (s.amReady fn core)[s.freeWord.toNat % (s.amReady fn core).length]? = some y := by
  have hlt := Nat.mod_lt s.freeWord.toNat (List.length_pos_iff.2 h)
  exact ⟨_, List.getElem_mem hlt, List.getElem?_eq_getElem hlt⟩

theorem execAmHandlerStart_starts (hoff : s.off = false) (h60 : core % 60 ≠ 0) (hc : core < 240) (hr : (s.fn fn).resetStep = 0) (ht : s.handlersTurn (core / 60) fn = true)
    (hy : (s.amReady fn core)[s.freeWord.toNat % (s.amReady fn core).length]? = some (i, m, e, pl)) :
    execAmHandlerStart fn core s =
      .next ((((s.drawn 1).bindHandler core e pl).startHandler fn core e pl m.bytes [m.bytes.length, m.src, 0, 0, 0] 0 .message none m.scope).onFn fn
        fun f => { f with ams := f.ams.eraseIdx i }) := by
  simp only [execAmHandlerStart, hy]
  exact if_neg (by simp [hoff, h60, hc, hr, ht])

end

end

end Sys2Proof.Machine
end

/-- Settles O48: each packet by what its record or open message says; the handler by the message that the free word chooses among those that are ready. -/
theorem messagesAndHandlers : Obligations.MessagesAndHandlers := by
  open Sys2Proof.Machine in
  intro s port src msg off fn core p
  refine ⟨fun ha h => ⟨fun m => execFabricBdata_performs (port := port) h ha, execFabricBdata_records (port := port) h ha⟩,
    fun ha h => ⟨execFabricBreq_announces (port := port) h ha, execFabricBreq_resumes (port := port) h ha⟩,
    fun ha h => ⟨fun t st => execFabricAmsg_accepts (port := port) h ha, execFabricAmsg_bounces (port := port) h ha⟩, execFabricReturn_pauses (port := port),
    fun m t hm => ⟨fun ha ht => ⟨execTokenExpiry_ends hm ha ht, execTokenExpiry_goes hm ha ht⟩, execPrioAging_rises hm⟩,
    fun k m hm => ⟨execFabricGrant_joins (port := port) hm,
      fun t => ⟨mem_insertToken.2 (.inl rfl), fun x hx => mem_insertToken.2 (.inr hx), insertToken_sorted⟩,
      execFabricGrant_returns (port := port) hm, execFabricBstat_ends (port := port) hm⟩,
    fun m => execFabricBstat_aborts (port := port), fun hoff h60 hc hr ht hex => ?_⟩
  obtain ⟨⟨i, m, e, pl⟩, hmem, hy⟩ := State.amReady_chosen (State.amReady_ne_nil hex)
  obtain ⟨hi, he, hpl⟩ := State.mem_amReady.1 hmem
  exact ⟨i, m, e, pl, hi, he, hpl, execAmHandlerStart_starts hoff h60 hc hr ht hy⟩


section
/-! SUPPORT. Stream packets at their receiver, the release of frozen records, contexts, and the start of a bound end's handler (R366, R371, R372, R379 to R394). -/

namespace Sys2Proof.Machine

section
variable {s : State} {port : Nat} {p : Packet}

/-! ### Items and their acknowledgements (R382, R391 step 3) -/

/-- The end that an item packet is for. -/
def itemEnd (p : Packet) : EndKey := ⟨osbField p 127 108, osaField p 177 154, true⟩

/-- The piece of an item that an item packet carries. -/
def itemPiece (p : Packet) : ItemPart :=
  ⟨(itemEnd p).home, (itemEnd p).stream, osbField p 107 89, osaField p 153 130, osaField p 129 128, p.scope.toNat, osbField p 88 85, osbField p 84 72,
    flitBytes p (min 256 (osbField p 84 72 - 256 * osbField p 88 85))⟩

section
variable (ha : arrivesHere s p 6)
include ha

theorem execSitem_gathers (h : (s.freshPiece (itemEnd p) (itemPiece p)).2 = none) :
    execSitem port p s = .next ((s.freshPiece (itemEnd p) (itemPiece p)).1.emit ((s.freshPiece (itemEnd p) (itemPiece p)).1.respPkt p 22 p.osa.toNat 0 [])) := by
  refine (State.inbound_here ha).trans (congrArg _ ?_)
  simp only [itemEnd, itemPiece] at h ⊢
  simp only [h]

theorem execSitem_delivers {it : Item} (h : (s.freshPiece (itemEnd p) (itemPiece p)).2 = some it) :
    execSitem port p s =
      .next (((s.freshPiece (itemEnd p) (itemPiece p)).1.itemIn (itemEnd p) (osbField p 107 89) it).1.emit
        (((s.freshPiece (itemEnd p) (itemPiece p)).1.itemIn (itemEnd p) (osbField p 107 89) it).1.respPkt p 22 p.osa.toNat
          ((s.freshPiece (itemEnd p) (itemPiece p)).1.itemIn (itemEnd p) (osbField p 107 89) it).2 [])) := by
  refine (State.inbound_here ha).trans (congrArg _ ?_)
  simp only [itemEnd, itemPiece] at h ⊢
  simp only [h]

end

section
variable {t : TagRec} {r : Req} (h : s.fab.tags.find? (answersTag p) = some t) (hr : Tbl.find s.reqs t.req = some r)
include h hr

/-- The producer end whose item a SACK acknowledges. -/
def sackEnd (p : Packet) (r : Req) : EndKey := ⟨match r.pkts with | q :: _ => osbField q 127 108 | [] => noDev, osaField p 177 154, false⟩

/-- The end learns from the status of a SACK that its stream is closed or its consumer lost (R368). -/
def EndRec.sacked (e : EndRec) (st : Nat) : EndRec := { e with closed := e.closed || st == stCLOSED, orphan := e.orphan || st == stORPHAN }

section
variable (ha : arrivesHere s p 22)
include ha

theorem execSack_done (hs : osbField p 7 0 = 0) : execSack port p s = .next (((s.untagged t).onEnd (sackEnd p r) fun e => e.sacked (osbField p 7 0)).answerIn r) := by
  refine State.inbound_answers ha h hr ?_
  dsimp only
  rw [if_pos (by simpa using hs)]
  rfl

theorem execSack_status (hs : osbField p 7 0 ≠ 0) :
    execSack port p s = .next ((((s.untagged t).onEnd (sackEnd p r) fun e => e.sacked (osbField p 7 0)).onOp r.warp r.parent fun o => { o with status := osbField p 7 0 }).answerIn r) := by
  refine State.inbound_answers ha h hr ?_
  dsimp only
  rw [if_neg (by simpa using hs)]
  rfl

end

section
variable (ha : arrivesHere s p 23)
include ha

theorem execSmack_move (hp : smPhase p = 0) :
    execSmack port p s = .next (((s.untagged t).onEnd (smEnd p p.src.toNat) fun e => if e.frozen then { e with frozenAt := s.cyc } else e).answerIn r) :=
  State.inbound_answers ha h hr (by simp only [hp]; rfl)

theorem execSmack_later (hp : smPhase p ≠ 0) : execSmack port p s = .next ((s.untagged t).answerIn r) := by
  refine State.inbound_answers ha h hr ?_
  dsimp only
  split
  next h0 => exact absurd h0 hp
  next => rfl

end

end

/-! ### Credits, locations and losses (R381, R391, R392, R394) -/

section
variable {e : EndRec}

/-- Credits go to the producer end whose other end, or home, sent them. -/
theorem execScred_credits (ha : arrivesHere s p 28)
    (h : s.ends.find? (fun y => !y.key.cons && y.key.stream == osaField p 177 154 && (y.peer == p.src.toNat || y.key.home == p.src.toNat)) = some e) :
    execScred port p s = .next (s.creditIn e.key (osbField p 127 121)) := by
  refine (State.inbound_here ha).trans (congrArg _ ?_)
  dsimp only
  rw [h]
  rfl

/-- The end whose other end a SLOC locates. -/
def slocEnd (p : Packet) : EndKey := ⟨p.src.toNat, osaField p 177 154, !(osaField p 153 153 == 1)⟩

section
variable (ha : arrivesHere s p 29)
include ha

theorem execSloc_learns (h : s.adopting (slocEnd p) = false) (he : s.endRec (slocEnd p) = some e) :
    execSloc port p s = .next (s.onEnd (slocEnd p) fun y => y.learn (osbField p 127 108)) := by
  refine (State.inbound_here ha).trans (congrArg _ ?_)
  change s.adopting ⟨_, _, _⟩ = false at h
  change s.endRec ⟨_, _, _⟩ = some e at he
  simp only [h, he, Bool.false_eq_true, if_false]
  rfl

theorem execSloc_adopting (h : s.adopting (slocEnd p) = true) :
    execSloc port p s = .next (s.onMove (slocEnd p) fun y => { y with
      peer := osbField p 127 108
      told := true
      base := y.base + if !(slocEnd p).cons && osbField p 127 108 != noDev then 1 else 0 }) :=
  (State.inbound_here ha).trans (congrArg _ (if_pos h))

end

/-- The last item that a SORPH tells of, if it tells of one. -/
def sorphLast (p : Packet) : Option Nat := if p.scope = 0 then some (osbField p 127 104) else none

section
variable (ha : arrivesHere s p 30)
  (hm : ∀ x ∈ s.moves, ¬ (x.1.stream = osaField p 177 154 ∧ x.1.cons ≠ (osaField p 153 153 == 1) ∧ x.1.home = p.src.toNat))
include ha hm

theorem execSorph_behind
    (h : s.ends.find? (fun y => y.key.stream == osaField p 177 154 && y.key.cons != (osaField p 153 153 == 1) &&
      (y.key.home == p.src.toNat || (y.key.home != s.own && y.peer == p.src.toNat))) = some e) :
    execSorph port p s = .next (s.orphanBehind e.key (sorphLast p)) := by
  refine (State.inbound_here ha).trans (congrArg _ ?_)
  have hn : (s.moves.find? fun x => x.1.stream == osaField p 177 154 && x.1.cons != (osaField p 153 153 == 1) && x.1.home == p.src.toNat) = none :=
    List.find?_eq_none.2 fun x hx => by simpa [and_assoc] using hm x hx
  dsimp only
  rw [hn, h]
  simp only [sorphLast, beq_iff_eq]

theorem execSorph_home (h : ∀ y ∈ s.ends, ¬ (y.key.stream = osaField p 177 154 ∧ y.key.cons ≠ (osaField p 153 153 == 1))) :
    execSorph port p s = .next (s.loseEnd ⟨s.own, osaField p 177 154, osaField p 153 153 == 1⟩ (if osaField p 153 153 == 1 then none else sorphLast p)) := by
  refine (State.inbound_here ha).trans (congrArg _ ?_)
  have hn : (s.moves.find? fun x => x.1.stream == osaField p 177 154 && x.1.cons != (osaField p 153 153 == 1) && x.1.home == p.src.toNat) = none :=
    List.find?_eq_none.2 fun x hx => by simpa [and_assoc] using hm x hx
  have he : (s.ends.find? fun y => y.key.stream == osaField p 177 154 && y.key.cons != (osaField p 153 153 == 1) &&
      (y.key.home == p.src.toNat || (y.key.home != s.own && y.peer == p.src.toNat))) = none :=
    List.find?_eq_none.2 fun y hy hc => h y hy (by simp only [Bool.and_eq_true, beq_iff_eq, bne_iff_ne] at hc; exact hc.1)
  dsimp only
  rw [hn, he]
  simp only [sorphLast, beq_iff_eq]

end

end

/-! ### The steps of a move (R391 to R393) -/

section
variable (ha : arrivesHere s p 7)
include ha

/-- A step of a move acts where its phase is the packet's. -/
theorem State.onSmove_here {ph : Nat} {f : State → State} (hp : smPhase p = ph) : s.onSmove p ph f = .next (f s) :=
  (State.inbound_here ha).trans (congrArg _ (if_pos (beq_iff_eq.2 hp)))

theorem execSmoveMove_homes (hp : smPhase p = 0) :
    execSmoveMove port p s = .next ((s.homeMove (smEnd p s.own) (smGen p) (smRecord p (Moved.blank (smGen p)))).smack p 0) := State.onSmove_here ha hp

section
variable (hp : smPhase p = 1)
include hp

theorem execSmoveCtx_adopter (h : s.adopting (smEnd p p.src.toNat) = true) :
    execSmoveCtx port p s =
      .next (((s.onMove (smEnd p p.src.toNat) fun y => y.chunk (osbField p 56 49) (flitBytes p 256)).tryInstall (smEnd p p.src.toNat)).smack p 0) :=
  (State.onSmove_here ha hp).trans (congrArg _ (if_pos h))

theorem execSmoveCtx_home (h : s.adopting (smEnd p p.src.toNat) = false) :
    execSmoveCtx port p s = .next ((s.onHome (smEnd p s.own) fun h =>
      if h.gen == smGen p then { h with moved := some ((h.moved.getD (Moved.blank h.gen)).chunk (osbField p 56 49) (flitBytes p 256)) } else h).smack p 0) :=
  (State.onSmove_here ha hp).trans (congrArg _ (if_neg (Bool.eq_false_iff.1 h)))

end

section
variable (hp : smPhase p = 2)
include hp

theorem execSmoveAdopt_again (h : s.adoptDone (smEnd p s.own) (smGen p) = true) : execSmoveAdopt port p s = .next (s.smack p 0) :=
  (State.onSmove_here ha hp).trans (congrArg _ (if_pos h))

section
variable (h : s.adoptDone (smEnd p s.own) (smGen p) = false) {s1 : State}
include h

theorem execSmoveAdopt_waits (hg : s.homeAdopt (smEnd p s.own) (smGen p) p.src.toNat (osbField p 76 69 != 0) = (s1, .waits)) :
    execSmoveAdopt port p s = .next s1 := by
  refine (State.onSmove_here ha hp).trans (congrArg _ ?_)
  simp only [h, hg, Bool.false_eq_true, if_false]

theorem execSmoveAdopt_refuses {st : Nat} (hg : s.homeAdopt (smEnd p s.own) (smGen p) p.src.toNat (osbField p 76 69 != 0) = (s1, .refused st)) :
    execSmoveAdopt port p s =
      .next ((s1.smack p 0).fwSend (s1.smove p.src.toNat (smEnd p s.own) (smGen p) 3 noDev 0 0 0 0 0 p.vf.toNat 0 (bytesLE 16 (nullHandle st)))) := by
  refine (State.onSmove_here ha hp).trans (congrArg _ ?_)
  simp only [h, hg, Bool.false_eq_true, if_false]

theorem execSmoveAdopt_grants {y : Moved} (hg : s.homeAdopt (smEnd p s.own) (smGen p) p.src.toNat (osbField p 76 69 != 0) = (s1, .granted y)) :
    execSmoveAdopt port p s =
      .next (((s1.smack p 0).smove p.src.toNat (smEnd p s.own) y.gen 3 y.peer y.next y.credits (y.kib + if y.faulted then 128 else 0) y.hidx 0 p.vf.toNat y.cscope
          (bytesLE 16 (handleBits (smEnd p s.own) y.gen ((s1.smack p 0).chkOf (smEnd p s.own) y.gen)) ++ bytesLE 3 y.base) ::
        (s1.smack p 0).movePackets p.src.toNat (smEnd p s.own) y.gen y).foldl State.fwSend (s1.smack p 0)) := by
  refine (State.onSmove_here ha hp).trans (congrArg _ ?_)
  simp only [h, hg, Bool.false_eq_true, if_false]

end

end

section
variable (hp : smPhase p = 3)
include hp

theorem execSmovePlace_over (h : s.adopting (smEnd p p.src.toNat) = false) : execSmovePlace port p s = .next (s.smack p (leNat (flitBytes p 16))) := by
  refine (State.onSmove_here ha hp).trans (congrArg _ ?_)
  simp only [h, Bool.not_false, if_true]

section
variable (h : s.adopting (smEnd p p.src.toNat) = true)
include h

theorem execSmovePlace_refuses (hh : (keyOfHandle (leNat (flitBytes p 16))).home = noDev) :
    execSmovePlace port p s = .next ((s.refuseAdopt (smEnd p p.src.toNat) (leNat (flitBytes p 16) % 256)).smack p (leNat (flitBytes p 16))) := by
  refine (State.onSmove_here ha hp).trans (congrArg _ ?_)
  simp only [h, hh, Bool.not_true, Bool.false_eq_true, if_false, beq_self_eq_true, if_true]

/-- What PLACE brings to a record under adoption that has not been placed. -/
def Moved.placedBy (y : Moved) (p : Packet) : Moved := { smRecord p y with
  gen := smGen p
  chk := some (BitVec.ofNat 64 (leNat (flitBytes p 16)))
  peer := if y.told then y.peer else osbField p 127 108
  base := y.base + leNat ((flitBytes p 19).drop 16)
  credits := min 64 (osbField p 83 77 + y.credits)
  items := y.items.foldl (addItem (osbField p 107 84)) []
  ctx := y.ctx
  chunks := y.chunks }

theorem execSmovePlace_places (hh : (keyOfHandle (leNat (flitBytes p 16))).home ≠ noDev) :
    execSmovePlace port p s =
      .next (((s.onMove (smEnd p p.src.toNat) fun y => if y.placed then y else y.placedBy p).tryInstall (smEnd p p.src.toNat)).smack p (leNat (flitBytes p 16))) := by
  refine (State.onSmove_here ha hp).trans (congrArg _ ?_)
  simp only [h, Bool.not_true, Bool.false_eq_true, if_false, beq_eq_false_iff_ne.2 hh]
  rfl

end

end

section
variable (hp : smPhase p = 4) (h : s.adopting (smEnd p p.src.toNat) = true)
include hp h

/-- The length of the item held for an end of which an ITEMS packet carries a piece. -/
def heldLen (p : Packet) : Nat := if 2 ≤ osbField p 83 77 / 16 then 0 else osbField p 68 57 + 1

/-- The piece of an item held for the end `k` that an ITEMS packet carries (log 23). -/
def heldPiece (p : Packet) (k : EndKey) : ItemPart :=
  ⟨k.home, k.stream, smGen p, osbField p 107 84, osbField p 83 77 / 16, p.scope.toNat, osbField p 83 77 % 16, heldLen p,
    flitBytes p (min 256 (heldLen p - 256 * (osbField p 83 77 % 16)))⟩

theorem execSmoveItems_gathers (hn : (s.freshPiece (smEnd p p.src.toNat) (heldPiece p (smEnd p p.src.toNat))).2 = none) :
    execSmoveItems port p s = .next ((s.freshPiece (smEnd p p.src.toNat) (heldPiece p (smEnd p p.src.toNat))).1.smack p 0) := by
  refine (State.onSmove_here ha hp).trans (congrArg _ ?_)
  simp only [heldPiece, heldLen] at hn ⊢
  simp only [h, Bool.true_or, if_true, hn]

theorem execSmoveItems_holds {it : Item} (hi : (s.freshPiece (smEnd p p.src.toNat) (heldPiece p (smEnd p p.src.toNat))).2 = some it)
    (hr : (s.freshPiece (smEnd p p.src.toNat) (heldPiece p (smEnd p p.src.toNat))).1.adopting (smEnd p p.src.toNat) = true) :
    execSmoveItems port p s =
      .next (((s.freshPiece (smEnd p p.src.toNat) (heldPiece p (smEnd p p.src.toNat))).1.onMove (smEnd p p.src.toNat) fun y => y.hold it).smack p 0) := by
  refine (State.onSmove_here ha hp).trans (congrArg _ ?_)
  simp only [heldPiece, heldLen] at hi hr ⊢
  simp only [h, Bool.true_or, if_true, hi, hr]

end

end

/-! ### Records of ends, their contexts and handlers (R366, R371, R372, R386 to R391) -/

section
variable {k : EndKey} {e : EndRec} (he : s.endRec k = some e)
include he

theorem execFrozenRecordRelease_drops (hf : e.frozen = true) (ht : e.frozenAt + Config.usec 120 ≤ s.cyc)
    (hq : ∀ r ∈ s.reqList, ∀ y ∈ r.pkts, (y.op = 6 ∨ y.op = 7) → osaField y 177 154 ≠ k.stream) : execFrozenRecordRelease k s = .next (s.dropEnd k) := by
  simp only [execFrozenRecordRelease, he]
  refine if_pos ?_
  simpa [hf, ht] using hq

section
variable {b : Binding} (hb : e.bind = some b)
include hb

theorem execContextIdleTimeout_evicts (hs : b.st = .idle) (ht : b.since + Config.msec (s.fn b.fn).stidle.lo ≤ s.cyc) :
    execContextIdleTimeout k s = .next (s.evictCtx k) := by
  simp [execContextIdleTimeout, he, hb, hs, ht]

theorem execContextEvictionDone_frees (hs : b.st = .evicting) :
    execContextEvictionDone k s = .next ((s.onEnd k fun y => { y with bind := some { b with st := .evicted, since := s.cyc, gran := [] } }).wakeDie e.die) := by
  simp only [execContextEvictionDone, he, hb, if_pos hs]

theorem execContextReloadDone_active (hs : b.st = .reloading) :
    execContextReloadDone k s = .next ((s.onEnd k fun y => { y with bind := some { b with st := .active, since := s.cyc } }).settleStore e.die) := by
  simp only [execContextReloadDone, he, hb, if_pos hs]

section
variable {core : Nat} {it : Item} (hd : e.due = some it) (hs : s.startable e b = true) (hoff : s.off = false) (h60 : core % 60 ≠ 0) (hc : core / 60 = e.die)
include hd hs hoff h60 hc

/-- The next item of a bound end starts a handler that the function's table has, in a place that the core has. -/
theorem execStreamHandlerStart_due :
    execStreamHandlerStart k core s = match tableEnt (s.fn e.fn).table_ b.hidx with
      | none => .next (s.faultEnd e)
      | some h => match s.startPlace e h b.hidx core with
        | none => .next s
        | some p =>
          if it.kind == 1 then
            match s.adopted it e.fn e.die with
            | (s1, none) => .next s1
            | (s1, some (hd, st)) => .next ((s1.startItem e b it h core p (bytesLE 16 hd) st).loseCarried it st)
          else .next (s.startItem e b it h core p it.bytes 0) := by
  simp only [execStreamHandlerStart, he, hb, hd]
  exact if_neg (by simp [hs, hoff, h60, hc])

theorem execStreamHandlerStart_faults (hh : tableEnt (s.fn e.fn).table_ b.hidx = none) : execStreamHandlerStart k core s = .next (s.faultEnd e) := by
  rw [execStreamHandlerStart_due he hb hd hs hoff h60 hc, hh]

section
variable {h : HandlerEnt} {pl : Option Nat × List Nat × Nat × Nat} (hh : tableEnt (s.fn e.fn).table_ b.hidx = some h) (hp : s.startPlace e h b.hidx core = some pl)
include hh hp

theorem execStreamHandlerStart_starts (hk : it.kind ≠ 1) : execStreamHandlerStart k core s = .next (s.startItem e b it h core pl it.bytes 0) := by
  rw [execStreamHandlerStart_due he hb hd hs hoff h60 hc, hh]
  simp only [hp]
  exact if_neg (by simpa using hk)

section
variable (hk : it.kind = 1) {s1 : State}
include hk

theorem execStreamHandlerStart_waits (hs1 : s.adopted it e.fn e.die = (s1, none)) : execStreamHandlerStart k core s = .next s1 := by
  rw [execStreamHandlerStart_due he hb hd hs hoff h60 hc, hh]
  simp only [hp, hk, beq_self_eq_true, if_true, hs1]

theorem execStreamHandlerStart_handle {hd' st : Nat} (hs1 : s.adopted it e.fn e.die = (s1, some (hd', st))) :
    execStreamHandlerStart k core s = .next ((s1.startItem e b it h core pl (bytesLE 16 hd') st).loseCarried it st) := by
  rw [execStreamHandlerStart_due he hb hd hs hoff h60 hc, hh]
  simp only [hp, hk, beq_self_eq_true, if_true, hs1]

end

end

end

end

end

end

end Sys2Proof.Machine
end

/-- Settles O49: each packet by its phase and by what the device keeps of the end that it names; each event of an end by the end's record. -/
theorem streamsAndContexts : Obligations.StreamsAndContexts := by
  open Sys2Proof.Machine in
  intro s port core m v p k e b
  refine ⟨fun ha => ⟨execSitem_gathers (port := port) ha, fun it => execSitem_delivers (port := port) ha⟩,
    fun t r h hr => ⟨fun ha => ⟨execSack_done (port := port) h hr ha, execSack_status (port := port) h hr ha⟩, execSmack_move (port := port) h hr, execSmack_later (port := port) h hr⟩,
    execScred_credits (port := port), fun ha => ⟨execSloc_learns (port := port) ha, execSloc_adopting (port := port) ha⟩,
    fun ha hm => ⟨execSorph_home (port := port) ha hm, execSorph_behind (port := port) ha hm⟩,
    fun ha => ⟨execSmoveMove_homes (port := port) ha, execSmoveCtx_adopter (port := port) ha, execSmoveCtx_home (port := port) ha, execSmoveAdopt_again (port := port) ha,
      fun hp h s1 => ⟨execSmoveAdopt_waits (port := port) ha hp h, fun st => execSmoveAdopt_refuses (port := port) ha hp h, fun y => execSmoveAdopt_grants (port := port) ha hp h⟩,
      execSmovePlace_over (port := port) ha, fun hp h => ⟨execSmovePlace_refuses (port := port) ha hp h, execSmovePlace_places (port := port) ha hp h⟩,
      fun hp h => ⟨execSmoveItems_gathers (port := port) ha hp h, fun it => execSmoveItems_holds (port := port) ha hp h⟩⟩,
    fun he => ⟨execFrozenRecordRelease_drops he, fun hb => ⟨execContextIdleTimeout_evicts he hb, execContextEvictionDone_frees he hb, execContextReloadDone_active he hb,
      fun it hd hs hoff h60 hc => ⟨execStreamHandlerStart_faults he hb hd hs hoff h60 hc, fun h pl hh hp => ⟨execStreamHandlerStart_starts he hb hd hs hoff h60 hc hh hp,
        fun hk s1 => ⟨execStreamHandlerStart_waits he hb hd hs hoff h60 hc hh hp hk, fun hd' st => execStreamHandlerStart_handle he hb hd hs hoff h60 hc hh hp hk⟩⟩⟩⟩⟩,
    rfl, rfl⟩
